-- ==== Sys2Proof/Word.lean ====
section
/-! DEFINITION. Words, bytes and lanes of the Sweor, and the plainest arithmetic on them (00 R8-R11). -/

namespace Sys2Proof

/-- A general register, or any 64-bit value. -/
abbrev Word := BitVec 64
/-- One byte of memory. -/
abbrev Byte := BitVec 8
/-- One lane of a token (R100). -/
abbrev Lane := BitVec 32
/-- A general register number, or an l register number before its check (R67). -/
abbrev Reg := BitVec 5
/-- A register number of a compact form (R64). -/
abbrev CReg := BitVec 4

/-- `Bits(v, hi, lo)` of R11 on natural numbers. -/
def bitsOf (v hi lo : Nat) : Nat := (v >>> lo) % 2 ^ (hi + 1 - lo)

/-- The two's-complement value of the low `w` bits of `v`. -/
def signedOf (v w : Nat) : Int :=
  if (v % 2 ^ w) < 2 ^ (w - 1) then ((v % 2 ^ w : Nat) : Int) else ((v % 2 ^ w : Nat) : Int) - (2 ^ w : Nat)

/-- The `w`-bit pattern of an integer (`Wrap` of R163). -/
def wrapOf (v : Int) (w : Nat) : Nat := (v % ((2 ^ w : Nat) : Int)).toNat

/-- Ceiling division. -/
def ceilDiv (a b : Nat) : Nat := (a + b - 1) / b

end Sys2Proof
end

