-- ==== Sys2Proof/Syntax.lean ====
section
/-! DEFINITION. The operations of the Sweor: one constructor of `Instr` for each row of the opcode table
(encoded sequencer forms, block nodes, stream operators, and the events of the part's units). -/

namespace Sys2Proof

/-- Packed lane width (R66, major 0x09). -/
inductive PLane where | b | h | w
deriving DecidableEq, Repr
/-- Scalar floating format (R66, major 0x0A). -/
inductive FFmt where | f32 | f64
deriving DecidableEq, Repr
/-- Rounding modes of R88; sequencer forms carry the first five. -/
inductive Rnd where | rne | rtz | up | down | ta | sr
deriving DecidableEq, Repr
/-- Rounding of a sequencer form (R66). -/
inductive SRnd where | rne | rtz | up | down | ta
deriving DecidableEq, Repr
/-- Load widths (R63). -/
inductive LdW where | s8 | n8 | s16 | n16 | s32 | n32 | d64 | q128
deriving DecidableEq, Repr
/-- Store widths (R63). -/
inductive StW where | b8 | b16 | b32 | b64 | b128
deriving DecidableEq, Repr
/-- Scopes (R66, R210). -/
inductive Scope where | thr | sta | die | pkg | sys
deriving DecidableEq, Repr
/-- Fence kinds (R66). -/
inductive FenceKind where | acq | rel | full
deriving DecidableEq, Repr
/-- SFLAG widths (R239). -/
inductive FlagW where | w32 | w64
deriving DecidableEq, Repr
/-- Atomic sizes (R66). -/
inductive ASize where | s32 | s64
deriving DecidableEq, Repr
/-- CAS sizes (R66). -/
inductive CSize where | s64 | s128
deriving DecidableEq, Repr

/-- The fields of a block word other than its opcode (R69). -/
structure BlockWord where
  ty : BitVec 4
  pred : BitVec 2
  repl : BitVec 6
  t1 : BitVec 9
  t2 : BitVec 9
  imm : BitVec 26
deriving DecidableEq, Repr

/-- The fields of a stream node word other than its operator (R73). -/
structure NodeWord where
  inA : BitVec 4
  inB : BitVec 4
  out : BitVec 4
  fmt : BitVec 4
  params : BitVec 42
deriving DecidableEq, Repr

/-- Which firing of a block node: region handle, dispatch number of the invocation, node index, iteration (R103). -/
structure FireAt where
  region : Nat
  inv : Nat
  node : Nat
  iter : Nat
deriving DecidableEq, Repr

/-- Which node of which open stream: controller, stream context, word index (R176, R180). -/
structure SFireAt where
  ctl : Nat
  str : Nat
  word : Nat
deriving DecidableEq, Repr

/-- Who runs sequencer instructions: a thread of a station context, or an engine hart (8 is the collective engine). -/
inductive Actor where
  | thread (station slot idx : Nat)
  | engine (die eng : Nat)
deriving DecidableEq, Repr

/-- A unit with its own TLB and fault reports (R352): a station, or an engine hart. -/
inductive UnitId where
  | station (st : Nat)
  | engine (die eng : Nat)
deriving DecidableEq, Repr

/-- A request that another package or the bus makes here (R369, R380). -/
inductive RemoteOp where
  | load (size : Nat)
  | store (size : Nat) (data : List Byte)
  | atomic (op : Nat) (size : Nat) (data : BitVec 64)
  | cas (size : Nat) (expected new : BitVec 128)
  /-- 64 bytes of a line register or an engine piece, written whole, poisoned or not (R294) -/
  | line (data : List Byte) (bad : Bool)
deriving DecidableEq, Repr

/-- Where a relocation writes (R58): code of a thread, a block word, or a data object of a context. -/
inductive RelocSect where
  | code (ctx thread : Nat)
  | block (ctx blk word : Nat)
  | data (ctx obj : Nat)
deriving DecidableEq, Repr

/-- What a symbol index names (R58): a logical station, a queue, or a region of a context with a logical page offset. -/
inductive Symbol where
  | station (k : Nat)
  | queue (k : Nat)
  | page (ctx region n : Nat)
deriving DecidableEq, Repr

/-- A relocation (R58): its 16 bytes, and the part of the target section that its offset lies in, which the manual gives no bytes for. -/
structure Reloc where
  raw : BitVec 128
  sect : RelocSect
deriving DecidableEq, Repr

/-- A `.block` (R54, R55): header as stored, words, and the range table. -/
structure BlockDecl where
  region : Nat
  depth : Nat
  armed : List Nat
  entry : Bool
  systolic : Bool
  header : BitVec 128
  words : List (BitVec 64)
  spans : List (Option (Nat × Nat))
deriving DecidableEq, Repr

/-- A `.tile` (R54). -/
structure TileDecl where
  base : Nat
  shape : List Nat
  fmt : BitVec 4
  mx : Bool
deriving DecidableEq, Repr

/-- A `.hold` (R54, R416). -/
structure HoldDecl where
  spadSpace : Bool
  base : Nat
  len : Nat
  cls : Nat
  order : Nat
deriving DecidableEq, Repr

/-- A `.data` object (R54): scratchpad objects at a partition offset, HBM objects at the physical and virtual address that the memory
service gives them. -/
structure DataDecl where
  hbm : Bool
  align : Nat
  place : Nat
  va : Nat
  bytes : List Byte
deriving DecidableEq, Repr

/-- The code of one thread (R54): start mark, bytes, and the virtual base and physical base the loader gives it. -/
structure CodeDecl where
  start : Bool
  bytes : List Byte
  va : Nat
  pa : Nat
deriving DecidableEq, Repr

/-- What a `.cap` names (R54): a region of a context, a queue, the image's gang, or an object outside the image as service software resolves
it, by the naming fields of a capability (R358). -/
inductive CapTarget where
  | region (ctx index : Nat)
  | queue (k : Nat)
  | gang
  | named (fields : BitVec 128)
deriving DecidableEq, Repr

/-- A `.cap` (R54): its object, its rights r, w, x, m, s as the bits of R358 from [4] down, its window. -/
structure CapDecl where
  object : CapTarget
  rights : BitVec 5
  window : Nat
deriving DecidableEq, Repr

/-- A `.context` (R54). `station` is the logical station. -/
structure CtxDecl where
  station : Nat
  threads : Nat
  regs : Nat
  spad : Nat
  prio : Nat
  handler : Option Nat
  allowance : Nat
  code : List CodeDecl
  regions : List (Nat × Nat)
  blocks : List BlockDecl
  tiles : List TileDecl
  caps : List CapDecl
  holds : List HoldDecl
  datas : List DataDecl
deriving DecidableEq, Repr

/-- A `.queue` (R54). Contexts are counted over the image in declaration order. -/
structure QueueDecl where
  fmt : BitVec 4
  size : Nat
  cap : Nat
  toward : Nat
  from_ : List (Nat × Nat)
  prio : Nat
  mcast : List Nat
deriving DecidableEq, Repr

/-- A `.sgraph` (R54, R177). -/
structure GraphDecl where
  ctl : Nat
  words : List (BitVec 64)
deriving DecidableEq, Repr

/-- A resident image: its header (R56) and section table (R57) as they stand, and what the sections declare (log 37); `stations` gives the
die that each logical station asks for, `syms` what the symbol indices of relocations name. -/
structure Image where
  header : BitVec 512
  table : List (BitVec 256)
  stations : List (Option Nat)
  ctxs : List CtxDecl
  queues : List QueueDecl
  graphs : List GraphDecl
  relocs : List Reloc
  syms : List Symbol
deriving DecidableEq, Repr

/-- What service software gives the loader with an image: mode (R225), physical stations (R36), ASID (R345), domains (R287),
the capabilities the service mints or refuses (R54), a dome-close event to claim (R429), a gang to replace (R325). -/
structure ActReq where
  permissive : Bool
  place : List Nat
  asid : Nat
  service : Bool
  dieDomains : List Nat
  pkgDomain : Nat
  capsGranted : Bool
  claim : Option Nat
  replace : Option Nat
deriving DecidableEq, Repr

/-- What signed boot finds (R450): 0, or a failure code of BOOTSTAT other than 3 and 4, which follow from the image, and the die that it
befalls; the image's digest, the digest of its public key and its security version; whether the hold-up bank passed; and the service
stations that the image designates besides the default ones (R40). -/
structure BootInput where
  failure : Nat
  die : Nat
  digest : BitVec 256
  keyDigest : BitVec 256
  version : BitVec 32
  bankOk : Bool
  services : List Nat
deriving DecidableEq, Repr

/-- A member of a domain table (R287): a context here, by its identity, or a context of another package with its mask threads. -/
inductive DomMember where
  | here (ctx : Nat)
  | far (pkg : Nat) (mask : BitVec 8)
deriving DecidableEq, Repr

/-- What a member in another package does: a thread joins, by the sub-op of major 0x20; it retires (R292); a store of its own ends the
protection of the superstep (R404); it rolls back (R406). -/
inductive FarSync where
  | join (thread sub : Nat) (ga value : Word)
  | retire
  | unprotect (reason : Nat)
  | roll
deriving DecidableEq, Repr

/-- The inputs of an event: which object it concerns, and what comes from outside the part. An event reads its inputs
from `State.arg`; one whose inputs have another shape does not come about. -/
inductive Arg where
  | none
  /-- service software defines or redefines a domain table: level, number, members in rank order (R287, R292); a die's domains are numbered
  256 times the die, plus the number in k.dom -/
  | domain (level number : Nat) (members : List DomMember)
  /-- the link service enters a context in a domain (R287) -/
  | enter (ctx level number : Nat)
  /-- service software chooses the capacity of an engine's work queue (R296) -/
  | workQueue (die eng cap : Nat)
  /-- a service raises an MSI-X vector (R455) -/
  | vector (v : Nat)
  /-- a member of a domain in another package, by its rank, with the link port that brings the message (R288, R292) -/
  | far (port level number rank : Nat) (what : FarSync)
  /-- one to four numbers: stations, handles, controllers, positions in a list, as the event says -/
  | n1 (a : Nat)
  | n2 (a b : Nat)
  | n3 (a b c : Nat)
  | n4 (a b c d : Nat)
  | unit (u : UnitId)
  | actor (t : Actor)
  /-- FRESUME: unit and fault tag (R355) -/
  | tag (u : UnitId) (tag : BitVec 32)
  /-- the answer of a load that another package performed: the request's identity, as its sender numbered it -/
  | load (id : Nat) (data : BitVec 512) (poisoned : Bool)
  /-- the answer of an atomic of another package: the request's identity -/
  | atomic (id : Nat) (status : BitVec 8) (old : BitVec 128)
  /-- a blink verdict: region, invocation, logical page, element, iteration or row, and whether it matches -/
  | blink (r inv page elem j : Nat) (ok : Bool)
  /-- a register store: up to two numbers that name it, and the value -/
  | store1 (n : Nat) (v : Word)
  | store2 (n k : Nat) (v : Word)
  | value (v : Word)
  /-- microcode verification: die, engine, signature good, digest of the code (R300) -/
  | micro (die eng : Nat) (sigOk : Bool) (digest : BitVec 256)
  /-- an access from another package: link port, source package, offset, request (R369) -/
  | inbound (port src off : Nat) (op : RemoteOp)
  /-- a refusal returns: the request's identity, as its sender numbered it, and the status (R371) -/
  | refusal (id : Nat) (status : BitVec 8)
  /-- a link port fails; the package at its far end when known (R378) -/
  | port (p : Nat) (far : Option Nat)
  /-- a BAR2 request: port, Requester ID, offset, Relaxed Ordering, request (R380) -/
  | pcie (port requester off : Nat) (relaxed : Bool) (op : RemoteOp)
  /-- a BAR0 access: offset, size, value written (R455) -/
  | bar0 (off size : Nat) (write : Option Word)
  /-- an outbound read's completion: the request's identity, and the data unless the read failed (R381) -/
  | outbound (id : Nat) (data : Option Word)
  | activate (img : Image) (req : ActReq)
  | boot (inp : BootInput)
  /-- the granules of plates that fail their check: (directory entry, granule); a number past the last granule stands for the seal (R429) -/
  | plates (bad : List (Nat × Nat))
  | flag (b : Bool)
  /-- a lane tail (R394): lane R or F, value -/
  | tail (laneR : Bool) (v : BitVec 32)
  /-- a training burst: controller, pseudo-channel, success (R437) -/
  | burst (ctl pch : Nat) (ok : Bool)
  /-- a granule is weak or uncorrectable: controller, pseudo-channel, bank, row, the granule's number in the row, the granule slots whose
  pieces the row holds (the manual gives no map from slots to rows), uncorrectable (R439, R440) -/
  | spare (ctl pch bank row granule : Nat) (slots : List Nat) (uncorrectable : Bool)
  /-- a scan test ends: die, result, vectors, digest of the package, failing elements (page number, element) (R442) -/
  | calib (die : Nat) (result : BitVec 2) (vectors : BitVec 32) (digest : BitVec 256) (suspects : List (Nat × Nat))
deriving DecidableEq, Repr

/-- One operation of the part: the sequencer's encoded forms in the table's order, block nodes and stream operators; then the
events of the part's units, whose inputs stand in `State.arg`. -/
inductive Instr where
  /-- ADD -/
  | add (d a b : Reg)
  /-- SUB -/
  | sub (d a b : Reg)
  /-- MUL -/
  | mul (d a b : Reg)
  /-- MULH -/
  | mulh (d a b : Reg)
  /-- MULHN -/
  | mulhn (d a b : Reg)
  /-- DIV -/
  | div (d a b : Reg)
  /-- DIVN -/
  | divn (d a b : Reg)
  /-- AND -/
  | and_ (d a b : Reg)
  /-- OR -/
  | or_ (d a b : Reg)
  /-- XOR -/
  | xor_ (d a b : Reg)
  /-- ANDN -/
  | andn (d a b : Reg)
  /-- SLL -/
  | sll (d a b : Reg)
  /-- SRL -/
  | srl (d a b : Reg)
  /-- SRA -/
  | sra (d a b : Reg)
  /-- SLT -/
  | slt (d a b : Reg)
  /-- SLTN -/
  | sltn (d a b : Reg)
  /-- MIN -/
  | min_ (d a b : Reg)
  /-- MAX -/
  | max_ (d a b : Reg)
  /-- CLZ -/
  | clz (d a : Reg)
  /-- POPC -/
  | popc (d a : Reg)
  /-- ADDI -/
  | addi (d a : Reg) (imm : BitVec 13)
  /-- ANDI -/
  | andi (d a : Reg) (imm : BitVec 13)
  /-- SLLI -/
  | slli (d a : Reg) (n : BitVec 6)
  /-- SRLI -/
  | srli (d a : Reg) (n : BitVec 6)
  /-- SRAI -/
  | srai (d a : Reg) (n : BitVec 6)
  /-- LI -/
  | li (d : Reg) (imm : BitVec 18)
  /-- LIC -/
  | lic (d : Reg) (imm : BitVec 18)
  /-- ADDPC -/
  | addpc (d : Reg) (imm : BitVec 18)
  /-- PADD -/
  | padd (l : PLane) (d a b : Reg)
  /-- PSUB -/
  | psub (l : PLane) (d a b : Reg)
  /-- PADDS -/
  | padds (l : PLane) (d a b : Reg)
  /-- PADDSN -/
  | paddsn (l : PLane) (d a b : Reg)
  /-- PSUBS -/
  | psubs (l : PLane) (d a b : Reg)
  /-- PSUBSN -/
  | psubsn (l : PLane) (d a b : Reg)
  /-- PMUL -/
  | pmul (l : PLane) (d a b : Reg)
  /-- PMIN -/
  | pmin (l : PLane) (d a b : Reg)
  /-- PMAX -/
  | pmax (l : PLane) (d a b : Reg)
  /-- FADD -/
  | fadd (f : FFmt) (r : SRnd) (d a b : Reg)
  /-- FSUB -/
  | fsub (f : FFmt) (r : SRnd) (d a b : Reg)
  /-- FMUL -/
  | fmul (f : FFmt) (r : SRnd) (d a b : Reg)
  /-- FDIV -/
  | fdiv (f : FFmt) (r : SRnd) (d a b : Reg)
  /-- FSQRT -/
  | fsqrt (f : FFmt) (r : SRnd) (d a : Reg)
  /-- FMA -/
  | fma (f : FFmt) (r : SRnd) (d a b : Reg)
  /-- FMIN -/
  | fmin (f : FFmt) (d a b : Reg)
  /-- FMAX -/
  | fmax (f : FFmt) (d a b : Reg)
  /-- FCMP -/
  | fcmp (f : FFmt) (d a b : Reg)
  /-- FCVTI -/
  | fcvti (f : FFmt) (r : SRnd) (d a : Reg)
  /-- FCVTF -/
  | fcvtf (f : FFmt) (r : SRnd) (d a : Reg)
  /-- FCVTW -/
  | fcvtw (f : FFmt) (r : SRnd) (d a : Reg)
  /-- BEQ -/
  | beq (a b : Reg) (o : BitVec 13)
  /-- BNE -/
  | bne (a b : Reg) (o : BitVec 13)
  /-- BLT -/
  | blt (a b : Reg) (o : BitVec 13)
  /-- BGE -/
  | bge (a b : Reg) (o : BitVec 13)
  /-- BLTN -/
  | bltn (a b : Reg) (o : BitVec 13)
  /-- BGEN -/
  | bgen (a b : Reg) (o : BitVec 13)
  /-- JAL -/
  | jal (d : Reg) (o : BitVec 18)
  /-- JALR -/
  | jalr (d a : Reg) (imm : BitVec 13)
  /-- LD -/
  | ld (d a : Reg) (w : LdW) (o : BitVec 10)
  /-- ST -/
  | st (d a : Reg) (w : StW) (o : BitVec 10)
  /-- LDAQ -/
  | ldaq (d a : Reg) (w : LdW) (sc : Scope)
  /-- STRL -/
  | strl (a b : Reg) (w : StW) (sc : Scope)
  /-- FENCE -/
  | fence (sc : Scope) (k : FenceKind)
  /-- SFLAG -/
  | sflag (a b : Reg) (w : FlagW) (sc : Scope)
  /-- AADD -/
  | aadd (z : ASize) (t : Bool) (d a b : Reg)
  /-- AAND -/
  | aand (z : ASize) (t : Bool) (d a b : Reg)
  /-- AOR -/
  | aor (z : ASize) (t : Bool) (d a b : Reg)
  /-- AXOR -/
  | axor (z : ASize) (t : Bool) (d a b : Reg)
  /-- AMIN -/
  | amin (z : ASize) (t : Bool) (d a b : Reg)
  /-- AMAX -/
  | amax (z : ASize) (t : Bool) (d a b : Reg)
  /-- ASWAP -/
  | aswap (z : ASize) (t : Bool) (d a b : Reg)
  /-- AFADD_F32 -/
  | afaddF32 (t : Bool) (d a b : Reg)
  /-- AFADD_BF16 -/
  | afaddBf16 (t : Bool) (d a b : Reg)
  /-- CAS -/
  | cas (z : CSize) (t : Bool) (d a b : Reg)
  /-- SEND -/
  | send (d a : Reg)
  /-- CSET -/
  | cset (d a b : Reg)
  /-- CGET -/
  | cget (d a : Reg)
  /-- CBIND -/
  | cbind (d a b : Reg)
  /-- CWAIT -/
  | cwait (d a b : Reg)
  /-- MBWAIT -/
  | mbwait (d b : Reg)
  /-- MBPOP -/
  | mbpop (d b : Reg)
  /-- MBPEEK -/
  | mbpeek (d b : Reg)
  /-- QDEF -/
  | qdef (d a : Reg)
  /-- QPUSH -/
  | qpush (rel : Bool) (d a b : Reg)
  /-- QPOP -/
  | qpop (d a b : Reg)
  /-- QPEEK -/
  | qpeek (d a b : Reg)
  /-- QSTAT -/
  | qstat (d a : Reg)
  /-- QBIND -/
  | qbind (d a : Reg)
  /-- QMARK -/
  | qmark (d a : Reg)
  /-- TLOOK -/
  | tlook (d a : Reg)
  /-- TINS -/
  | tins (d a b : Reg)
  /-- TINV -/
  | tinv (d a : Reg)
  /-- TDEF -/
  | tdef (d a : Reg)
  /-- TSTAT -/
  | tstat (d a b : Reg)
  /-- TWAIT -/
  | twait (d a : Reg)
  /-- AGSET -/
  | agset (d a : Reg)
  /-- AGPARM -/
  | agparm (d a b : Reg)
  /-- SOPEN -/
  | sopen (d : Reg)
  /-- SCLOSE -/
  | sclose (d a : Reg)
  /-- SSTAT -/
  | sstat (d a : Reg)
  /-- MLOAD -/
  | mload (d a b : Reg)
  /-- MRUN -/
  | mrun (d a b : Reg)
  /-- MDRAIN -/
  | mdrain (d a b : Reg)
  /-- MSTAT -/
  | mstat (d a : Reg)
  /-- RARM -/
  | rarm (d a b : Reg)
  /-- RDISARM -/
  | rdisarm (d a : Reg)
  /-- CANCEL_BLOCK -/
  | cancelBlock (d a b : Reg)
  /-- CANCEL_COMMAND -/
  | cancelCommand (d a b : Reg)
  /-- CANCEL_HUNG_REGION -/
  | cancelHungRegion (d a b : Reg)
  /-- RPRIO -/
  | rprio (d a b : Reg)
  /-- THPRIO -/
  | thprio (d a : Reg)
  /-- BAR -/
  | bar (d a : Reg)
  /-- BARSNAP -/
  | barsnap (d a : Reg)
  /-- REDUCE -/
  | reduce (d a b : Reg)
  /-- DONE -/
  | done_ (d a : Reg)
  /-- TRAP -/
  | trap (a : Reg)
  /-- CTXSW_OUT -/
  | ctxswOut (d a b : Reg)
  /-- CTXSW_IN -/
  | ctxswIn (d a b : Reg)
  /-- CTXSW_KILL -/
  | ctxswKill (d a b : Reg)
  /-- FRZSAVE -/
  | frzsave (d a b : Reg)
  /-- DRNSAVE -/
  | drnsave (d a b : Reg)
  /-- RESTORE -/
  | restore (d a b : Reg)
  /-- RDSTATE -/
  | rdstate (d a : Reg)
  /-- TLBINV -/
  | tlbinv (d a b : Reg)
  /-- CAPMINT_INSTALL -/
  | capmintInstall (d a b : Reg)
  /-- CAPMINT_ADVANCE -/
  | capmintAdvance (d a b : Reg)
  /-- HDECL -/
  | hdecl (d a b : Reg)
  /-- HOPEN -/
  | hopen (d a b : Reg)
  /-- HCLOSE -/
  | hclose (d a : Reg)
  /-- PLATERD_HEADER -/
  | platerdHeader (d a b : Reg)
  /-- PLATERD_ENTRY -/
  | platerdEntry (d a b : Reg)
  /-- HCLEAR -/
  | hclear (d a : Reg)
  /-- GETK -/
  | getk (d : Reg) (n : BitVec 13)
  /-- PUTK -/
  | putk (a : Reg) (n : BitVec 13)
  /-- PUTK_ECOMPH -/
  | putkEcomph (a : Reg)
  /-- PUTK_DOM -/
  | putkDom (a : Reg)
  /-- PUTK_LNACK -/
  | putkLnack (a : Reg)
  /-- LLD -/
  | lld (d a : Reg) (o : BitVec 10)
  /-- LST -/
  | lst (d a : Reg) (o : BitVec 10)
  /-- ADD_COMPACT -/
  | addCompact (d a b : CReg)
  /-- SUB_COMPACT -/
  | subCompact (d a b : CReg)
  /-- AND_COMPACT -/
  | andCompact (d a b : CReg)
  /-- OR_COMPACT -/
  | orCompact (d a b : CReg)
  /-- XOR_COMPACT -/
  | xorCompact (d a b : CReg)
  /-- ADDI_COMPACT -/
  | addiCompact (d a : CReg) (i : BitVec 4)
  /-- SLLI_COMPACT -/
  | slliCompact (d a : CReg) (i : BitVec 4)
  /-- SRLI_COMPACT -/
  | srliCompact (d a : CReg) (i : BitVec 4)
  /-- LI_COMPACT -/
  | liCompact (d : CReg) (i : BitVec 8)
  /-- LD64_COMPACT -/
  | ld64Compact (d a : CReg) (i : BitVec 4)
  /-- ST64_COMPACT -/
  | st64Compact (d a : CReg) (i : BitVec 4)
  /-- BEQ_COMPACT -/
  | beqCompact (a : CReg) (o : BitVec 8)
  /-- BNE_COMPACT -/
  | bneCompact (a : CReg) (o : BitVec 8)
  /-- NODE_FADD -/
  | nodeFadd (at_ : FireAt) (w : BlockWord)
  /-- NODE_FSUB -/
  | nodeFsub (at_ : FireAt) (w : BlockWord)
  /-- NODE_FMUL -/
  | nodeFmul (at_ : FireAt) (w : BlockWord)
  /-- NODE_FMA -/
  | nodeFma (at_ : FireAt) (w : BlockWord)
  /-- NODE_FMIN -/
  | nodeFmin (at_ : FireAt) (w : BlockWord)
  /-- NODE_FMAX -/
  | nodeFmax (at_ : FireAt) (w : BlockWord)
  /-- NODE_FABS -/
  | nodeFabs (at_ : FireAt) (w : BlockWord)
  /-- NODE_FNEG -/
  | nodeFneg (at_ : FireAt) (w : BlockWord)
  /-- NODE_FCMP -/
  | nodeFcmp (at_ : FireAt) (w : BlockWord)
  /-- NODE_FRCP -/
  | nodeFrcp (at_ : FireAt) (w : BlockWord)
  /-- NODE_FRSQ -/
  | nodeFrsq (at_ : FireAt) (w : BlockWord)
  /-- NODE_FSQRT -/
  | nodeFsqrt (at_ : FireAt) (w : BlockWord)
  /-- NODE_FEXP2 -/
  | nodeFexp2 (at_ : FireAt) (w : BlockWord)
  /-- NODE_FLOG2 -/
  | nodeFlog2 (at_ : FireAt) (w : BlockWord)
  /-- NODE_FSIN -/
  | nodeFsin (at_ : FireAt) (w : BlockWord)
  /-- NODE_FCOS -/
  | nodeFcos (at_ : FireAt) (w : BlockWord)
  /-- NODE_FTANH -/
  | nodeFtanh (at_ : FireAt) (w : BlockWord)
  /-- NODE_IADD -/
  | nodeIadd (at_ : FireAt) (w : BlockWord)
  /-- NODE_ISUB -/
  | nodeIsub (at_ : FireAt) (w : BlockWord)
  /-- NODE_IMUL -/
  | nodeImul (at_ : FireAt) (w : BlockWord)
  /-- NODE_IMULH -/
  | nodeImulh (at_ : FireAt) (w : BlockWord)
  /-- NODE_IMIN -/
  | nodeImin (at_ : FireAt) (w : BlockWord)
  /-- NODE_IMAX -/
  | nodeImax (at_ : FireAt) (w : BlockWord)
  /-- NODE_IABS -/
  | nodeIabs (at_ : FireAt) (w : BlockWord)
  /-- NODE_ICMP -/
  | nodeIcmp (at_ : FireAt) (w : BlockWord)
  /-- NODE_AND -/
  | nodeAnd (at_ : FireAt) (w : BlockWord)
  /-- NODE_OR -/
  | nodeOr (at_ : FireAt) (w : BlockWord)
  /-- NODE_XOR -/
  | nodeXor (at_ : FireAt) (w : BlockWord)
  /-- NODE_NOT -/
  | nodeNot (at_ : FireAt) (w : BlockWord)
  /-- NODE_SHL -/
  | nodeShl (at_ : FireAt) (w : BlockWord)
  /-- NODE_SHR -/
  | nodeShr (at_ : FireAt) (w : BlockWord)
  /-- NODE_SHRA -/
  | nodeShra (at_ : FireAt) (w : BlockWord)
  /-- NODE_CLZ -/
  | nodeClz (at_ : FireAt) (w : BlockWord)
  /-- NODE_POPC -/
  | nodePopc (at_ : FireAt) (w : BlockWord)
  /-- NODE_CVT -/
  | nodeCvt (at_ : FireAt) (w : BlockWord)
  /-- NODE_QUANT -/
  | nodeQuant (at_ : FireAt) (w : BlockWord)
  /-- NODE_QUANT_MX -/
  | nodeQuantMx (at_ : FireAt) (w : BlockWord)
  /-- NODE_DEQUANT -/
  | nodeDequant (at_ : FireAt) (w : BlockWord)
  /-- NODE_DEQUANT_MX -/
  | nodeDequantMx (at_ : FireAt) (w : BlockWord)
  /-- NODE_SHUF -/
  | nodeShuf (at_ : FireAt) (w : BlockWord)
  /-- NODE_BCAST -/
  | nodeBcast (at_ : FireAt) (w : BlockWord)
  /-- NODE_RED -/
  | nodeRed (at_ : FireAt) (w : BlockWord)
  /-- NODE_SCAN -/
  | nodeScan (at_ : FireAt) (w : BlockWord)
  /-- NODE_PACK -/
  | nodePack (at_ : FireAt) (w : BlockWord)
  /-- NODE_UNPACK -/
  | nodeUnpack (at_ : FireAt) (w : BlockWord)
  /-- NODE_LOAD -/
  | nodeLoad (at_ : FireAt) (w : BlockWord)
  /-- NODE_STORE -/
  | nodeStore (at_ : FireAt) (w : BlockWord)
  /-- NODE_TLOAD -/
  | nodeTload (at_ : FireAt) (w : BlockWord)
  /-- NODE_TSTORE -/
  | nodeTstore (at_ : FireAt) (w : BlockWord)
  /-- NODE_QIN -/
  | nodeQin (at_ : FireAt) (w : BlockWord)
  /-- NODE_QOUT -/
  | nodeQout (at_ : FireAt) (w : BlockWord)
  /-- NODE_SIN -/
  | nodeSin (at_ : FireAt) (w : BlockWord)
  /-- NODE_SOUT -/
  | nodeSout (at_ : FireAt) (w : BlockWord)
  /-- NODE_READ -/
  | nodeRead (at_ : FireAt) (w : BlockWord)
  /-- NODE_WRITE -/
  | nodeWrite (at_ : FireAt) (w : BlockWord)
  /-- NODE_BR -/
  | nodeBr (at_ : FireAt) (w : BlockWord)
  /-- NODE_NULL -/
  | nodeNull (at_ : FireAt) (w : BlockWord)
  /-- NODE_CONST -/
  | nodeConst (at_ : FireAt) (w : BlockWord)
  /-- NODE_CTR -/
  | nodeCtr (at_ : FireAt) (w : BlockWord)
  /-- NODE_FAN -/
  | nodeFan (at_ : FireAt) (w : BlockWord)
  /-- NODE_MERGE -/
  | nodeMerge (at_ : FireAt) (w : BlockWord)
  /-- NODE_WLOAD -/
  | nodeWload (at_ : FireAt) (w : BlockWord)
  /-- NODE_MACC -/
  | nodeMacc (at_ : FireAt) (w : BlockWord)
  /-- NODE_ACCDRAIN -/
  | nodeAccdrain (at_ : FireAt) (w : BlockWord)
  /-- SNODE_PASS -/
  | snodePass (at_ : SFireAt) (w : NodeWord)
  /-- SNODE_SPLIT -/
  | snodeSplit (at_ : SFireAt) (w : NodeWord)
  /-- SNODE_MERGE -/
  | snodeMerge (at_ : SFireAt) (w : NodeWord)
  /-- SNODE_SCALE -/
  | snodeScale (at_ : SFireAt) (w : NodeWord)
  /-- SNODE_ADD -/
  | snodeAdd (at_ : SFireAt) (w : NodeWord)
  /-- SNODE_MUL -/
  | snodeMul (at_ : SFireAt) (w : NodeWord)
  /-- SNODE_FMA -/
  | snodeFma (at_ : SFireAt) (w : NodeWord)
  /-- SNODE_CLAMP -/
  | snodeClamp (at_ : SFireAt) (w : NodeWord)
  /-- SNODE_CMPSEL -/
  | snodeCmpsel (at_ : SFireAt) (w : NodeWord)
  /-- SNODE_CVT -/
  | snodeCvt (at_ : SFireAt) (w : NodeWord)
  /-- SNODE_QMX -/
  | snodeQmx (at_ : SFireAt) (w : NodeWord)
  /-- SNODE_DQMX -/
  | snodeDqmx (at_ : SFireAt) (w : NodeWord)
  /-- SNODE_PACKB -/
  | snodePackb (at_ : SFireAt) (w : NodeWord)
  /-- SNODE_UNPACKB -/
  | snodeUnpackb (at_ : SFireAt) (w : NodeWord)
  /-- SNODE_DELTA -/
  | snodeDelta (at_ : SFireAt) (w : NodeWord)
  /-- SNODE_UNDELTA -/
  | snodeUndelta (at_ : SFireAt) (w : NodeWord)
  /-- SNODE_BFPC -/
  | snodeBfpc (at_ : SFireAt) (w : NodeWord)
  /-- SNODE_BFPD -/
  | snodeBfpd (at_ : SFireAt) (w : NodeWord)
  /-- SNODE_EXPAND24 -/
  | snodeExpand24 (at_ : SFireAt) (w : NodeWord)
  /-- SNODE_EXPANDBM -/
  | snodeExpandbm (at_ : SFireAt) (w : NodeWord)
  /-- SNODE_COMPACT -/
  | snodeCompact (at_ : SFireAt) (w : NodeWord)
  /-- SNODE_PERM -/
  | snodePerm (at_ : SFireAt) (w : NodeWord)
  /-- SNODE_LUT -/
  | snodeLut (at_ : SFireAt) (w : NodeWord)
  /-- SNODE_SUM -/
  | snodeSum (at_ : SFireAt) (w : NodeWord)
  /-- SNODE_MINMAX -/
  | snodeMinmax (at_ : SFireAt) (w : NodeWord)
  /-- SNODE_HIST -/
  | snodeHist (at_ : SFireAt) (w : NodeWord)
  /-- SNODE_COUNT -/
  | snodeCount (at_ : SFireAt) (w : NodeWord)
  /-- SNODE_CRC32C -/
  | snodeCrc32c (at_ : SFireAt) (w : NodeWord)
  /-- SNODE_UNDO -/
  | snodeUndo (at_ : SFireAt) (w : NodeWord)
  /-- PLATERD_BODY -/
  | platerdBody (d a b : Reg)
  /-- PLATERD_RECORDS -/
  | platerdRecords (d a b : Reg)
  /-- YIELD -/
  | yield
  /-- HALT -/
  | halt
  /-- TRET -/
  | tret
  /-- HALT_COMPACT -/
  | haltCompact
  /-- YIELD_COMPACT -/
  | yieldCompact
  /-- SFU_RESULT -/
  | sfuResult
  /-- ATOMIC_ANSWER -/
  | atomicAnswer
  /-- MESSAGE_ARRIVE -/
  | messageArrive
  /-- MAILBOX_WRITE_RETRY -/
  | mailboxWriteRetry
  /-- WINDOW_CREDIT_RETURN -/
  | windowCreditReturn
  /-- REGION_QUIESCE_STOP -/
  | regionQuiesceStop
  /-- QUIESCE_RESUME -/
  | quiesceResume
  /-- STREAM_END -/
  | streamEnd
  /-- MATRIX_COMMAND_ARRIVAL -/
  | matrixCommandArrival
  /-- COMMAND_RETRY -/
  | commandRetry
  /-- ROLLBACK -/
  | rollback
  /-- CTXSW_SFU_WAIT_EXPIRY -/
  | ctxswSfuWaitExpiry
  /-- DRAIN_SAVE_TIMEOUT -/
  | drainSaveTimeout
  /-- PLATERD_BODY_COMPLETE -/
  | platerdBodyComplete
  /-- ISSUE_SLOT -/
  | issueSlot
  /-- DISPATCH_DECISION -/
  | dispatchDecision
  /-- ITERATION_START -/
  | iterationStart
  /-- TOKEN_HOP -/
  | tokenHop
  /-- INVOCATION_COMMIT -/
  | invocationCommit
  /-- INVOCATION_DISCARD -/
  | invocationDiscard
  /-- BLINK_VERDICT -/
  | blinkVerdict
  /-- HANG_DETECT -/
  | hangDetect
  /-- DRAM_REQUEST_SELECT -/
  | dramRequestSelect
  /-- SLOT_TABLE_WRITE -/
  | slotTableWrite
  /-- MCLS_WRITE -/
  | mclsWrite
  /-- PKGID_WRITE -/
  | pkgidWrite
  /-- FRESUME_WALK -/
  | fresumeWalk
  /-- FRESUME_REFUSE -/
  | fresumeRefuse
  /-- FAULT_ROOT_ACCEPT -/
  | faultRootAccept
  /-- LANE_TAIL_WRITE -/
  | laneTailWrite
  /-- POISON_DETECT -/
  | poisonDetect
  /-- MICROCODE_START -/
  | microcodeStart
  /-- MICROCODE_VERIFY_DONE -/
  | microcodeVerifyDone
  /-- ENGINE_COPY -/
  | engineCopy
  /-- ENGINE_MULTICAST_COPY -/
  | engineMulticastCopy
  /-- MEMBER_ANSWER_TIMEOUT -/
  | memberAnswerTimeout
  /-- ALL_REDUCE -/
  | allReduce
  /-- REDUCE_SCATTER -/
  | reduceScatter
  /-- ALL_GATHER -/
  | allGather
  /-- BROADCAST -/
  | broadcast
  /-- ALL_TO_ALL -/
  | allToAll
  /-- COLLECTIVE_TIMEOUT -/
  | collectiveTimeout
  /-- STAGING_RETRY -/
  | stagingRetry
  /-- INBOUND_ACCESS -/
  | inboundAccess
  /-- REFUSAL_RETURN -/
  | refusalReturn
  /-- PEER_ENTRY_VALIDATE -/
  | peerEntryValidate
  /-- PEER_REVOKE -/
  | peerRevoke
  /-- PEER_ENTRY_FREE -/
  | peerEntryFree
  /-- GROUP_ENTRY_COMMIT -/
  | groupEntryCommit
  /-- BUS_WINDOW_COMMIT -/
  | busWindowCommit
  /-- LINK_PORT_FAILURE -/
  | linkPortFailure
  /-- PACKAGE_UNREACHABLE -/
  | packageUnreachable
  /-- PACKAGE_REACHABLE -/
  | packageReachable
  /-- PCIE_INBOUND_REQUEST -/
  | pcieInboundRequest
  /-- HOST_BAR0_ACCESS -/
  | hostBar0Access
  /-- OUTBOUND_STORE -/
  | outboundStore
  /-- OUTBOUND_LOAD -/
  | outboundLoad
  /-- OUTBOUND_COMPLETION -/
  | outboundCompletion
  /-- IMAGE_ACTIVATION -/
  | imageActivation
  /-- DOME_CLOSE_TRIGGER -/
  | domeCloseTrigger
  /-- DOME_HANDLER_START -/
  | domeHandlerStart
  /-- ALLOWANCE_EXPIRY -/
  | allowanceExpiry
  /-- DOME_COPY -/
  | domeCopy
  /-- DOME_DIRECTORY_WRITE -/
  | domeDirectoryWrite
  /-- POWER_RETURN -/
  | powerReturn
  /-- POWER_ON_RESET -/
  | powerOnReset
  /-- HOST_IMAGE_READY -/
  | hostImageReady
  /-- PLATE_CHECK_DONE -/
  | plateCheckDone
  /-- ACC_WRITE -/
  | accWrite
  /-- LOG_EXTEND -/
  | logExtend
  /-- ATTEST_START -/
  | attestStart
  /-- ATTEST_DONE -/
  | attestDone
  /-- PWRCAP_WRITE -/
  | pwrcapWrite
  /-- BLINKIV_WRITE -/
  | blinkivWrite
  /-- REFRESH -/
  | refresh
  /-- RETRAIN_BURST -/
  | retrainBurst
  /-- TEMPERATURE_BAND_CHANGE -/
  | temperatureBandChange
  /-- HTRAIN_WRITE -/
  | htrainWrite
  /-- SPARE_EVENT -/
  | spareEvent
  /-- PCH_RETIRE_START -/
  | pchRetireStart
  /-- PCH_RETIRE_SWITCH -/
  | pchRetireSwitch
  /-- STFENCE_WRITE -/
  | stfenceWrite
  /-- CALIBRATION_START -/
  | calibrationStart
  /-- CALIBRATION_DONE -/
  | calibrationDone
  /-- WAIT_TIMEOUT -/
  | waitTimeout
  /-- REGISTER_WRITE -/
  | registerWrite
  /-- CONTEXT_RETIREMENT -/
  | contextRetirement
  /-- RETIRE_BUFFER_RETRY -/
  | retireBufferRetry
  /-- LOAD_ANSWER -/
  | loadAnswer
deriving DecidableEq, Repr

end Sys2Proof
end

