-- ==== Sys2Proof/Machine/State.lean ====
section
/-! DEFINITION. The state of one package of the Sweor, as plain data: every piece of state that the manual names. -/

namespace Sys2Proof.Machine

/-! ### Threads and harts (R154, R293) -/

/-- What a thread waits for (R38). `answer`, `access` and `loads` are the model's (`access` with the number of
accesses under way as the wait began): a CANCEL whose answer has not come back, a fence that
waits for earlier accesses of the thread, and an instruction that meets a register which an outstanding load or atomic still writes. -/
inductive Wait where
  | none
  /-- MBWAIT: destination, cycle of the first execution, timeout (0 none) -/
  | mailbox (gd : Reg) (since limit : Nat)
  /-- CWAIT: destination, counter, first cycle, timeout -/
  | counter (gd : Reg) (c since limit : Nat)
  | tile (index : Nat)
  /-- BAR, BARSNAP, REDUCE: level, episode, destination register, whether it is a REDUCE -/
  | barrier (level episode : Nat) (gd : Reg) (reduce : Bool)
  | sfu
  /-- a page that is not present: fault tag, effective address -/
  | page (tag : BitVec 32) (ea : Word)
  | holding
  | workQueue
  | answer
  | access (n : Nat)
  /-- the registers it meets; none for an instruction that waits for every outstanding load and atomic -/
  | loads (regs : List Reg)
  /-- TLBINV, CTXSW, DRNSAVE and HCLEAR: the first cycle at which the instruction waits -/
  | system (since : Nat)
deriving DecidableEq, Repr

/-- Whether a thread runs (R35, R282): it never started, runs, halted, or ended on an unhandled trap. -/
inductive RunState where | never | running | halted | ended
deriving DecidableEq, Repr

/-- How accesses before a point of a thread come before later ones (R211, R212, R216): the three kinds of FENCE, and an LDAQ whose
request is still to be performed. -/
inductive OrderKind where
  | acquire
  | release
  | full
  | ldaq (id : Nat)
deriving DecidableEq, Repr

/-- An order that later accesses of the thread still observe: its kind, its scope, and the first request that is not before it. -/
structure FenceRec where
  kind : OrderKind
  scope : Scope
  upTo : Nat
deriving DecidableEq, Repr

/-- A load or an atomic of a thread whose answer has not come back (R209): its request, the instruction's first parcel, the general
registers or the line register that the answer writes, and whether it is an atomic. The thread has gone on past a `sure` one, which ends
well; past another it issues nothing, since it may trap (R156, log 66). -/
structure Pend where
  id : Nat
  pc : Word
  regs : List Reg
  line : Option Nat
  atomic : Bool
  sure : Bool
deriving DecidableEq, Repr

/-- A trap that is taken once the results and answers outstanding have come (R167, R387). Of two, the one of the earlier instruction is
taken: it has the lower `key`. `granule` is the poisoned granule of an atomic's trap (R392), 0 for none. -/
structure TrapDue where
  key : Nat
  cls : BitVec 8
  pc : Word
  val : Word
  granule : Nat
deriving DecidableEq, Repr

/-- An engine hart's line registers (R294) and registers (R295, R293). -/
structure HartRegs where
  lines : Vector (BitVec 2048) 4
  poison : Vector (BitVec 4) 4
  lcomb : Word
  ecompl : Word
  ecomph : Word
  tvec : Word
  /-- quarters that outstanding LLDs have received: line register, quarter, value, poison -/
  got : List (Nat × Nat × Nat × Bool)
deriving DecidableEq, Repr

/-- The registers of a sequencer thread or an engine hart. -/
structure Thr where
  g : Vector Word 32
  m : Vector Word 8
  pc : Word
  fflags : BitVec 5
  astat : BitVec 8
  sstat : Word
  tpc : Word
  tcause : BitVec 9
  tval : Word
  prio : Nat
  yielded : Bool
  run : RunState
  wait : Wait
  /-- fetch buffer: address of its first parcel, and the parcels (R174) -/
  bufBase : Word
  buf : List (BitVec 16)
  /-- the read that refills it, when one is on its way -/
  fetching : Option Nat
  /-- next message number to each station (R279) -/
  msgNum : List (Nat × Nat)
  /-- messages and commands outstanding to each die (R279) -/
  outstanding : List (Nat × Nat)
  /-- late SFU results: value, flags, register (R399) -/
  late : List (Word × BitVec 5 × Reg)
  fences : List FenceRec
  /-- loads and atomics outstanding, oldest first; the request of the atomic that k.astat reports -/
  pend : List Pend
  astatId : Nat
  trapDue : Option TrapDue
  hart : HartRegs
deriving DecidableEq, Repr

/-- A request in an SFU's queue, with the result it will write (R164). -/
structure SfuReq where
  who : Actor
  gd : Reg
  value : Word
  flags : BitVec 5
  /-- the context was switched out or killed: `none` keeps the thread, `some` the context it belongs to (R167) -/
  ctx : Nat
deriving DecidableEq, Repr

/-! ### Tables of a context -/

/-- A message-driven counter (R280-R282). -/
structure Counter where
  count : Nat
  stride : Nat
  slots : Nat
  base : Nat
  next : Nat
  arrivals : Nat
  post : Bool
  pending : Bool
  overrun : Bool
  enabled : Bool
  thread : Nat
  entry : Nat
  /-- landing offset of the firing arrival, all ones when nothing landed -/
  landing : Word
deriving DecidableEq, Repr

/-- Tile states (R256). -/
inductive TileState where | empty | filling | ready | draining
deriving DecidableEq, Repr

/-- A tile table entry (R254-R257). `extents` is innermost first. -/
structure Tile where
  state : TileState
  base : Nat
  fmt : BitVec 4
  mx : Bool
  extents : List Nat
  scale : Nat
  pins : Nat
deriving DecidableEq, Repr

/-- A tag table entry (R251). -/
structure Tag where
  valid : Bool
  dirty : Bool
  granule : Nat
  slot : Nat
deriving DecidableEq, Repr

/-- Where a queue has a home (R263, R296). -/
inductive HomeAt where
  | ctx (id : Nat)
  | engine (die eng : Nat)
deriving DecidableEq, Repr

/-- A binding of a queue to a context (R260, R267). `consumer` is the home it acts at. -/
structure Binding where
  queue : Nat
  window : Option Nat
  consumer : Option HomeAt
  /-- capability epoch when QBIND made it -/
  byCap : Option (BitVec 16)
deriving DecidableEq, Repr

/-- A must-save segment (R416) with the charge it holds (R413). -/
structure Segment where
  index : Nat
  spad : Bool
  base : Nat
  len : Nat
  cls : Nat
  order : Nat
  charge : Nat
deriving DecidableEq, Repr

/-- An open range of a segment (R420). -/
structure OpenRange where
  token : Nat
  index : Nat
  off : Nat
  len : Nat
deriving DecidableEq, Repr

/-- An arrival or mailbox entry spilled while the context is out (R400); an arrival with the die to which its sender sent it (R279). -/
inductive Spill where
  | message (ctr dec num : Nat) (source : BitVec 23) (payload : List Byte) (sender : Nat × Nat) (die : Nat)
  | entry (e : BitVec 128)
deriving DecidableEq, Repr

/-- A push held during a protected superstep (R405). -/
structure HeldPush where
  queue : Nat
  source : BitVec 23
  data : List Byte
deriving DecidableEq, Repr

/-! ### Regions and invocations -/

/-- A token (R100). -/
structure Token where
  lanes : Vector Lane 16
  valid : BitVec 16
  tag : Nat
deriving DecidableEq, Repr

/-- Where a token stands (R335): in a slot buffer of a node copy, or in a router input buffer of an element, on its way. -/
inductive Place where
  | slot (node copy pos : Nat)
  | router (x y side : Nat) (node copy pos : Nat)
deriving DecidableEq, Repr

/-- A token of an invocation, with the place that it stands in or that is kept for it, and the cycle from which it stands there: it leaves
stage 6 of its sender some cycles after the firing, and a hop takes one cycle (R107, R335). A later entry has a higher `seq`. -/
structure Flying where
  at_ : Place
  due : Nat
  seq : Nat
  tok : Token
deriving DecidableEq, Repr

/-- The translation that an access came through: an address space, and the virtual range of the leaf (R350, R362). -/
structure Via where
  asid : Nat
  lo : Nat
  size : Nat
deriving DecidableEq, Repr

/-- A held store (R220): one byte run at a physical address; `mask` gives the bits of each byte that it writes (sub-byte tile elements
are packed, R259). -/
structure HeldStore where
  iter : Nat
  depth : Nat
  lsid : Nat
  node : Nat
  pa : Nat
  bytes : List Byte
  mask : List Byte
  /-- the translation of an access through an address generator of space 0 (R363) -/
  via : Option Via
deriving DecidableEq, Repr

/-- A held QOUT item, or a held contribution of SOUT, whose `handle` is its slot (R268, R272). -/
structure HeldItem where
  iter : Nat
  depth : Nat
  lsid : Nat
  handle : Nat
  data : List Byte
deriving DecidableEq, Repr

/-- Why an iteration failed (R390, R459). -/
inductive Cause where
  | illegalOperand | permission | alignment | commitOverflow | arithTrap | capability | poison
deriving DecidableEq, Repr

/-- A cause met in an iteration: the node that met it, class, address when the class has one. -/
structure Failure where
  iter : Nat
  node : Nat
  cause : Cause
  addr : Nat
deriving DecidableEq, Repr

/-- A lane's read at a memory controller, of another package or of the bus, by its request: the value and its poison once they have come
(R459). -/
structure RemoteRead where
  id : Nat
  node : Nat
  iter : Nat
  lane : Nat
  pa : Nat
  answer : Option (Nat × Bool)
deriving DecidableEq, Repr

/-- An address-generator record (R248, R250). -/
structure AgRec where
  rank : Nat
  space : Bool
  base : Nat
  e : List Nat
  st : List Int
deriving DecidableEq, Repr

/-- A matrix command as accepted (R142-R145). -/
structure Command where
  kind : Nat
  number : Nat
  /-- context and thread of the sender -/
  sender : Nat × Nat
  source : BitVec 23
  desc : Vector Word 8
deriving DecidableEq, Repr

/-- An entry of a matrix command queue: a command, an MSTAT, or a quiesce marker (R149, R324). -/
inductive CmdEntry where
  | cmd (c : Command)
  | stat (sender : Nat × Nat) (tag : BitVec 32)
  | marker (n : Nat)
deriving DecidableEq, Repr

/-- What an invocation runs: a block of its region, or a matrix command. -/
inductive Work where
  | block (index : Nat)
  | command (c : Command)
deriving DecidableEq, Repr

/-- An invocation (R35, R96, R113). -/
structure Inv where
  id : Nat
  work : Work
  srseed : BitVec 32
  vtrap : BitVec 5
  ags : List AgRec
  /-- trip counts once taken (R111) -/
  trips : Option (List Nat)
  started : Nat := 0
  /-- nodes fired: (node, iteration) -/
  fired : List (Nat × Nat) := []
  tokens : List Flying := []
  stores : List HeldStore := []
  items : List HeldItem := []
  /-- held contributions of SOUT -/
  souts : List HeldItem := []
  /-- items reserved by each copy of a QIN node: node, copy, count -/
  reserved : List ((Nat × Nat) × Nat) := []
  /-- held writes of frame registers: register, iteration, lanes, valid -/
  frames : List (Nat × Nat × Vector Lane 16 × BitVec 16) := []
  brs : List (Nat × Nat) := []
  /-- flags by iteration -/
  flags : List (Nat × BitVec 5) := []
  failures : List Failure := []
  remote : List RemoteRead := []
  /-- bytes that the matrix work holds, by physical address: accumulator values and drained rows (R141) -/
  accs : List (Nat × Byte) := []
  /-- rows of its source tile that the matrix node or command at work has read (R150) -/
  rows : List (List Byte) := []
  /-- staged weights: element rows, and type (R136) -/
  staged : Option (List (List Byte) × BitVec 4) := none
  invalids : Nat := 0
  overflows : Nat := 0
  sats : Nat := 0
  mismatches : Nat
  /-- results that a blink element shadows: element coordinates, and the cycle by which the verdict is in (R407) -/
  shadowed : List (Nat × Nat × Nat) := []
  stale : Bool := false
  /-- a node that waits for a page: node, iteration, tag, address -/
  pageWaits : List (Nat × Nat × BitVec 32 × Nat) := []
  /-- tiles pinned: context, index -/
  pins : List (Nat × Nat)
deriving DecidableEq, Repr

/-- A block's dispatch state (R312, R316). -/
structure Dispatch where
  armed : Bool
  threshold : Nat
  pending : Nat
  base : Nat
  skips : Nat
  boost : Nat
  readySince : Option Nat
deriving DecidableEq, Repr

/-- A block loaded in a region. -/
structure Block where
  header : BitVec 128
  words : List (BitVec 64)
  spans : List (Option (Nat × Nat))
  armedQs : List Nat
  queueArmed : Bool
  home : Nat
  disp : Dispatch
deriving DecidableEq, Repr

/-- Why a region stands still: its monitor froze it (R326), power failed (R421), it has moved and waits for the reads that it had issued
(R218, R311), or it is saved (R396), hung or not. -/
inductive Freeze where
  | running
  | hung
  | frozen
  | moving
  | saved (hung : Bool)
deriving DecidableEq, Repr

/-- A region (R21). `orig` is the grid origin of its rectangle. -/
structure Region where
  handle : Nat
  ctx : Nat
  index : Nat
  die : Nat
  w : Nat
  h : Nat
  orig : Nat × Nat
  matrix : Bool
  blocks : List Block
  frames : Vector (Vector Lane 16) 32
  ags : Vector AgRec 8
  invs : List Inv
  nextInv : Nat
  idle : Nat
  freeze : Freeze
  /-- a DRNSAVE that waits: its first cycle and its limit in cycles, 0 for none (R397) -/
  drain : Option (Nat × Nat)
  unmovable : Bool
  /-- has stopped for the quiesce (R324) -/
  stopped : Bool
  cmds : List CmdEntry
  cmdDisp : Dispatch
  nextCmd : Nat
  lastCmd : Option Nat
  weights : List (List Byte)
  staging : List (List Byte)
  wtype : Option (BitVec 4)
  /-- stream slots whose latest read stream has ended: SIN sends null tokens there until the slot is bound again (R272) -/
  ended : List Nat
  /-- records of this source so far -/
  recSeq : Nat
  epoch : BitVec 16
  /-- a node fired, or the array worked, in this cycle (R326) -/
  fired : Bool
  /-- first cycle at which an element, by its logical coordinates, may fire again (R107) -/
  busy : List ((Nat × Nat) × Nat)
deriving DecidableEq, Repr

/-- How a domain counts: its level and number, its episodes completed, and those that each member (context, thread) has joined. -/
structure DomMark where
  level : Nat
  number : Nat
  count : Nat
  joined : List ((Nat × Nat) × Nat)
deriving DecidableEq, Repr

/-- What a BARSNAP keeps (R403), with the episode, level and number of its domain. -/
structure Snapshot where
  episode : Nat
  level : Nat
  number : Nat
  threads : List Thr
  counters : List Counter
  mailbox : List (BitVec 128)
  tiles : List (Nat × Tile)
  tags : List (Nat × Tag)
  recency : List (Nat × List Nat)
  vflags : BitVec 5
  /-- region handle, frame registers, AG records, dispatch states -/
  regions : List (Nat × Vector (Vector Lane 16) 32 × Vector AgRec 8 × List Dispatch)
  /-- queue, producer of the context, next number (R406) -/
  qseqs : List (Nat × BitVec 23 × Nat)
  /-- the domains as they counted -/
  doms : List DomMark
deriving DecidableEq, Repr

/-- An undo entry (R403): line address, old bytes, whether it was poisoned. -/
structure UndoEntry where
  line : Nat
  old : List Byte
  poison : Bool
deriving DecidableEq, Repr

/-- The plate store (R424-R431): a directory entry with its owner and check result. -/
structure Plate where
  event : Nat
  loc : Nat
  sealed : Bool
  torn : List (Nat × Nat × Nat)
  cls : Nat
  spad : Bool
  handler : Bool
  index : Nat
  order : Nat
  base : Nat
  version : Nat
  slot : Nat
  station : Nat
  len : Nat
  name : List Byte
  logical : Nat
  sub : Nat
  body : List Byte
  failed : List Nat
  sealBad : Bool
  owner : Option Nat
deriving DecidableEq, Repr

/-- A plate body on its way to memory (R430): the frames of its destination's pages and the offset in the first, entry index, tag,
offset of the next piece, and pieces that have begun. -/
structure BodyWrite where
  plate : Plate
  frames : List Nat
  off : Nat
  entry : Nat
  tag : BitVec 32
  next : Nat
  pend : List Nat
  /-- the translations of its pages, in order -/
  vias : List Via
deriving DecidableEq, Repr

/-- A station context (R35). -/
structure Ctx where
  id : Nat
  gang : Nat
  index : Nat
  logical : Nat
  sub : Nat
  station : Nat
  slot : Nat
  /-- holds its station slot (R399) -/
  resident : Bool
  service : Bool
  asid : Nat
  regs : Nat
  prio : Nat
  /-- first unit of its partition, and units (R36) -/
  partBase : Nat
  partUnits : Nat
  threads : List Thr
  hw : List Nat
  /-- code section of each thread: virtual base, bytes -/
  code : List (Nat × Nat)
  vflags : BitVec 5
  vtrap : BitVec 5
  srseed : BitVec 32
  dom : Word
  mcls : BitVec 7
  hangiv : BitVec 20
  hangmap : BitVec 23
  lnack : BitVec 40
  lnaddr : BitVec 56
  tvec : Word
  prot : Word
  undo : Word
  hentry : Word
  charge : Nat
  counters : List Counter
  mailbox : List (BitVec 128)
  /-- spilled arrivals and entries; after the switch in, those that are still to be applied (R400) -/
  spill : List Spill
  spilled : Bool
  /-- frames of the four pages of the save area, and the first cycle of a CTXSW out that has not ended (R399) -/
  saveFrames : List Nat
  swapping : Option Nat
  bindings : List (Nat × Binding)
  caps : List (Nat × BitVec 128)
  tiles : List (Nat × Tile)
  tags : List (Nat × Tag)
  recency : List (Nat × List Nat)
  segments : List Segment
  opens : List OpenRange
  handler : Option Nat
  allowance : Nat
  held : List HeldPush
  snap : Option Snapshot
  undoLog : List UndoEntry
  /-- frames of the sixteen pages of the undo area, as translated at the snapshot, and the journal flits that the context's
  protected streams wrote since: addresses of the two flits of each entry (R195, R403) -/
  undoPas : List Nat
  journals : List (Nat × Nat)
  /-- a PLATERD body write in flight: plate, destination, entry index, tag (R430) -/
  bodyWrite : Option BodyWrite
  /-- no thread issues: CTXSW out or a rollback is under way (R399, R406) -/
  hold : Bool
  rolling : Bool
deriving DecidableEq, Repr

/-- A gang (R35). `qstate` is 0 running, 1 quiescing, 2 at rest (R329). -/
structure Gang where
  id : Nat
  name : List Byte
  version : Nat
  asid : Nat
  service : Bool
  qstate : Nat
  qnumber : Nat
  /-- graphs of the image: controller and graph slot -/
  graphs : List (Nat × Nat)
  queues : Nat
  epoch : BitVec 16
deriving DecidableEq, Repr

/-! ### Queues and domains -/

/-- An item of a queue (R226); `reserved` is the region handle and invocation that reserved it (R268). -/
structure QItem where
  source : BitVec 23
  /-- context or engine whose window the item fills -/
  owner : Nat
  num : Nat
  data : List Byte
  poison : Bool
  reserved : Option (Nat × Nat)
deriving DecidableEq, Repr

/-- An entry of a home: an item or a quiesce marker (R267). -/
inductive QEntry where
  | item (i : QItem)
  | marker (n : Nat)
deriving DecidableEq, Repr

/-- One home of a queue: its entries in home order, and the window places taken by each producer context (R264). -/
structure QHome where
  at_ : HomeAt
  entries : List QEntry
  used : List (Nat × Nat)
  /-- credits on their way back, and items popped in a protected superstep with the context that popped them (R405) -/
  credits : List Nat
  popped : List (Nat × QItem)
deriving DecidableEq, Repr

/-- A queue (R25). -/
structure Queue where
  id : Nat
  ty : BitVec 4
  size : Nat
  cap : Nat
  prio : Nat
  gang : Option Nat
  homes : List QHome
  /-- next number of each producer (R226): its context (0 for an engine hart) and identity -/
  seqs : List ((Nat × BitVec 23) × Nat)
  epoch : BitVec 16
deriving DecidableEq, Repr

/-- Which form joined an episode (R288). -/
inductive JoinForm where | bar | barsnap | reduce | done
deriving DecidableEq, Repr

/-- One joiner of an episode: context, thread index, form, ga, value. -/
structure Join where
  ctx : Nat
  thread : Nat
  form : JoinForm
  ga : Word
  value : Word
  gd : Reg
deriving DecidableEq, Repr

/-- An open episode. -/
structure Episode where
  num : Nat
  joins : List Join
deriving DecidableEq, Repr

/-- A member context of another package: the identity that stands for it here, its package, its mask threads. -/
structure FarMember where
  id : Nat
  pkg : Nat
  mask : BitVec 8
deriving DecidableEq, Repr

/-- A synchronisation domain (R287, R288): level, number, member contexts in rank order, those of other packages by the
identities of `far`. `broken` completes episodes ABORTED (R292). -/
structure Domain where
  level : Nat
  number : Nat
  members : List Nat
  far : List FarMember
  /-- episodes completed -/
  count : Nat
  episodes : List Episode
  /-- number of episodes each member (context, thread) has joined -/
  joined : List ((Nat × Nat) × Nat)
  broken : Bool
deriving DecidableEq, Repr

/-! ### Memory requests (R205, R320) -/

/-- What a memory request does. -/
inductive MemOp where
  | load (size : Nat)
  | store (size : Nat) (data : List Byte)
  | atomic (op : Nat) (size : Nat) (b : Word)
  | cas (size : Nat) (expected new : BitVec 128)
  /-- 64 bytes written whole, as a poisoned granule or a clean one (R294) -/
  | line (data : List Byte) (bad : Bool)
deriving DecidableEq, Repr

/-- Sources of accesses (R205): a thread or hart, its instruction fetch, a region, a work item of shipped microcode, the link by its
far package, a PCIe port. -/
inductive Source where
  | actor (a : Actor)
  | fetch (a : Actor)
  | region (h : Nat)
  | job (die eng : Nat)
  | link (pkg : Nat)
  /-- `relaxed`: a write with Relaxed Ordering (R380) -/
  | pcie (port : Nat) (relaxed : Bool)
deriving DecidableEq, Repr

/-- What the source does with the answer. -/
inductive Answer where
  | none
  | load (gd : Reg) (w : LdW)
  | atomic (gd : Reg) (trap : Bool)
  | cas (gd : Reg) (trap : Bool) (wide : Bool)
  /-- parcels for a fetch buffer -/
  | fetch
  /-- a lane of a LOAD node -/
  | lane (at_ : FireAt)
  /-- a quarter of line register `l` (R294) -/
  | line (l q : Nat)
  /-- a piece that the shipped microcode reads (R297) -/
  | piece
  /-- of a request from another package, or from a Requester ID of a PCIe port -/
  | reply (source : Nat) (pcie : Bool)
deriving DecidableEq, Repr

/-- What the part answers to another package, a PCIe requester or the host: status, data, poison. -/
structure Reply where
  source : Nat
  pcie : Bool
  status : BitVec 8
  data : Nat
  poisoned : Bool
deriving DecidableEq, Repr

/-- A request to a memory controller. -/
structure MemReq where
  id : Nat
  /-- the controller, or from 96 on another home: 96 + station, 192 + die, 196 the package control unit -/
  ctl : Nat
  /-- first cycle at which it waits there: the way to a controller takes a time that the manual leaves open (log 66) -/
  due : Nat
  /-- a full retire buffer refused it; its sender's hardware retries (R441) -/
  refused : Bool
  who : Source
  ctx : Nat
  cls : Nat
  latest : Option Nat
  pa : Nat
  ea : Word
  via : Option Via
  op : MemOp
  ans : Answer
deriving DecidableEq, Repr

/-- An answer on its way to its thread. -/
structure MemAnswer where
  id : Nat
  who : Source
  ea : Word
  pa : Nat
  ans : Answer
  ctx : Nat
  data : Nat
  status : BitVec 8
  flags : BitVec 5
  poisoned : Bool
deriving DecidableEq, Repr

/-- A request sent to another package or out of a PCIe port, still to be answered. -/
structure OutReq where
  id : Nat
  /-- a store to another package has been performed there from this cycle on, unless it is refused before (log 66) -/
  due : Nat
  who : Source
  ctx : Nat
  /-- 9-bit package, or none for the PCIe port of a die -/
  pkg : Option Nat
  die : Nat
  /-- physical address in remote form, or bus address -/
  pa : Nat
  ea : Word
  via : Option Via
  op : MemOp
  ans : Answer
deriving DecidableEq, Repr

/-! ### Streams (R175-R187) -/

/-- A graph in a slot of a controller's array: gang, node words. -/
structure Graph where
  ctl : Nat
  slot : Nat
  gang : Nat
  words : List (BitVec 64)
deriving DecidableEq, Repr

/-- One bit of a stream with its poison mark. -/
abbrev SBit := Bool × Bool

/-- A node of an open stream: input queues as bits, ends of its inputs, bits not yet sent as a flit, operator state. -/
structure SNode where
  inA : List SBit
  inB : List SBit
  endA : Bool
  endB : Bool
  out : List SBit
  ended : Bool
  /-- values or units processed -/
  count : Nat
  /-- running state: accumulators, previous value, phase -/
  acc : Nat
  acc2 : Nat
  bins : List Nat
  /-- the running state is formed from poisoned values -/
  bad : Bool
  /-- it can do nothing more with the input that it holds -/
  hungry : Bool
deriving DecidableEq, Repr

/-- A place in a home sequence (R181): granule of the range, flit in the granule, and the translation that serves the run in one page:
the page and its frame (R354). -/
structure SeqPos where
  gran : Nat
  flit : Nat
  run : Option (Via × Nat)
deriving DecidableEq, Repr

/-- Requester side of a stream (R180). -/
inductive Requester where
  | tile (station index : Nat)
  | region (handle slot : Nat)
deriving DecidableEq, Repr

/-- Half a flit that a read stream has delivered: whether it is poisoned, its bytes, and the invocation that took it (R184). -/
structure Half where
  bad : Bool
  bytes : List Byte
  taker : Option Nat
deriving DecidableEq, Repr

/-- A stream context (R180). -/
structure Stream where
  ctl : Nat
  str : Nat
  ctx : Nat
  graphSlot : Nat
  /-- lowest physical row of its graph (R176) -/
  row : Nat
  write : Bool
  prot : Bool
  requester : Requester
  /-- its tile still waits for pins to end before it becomes DRAINING (R257) -/
  moving : Bool
  base : Nat
  granules : Nat
  result : Nat
  journal : Nat
  jgranules : Nat
  /-- table memory, and its poisoned granules -/
  table : List Byte
  tableBad : List Nat
  tag : BitVec 32
  seed : BitVec 32
  nodes : List SNode
  /-- places of the DRAM side, of the flit that UNDO reads next, and of the journal -/
  dram : SeqPos
  undo : SeqPos
  jour : SeqPos
  /-- flits of the DRAM side performed, flits of the requester side, tail flits written or dropped, journal entries written -/
  done : Nat
  reqDone : Nat
  tailed : Nat
  entries : Nat
  /-- cycle at which its waiting DRAM access arrived -/
  asked : Nat
  /-- bits waiting at the tail -/
  tail : List SBit
  headDone : Bool
  tailEnded : Bool
  /-- write buffer of committed SOUT bytes, half flits; replay window of SIN -/
  wbuf : List (List Byte)
  halves : List Half
  flags : BitVec 5
  poisoned : Nat
  trunc : Bool
  jovf : Bool
  aborted : Bool
  page : Option (BitVec 32)
deriving DecidableEq, Repr

/-! ### Translation, faults, engines -/

/-- An entry kept by a TLB or walk cache (R352): level 4 is the ASID entry; `key` is the part of the address it translates. -/
structure TlbEntry where
  unit : UnitId
  asid : Nat
  level : Nat
  key : Nat
  value : Nat
deriving DecidableEq, Repr

/-- A pending page fault (R355): kinds are read, write, fetch, atomic. -/
structure PageFault where
  unit : UnitId
  asid : Nat
  page : Nat
  tag : BitVec 32
deriving DecidableEq, Repr

/-- A record on its way to its lane (R391): lane R or F; `seq` once the root has numbered it. -/
structure Record where
  laneR : Bool
  cls : BitVec 8
  kind : Nat
  source : Nat
  srcSeq : Nat
  asid : Nat
  slot : Nat
  station : Nat
  detail : BitVec 352
  seq : Option Nat
  /-- the sender of a failed matrix command (R148), which no field of the written record holds (log 46) -/
  sender : Option (BitVec 23)
  /-- a mailbox entry that waits for the record's number, and its context (R390) -/
  note : Option (Nat × BitVec 128)
deriving DecidableEq, Repr

/-- An engine: its hart, its work queue's id, its store and its microcode state (R293-R300). -/
structure Engine where
  die : Nat
  eng : Nat
  thr : Thr
  /-- the service loaded microcode that runs parcel by parcel; otherwise the shipped microcode acts -/
  loaded : Bool
  istore : List Host.Cell
  /-- producer context of the latest item, and whether an item gave its address space -/
  producer : Option Nat
  asid : Option (Nat × Bool)
  mcbase : Word
  mclen : Word
  mcstat : Nat
  mccause : Nat
deriving DecidableEq, Repr

/-- A 64-byte piece of a copy (R297), or an operand of a collective: its offset, or the operand's place; 0 to be read, 1 its read is under
way, 2 at hand, to be written, 3 its write is under way; its bytes and poison; its request. -/
structure Piece where
  off : Nat
  stage : Nat
  data : List Byte
  bad : Bool
  out : Nat
deriving DecidableEq, Repr

/-- A work item that shipped microcode is running (R297, R298, R374). -/
structure Job where
  die : Nat
  eng : Nat
  producer : Nat
  item : List Byte
  /-- tiles that it took: context and index; the source still waits for pins to end (R257) -/
  srcTile : Option (Nat × Nat)
  dstTile : Option (Nat × Nat)
  moving : Bool
  /-- offset of the next piece, in the item or in the step of a collective -/
  next : Nat
  pend : List Piece
  pieces : Nat
  poisoned : Nat
  firstPoison : Option Nat
  flags : BitVec 5
  status : BitVec 8
  page : Option (BitVec 32)
  /-- multicast: members sent to; masks of refusers; request, member and cycle of each copy that has left -/
  sentTo : BitVec 512
  revoked : BitVec 512
  others : BitVec 512
  left : List (Nat × Nat × Nat)
  /-- multicast: where the two lines of the report lie, as translated at acceptance (R374) -/
  reportAt : List (Nat × Option Via)
  /-- the refusal report, or a tail of the work, has been done -/
  reported : Bool
  /-- collective: exchange areas by rank; step; first cycle of the wait of the step; bytes sent; cycle of a refusal for full staging -/
  peers : List Nat
  step : Nat
  since : Nat
  bytes : Nat
  held : Option Nat
deriving DecidableEq, Repr

/-! ### Links, PCIe and health -/

/-- A staged table entry: current and staging copies. -/
structure Staged (w : Nat) where
  cur : BitVec w
  stg : BitVec w
deriving DecidableEq, Repr

/-- Per-bank health (R439). -/
structure Bank where
  ctl : Nat
  pch : Nat
  bank : Nat
  rows : Nat
  remaps : Nat
  granules : Nat
  /-- weak granules, as row and number in the row, and exhausted rows -/
  weak : List (Nat × Nat)
  exhausted : List Nat
deriving DecidableEq, Repr

/-- Health registers of one controller (R436). -/
structure Health where
  ctl : Nat
  htrain : BitVec 16
  htemp : BitVec 64
  hretire : Nat
  /-- refresh commands and failed bursts by pseudo-channel -/
  refresh : List (Nat × Nat)
  failed : List (Nat × Nat)
  retiring : Option (Nat × Nat)
  buffer : List MemReq
deriving DecidableEq, Repr

/-- One directory copy (R427). -/
structure Directory where
  /-- its header has the magic and a good check -/
  valid : Bool
  generation : Nat
  event : Nat
  returned : Bool
  kept : Bool
  plates : List Plate
  records : List (BitVec 512)
deriving DecidableEq, Repr

/-- Where dome-close stands (R421). -/
inductive Dome where
  | idle
  | frozen
  | handlers (running : List (Actor × Nat))
  | copying
  | directory
  | stopped
deriving DecidableEq, Repr

/-- One step of the schedule: an operation and its inputs. -/
structure Task where
  op : Instr
  arg : Arg
deriving DecidableEq, Repr

/-- A message on its way (R277-R279): sender context and thread, destination station and context. -/
structure Msg where
  id : Nat
  sender : Nat × Nat
  source : BitVec 23
  station : Nat
  dest : Nat
  ctr : Nat
  dec : Nat
  payload : List Byte
  num : Nat
deriving DecidableEq, Repr

/-- What travels to a matrix region's command queue (R142, R149, R332). -/
inductive CmdKind where
  /-- 0 MLOAD, 1 MRUN, 2 MDRAIN, 3 MSTAT -/
  | command (kind : Nat) (desc : Vector Word 8)
  /-- CANCEL of kind 1: tag and destination register -/
  | cancel (tag : BitVec 32) (gd : Reg)
deriving DecidableEq, Repr

/-- A command on its way: sender context and thread, region, the die its allowance counts against. -/
structure CmdMsg where
  id : Nat
  sender : Nat × Nat
  source : BitVec 23
  region : Nat
  /-- the context that owned the region at issue: a later region may bear the same handle (R145) -/
  owner : Nat
  die : Nat
  kind : CmdKind
  /-- the command queue was full on its last arrival -/
  refused : Bool
deriving DecidableEq, Repr

/-- Requests and answers between units and homes. -/
structure Bus where
  /-- waiting at memory controllers, and held in retire buffers -/
  reqs : List MemReq := []
  answers : List MemAnswer := []
  /-- sent out of the package and not answered -/
  outs : List OutReq := []
  /-- everything that has left the package, latest first: stores and requests -/
  sent : List OutReq := []
  /-- answers that have left the part, latest first -/
  replies : List Reply := []
  /-- messages, matrix commands, and hardware's mailbox writes that a full mailbox refused (R286) -/
  msgs : List Msg := []
  cmds : List CmdMsg := []
  mails : List (Nat × BitVec 128) := []
  /-- slot tables (R319): pointer by controller; words in force and words written, by controller and word -/
  slotPtr : List (Nat × Nat) := []
  slotNow : List ((Nat × Nat) × Word) := []
  slotNew : List ((Nat × Nat) × Word) := []
deriving DecidableEq, Repr

/-- Translation (R348-R355). -/
structure Mmu where
  tlb : List TlbEntry
  faults : List PageFault
  nextTag : Nat
  astbase : Word
deriving DecidableEq, Repr

/-- Link and PCIe (R367-R381). -/
structure LinkRegs where
  peers : List (Nat × Staged 128)
  buses : List (Nat × Staged 128)
  groups : List (Nat × Staged 1024)
  outWin : List ((Nat × Nat) × Word)
  portsDown : List Nat
  unreachable : List Nat
  /-- epochs of peer windows (kind 4) and multicast groups (kind 5), by kind and index (R360) -/
  epochs : List ((Nat × Nat) × BitVec 16)
  /-- non-fatal errors that each PCIe port has reported through AER (R379, R380) -/
  aer : List (Nat × Nat)
deriving DecidableEq, Repr

/-- The fault tree and its lanes (R391-R394). `recs` holds records not yet written, oldest first. -/
structure FaultTree where
  recs : List Record
  rootSeq : Nat
  srcSeqs : List ((Nat × Nat) × Nat)
  lfbase : Word
  lfhead : Nat
  lftail : Nat
  lrbase : Word
  lrhead : Nat
  lrtail : Nat
  /-- the last 64 lane-F records by number, for the directory of dome-close (R427) -/
  laneF : List (BitVec 512)
deriving DecidableEq, Repr

/-- Memory health and in-field test (R436-R442), blink interval and suspects (R407, R408). -/
structure HealthUnits where
  ctls : List Health
  banks : List Bank
  /-- spare pseudo-channels in use: (stack, spare) and the logical pseudo-channel -/
  hpmap : List ((Nat × Nat) × Nat)
  stfence : List (Nat × Nat)
  calbase : List (Nat × Word)
  calctl : List (Nat × Word)
  blinkiv : List (Nat × Nat)
  suspects : List (Nat × Nat)
  /-- 128-byte pieces of exhausted rows, as address / 128 (R440) -/
  dead : List Nat
  /-- pseudo-channels retired without a spare: controller, pseudo-channel (R441) -/
  deadPch : List (Nat × Nat)
deriving DecidableEq, Repr

/-- Boot, features, measurement and power registers (R450-R456). -/
structure BootRegs where
  /-- what the boot at hand finds (R450) -/
  input : Option BootInput
  /-- stages of dies 1 to 3 where they differ from die 0's (R451) -/
  dies : List (Nat × Nat)
  stage : Nat
  fail : Nat
  hostReady : Bool
  version : BitVec 32
  feat0 : Word
  feat1 : Word
  feat2 : Word
  acc0 : Word
  acc1 : Word
  log : List (BitVec 512)
  logFull : Bool
  logdig : BitVec 256
  attNonce : BitVec 256
  attStat : Nat
  attCount : Nat
  attSig : BitVec 512
  pwrcap : Nat
  /-- bytes the host wrote into the boot window (R455) -/
  window : List Host.Cell
  /-- service stations that the firmware image designates besides the default ones (R40) -/
  services : List Nat
  /-- MSI-X table and pending bits (R455), and the interrupts sent to the host: address and data -/
  msix : List (Nat × Word)
  interrupts : List (Word × BitVec 32)
deriving DecidableEq, Repr

/-- Dome-close (R412-R431). -/
structure DomeRegs where
  hbudget : Nat
  keepAlive : Bool
  phase : Dome
  event : Nat
  returned : Bool
  /-- entries of this event, in the order of R423 -/
  plates : List Plate
  /-- a class 3 segment was not begun, so no later one is (R423) -/
  stop3 : Bool
  /-- directory copies 0 and 1 -/
  dirs : List Directory
  /-- the check of R429 is running -/
  checking : Bool
deriving DecidableEq, Repr

/-- What a load status names (R36, R37, R76). Contexts are counted over the image; word 128 is a block's header; `sect`
is the number of the section. -/
inductive LoadObj where
  | image
  | sect (n : Nat)
  | station (n : Nat)
  | context (n : Nat)
  | region (ctx index : Nat)
  | block (sect ctx index word : Nat)
  | graph (sect index word : Nat)
  | controller (n : Nat)
  | queue (n : Nat)
  | reloc (n : Nat)
  | tile (ctx n : Nat)
  | capability (ctx : Nat)
  | hold (ctx n : Nat)
  | data (ctx n : Nat)
  /-- block and both LSIDs (R225) -/
  | overlap (ctx block lo hi : Nat)
deriving DecidableEq, Repr

/-- The loader's answer to an activation (R37): failing step and object, or step 0; and the load report of permissive mode (R225): block
index, lower and higher LSID of the first 256 overlaps, and their number. -/
structure LoadStatus where
  step : Nat
  object : Option LoadObj
  report : List (Nat × Nat × Nat)
  overlaps : Nat
deriving DecidableEq, Repr

/-- The model's own (see the assumption log): the actor that holds the issue slot, the schedule, the inputs of the running
event, free values used so far, and the next identity of an object. -/
structure Model where
  run : Option Actor
  agenda : List Task
  arg : Arg
  freeCount : Nat
  nextId : Nat
  /-- the slot is one that its thread owns (R317) -/
  owned : Bool
  /-- free choices for the instruction in the slot (log 66): its access to a scratchpad or a control home takes a time, and the thread goes
  on past its load or atomic -/
  slow : Bool
  ahead : Bool
deriving DecidableEq, Repr

/-- The whole package. -/
structure State where
  /-- which part: 0 ZS9-P, 1 ZS9-M, 2 ZS9-D -/
  part : Nat
  cycle : Word
  pkgid : Nat
  pkgValid : Bool
  /-- the thread or hart whose registers are loaded, and its registers -/
  who : Actor
  cpu : Thr
  ctxs : List Ctx
  gangs : List Gang
  regions : List Region
  queues : List Queue
  domains : List Domain
  sfus : List (UnitId × List SfuReq)
  mem : List Host.Cell
  poison : List Nat
  bus : Bus
  mmu : Mmu
  link : LinkRegs
  tree : FaultTree
  engines : List Engine
  jobs : List Job
  graphs : List Graph
  streams : List Stream
  health : HealthUnits
  boot : BootRegs
  dome : DomeRegs
  stats : List (Nat × Nat)
  /-- the latest load status (R37) -/
  loaded : Option LoadStatus
  model : Model
deriving DecidableEq, Repr

/-- Why the machine stops. -/
inductive Fault where
  /-- The part runs nothing: boot failed (R450), or dome-close has ended and power is not back (R421). Raised by `step` alone.
  Safe: the machine does nothing further by itself. -/
  | stopped
deriving DecidableEq, Repr

/-- Why an instruction has no meaning here. -/
inductive Refusal where
  /-- An operation without a meaning yet; raised by its arm of `exec`. Safe. -/
  | notModelled (mnemonic : String)
deriving DecidableEq, Repr

/-! ### Values at creation and at reset -/

/-- Hart registers before anything is written (R293 gives offset 0 alone; the zeros are a DESIGN CHOICE, log 3). -/
def HartRegs.zero : HartRegs where
  lines := Vector.replicate 4 0
  poison := Vector.replicate 4 0
  lcomb := 0
  ecompl := 0
  ecomph := 0
  tvec := 0
  got := []

/-- A thread at activation (R154, R242, R276); `run` says whether it starts. -/
def Thr.zero (run : RunState) (pc : Word) (prio : Nat) : Thr where
  g := Vector.replicate 32 0
  m := Vector.replicate 8 0
  pc := pc
  fflags := 0
  astat := 0
  sstat := 0
  tpc := 0
  tcause := 0
  tval := 0
  prio := prio
  yielded := false
  run := run
  wait := .none
  bufBase := 0
  buf := []
  msgNum := []
  outstanding := []
  late := []
  fences := []
  fetching := none
  pend := []
  astatId := 0
  trapDue := none
  hart := HartRegs.zero

/-- A counter at activation (R280). -/
def Counter.zero : Counter where
  count := 0
  stride := 0
  slots := 1
  base := 0
  next := 0
  arrivals := 0
  post := false
  pending := false
  overrun := false
  enabled := false
  thread := 0
  entry := 0
  landing := 0

/-- An engine when the package leaves reset (R293, R300): its hart waits in the shipped microcode on its empty work queue. -/
def Engine.zero (die eng : Nat) : Engine where
  die := die
  eng := eng
  thr := Thr.zero .running 0 0
  loaded := false
  istore := []
  producer := none
  asid := none
  mcbase := 0
  mclen := 0
  mcstat := 0
  mccause := 0

/-- An address-generator record at activation (R248). -/
def AgRec.zero : AgRec where
  rank := 0
  space := false
  base := 0
  e := []
  st := []

/-- The machine right after reset (R159, R319, R394, R407, R436, R450-R456). Registers without a reset value in the manual
are zero (DESIGN CHOICE, log 3); the part is a ZS9-P (log 2). -/
def State.reset : State where
  part := 0
  cycle := 0
  pkgid := 0
  pkgValid := false
  who := .engine 0 0
  cpu := Thr.zero .running 0 0
  ctxs := []
  gangs := []
  regions := []
  queues := []
  domains := []
  sfus := []
  mem := []
  poison := []
  bus := {}
  mmu := { tlb := [], faults := [], nextTag := 0, astbase := 0 }
  link := { peers := [], buses := [], groups := [], outWin := [], portsDown := [], unreachable := [],
            epochs := [], aer := [] }
  tree := { recs := [], rootSeq := 0, srcSeqs := [], lfbase := 0, lfhead := 0, lftail := 0, lrbase := 0, lrhead := 0,
            lrtail := 0, laneF := [] }
  engines := (List.range 36).map fun n => Engine.zero (n / 9) (n % 9)
  jobs := []
  graphs := []
  streams := []
  health := { ctls := [], banks := [], hpmap := [], stfence := [], calbase := [], calctl := [], blinkiv := [], suspects := [],
              dead := [], deadPch := [] }
  boot := { input := none, dies := [], stage := 0, fail := 0, hostReady := false, version := 0, feat0 := 0, feat1 := 0, feat2 := 0, acc0 := 0, acc1 := 0,
            log := [], logFull := false, logdig := 0, attNonce := 0, attStat := 0, attCount := 0, attSig := 0,
            pwrcap := 2600, window := [], services := [], msix := [], interrupts := [] }
  dome := { hbudget := 0, keepAlive := false, phase := .idle, event := 0, returned := false, plates := [], stop3 := false,
            dirs := [], checking := false }
  stats := []
  loaded := none
  model := { run := none, agenda := [], arg := .none, freeCount := 0, nextId := 1, owned := false, slow := false, ahead := false }

end Sys2Proof.Machine
end

