-- ==== Sys2Proof/Config.lean ====
section
/-! DEFINITION. What the manual leaves open: free values (opaque, no body), and fixed counts of the part. -/

namespace Sys2Proof.Config

open Sys2Proof.Machine

/-- Free bit number `n`: which of two allowed outcomes happens (R174, R352). -/
opaque freeBit : Nat → Bool
/-- Free word number `n` (the time of an access on its way, R206, and a choice among several). -/
opaque freeWord : Nat → Word
/-- Free byte at an offset of snapshot area number `n` (R403). -/
opaque freeByte : Nat → Nat → Byte
/-- Byte at an offset of an entry of station table `t` with these fields: the manual gives an entry's size and no arrangement (R399). -/
opaque tableByte : Nat → List Nat → Nat → Byte
/-- What an entry of a station table says by its bytes, for bytes other than those that the kept entry renders to (R399, R401). -/
opaque counterOf : List Byte → Option Counter
opaque tileOf : List Byte → Option Tile
opaque tagOf : List Byte → Option Tag
opaque bindingOf : List Byte → Option Binding
/-- Word of the pipeline registers of an element, by logical page, element and word, in a region with these invocations: the manual gives
no arrangement (R457). -/
opaque pipeWord : List Inv → Nat → Nat → Nat → Word
/-- The invocations that the pipeline registers of a region's elements say, for registers other than those that the kept invocations render
to (R396, R401). -/
opaque pipeInvs : List Word → List Inv
/-- Word of the state of a memory-side array with these graphs and streams: the manual gives no arrangement (R204, R457). -/
opaque msaWord : List Graph → List Stream → Nat → Word
/-- Free lane value number `n` (a CVT word with its mx bit set, R71). -/
opaque freeLane : Nat → Lane
/-- The part identity PARTID (R454). -/
opaque partId : Word
/-- The public key x ‖ y (R454). -/
opaque attKey : BitVec 512
/-- The attestation signature over nonce, the log's bytes and the entry count (R454). -/
opaque attSign : BitVec 256 → List (BitVec 512) → BitVec 32 → BitVec 512
/-- The power reading: watts in [15:0] and capping in [16], by cycle (R456). -/
opaque powerNow : Nat → BitVec 17
/-- The word at 0x08 of a save area: station, slot and ASID in an arrangement that the manual does not give (R399). -/
opaque ctxHead : Nat → Nat → Nat → Word

/-- Measurement digest of the boot image that stands beside the part, and the key digest and least version fused into it (R450). -/
opaque imageDigest : BitVec 256
opaque fusedKey : BitVec 256
opaque fusedVersion : BitVec 32

/-- Rows of a bank: the manual gives no number (R439). -/
opaque bankRows : Nat
/-- Words of BAR0's MSI-X area at which its table and its pending bits stand: the manual gives no places (R455). -/
opaque msixTable : Nat
opaque msixPending : Nat

/-- A word of the shipped microcode of a copy engine (0) or collective engine (1), readable through RDSTATE (R24). -/
opaque shipped : Nat → Nat → Word

/-- Set of a TLB for an ASID, a level and a page number there (R352). -/
opaque tlbSet : Nat → Nat → Nat → Nat
/-- Bytes of storage that queues may reserve (R263). -/
opaque queueStorage : Nat

/-- Stations of a package (R15). -/
def stations : Nat := 96
/-- Memory controllers of a package (R16). -/
def controllers : Nat := 96
/-- Parcels of a fetch buffer (R174). -/
def fetchParcels : Nat := 32
/-- SFU queue entries, and entries per thread (R164). -/
def sfuQueue : Nat := 16
def sfuPerThread : Nat := 4
/-- Send allowance per thread and die (R279). -/
def sendAllowance : Nat := 16

end Sys2Proof.Config
end

