-- ==== Sys2Proof/Machine/Flags.lean ====
section
/-! DEFINITION. The sticky floating-point flags (R92) and the status and class codes (R13, R14). -/

namespace Sys2Proof.Machine

/-- A set of sticky flags (R92). -/
abbrev Flags := BitVec 5

def fNone : Flags := 0
def fInexact : Flags := 0x01
def fUnderflow : Flags := 0x02
def fOverflow : Flags := 0x04
def fDivzero : Flags := 0x08
def fInvalid : Flags := 0x10

/-- `f` when the condition holds. -/
def flagIf (c : Bool) (f : Flags) : Flags := if c then f else 0

/-- ORs flags into a flag register (R93, R94). -/
def orFlags (reg raised : Flags) : Flags := reg ||| raised

/-- Status codes (R13). -/
abbrev Status := BitVec 8
def stOK : Status := 0x00
def stBusy : Status := 0x01
def stEmpty : Status := 0x02
def stPoison : Status := 0x03
def stTrunc : Status := 0x04
def stDenied : Status := 0x06
def stStarted : Status := 0x07
def stPartial : Status := 0x08
def stRetired : Status := 0x09
def stTimeout : Status := 0x0A
def stNackRevoked : Status := 0x0B
def stAborted : Status := 0x0C
def stPermission : Status := 0x0D

/-- Record classes (R14). -/
abbrev Cls := BitVec 8
def clPageNotPresent : Cls := 0x10
def clPlacementDeferred : Cls := 0x11
def clStagingFull : Cls := 0x12
def clMailboxSpilled : Cls := 0x13
def clIllegalEncoding : Cls := 0x20
def clIllegalOperand : Cls := 0x21
def clPermission : Cls := 0x22
def clAlignment : Cls := 0x23
def clCommitOverflow : Cls := 0x24
def clHang : Cls := 0x25
def clArithTrap : Cls := 0x26
def clCapability : Cls := 0x27
def clUserTrap : Cls := 0x28
def clUncorrectable : Cls := 0x30
def clBlinkMismatch : Cls := 0x31
def clLinkFailure : Cls := 0x32
def clRowSpares : Cls := 0x33
def clChannelRetired : Cls := 0x34
def clPowerFail : Cls := 0x3F

end Sys2Proof.Machine
end

