-- ==== Sys2Proof/Decode.lean ====
section
/-! DEFINITION. Decoding and encoding: sequencer parcels and words (R62-R67), block words (R69-R72) and stream
node words (R73-R75). Decoding is total and rejects by name; the encoder is written from the same tables. -/

namespace Sys2Proof

/-- Why a bit pattern is not an instruction (R76). -/
inductive DecodeErr where
  | unassignedMajor | unassignedSubop | reservedBits | unassignedCompact | truncated
  | unassignedOp | unassignedType | badPredicate | badTarget | badImmediate | badRoute | badFormat | badParameter
deriving DecidableEq, Repr

/-! ### Fields of a 32-bit word (R63) -/

def fMajor (w : BitVec 32) : BitVec 6 := w.extractLsb' 23 6
def fD (w : BitVec 32) : Reg := w.extractLsb' 18 5
def fA (w : BitVec 32) : Reg := w.extractLsb' 13 5
def fB (w : BitVec 32) : Reg := w.extractLsb' 8 5
def fSub (w : BitVec 32) : BitVec 8 := w.extractLsb' 0 8
def fImm13 (w : BitVec 32) : BitVec 13 := w.extractLsb' 0 13
def fImm18 (w : BitVec 32) : BitVec 18 := w.extractLsb' 0 18
def fWidth (w : BitVec 32) : BitVec 3 := w.extractLsb' 10 3
def fOff10 (w : BitVec 32) : BitVec 10 := w.extractLsb' 0 10

/-- The R format. -/
def wordR (major : BitVec 6) (d a b : Reg) (sub : BitVec 8) : BitVec 32 := 7#3 ++ major ++ d ++ a ++ b ++ sub
/-- The I13 and B formats. -/
def wordI13 (major : BitVec 6) (d a : Reg) (imm : BitVec 13) : BitVec 32 := 7#3 ++ major ++ d ++ a ++ imm
/-- The I18 format. -/
def wordI18 (major : BitVec 6) (d : Reg) (imm : BitVec 18) : BitVec 32 := 7#3 ++ major ++ d ++ imm
/-- The M format. -/
def wordM (major : BitVec 6) (d a : Reg) (width : BitVec 3) (off : BitVec 10) : BitVec 32 := 7#3 ++ major ++ d ++ a ++ width ++ off

/-! ### Field codes (R63, R66) -/

def LdW.code : LdW → BitVec 3
  | .s8 => 0 | .n8 => 1 | .s16 => 2 | .n16 => 3 | .s32 => 4 | .n32 => 5 | .d64 => 6 | .q128 => 7
def LdW.ofCode (c : BitVec 3) : LdW :=
  match c.toNat with
  | 0 => .s8 | 1 => .n8 | 2 => .s16 | 3 => .n16 | 4 => .s32 | 5 => .n32 | 6 => .d64 | _ => .q128
def StW.code : StW → BitVec 3
  | .b8 => 0 | .b16 => 2 | .b32 => 4 | .b64 => 6 | .b128 => 7
def StW.ofCode (c : BitVec 3) : Option StW :=
  match c.toNat with
  | 0 => some .b8 | 2 => some .b16 | 4 => some .b32 | 6 => some .b64 | 7 => some .b128 | _ => none
def Scope.code : Scope → BitVec 3
  | .thr => 0 | .sta => 1 | .die => 2 | .pkg => 3 | .sys => 4
def Scope.ofCode (c : BitVec 3) : Option Scope :=
  match c.toNat with
  | 0 => some .thr | 1 => some .sta | 2 => some .die | 3 => some .pkg | 4 => some .sys | _ => none
def FenceKind.code : FenceKind → BitVec 2
  | .acq => 0 | .rel => 1 | .full => 2
def FenceKind.ofCode (c : BitVec 2) : Option FenceKind :=
  match c.toNat with
  | 0 => some .acq | 1 => some .rel | 2 => some .full | _ => none
def FlagW.code : FlagW → BitVec 3
  | .w32 => 5 | .w64 => 6
def FlagW.ofCode (c : BitVec 3) : Option FlagW :=
  match c.toNat with
  | 5 => some .w32 | 6 => some .w64 | _ => none
def PLane.code : PLane → BitVec 2
  | .b => 0 | .h => 1 | .w => 2
def PLane.ofCode (c : BitVec 2) : Option PLane :=
  match c.toNat with
  | 0 => some .b | 1 => some .h | 2 => some .w | _ => none
def FFmt.code : FFmt → BitVec 1
  | .f32 => 0 | .f64 => 1
def FFmt.ofCode (c : BitVec 1) : FFmt := if c = 0 then .f32 else .f64
def SRnd.code : SRnd → BitVec 3
  | .rne => 0 | .rtz => 1 | .up => 2 | .down => 3 | .ta => 4
def SRnd.ofCode (c : BitVec 3) : Option SRnd :=
  match c.toNat with
  | 0 => some .rne | 1 => some .rtz | 2 => some .up | 3 => some .down | 4 => some .ta | _ => none
def ASize.code : ASize → BitVec 1
  | .s32 => 0 | .s64 => 1
def ASize.ofCode (c : BitVec 1) : ASize := if c = 0 then .s32 else .s64
def CSize.code : CSize → BitVec 1
  | .s64 => 0 | .s128 => 1
def CSize.ofCode (c : BitVec 1) : CSize := if c = 0 then .s64 else .s128
def boolBit (b : Bool) : BitVec 1 := if b then 1 else 0

/-! ### Sub-op bytes (R66) -/

def subPacked (l : PLane) (op : BitVec 4) : BitVec 8 := l.code ++ op ++ 0#2
def subFloat (f : FFmt) (r : BitVec 3) (op : BitVec 4) : BitVec 8 := f.code ++ r ++ op
def subAcc (width : BitVec 3) (sc : Scope) : BitVec 8 := width ++ sc.code ++ 0#2
def subFence (sc : Scope) (k : FenceKind) : BitVec 8 := 0#3 ++ sc.code ++ k.code
def subAtomic (op : BitVec 4) (z : BitVec 1) (t : Bool) : BitVec 8 := op ++ z ++ boolBit t ++ 0#2
def subQueue (rel : Bool) (op : BitVec 5) : BitVec 8 := 0#2 ++ boolBit rel ++ op

/-! ### The encoding of each row -/

/-- The opcode rows as encodings: a 32-bit word, a compact parcel, a block word, a node word, or none (an event). -/
inductive Enc where
  | word (w : BitVec 32)
  | parcel (p : BitVec 16)
  | block (op : BitVec 8) (at_ : FireAt) (w : BlockWord)
  | node (op : BitVec 6) (at_ : SFireAt) (w : NodeWord)
  | event
deriving DecidableEq, Repr

/-- Every operation's encoding (R64-R66, R72, R75). -/
def Instr.enc : Instr → Enc
  | .add d a b => .word (wordR 0x00 d a b 0x0)
  | .sub d a b => .word (wordR 0x00 d a b 0x1)
  | .mul d a b => .word (wordR 0x00 d a b 0x2)
  | .mulh d a b => .word (wordR 0x00 d a b 0x3)
  | .mulhn d a b => .word (wordR 0x00 d a b 0x4)
  | .div d a b => .word (wordR 0x00 d a b 0x5)
  | .divn d a b => .word (wordR 0x00 d a b 0x6)
  | .and_ d a b => .word (wordR 0x00 d a b 0x7)
  | .or_ d a b => .word (wordR 0x00 d a b 0x8)
  | .xor_ d a b => .word (wordR 0x00 d a b 0x9)
  | .andn d a b => .word (wordR 0x00 d a b 0xa)
  | .sll d a b => .word (wordR 0x00 d a b 0xb)
  | .srl d a b => .word (wordR 0x00 d a b 0xc)
  | .sra d a b => .word (wordR 0x00 d a b 0xd)
  | .slt d a b => .word (wordR 0x00 d a b 0xe)
  | .sltn d a b => .word (wordR 0x00 d a b 0xf)
  | .min_ d a b => .word (wordR 0x00 d a b 0x10)
  | .max_ d a b => .word (wordR 0x00 d a b 0x11)
  | .clz d a => .word (wordR 0x00 d a 0 0x12)
  | .popc d a => .word (wordR 0x00 d a 0 0x13)
  | .addi d a imm => .word (wordI13 0x01 d a imm)
  | .andi d a imm => .word (wordI13 0x02 d a imm)
  | .slli d a n => .word (wordI13 0x3 d a (0#7 ++ n))
  | .srli d a n => .word (wordI13 0x4 d a (0#7 ++ n))
  | .srai d a n => .word (wordI13 0x5 d a (0#7 ++ n))
  | .li d imm => .word (wordI18 0x6 d imm)
  | .lic d imm => .word (wordI18 0x7 d imm)
  | .addpc d imm => .word (wordI18 0x8 d imm)
  | .padd l d a b => .word (wordR 0x09 d a b (subPacked l 0))
  | .psub l d a b => .word (wordR 0x09 d a b (subPacked l 1))
  | .padds l d a b => .word (wordR 0x09 d a b (subPacked l 2))
  | .paddsn l d a b => .word (wordR 0x09 d a b (subPacked l 3))
  | .psubs l d a b => .word (wordR 0x09 d a b (subPacked l 4))
  | .psubsn l d a b => .word (wordR 0x09 d a b (subPacked l 5))
  | .pmul l d a b => .word (wordR 0x09 d a b (subPacked l 6))
  | .pmin l d a b => .word (wordR 0x09 d a b (subPacked l 7))
  | .pmax l d a b => .word (wordR 0x09 d a b (subPacked l 8))
  | .fadd f r d a b => .word (wordR 0x0A d a b (subFloat f r.code 0))
  | .fsub f r d a b => .word (wordR 0x0A d a b (subFloat f r.code 1))
  | .fmul f r d a b => .word (wordR 0x0A d a b (subFloat f r.code 2))
  | .fdiv f r d a b => .word (wordR 0x0A d a b (subFloat f r.code 3))
  | .fsqrt f r d a => .word (wordR 0x0A d a 0 (subFloat f r.code 4))
  | .fma f r d a b => .word (wordR 0x0A d a b (subFloat f r.code 5))
  | .fmin f d a b => .word (wordR 0x0A d a b (subFloat f 0 6))
  | .fmax f d a b => .word (wordR 0x0A d a b (subFloat f 0 7))
  | .fcmp f d a b => .word (wordR 0x0A d a b (subFloat f 0 8))
  | .fcvti f r d a => .word (wordR 0x0A d a 0 (subFloat f r.code 9))
  | .fcvtf f r d a => .word (wordR 0x0A d a 0 (subFloat f r.code 10))
  | .fcvtw f r d a => .word (wordR 0x0A d a 0 (subFloat f r.code 11))
  | .beq a b o => .word (wordI13 0xb a b o)
  | .bne a b o => .word (wordI13 0xc a b o)
  | .blt a b o => .word (wordI13 0xd a b o)
  | .bge a b o => .word (wordI13 0xe a b o)
  | .bltn a b o => .word (wordI13 0xf a b o)
  | .bgen a b o => .word (wordI13 0x10 a b o)
  | .jal d o => .word (wordI18 0x11 d o)
  | .jalr d a imm => .word (wordI13 0x12 d a imm)
  | .ld d a w o => .word (wordM 0x13 d a w.code o)
  | .st d a w o => .word (wordM 0x14 d a w.code o)
  | .ldaq d a w sc => .word (wordR 0x15 d a 0 (subAcc w.code sc))
  | .strl a b w sc => .word (wordR 0x16 0 a b (subAcc w.code sc))
  | .fence sc k => .word (wordR 0x17 0 0 0 (subFence sc k))
  | .sflag a b w sc => .word (wordR 0x18 0 a b (subAcc w.code sc))
  | .aadd z t d a b => .word (wordR 0x19 d a b (subAtomic 0 z.code t))
  | .aand z t d a b => .word (wordR 0x19 d a b (subAtomic 1 z.code t))
  | .aor z t d a b => .word (wordR 0x19 d a b (subAtomic 2 z.code t))
  | .axor z t d a b => .word (wordR 0x19 d a b (subAtomic 3 z.code t))
  | .amin z t d a b => .word (wordR 0x19 d a b (subAtomic 4 z.code t))
  | .amax z t d a b => .word (wordR 0x19 d a b (subAtomic 5 z.code t))
  | .aswap z t d a b => .word (wordR 0x19 d a b (subAtomic 6 z.code t))
  | .afaddF32 t d a b => .word (wordR 0x19 d a b (subAtomic 7 0 t))
  | .afaddBf16 t d a b => .word (wordR 0x19 d a b (subAtomic 8 0 t))
  | .cas z t d a b => .word (wordR 0x1A d a b (subAtomic 0 z.code t))
  | .send d a => .word (wordR 0x1b d a 0 0x0)
  | .cset d a b => .word (wordR 0x1b d a b 0x1)
  | .cget d a => .word (wordR 0x1b d a 0 0x2)
  | .cbind d a b => .word (wordR 0x1b d a b 0x3)
  | .cwait d a b => .word (wordR 0x1b d a b 0x4)
  | .mbwait d b => .word (wordR 0x1b d 0 b 0x5)
  | .mbpop d b => .word (wordR 0x1b d 0 b 0x6)
  | .mbpeek d b => .word (wordR 0x1b d 0 b 0x7)
  | .qdef d a => .word (wordR 0x1C d a 0 (subQueue false 0))
  | .qpush rel d a b => .word (wordR 0x1C d a b (subQueue rel 1))
  | .qpop d a b => .word (wordR 0x1C d a b (subQueue false 2))
  | .qpeek d a b => .word (wordR 0x1C d a b (subQueue false 3))
  | .qstat d a => .word (wordR 0x1C d a 0 (subQueue false 4))
  | .qbind d a => .word (wordR 0x1C d a 0 (subQueue false 5))
  | .qmark d a => .word (wordR 0x1C d a 0 (subQueue false 6))
  | .tlook d a => .word (wordR 0x1d d a 0 0x0)
  | .tins d a b => .word (wordR 0x1d d a b 0x1)
  | .tinv d a => .word (wordR 0x1d d a 0 0x2)
  | .tdef d a => .word (wordR 0x1d d a 0 0x3)
  | .tstat d a b => .word (wordR 0x1d d a b 0x4)
  | .twait d a => .word (wordR 0x1d d a 0 0x5)
  | .agset d a => .word (wordR 0x1d d a 0 0x6)
  | .agparm d a b => .word (wordR 0x1d d a b 0x7)
  | .sopen d => .word (wordR 0x1d d 0 0 0x8)
  | .sclose d a => .word (wordR 0x1d d a 0 0x9)
  | .sstat d a => .word (wordR 0x1d d a 0 0xa)
  | .mload d a b => .word (wordR 0x1e d a b 0x0)
  | .mrun d a b => .word (wordR 0x1e d a b 0x1)
  | .mdrain d a b => .word (wordR 0x1e d a b 0x2)
  | .mstat d a => .word (wordR 0x1e d a 0 0x3)
  | .rarm d a b => .word (wordR 0x1f d a b 0x0)
  | .rdisarm d a => .word (wordR 0x1f d a 0 0x1)
  | .cancelBlock d a b => .word (wordR 0x1f d a b 0x2)
  | .cancelCommand d a b => .word (wordR 0x1f d a b 0x2)
  | .cancelHungRegion d a b => .word (wordR 0x1f d a b 0x2)
  | .rprio d a b => .word (wordR 0x1f d a b 0x3)
  | .thprio d a => .word (wordR 0x1f d a 0 0x5)
  | .bar d a => .word (wordR 0x20 d a 0 0x0)
  | .barsnap d a => .word (wordR 0x20 d a 0 0x1)
  | .reduce d a b => .word (wordR 0x20 d a b 0x2)
  | .done_ d a => .word (wordR 0x20 d a 0 0x3)
  | .trap a => .word (wordR 0x21 0 a 0 0x1)
  | .ctxswOut d a b => .word (wordR 0x21 d a b 0x3)
  | .ctxswIn d a b => .word (wordR 0x21 d a b 0x3)
  | .ctxswKill d a b => .word (wordR 0x21 d a b 0x3)
  | .frzsave d a b => .word (wordR 0x21 d a b 0x4)
  | .drnsave d a b => .word (wordR 0x21 d a b 0x5)
  | .restore d a b => .word (wordR 0x21 d a b 0x6)
  | .rdstate d a => .word (wordR 0x21 d a 0 0x7)
  | .tlbinv d a b => .word (wordR 0x21 d a b 0x8)
  | .capmintInstall d a b => .word (wordR 0x21 d a b 0x9)
  | .capmintAdvance d a b => .word (wordR 0x21 d a b 0x9)
  | .hdecl d a b => .word (wordR 0x21 d a b 0xa)
  | .hopen d a b => .word (wordR 0x21 d a b 0xb)
  | .hclose d a => .word (wordR 0x21 d a 0 0xc)
  | .platerdHeader d a b => .word (wordR 0x21 d a b 0xd)
  | .platerdEntry d a b => .word (wordR 0x21 d a b 0xd)
  | .hclear d a => .word (wordR 0x21 d a 0 0xe)
  | .getk d n => .word (wordI13 0x22 d 0 n)
  | .putk a n => .word (wordI13 0x23 0 a n)
  | .putkEcomph a => .word (wordI13 0x23 0 a 0x52)
  | .putkDom a => .word (wordI13 0x23 0 a 0x30)
  | .putkLnack a => .word (wordI13 0x23 0 a 0x60)
  | .lld d a o => .word (wordM 0x24 d a 0 o)
  | .lst d a o => .word (wordM 0x25 d a 0 o)
  | .addCompact d a b => .parcel (0#4 ++ d ++ a ++ b)
  | .subCompact d a b => .parcel (1#4 ++ d ++ a ++ b)
  | .andCompact d a b => .parcel (2#4 ++ d ++ a ++ b)
  | .orCompact d a b => .parcel (3#4 ++ d ++ a ++ b)
  | .xorCompact d a b => .parcel (4#4 ++ d ++ a ++ b)
  | .addiCompact d a i => .parcel (5#4 ++ d ++ a ++ i)
  | .slliCompact d a i => .parcel (6#4 ++ d ++ a ++ i)
  | .srliCompact d a i => .parcel (7#4 ++ d ++ a ++ i)
  | .liCompact d i => .parcel (8#4 ++ d ++ i)
  | .ld64Compact d a i => .parcel (9#4 ++ d ++ a ++ i)
  | .st64Compact d a i => .parcel (10#4 ++ d ++ a ++ i)
  | .beqCompact a o => .parcel (11#4 ++ a ++ o)
  | .bneCompact a o => .parcel (12#4 ++ a ++ o)
  | .nodeFadd at_ w => .block 0x0 at_ w
  | .nodeFsub at_ w => .block 0x1 at_ w
  | .nodeFmul at_ w => .block 0x2 at_ w
  | .nodeFma at_ w => .block 0x3 at_ w
  | .nodeFmin at_ w => .block 0x4 at_ w
  | .nodeFmax at_ w => .block 0x5 at_ w
  | .nodeFabs at_ w => .block 0x6 at_ w
  | .nodeFneg at_ w => .block 0x7 at_ w
  | .nodeFcmp at_ w => .block 0x8 at_ w
  | .nodeFrcp at_ w => .block 0x9 at_ w
  | .nodeFrsq at_ w => .block 0xa at_ w
  | .nodeFsqrt at_ w => .block 0xb at_ w
  | .nodeFexp2 at_ w => .block 0xc at_ w
  | .nodeFlog2 at_ w => .block 0xd at_ w
  | .nodeFsin at_ w => .block 0xe at_ w
  | .nodeFcos at_ w => .block 0xf at_ w
  | .nodeFtanh at_ w => .block 0x10 at_ w
  | .nodeIadd at_ w => .block 0x20 at_ w
  | .nodeIsub at_ w => .block 0x21 at_ w
  | .nodeImul at_ w => .block 0x22 at_ w
  | .nodeImulh at_ w => .block 0x23 at_ w
  | .nodeImin at_ w => .block 0x24 at_ w
  | .nodeImax at_ w => .block 0x25 at_ w
  | .nodeIabs at_ w => .block 0x26 at_ w
  | .nodeIcmp at_ w => .block 0x27 at_ w
  | .nodeAnd at_ w => .block 0x28 at_ w
  | .nodeOr at_ w => .block 0x29 at_ w
  | .nodeXor at_ w => .block 0x2a at_ w
  | .nodeNot at_ w => .block 0x2b at_ w
  | .nodeShl at_ w => .block 0x2c at_ w
  | .nodeShr at_ w => .block 0x2d at_ w
  | .nodeShra at_ w => .block 0x2e at_ w
  | .nodeClz at_ w => .block 0x2f at_ w
  | .nodePopc at_ w => .block 0x30 at_ w
  | .nodeCvt at_ w => .block 0x40 at_ w
  | .nodeQuant at_ w => .block 0x41 at_ w
  | .nodeQuantMx at_ w => .block 0x41 at_ w
  | .nodeDequant at_ w => .block 0x42 at_ w
  | .nodeDequantMx at_ w => .block 0x42 at_ w
  | .nodeShuf at_ w => .block 0x48 at_ w
  | .nodeBcast at_ w => .block 0x49 at_ w
  | .nodeRed at_ w => .block 0x4a at_ w
  | .nodeScan at_ w => .block 0x4b at_ w
  | .nodePack at_ w => .block 0x4c at_ w
  | .nodeUnpack at_ w => .block 0x4d at_ w
  | .nodeLoad at_ w => .block 0x60 at_ w
  | .nodeStore at_ w => .block 0x61 at_ w
  | .nodeTload at_ w => .block 0x62 at_ w
  | .nodeTstore at_ w => .block 0x63 at_ w
  | .nodeQin at_ w => .block 0x64 at_ w
  | .nodeQout at_ w => .block 0x65 at_ w
  | .nodeSin at_ w => .block 0x66 at_ w
  | .nodeSout at_ w => .block 0x67 at_ w
  | .nodeRead at_ w => .block 0x70 at_ w
  | .nodeWrite at_ w => .block 0x71 at_ w
  | .nodeBr at_ w => .block 0x72 at_ w
  | .nodeNull at_ w => .block 0x73 at_ w
  | .nodeConst at_ w => .block 0x74 at_ w
  | .nodeCtr at_ w => .block 0x75 at_ w
  | .nodeFan at_ w => .block 0x76 at_ w
  | .nodeMerge at_ w => .block 0x77 at_ w
  | .nodeWload at_ w => .block 0x80 at_ w
  | .nodeMacc at_ w => .block 0x81 at_ w
  | .nodeAccdrain at_ w => .block 0x82 at_ w
  | .snodePass at_ w => .node 0x0 at_ w
  | .snodeSplit at_ w => .node 0x1 at_ w
  | .snodeMerge at_ w => .node 0x2 at_ w
  | .snodeScale at_ w => .node 0x8 at_ w
  | .snodeAdd at_ w => .node 0x9 at_ w
  | .snodeMul at_ w => .node 0xa at_ w
  | .snodeFma at_ w => .node 0xb at_ w
  | .snodeClamp at_ w => .node 0xc at_ w
  | .snodeCmpsel at_ w => .node 0xd at_ w
  | .snodeCvt at_ w => .node 0x10 at_ w
  | .snodeQmx at_ w => .node 0x11 at_ w
  | .snodeDqmx at_ w => .node 0x12 at_ w
  | .snodePackb at_ w => .node 0x14 at_ w
  | .snodeUnpackb at_ w => .node 0x15 at_ w
  | .snodeDelta at_ w => .node 0x16 at_ w
  | .snodeUndelta at_ w => .node 0x17 at_ w
  | .snodeBfpc at_ w => .node 0x18 at_ w
  | .snodeBfpd at_ w => .node 0x19 at_ w
  | .snodeExpand24 at_ w => .node 0x1c at_ w
  | .snodeExpandbm at_ w => .node 0x1d at_ w
  | .snodeCompact at_ w => .node 0x1e at_ w
  | .snodePerm at_ w => .node 0x20 at_ w
  | .snodeLut at_ w => .node 0x21 at_ w
  | .snodeSum at_ w => .node 0x28 at_ w
  | .snodeMinmax at_ w => .node 0x29 at_ w
  | .snodeHist at_ w => .node 0x2a at_ w
  | .snodeCount at_ w => .node 0x2b at_ w
  | .snodeCrc32c at_ w => .node 0x30 at_ w
  | .snodeUndo at_ w => .node 0x38 at_ w
  | .platerdBody d a b => .word (wordR 0x21 d a b 0xd)
  | .platerdRecords d a b => .word (wordR 0x21 d a b 0xd)
  | .yield => .word (wordR 0x1f 0 0 0 0x4)
  | .halt => .word (wordR 0x21 0 0 0 0x0)
  | .tret => .word (wordR 0x21 0 0 0 0x2)
  | .haltCompact => .parcel 0xD000
  | .yieldCompact => .parcel 0xD001
  | .sfuResult => .event
  | .atomicAnswer => .event
  | .messageArrive => .event
  | .mailboxWriteRetry => .event
  | .windowCreditReturn => .event
  | .regionQuiesceStop => .event
  | .quiesceResume => .event
  | .streamEnd => .event
  | .matrixCommandArrival => .event
  | .commandRetry => .event
  | .rollback => .event
  | .ctxswSfuWaitExpiry => .event
  | .drainSaveTimeout => .event
  | .platerdBodyComplete => .event
  | .issueSlot => .event
  | .dispatchDecision => .event
  | .iterationStart => .event
  | .tokenHop => .event
  | .invocationCommit => .event
  | .invocationDiscard => .event
  | .blinkVerdict => .event
  | .hangDetect => .event
  | .dramRequestSelect => .event
  | .slotTableWrite => .event
  | .mclsWrite => .event
  | .pkgidWrite => .event
  | .fresumeWalk => .event
  | .fresumeRefuse => .event
  | .faultRootAccept => .event
  | .laneTailWrite => .event
  | .poisonDetect => .event
  | .microcodeStart => .event
  | .microcodeVerifyDone => .event
  | .engineCopy => .event
  | .engineMulticastCopy => .event
  | .memberAnswerTimeout => .event
  | .allReduce => .event
  | .reduceScatter => .event
  | .allGather => .event
  | .broadcast => .event
  | .allToAll => .event
  | .collectiveTimeout => .event
  | .stagingRetry => .event
  | .inboundAccess => .event
  | .refusalReturn => .event
  | .peerEntryValidate => .event
  | .peerRevoke => .event
  | .peerEntryFree => .event
  | .groupEntryCommit => .event
  | .busWindowCommit => .event
  | .linkPortFailure => .event
  | .packageUnreachable => .event
  | .packageReachable => .event
  | .pcieInboundRequest => .event
  | .hostBar0Access => .event
  | .outboundStore => .event
  | .outboundLoad => .event
  | .outboundCompletion => .event
  | .imageActivation => .event
  | .domeCloseTrigger => .event
  | .domeHandlerStart => .event
  | .allowanceExpiry => .event
  | .domeCopy => .event
  | .domeDirectoryWrite => .event
  | .powerReturn => .event
  | .powerOnReset => .event
  | .hostImageReady => .event
  | .plateCheckDone => .event
  | .accWrite => .event
  | .logExtend => .event
  | .attestStart => .event
  | .attestDone => .event
  | .pwrcapWrite => .event
  | .blinkivWrite => .event
  | .refresh => .event
  | .retrainBurst => .event
  | .temperatureBandChange => .event
  | .htrainWrite => .event
  | .spareEvent => .event
  | .pchRetireStart => .event
  | .pchRetireSwitch => .event
  | .stfenceWrite => .event
  | .calibrationStart => .event
  | .calibrationDone => .event
  | .waitTimeout => .event
  | .registerWrite => .event
  | .contextRetirement => .event
  | .retireBufferRetry => .event
  | .loadAnswer => .event

/-! ### Decoding the words of each major opcode (R65, R66) -/

/-- Accepts when a condition on unused bits holds. -/
def need (c : Bool) (e : DecodeErr) (i : Instr) : Except DecodeErr Instr := if c then .ok i else .error e

/-- Accepts a decoded field, or names the sub-op unassigned. -/
def field (o : Option α) (k : α → Except DecodeErr Instr) : Except DecodeErr Instr :=
  match o with
  | some x => k x
  | none => .error .unassignedSubop

/-- Major 0x00 (R160). -/
def decInt (w : BitVec 32) : Except DecodeErr Instr :=
  match (fSub w).toNat with
  | 0 => .ok (.add (fD w) (fA w) (fB w))
  | 1 => .ok (.sub (fD w) (fA w) (fB w))
  | 2 => .ok (.mul (fD w) (fA w) (fB w))
  | 3 => .ok (.mulh (fD w) (fA w) (fB w))
  | 4 => .ok (.mulhn (fD w) (fA w) (fB w))
  | 5 => .ok (.div (fD w) (fA w) (fB w))
  | 6 => .ok (.divn (fD w) (fA w) (fB w))
  | 7 => .ok (.and_ (fD w) (fA w) (fB w))
  | 8 => .ok (.or_ (fD w) (fA w) (fB w))
  | 9 => .ok (.xor_ (fD w) (fA w) (fB w))
  | 10 => .ok (.andn (fD w) (fA w) (fB w))
  | 11 => .ok (.sll (fD w) (fA w) (fB w))
  | 12 => .ok (.srl (fD w) (fA w) (fB w))
  | 13 => .ok (.sra (fD w) (fA w) (fB w))
  | 14 => .ok (.slt (fD w) (fA w) (fB w))
  | 15 => .ok (.sltn (fD w) (fA w) (fB w))
  | 16 => .ok (.min_ (fD w) (fA w) (fB w))
  | 17 => .ok (.max_ (fD w) (fA w) (fB w))
  | 18 => need (fB w == 0) .reservedBits (.clz (fD w) (fA w))
  | 19 => need (fB w == 0) .reservedBits (.popc (fD w) (fA w))
  | _ => .error .unassignedSubop

/-- Major 0x09 (R163). -/
def decPacked (w : BitVec 32) : Except DecodeErr Instr :=
  if w.extractLsb' 0 2 != 0#2 then .error .reservedBits else
  field (PLane.ofCode (w.extractLsb' 6 2)) fun l =>
  match (w.extractLsb' 2 4).toNat with
  | 0 => .ok (.padd l (fD w) (fA w) (fB w))
  | 1 => .ok (.psub l (fD w) (fA w) (fB w))
  | 2 => .ok (.padds l (fD w) (fA w) (fB w))
  | 3 => .ok (.paddsn l (fD w) (fA w) (fB w))
  | 4 => .ok (.psubs l (fD w) (fA w) (fB w))
  | 5 => .ok (.psubsn l (fD w) (fA w) (fB w))
  | 6 => .ok (.pmul l (fD w) (fA w) (fB w))
  | 7 => .ok (.pmin l (fD w) (fA w) (fB w))
  | 8 => .ok (.pmax l (fD w) (fA w) (fB w))
  | _ => .error .unassignedSubop

/-- Major 0x0A (R168). -/
def decFloat (w : BitVec 32) : Except DecodeErr Instr :=
  let f := FFmt.ofCode (w.extractLsb' 7 1)
  field (SRnd.ofCode (w.extractLsb' 4 3)) fun r =>
  match (w.extractLsb' 0 4).toNat with
  | 0 => .ok (.fadd f r (fD w) (fA w) (fB w))
  | 1 => .ok (.fsub f r (fD w) (fA w) (fB w))
  | 2 => .ok (.fmul f r (fD w) (fA w) (fB w))
  | 3 => .ok (.fdiv f r (fD w) (fA w) (fB w))
  | 4 => need (fB w == 0) .reservedBits (.fsqrt f r (fD w) (fA w))
  | 5 => .ok (.fma f r (fD w) (fA w) (fB w))
  | 6 => need (r == .rne) .unassignedSubop (.fmin f (fD w) (fA w) (fB w))
  | 7 => need (r == .rne) .unassignedSubop (.fmax f (fD w) (fA w) (fB w))
  | 8 => need (r == .rne) .unassignedSubop (.fcmp f (fD w) (fA w) (fB w))
  | 9 => need (fB w == 0) .reservedBits (.fcvti f r (fD w) (fA w))
  | 10 => need (fB w == 0) .reservedBits (.fcvtf f r (fD w) (fA w))
  | 11 => need (fB w == 0) .reservedBits (.fcvtw f r (fD w) (fA w))
  | _ => .error .unassignedSubop

/-- Majors 0x15, 0x16, 0x18 share the width and scope fields (R237, R239). -/
def decLdaq (w : BitVec 32) : Except DecodeErr Instr :=
  field (Scope.ofCode (w.extractLsb' 2 3)) fun sc =>
  need (w.extractLsb' 0 2 == 0#2 && fB w == 0) .reservedBits (.ldaq (fD w) (fA w) (LdW.ofCode (w.extractLsb' 5 3)) sc)
def decStrl (w : BitVec 32) : Except DecodeErr Instr :=
  field (Scope.ofCode (w.extractLsb' 2 3)) fun sc => field (StW.ofCode (w.extractLsb' 5 3)) fun wd =>
  need (w.extractLsb' 0 2 == 0#2 && fD w == 0) .reservedBits (.strl (fA w) (fB w) wd sc)
def decSflag (w : BitVec 32) : Except DecodeErr Instr :=
  field (Scope.ofCode (w.extractLsb' 2 3)) fun sc => field (FlagW.ofCode (w.extractLsb' 5 3)) fun wd =>
  need (w.extractLsb' 0 2 == 0#2 && fD w == 0) .reservedBits (.sflag (fA w) (fB w) wd sc)
/-- Major 0x17 (R238). -/
def decFence (w : BitVec 32) : Except DecodeErr Instr :=
  field (Scope.ofCode (w.extractLsb' 2 3)) fun sc => field (FenceKind.ofCode (w.extractLsb' 0 2)) fun k =>
  need (w.extractLsb' 5 3 == 0#3 && fD w == 0 && fA w == 0 && fB w == 0) .reservedBits (.fence sc k)
/-- Major 0x19 (R240). -/
def decAtomic (w : BitVec 32) : Except DecodeErr Instr :=
  if w.extractLsb' 0 2 != 0#2 then .error .reservedBits else
  let z := ASize.ofCode (w.extractLsb' 3 1)
  let t := w.extractLsb' 2 1 == 1#1
  match (w.extractLsb' 4 4).toNat with
  | 0 => .ok (.aadd z t (fD w) (fA w) (fB w))
  | 1 => .ok (.aand z t (fD w) (fA w) (fB w))
  | 2 => .ok (.aor z t (fD w) (fA w) (fB w))
  | 3 => .ok (.axor z t (fD w) (fA w) (fB w))
  | 4 => .ok (.amin z t (fD w) (fA w) (fB w))
  | 5 => .ok (.amax z t (fD w) (fA w) (fB w))
  | 6 => .ok (.aswap z t (fD w) (fA w) (fB w))
  | 7 => need (z == .s32) .unassignedSubop (.afaddF32 t (fD w) (fA w) (fB w))
  | 8 => need (z == .s32) .unassignedSubop (.afaddBf16 t (fD w) (fA w) (fB w))
  | _ => .error .unassignedSubop
/-- Major 0x1A (R241). -/
def decCas (w : BitVec 32) : Except DecodeErr Instr :=
  need (w.extractLsb' 0 2 == 0#2 && w.extractLsb' 4 4 == 0#4) .reservedBits
    (.cas (CSize.ofCode (w.extractLsb' 3 1)) (w.extractLsb' 2 1 == 1#1) (fD w) (fA w) (fB w))

/-- Major 0x1B (R277). -/
def decMsg (w : BitVec 32) : Except DecodeErr Instr :=
  match (fSub w).toNat with
  | 0 => need (fB w == 0) .reservedBits (.send (fD w) (fA w))
  | 1 => .ok (.cset (fD w) (fA w) (fB w))
  | 2 => need (fB w == 0) .reservedBits (.cget (fD w) (fA w))
  | 3 => .ok (.cbind (fD w) (fA w) (fB w))
  | 4 => .ok (.cwait (fD w) (fA w) (fB w))
  | 5 => need (fA w == 0) .reservedBits (.mbwait (fD w) (fB w))
  | 6 => need (fA w == 0) .reservedBits (.mbpop (fD w) (fB w))
  | 7 => need (fA w == 0) .reservedBits (.mbpeek (fD w) (fB w))
  | _ => .error .unassignedSubop

/-- Major 0x1C (R262); the release bit is accepted on QPUSH only. -/
def decQueue (w : BitVec 32) : Except DecodeErr Instr :=
  match (fSub w).toNat with
  | 0 => need (fB w == 0) .reservedBits (.qdef (fD w) (fA w))
  | 1 => .ok (.qpush false (fD w) (fA w) (fB w))
  | 2 => .ok (.qpop (fD w) (fA w) (fB w))
  | 3 => .ok (.qpeek (fD w) (fA w) (fB w))
  | 4 => need (fB w == 0) .reservedBits (.qstat (fD w) (fA w))
  | 5 => need (fB w == 0) .reservedBits (.qbind (fD w) (fA w))
  | 6 => need (fB w == 0) .reservedBits (.qmark (fD w) (fA w))
  | 33 => .ok (.qpush true (fD w) (fA w) (fB w))
  | _ => .error .unassignedSubop

/-- Major 0x1D. -/
def decTable (w : BitVec 32) : Except DecodeErr Instr :=
  match (fSub w).toNat with
  | 0 => need (fB w == 0) .reservedBits (.tlook (fD w) (fA w))
  | 1 => .ok (.tins (fD w) (fA w) (fB w))
  | 2 => need (fB w == 0) .reservedBits (.tinv (fD w) (fA w))
  | 3 => need (fB w == 0) .reservedBits (.tdef (fD w) (fA w))
  | 4 => .ok (.tstat (fD w) (fA w) (fB w))
  | 5 => need (fB w == 0) .reservedBits (.twait (fD w) (fA w))
  | 6 => need (fB w == 0) .reservedBits (.agset (fD w) (fA w))
  | 7 => .ok (.agparm (fD w) (fA w) (fB w))
  | 8 => need (fA w == 0 && fB w == 0) .reservedBits (.sopen (fD w))
  | 9 => need (fB w == 0) .reservedBits (.sclose (fD w) (fA w))
  | 10 => need (fB w == 0) .reservedBits (.sstat (fD w) (fA w))
  | _ => .error .unassignedSubop

/-- Major 0x1E (R142). -/
def decMatrix (w : BitVec 32) : Except DecodeErr Instr :=
  match (fSub w).toNat with
  | 0 => .ok (.mload (fD w) (fA w) (fB w))
  | 1 => .ok (.mrun (fD w) (fA w) (fB w))
  | 2 => .ok (.mdrain (fD w) (fA w) (fB w))
  | 3 => need (fB w == 0) .reservedBits (.mstat (fD w) (fA w))
  | _ => .error .unassignedSubop

/-- Major 0x1F (R330). CANCEL is one word; `refine` finds its kind. -/
def decSched (w : BitVec 32) : Except DecodeErr Instr :=
  match (fSub w).toNat with
  | 0 => .ok (.rarm (fD w) (fA w) (fB w))
  | 1 => need (fB w == 0) .reservedBits (.rdisarm (fD w) (fA w))
  | 2 => .ok (.cancelBlock (fD w) (fA w) (fB w))
  | 3 => .ok (.rprio (fD w) (fA w) (fB w))
  | 4 => need (fD w == 0 && fA w == 0 && fB w == 0) .reservedBits .yield
  | 5 => need (fB w == 0) .reservedBits (.thprio (fD w) (fA w))
  | _ => .error .unassignedSubop

/-- Major 0x20 (R289). -/
def decBar (w : BitVec 32) : Except DecodeErr Instr :=
  match (fSub w).toNat with
  | 0 => need (fB w == 0) .reservedBits (.bar (fD w) (fA w))
  | 1 => need (fB w == 0) .reservedBits (.barsnap (fD w) (fA w))
  | 2 => .ok (.reduce (fD w) (fA w) (fB w))
  | 3 => need (fB w == 0) .reservedBits (.done_ (fD w) (fA w))
  | _ => .error .unassignedSubop

/-- Major 0x21. CTXSW, CAPMINT and PLATERD are one word each; `refine` finds the row. -/
def decSys (w : BitVec 32) : Except DecodeErr Instr :=
  match (fSub w).toNat with
  | 0 => need (fD w == 0 && fA w == 0 && fB w == 0) .reservedBits .halt
  | 1 => need (fD w == 0 && fB w == 0) .reservedBits (.trap (fA w))
  | 2 => need (fD w == 0 && fA w == 0 && fB w == 0) .reservedBits .tret
  | 3 => .ok (.ctxswOut (fD w) (fA w) (fB w))
  | 4 => .ok (.frzsave (fD w) (fA w) (fB w))
  | 5 => .ok (.drnsave (fD w) (fA w) (fB w))
  | 6 => .ok (.restore (fD w) (fA w) (fB w))
  | 7 => need (fB w == 0) .reservedBits (.rdstate (fD w) (fA w))
  | 8 => .ok (.tlbinv (fD w) (fA w) (fB w))
  | 9 => .ok (.capmintInstall (fD w) (fA w) (fB w))
  | 10 => .ok (.hdecl (fD w) (fA w) (fB w))
  | 11 => .ok (.hopen (fD w) (fA w) (fB w))
  | 12 => need (fB w == 0) .reservedBits (.hclose (fD w) (fA w))
  | 13 => .ok (.platerdHeader (fD w) (fA w) (fB w))
  | 14 => need (fB w == 0) .reservedBits (.hclear (fD w) (fA w))
  | _ => .error .unassignedSubop

/-- A PUTK word: three control registers have rows of their own in the table (R287, R295, R372). -/
def decPutk (w : BitVec 32) : Except DecodeErr Instr :=
  need (fD w == 0) .reservedBits <|
    if fImm13 w == 0x30 then .putkDom (fA w) else if fImm13 w == 0x52 then .putkEcomph (fA w)
    else if fImm13 w == 0x60 then .putkLnack (fA w) else .putk (fA w) (fImm13 w)

/-- A 32-bit word whose bits [31:29] are 0b111 (R63, R65). -/
def decodeWord (w : BitVec 32) : Except DecodeErr Instr :=
  match (fMajor w).toNat with
  | 0x00 => decInt w
  | 0x01 => .ok (.addi (fD w) (fA w) (fImm13 w))
  | 0x02 => .ok (.andi (fD w) (fA w) (fImm13 w))
  | 0x03 => need (w.extractLsb' 6 7 == 0#7) .reservedBits (.slli (fD w) (fA w) (w.extractLsb' 0 6))
  | 0x04 => need (w.extractLsb' 6 7 == 0#7) .reservedBits (.srli (fD w) (fA w) (w.extractLsb' 0 6))
  | 0x05 => need (w.extractLsb' 6 7 == 0#7) .reservedBits (.srai (fD w) (fA w) (w.extractLsb' 0 6))
  | 0x06 => .ok (.li (fD w) (fImm18 w))
  | 0x07 => .ok (.lic (fD w) (fImm18 w))
  | 0x08 => .ok (.addpc (fD w) (fImm18 w))
  | 0x09 => decPacked w
  | 0x0A => decFloat w
  | 0x0B => .ok (.beq (fD w) (fA w) (fImm13 w))
  | 0x0C => .ok (.bne (fD w) (fA w) (fImm13 w))
  | 0x0D => .ok (.blt (fD w) (fA w) (fImm13 w))
  | 0x0E => .ok (.bge (fD w) (fA w) (fImm13 w))
  | 0x0F => .ok (.bltn (fD w) (fA w) (fImm13 w))
  | 0x10 => .ok (.bgen (fD w) (fA w) (fImm13 w))
  | 0x11 => .ok (.jal (fD w) (fImm18 w))
  | 0x12 => .ok (.jalr (fD w) (fA w) (fImm13 w))
  | 0x13 => .ok (.ld (fD w) (fA w) (LdW.ofCode (fWidth w)) (fOff10 w))
  | 0x14 => field (StW.ofCode (fWidth w)) fun wd => .ok (.st (fD w) (fA w) wd (fOff10 w))
  | 0x15 => decLdaq w
  | 0x16 => decStrl w
  | 0x17 => decFence w
  | 0x18 => decSflag w
  | 0x19 => decAtomic w
  | 0x1A => decCas w
  | 0x1B => decMsg w
  | 0x1C => decQueue w
  | 0x1D => decTable w
  | 0x1E => decMatrix w
  | 0x1F => decSched w
  | 0x20 => decBar w
  | 0x21 => decSys w
  | 0x22 => need (fA w == 0) .reservedBits (.getk (fD w) (fImm13 w))
  | 0x23 => decPutk w
  | 0x24 => need (fWidth w == 0) .reservedBits (.lld (fD w) (fA w) (fOff10 w))
  | 0x25 => need (fWidth w == 0) .reservedBits (.lst (fD w) (fA w) (fOff10 w))
  | _ => .error .unassignedMajor

/-- A compact parcel (R64). -/
def decodeCompact (p : BitVec 16) : Except DecodeErr Instr :=
  let d : CReg := p.extractLsb' 8 4
  let a : CReg := p.extractLsb' 4 4
  let b : BitVec 4 := p.extractLsb' 0 4
  let i8 : BitVec 8 := p.extractLsb' 0 8
  match (p.extractLsb' 12 4).toNat with
  | 0x0 => .ok (.addCompact d a b)
  | 0x1 => .ok (.subCompact d a b)
  | 0x2 => .ok (.andCompact d a b)
  | 0x3 => .ok (.orCompact d a b)
  | 0x4 => .ok (.xorCompact d a b)
  | 0x5 => .ok (.addiCompact d a b)
  | 0x6 => .ok (.slliCompact d a b)
  | 0x7 => .ok (.srliCompact d a b)
  | 0x8 => .ok (.liCompact d i8)
  | 0x9 => .ok (.ld64Compact d a b)
  | 0xA => .ok (.st64Compact d a b)
  | 0xB => .ok (.beqCompact d i8)
  | 0xC => .ok (.bneCompact d i8)
  | 0xD => match (p.extractLsb' 0 12).toNat with
    | 0 => .ok .haltCompact
    | 1 => .ok .yieldCompact
    | _ => .error .unassignedCompact
  | _ => .error .unassignedCompact

/-- A parcel that begins a 32-bit word (R62). -/
def isFirstParcel (p : BitVec 16) : Bool := p.extractLsb' 13 3 == 7#3

/-- Decodes from a list of parcels: the instruction and the parcels it takes (R62). -/
def decodeParcels : List (BitVec 16) → Except DecodeErr (Instr × Nat)
  | [] => .error .truncated
  | p :: rest =>
    if isFirstParcel p then
      match rest with
      | [] => .error .truncated
      | q :: _ => (decodeWord (p ++ q)).map fun i => (i, 2)
    else (decodeCompact p).map fun i => (i, 1)

/-- Parcels from bytes, little-endian (R62). -/
def parcelsOfBytes : List Byte → List (BitVec 16)
  | lo :: hi :: rest => (hi ++ lo) :: parcelsOfBytes rest
  | _ => []

/-- Decodes the first instruction of a byte list: the instruction and the remaining bytes. -/
def decodeBytes (bs : List Byte) : Except DecodeErr (Instr × List Byte) :=
  (decodeParcels (parcelsOfBytes bs)).map fun r => (r.1, bs.drop (2 * r.2))

/-- The bytes of a parcel. -/
def bytesOfParcel (p : BitVec 16) : List Byte := [p.extractLsb' 0 8, p.extractLsb' 8 8]

/-- The bytes of a word as stored: first parcel first (R62). -/
def bytesOfWord (w : BitVec 32) : List Byte := bytesOfParcel (w.extractLsb' 16 16) ++ bytesOfParcel (w.extractLsb' 0 16)

/-- `n` bytes of a number, little-endian (R9). -/
def leBytes (n v : Nat) : List Byte := (List.range n).map fun i => BitVec.ofNat 8 (v >>> (8 * i))

/-- The number that bytes hold, little-endian (R9). -/
def leNat : List Byte → Nat
  | [] => 0
  | b :: rest => b.toNat + 256 * leNat rest

/-- Parcels that an instruction takes: 1 for a compact form, 2 for a word, 0 for an operation without parcels. -/
def Instr.parcels (i : Instr) : Nat :=
  match i.enc with
  | .word _ => 2
  | .parcel _ => 1
  | _ => 0

/-- The instruction word zero-extended, as a trap reports it (R387). -/
def Instr.wordVal (i : Instr) : Word :=
  match i.enc with
  | .word w => w.setWidth 64
  | .parcel p => p.setWidth 64
  | _ => 0

/-- The rows that share one word: the register operand selects the row (R332, R364, R401, R430).
`ga` and `gb` are the values of the operand registers. Rows of one word do what the operand says whichever of them the
decoder names, so PLATERD's operations 2 and 3 stay under its first row. -/
def refine (ga gb : Word) : Instr → Instr
  | .cancelBlock d a b =>
    match (gb.extractLsb' 0 2).toNat with
    | 1 => .cancelCommand d a b
    | 2 => .cancelHungRegion d a b
    | _ => .cancelBlock d a b
  | .ctxswOut d a b =>
    match (ga.extractLsb' 12 2).toNat with
    | 1 => .ctxswIn d a b
    | 2 => .ctxswKill d a b
    | _ => .ctxswOut d a b
  | .capmintInstall d a b => if ga.extractLsb' 31 1 == 1#1 then .capmintAdvance d a b else .capmintInstall d a b
  | .platerdHeader d a b =>
    match (ga.extractLsb' 0 2).toNat with
    | 1 => .platerdEntry d a b
    | _ => .platerdHeader d a b
  | i => i

/-! ### Block words (R69-R72) -/

/-- The code of a type (R70): width in bits. -/
def tyWidth (t : BitVec 4) : Nat :=
  match t.toNat with
  | 0x0 => 32 | 0x1 => 32 | 0x2 => 16 | 0x3 => 16 | 0x4 => 8 | 0x5 => 8 | 0x6 => 6 | 0x7 => 6
  | 0x8 => 4 | 0x9 => 4 | 0xA => 8 | 0xB => 16 | 0xC => 32 | 0xD => 8 | 0xE => 16 | _ => 32

/-- A 64-bit block word from its fields (R69). -/
def blockBits (op : BitVec 8) (w : BlockWord) : BitVec 64 := op ++ w.ty ++ w.pred ++ w.repl ++ w.t1 ++ w.t2 ++ w.imm

/-- The fields of a block word. -/
def blockFields (v : BitVec 64) : BlockWord where
  ty := v.extractLsb' 52 4
  pred := v.extractLsb' 50 2
  repl := v.extractLsb' 44 6
  t1 := v.extractLsb' 35 9
  t2 := v.extractLsb' 26 9
  imm := v.extractLsb' 0 26

/-- Immediate fields (R71). -/
def BlockWord.rnd (w : BlockWord) : BitVec 3 := w.imm.extractLsb' 23 3
def BlockWord.mx (w : BlockWord) : Bool := w.imm.extractLsb' 22 1 == 1#1
def BlockWord.src (w : BlockWord) : BitVec 4 := w.imm.extractLsb' 0 4
def BlockWord.sat (w : BlockWord) : Bool := w.imm.extractLsb' 25 1 == 1#1
def BlockWord.cond (w : BlockWord) : BitVec 3 := w.imm.extractLsb' 0 3
def BlockWord.lsid (w : BlockWord) : Nat := (w.imm.extractLsb' 21 5).toNat
def BlockWord.pred_lsid (w : BlockWord) : Nat := (w.imm.extractLsb' 16 5).toNat
def BlockWord.useAg (w : BlockWord) : Bool := w.imm.extractLsb' 15 1 == 1#1
def BlockWord.ag (w : BlockWord) : Nat := (w.imm.extractLsb' 12 3).toNat
def BlockWord.tile (w : BlockWord) : Nat := (w.imm.extractLsb' 0 9).toNat
def BlockWord.queue (w : BlockWord) : Nat := (w.imm.extractLsb' 0 16).toNat
def BlockWord.slot (w : BlockWord) : Nat := (w.imm.extractLsb' 0 3).toNat
def BlockWord.frame (w : BlockWord) : Nat := (w.imm.extractLsb' 0 5).toNat
def BlockWord.low4 (w : BlockWord) : Nat := (w.imm.extractLsb' 0 4).toNat
/-- Copies of the node (R69). -/
def BlockWord.copies (w : BlockWord) : Nat := w.repl.toNat + 1

/-- A target's slot and position, or none (R69): positions a = 0, b = 1, p = 2. -/
def targetOf (t : BitVec 9) : Option (Nat × Nat) :=
  if t == 0x1FF then none else some ((t.extractLsb' 2 7).toNat, (t.extractLsb' 0 2).toNat)

/-- The targets of a word, first then second. -/
def BlockWord.targets (w : BlockWord) : List (Nat × Nat) := (targetOf w.t1).toList ++ (targetOf w.t2).toList

/-- Types that an op accepts (R72, R121-R129). -/
def typesOf (op : Nat) : List Nat :=
  if op ≤ 0x08 then [1, 2, 3]
  else if op ≤ 0x10 then [1]
  else if op = 0x26 then [0xA, 0xB, 0xC]
  else if 0x20 ≤ op ∧ op ≤ 0x27 then [0xA, 0xB, 0xC, 0xD, 0xE, 0xF]
  else if 0x28 ≤ op ∧ op ≤ 0x30 then [0]
  else if op = 0x40 then List.range 16
  else if op = 0x41 then [4, 5, 6, 7, 8, 9, 0xA]
  else if op = 0x42 then [1, 2, 3]
  else if op = 0x4A ∨ op = 0x4B then [1, 0xC, 0xF]
  else if 0x48 ≤ op ∧ op ≤ 0x4D then [0]
  else if 0x60 ≤ op ∧ op ≤ 0x67 then List.range 16
  else if op = 0x74 then [0, 0xC, 1, 2, 3]
  else if 0x70 ≤ op ∧ op ≤ 0x77 then [0]
  else if op = 0x80 ∨ op = 0x81 then [8, 6, 7, 4, 5, 9, 0xA, 3, 2]
  else if op = 0x82 then [1]
  else []

/-- The E formats (R84). -/
def isEFormat (t : Nat) : Bool := t == 4 || t == 5 || t == 6 || t == 7 || t == 8

/-- The immediate field obeys R71 and the entry of the op. -/
def immOk (op : Nat) (w : BlockWord) : Bool :=
  let v := w.imm.toNat
  let r := w.rnd.toNat
  let ty := w.ty.toNat
  let src := w.src.toNat
  if op ≤ 0x03 ∨ (0x09 ≤ op ∧ op ≤ 0x10) then v % 2 ^ 23 == 0 && r ≤ 5
  else if op ≤ 0x07 then v == 0
  else if op = 0x08 then v < 8
  else if op = 0x27 then v < 6
  else if op ≤ 0x22 then v % 2 ^ 25 == 0
  else if op ≤ 0x30 then v == 0
  else if op = 0x40 then bitsOf v 21 4 == 0 && r ≤ 5 && (!(ty == 0 || src == 0) || r == 0)
  else if op = 0x41 then bitsOf v 21 4 == 0 && r ≤ 5 && (src == 1 || src == 2 || src == 3) && (!w.mx || isEFormat ty)
  else if op = 0x42 then bitsOf v 21 4 == 0 && r == 0 && (isEFormat src || (!w.mx && (src == 9 || src == 0xA)))
  else if op = 0x48 then v == 0
  else if op = 0x49 then v < 16
  else if op = 0x4A ∨ op = 0x4B then v < 6 && (ty != 1 || v < 3)
  else if op = 0x4C ∨ op = 0x4D then v < 16 && !(v == 0 || v == 1 || v == 0xC || v == 0xF)
  else if op = 0x60 ∨ op = 0x61 then bitsOf v 11 0 == 0 && (w.useAg || w.ag == 0)
  else if op = 0x62 ∨ op = 0x63 then bitsOf v 15 9 == 0
  else if op = 0x64 ∨ op = 0x65 then true
  else if op = 0x66 ∨ op = 0x67 then bitsOf v 15 3 == 0
  else if op = 0x70 ∨ op = 0x71 then v < 32
  else if op = 0x72 then v < 16
  else if op = 0x74 then !(ty == 2 || ty == 3) || v < 2 ^ 16
  else if op = 0x75 then v < 4
  else if op = 0x80 ∨ op = 0x82 then v < 512
  else v == 0

/-- A target field names a position that can be a target (R69). -/
def targetOk (t : BitVec 9) : Bool := t == 0x1FF || t.extractLsb' 0 2 != 3#2

/-- Store nodes (R72). -/
def isStoreOp (op : Nat) : Bool := op == 0x61 || op == 0x63 || op == 0x65 || op == 0x67

/-- A block word is assigned (R69-R72, R84, R106, R123, R129, R133). -/
def blockWordErr (op : Nat) (w : BlockWord) : Option DecodeErr :=
  if typesOf op = [] then some .unassignedOp
  else if !(typesOf op).contains w.ty.toNat then some .unassignedType
  else if w.pred == 3 || (op == 0x03 && w.pred != 0) then some .badPredicate
  else if !(targetOk w.t1 && targetOk w.t2) || (w.t1 == w.t2 && w.t1 != 0x1FF)
      || ((isStoreOp op || op == 0x71 || op == 0x72) && !(w.t1 == 0x1FF && w.t2 == 0x1FF)) then some .badTarget
  else if !immOk op w || (0x80 ≤ op && w.repl != 0) then some .badImmediate
  else none

/-- The node operation of an opcode; the mx bit selects the MX rows. -/
def mkNode (op : Nat) (at_ : FireAt) (w : BlockWord) : Option Instr :=
  match op with
  | 0x0 => some (.nodeFadd at_ w)
  | 0x1 => some (.nodeFsub at_ w)
  | 0x2 => some (.nodeFmul at_ w)
  | 0x3 => some (.nodeFma at_ w)
  | 0x4 => some (.nodeFmin at_ w)
  | 0x5 => some (.nodeFmax at_ w)
  | 0x6 => some (.nodeFabs at_ w)
  | 0x7 => some (.nodeFneg at_ w)
  | 0x8 => some (.nodeFcmp at_ w)
  | 0x9 => some (.nodeFrcp at_ w)
  | 0xa => some (.nodeFrsq at_ w)
  | 0xb => some (.nodeFsqrt at_ w)
  | 0xc => some (.nodeFexp2 at_ w)
  | 0xd => some (.nodeFlog2 at_ w)
  | 0xe => some (.nodeFsin at_ w)
  | 0xf => some (.nodeFcos at_ w)
  | 0x10 => some (.nodeFtanh at_ w)
  | 0x20 => some (.nodeIadd at_ w)
  | 0x21 => some (.nodeIsub at_ w)
  | 0x22 => some (.nodeImul at_ w)
  | 0x23 => some (.nodeImulh at_ w)
  | 0x24 => some (.nodeImin at_ w)
  | 0x25 => some (.nodeImax at_ w)
  | 0x26 => some (.nodeIabs at_ w)
  | 0x27 => some (.nodeIcmp at_ w)
  | 0x28 => some (.nodeAnd at_ w)
  | 0x29 => some (.nodeOr at_ w)
  | 0x2a => some (.nodeXor at_ w)
  | 0x2b => some (.nodeNot at_ w)
  | 0x2c => some (.nodeShl at_ w)
  | 0x2d => some (.nodeShr at_ w)
  | 0x2e => some (.nodeShra at_ w)
  | 0x2f => some (.nodeClz at_ w)
  | 0x30 => some (.nodePopc at_ w)
  | 0x40 => some (.nodeCvt at_ w)
  | 0x41 => some (if w.mx then .nodeQuantMx at_ w else .nodeQuant at_ w)
  | 0x42 => some (if w.mx then .nodeDequantMx at_ w else .nodeDequant at_ w)
  | 0x48 => some (.nodeShuf at_ w)
  | 0x49 => some (.nodeBcast at_ w)
  | 0x4a => some (.nodeRed at_ w)
  | 0x4b => some (.nodeScan at_ w)
  | 0x4c => some (.nodePack at_ w)
  | 0x4d => some (.nodeUnpack at_ w)
  | 0x60 => some (.nodeLoad at_ w)
  | 0x61 => some (.nodeStore at_ w)
  | 0x62 => some (.nodeTload at_ w)
  | 0x63 => some (.nodeTstore at_ w)
  | 0x64 => some (.nodeQin at_ w)
  | 0x65 => some (.nodeQout at_ w)
  | 0x66 => some (.nodeSin at_ w)
  | 0x67 => some (.nodeSout at_ w)
  | 0x70 => some (.nodeRead at_ w)
  | 0x71 => some (.nodeWrite at_ w)
  | 0x72 => some (.nodeBr at_ w)
  | 0x73 => some (.nodeNull at_ w)
  | 0x74 => some (.nodeConst at_ w)
  | 0x75 => some (.nodeCtr at_ w)
  | 0x76 => some (.nodeFan at_ w)
  | 0x77 => some (.nodeMerge at_ w)
  | 0x80 => some (.nodeWload at_ w)
  | 0x81 => some (.nodeMacc at_ w)
  | 0x82 => some (.nodeAccdrain at_ w)
  | _ => none

/-- Decodes a block word (R69-R72) for a given firing. -/
def decodeBlock (v : BitVec 64) (at_ : FireAt) : Except DecodeErr Instr :=
  let op := (v.extractLsb' 56 8).toNat
  let w := blockFields v
  match blockWordErr op w with
  | some e => .error e
  | none =>
    match mkNode op at_ w with
    | some i => .ok i
    | none => .error .unassignedOp

/-! ### Stream node words (R73-R75) -/

/-- A 64-bit node word from its fields (R73). -/
def nodeBits (op : BitVec 6) (w : NodeWord) : BitVec 64 := op ++ w.inA ++ w.inB ++ w.out ++ w.fmt ++ w.params

/-- The fields of a node word. -/
def nodeFields (v : BitVec 64) : NodeWord where
  inA := v.extractLsb' 54 4
  inB := v.extractLsb' 50 4
  out := v.extractLsb' 46 4
  fmt := v.extractLsb' 42 4
  params := v.extractLsb' 0 42

/-- Operators with two inputs (R189, R190): MERGE, ADD, MUL, FMA, CMPSEL; ADD, MUL and CMPSEL may take K in place of B. -/
def takesB (op : Nat) : Bool := op == 0x02 || op == 0x09 || op == 0x0A || op == 0x0B || op == 0x0D
def needsB (op : Nat) : Bool := op == 0x02 || op == 0x0B

/-- Reducing operators (R194). -/
def isReducing (op : Nat) : Bool := op == 0x28 || op == 0x29 || op == 0x2A || op == 0x2B || op == 0x30

/-- The routes of a word are allowed for its operator (R74, R178, R189). -/
def routesOk (op : Nat) (w : NodeWord) : Bool :=
  let a := w.inA.toNat
  let b := w.inB.toNat
  let o := w.out.toNat
  (1 ≤ a && a ≤ 5) && (if takesB op then b ≤ 5 && (b != 0 || !needsB op) else b == 0) &&
  (if isReducing op then o == 8 else if op == 0x38 then o == 7 else 2 ≤ o && o ≤ 6)

/-- Formats that an operator accepts (R189-R195). -/
def formatOk (op fmt : Nat) : Bool :=
  let w := tyWidth (BitVec.ofNat 4 fmt)
  let intF := 0xA ≤ fmt
  let fltF := fmt == 1 || fmt == 2 || fmt == 3
  if op ≤ 0x02 then true
  else if 0x08 ≤ op ∧ op ≤ 0x0D then intF || fltF
  else if op = 0x10 then w != 6
  else if op = 0x11 then isEFormat fmt
  else if op = 0x12 then fltF
  else if 0x14 ≤ op ∧ op ≤ 0x17 then intF
  else if op = 0x18 ∨ op = 0x19 then fltF
  else if op = 0x1C then fmt == 4 || fmt == 5 || fmt == 0xA || fmt == 0xD || fmt == 2 || fmt == 3 || fmt == 0xB || fmt == 0xE
  else if op = 0x1D ∨ op = 0x1E then w == 8 || w == 16 || w == 32
  else if op = 0x20 then fmt == 0
  else if op = 0x21 then w != 6
  else if 0x28 ≤ op ∧ op ≤ 0x2B then intF || fltF
  else if op = 0x30 ∨ op = 0x38 then fmt == 0
  else false

/-- K fits the format (R190). -/
def kOk (fmt k : Nat) : Bool := k < 2 ^ tyWidth (BitVec.ofNat 4 fmt)

/-- A BF16 pattern is a NaN. -/
def bf16NaN (p : Nat) : Bool := bitsOf p 14 7 == 255 && bitsOf p 6 0 != 0

/-- A BF16 pattern that is no NaN, as a number that orders like its value. -/
def bf16Key (p : Nat) : Int := if p < 2 ^ 15 then (p : Int) else -((p : Int) - 2 ^ 15)

/-- The parameters obey the operator's table (R189-R195, R178). -/
def paramsOk (op : Nat) (w : NodeWord) : Bool :=
  let p := w.params.toNat
  let fmt := w.fmt.toNat
  let intF := 0xA ≤ fmt
  let width := tyWidth w.fmt
  let k := bitsOf p 31 0
  let r := bitsOf p 34 32
  let c := bitsOf p 37 35
  let sat := bitsOf p 38 38
  let arith := kOk fmt k && c == 0 && bitsOf p 41 39 == 0 && (if intF then r == 0 else r ≤ 5 && sat == 0)
  let cmp := kOk fmt k && r == 0 && sat == 0 && bitsOf p 41 39 == 0 && (!intF || c ≤ 5)
  if op = 0x00 then p == 0
  else if op = 0x01 then 2 ≤ p && p ≤ 6 && p != w.out.toNat
  else if op = 0x02 then p < 2 ^ 16 && bitsOf p 7 0 != 0 && bitsOf p 15 8 != 0
  else if 0x08 ≤ op ∧ op ≤ 0x0B then arith
  else if op = 0x0C then
    let lo := bitsOf p 15 0
    let hi := bitsOf p 31 16
    p < 2 ^ 32 && (if intF then decide (signedOf lo 16 ≤ signedOf hi 16) && (fmt < 0xD || decide (0 ≤ signedOf lo 16))
      else !(bf16NaN lo || bf16NaN hi) && decide (bf16Key lo ≤ bf16Key hi))
  else if op = 0x0D then cmp
  else if op = 0x10 then
    p < 2 ^ 7 && tyWidth (BitVec.ofNat 4 (bitsOf p 3 0)) != 6 && bitsOf p 6 4 ≤ 5 && (!(fmt == 0 || bitsOf p 3 0 == 0) || bitsOf p 6 4 == 0)
  else if op = 0x11 then p < 2 ^ 7 && (let s := bitsOf p 3 0; s == 1 || s == 2 || s == 3) && bitsOf p 6 4 ≤ 5
  else if op = 0x12 then p < 2 ^ 4 && isEFormat p
  else if op = 0x14 ∨ op = 0x15 then 1 ≤ p && p ≤ 31 && p ≤ width
  else if op = 0x16 ∨ op = 0x17 then p < 2 ^ 16
  else if op = 0x18 then p < 2 ^ 8 && 1 ≤ bitsOf p 4 0 && bitsOf p 4 0 ≤ 23 && bitsOf p 7 5 ≤ 5
  else if op = 0x19 then 1 ≤ p && p ≤ 23
  else if op = 0x20 then p < 2 ^ 7 && bitsOf p 2 0 ≤ 4 && bitsOf p 2 0 + bitsOf p 6 3 ≤ 12
  else if op = 0x21 then p < 2 ^ 9
  else if op = 0x2A then (if intF then p < 2 ^ 21 else p < 2 ^ 8)
  else if op = 0x2B then cmp
  else p == 0

/-- The stream operation of an operator code (R75). -/
def mkSNode (op : Nat) (at_ : SFireAt) (w : NodeWord) : Option Instr :=
  match op with
  | 0x0 => some (.snodePass at_ w)
  | 0x1 => some (.snodeSplit at_ w)
  | 0x2 => some (.snodeMerge at_ w)
  | 0x8 => some (.snodeScale at_ w)
  | 0x9 => some (.snodeAdd at_ w)
  | 0xa => some (.snodeMul at_ w)
  | 0xb => some (.snodeFma at_ w)
  | 0xc => some (.snodeClamp at_ w)
  | 0xd => some (.snodeCmpsel at_ w)
  | 0x10 => some (.snodeCvt at_ w)
  | 0x11 => some (.snodeQmx at_ w)
  | 0x12 => some (.snodeDqmx at_ w)
  | 0x14 => some (.snodePackb at_ w)
  | 0x15 => some (.snodeUnpackb at_ w)
  | 0x16 => some (.snodeDelta at_ w)
  | 0x17 => some (.snodeUndelta at_ w)
  | 0x18 => some (.snodeBfpc at_ w)
  | 0x19 => some (.snodeBfpd at_ w)
  | 0x1c => some (.snodeExpand24 at_ w)
  | 0x1d => some (.snodeExpandbm at_ w)
  | 0x1e => some (.snodeCompact at_ w)
  | 0x20 => some (.snodePerm at_ w)
  | 0x21 => some (.snodeLut at_ w)
  | 0x28 => some (.snodeSum at_ w)
  | 0x29 => some (.snodeMinmax at_ w)
  | 0x2a => some (.snodeHist at_ w)
  | 0x2b => some (.snodeCount at_ w)
  | 0x30 => some (.snodeCrc32c at_ w)
  | 0x38 => some (.snodeUndo at_ w)
  | _ => none

/-- A node word's first error, if any. -/
def nodeWordErr (op : Nat) (w : NodeWord) : Option DecodeErr :=
  if !formatOk op w.fmt.toNat then some .badFormat
  else if !routesOk op w then some .badRoute
  else if !paramsOk op w then some .badParameter
  else none

/-- Decodes a stream node word (R73-R75) for a given node of an open stream. -/
def decodeNode (v : BitVec 64) (at_ : SFireAt) : Except DecodeErr Instr :=
  let op := (v.extractLsb' 58 6).toNat
  let w := nodeFields v
  match mkSNode op at_ w with
  | none => .error .unassignedOp
  | some i =>
    match nodeWordErr op w with
    | some e => .error e
    | none => .ok i

/-! ### The encoder -/

/-- The bytes of an encoded operation as stored; an event has none. -/
def encode (i : Instr) : List Byte :=
  match i.enc with
  | .word w => bytesOfWord w
  | .parcel p => bytesOfParcel p
  | .block op _ w => leBytes 8 (blockBits op w).toNat
  | .node op _ w => leBytes 8 (nodeBits op w).toNat
  | .event => []

/-- What the decoder reads from an instruction whose bits are `w`, numbered as the opcode table numbers them: a 16-bit
compact parcel, or a 32-bit word whose bits [31:16] are the first parcel (R62). -/
def decodeTableWord (nbits w : Nat) : Option Instr :=
  let bs := if nbits ≤ 16 then bytesOfParcel (BitVec.ofNat 16 w) else bytesOfWord (BitVec.ofNat 32 w)
  match decodeBytes bs with
  | .ok (i, _) => some i
  | .error _ => none

end Sys2Proof
end

