-- ==== Sys2Proof/Machine/Util.lean ====
section
/-! DEFINITION. Plain helpers of the machine: tables as lists of pairs, bytes and bits, the CRC-32C of R194. -/

namespace Sys2Proof

def Actor.isEngine : Actor → Bool
  | .engine _ _ => true
  | .thread _ _ _ => false

/-- The unit whose TLB, SFU and fault reports an actor uses (R164, R352). -/
def Actor.unit : Actor → UnitId
  | .thread st _ _ => .station st
  | .engine d e => .engine d e

/-- The station of a thread; for an engine, the first station of its die. -/
def Actor.station : Actor → Nat
  | .thread st _ _ => st
  | .engine d _ => 24 * d

def Actor.die : Actor → Nat
  | .thread st _ _ => st / 24
  | .engine d _ => d

end Sys2Proof

namespace Sys2Proof.Machine

/-- The value of a key in a table. -/
def lookup [DecidableEq κ] (t : List (κ × α)) (k : κ) : Option α :=
  match t with
  | [] => none
  | (k', v) :: r => if k' = k then some v else lookup r k

def lookupD [DecidableEq κ] (t : List (κ × α)) (k : κ) (d : α) : α := (lookup t k).getD d

/-- Sets the value of a key, keeping its place. -/
def assign [DecidableEq κ] (t : List (κ × α)) (k : κ) (v : α) : List (κ × α) :=
  match t with
  | [] => [(k, v)]
  | (k', v') :: r => if k' = k then (k, v) :: r else (k', v') :: assign r k v

/-- Removes a key. -/
def erase [DecidableEq κ] (t : List (κ × α)) (k : κ) : List (κ × α) := t.filter fun p => p.1 ≠ k

/-- Changes the first element that satisfies `p`. -/
def modifyFirst (p : α → Bool) (f : α → α) : List α → List α
  | [] => []
  | a :: r => if p a then f a :: r else a :: modifyFirst p f r

/-- Changes every element that satisfies `p`. -/
def modifyAll (p : α → Bool) (f : α → α) (l : List α) : List α := l.map fun a => if p a then f a else a

/-- Removes the first element that satisfies `p`. -/
def dropFirst (p : α → Bool) : List α → List α
  | [] => []
  | a :: r => if p a then r else a :: dropFirst p r

/-- Sets position `i` of a list, extending it with `d`. -/
def setAt (l : List α) (i : Nat) (d v : α) : List α :=
  match i, l with
  | 0, [] => [v]
  | 0, _ :: r => v :: r
  | i + 1, [] => d :: setAt [] i d v
  | i + 1, a :: r => a :: setAt r i d v

/-- The member with the least key under `lt`, the first of equals. -/
def best (lt : α → α → Bool) : List α → Option α
  | [] => none
  | a :: r =>
    match best lt r with
    | none => some a
    | some b => if lt b a then some b else some a

/-- Inserts into a list sorted by `lt`, after equals. -/
def insertBy (lt : α → α → Bool) (x : α) : List α → List α
  | [] => [x]
  | a :: r => if lt x a then x :: a :: r else a :: insertBy lt x r

/-- Stable insertion sort. -/
def sortBy (lt : α → α → Bool) (l : List α) : List α := l.reverse.foldl (fun acc x =>
  -- earlier elements are inserted last and go before their equals
  let rec place : List α → List α
    | [] => [x]
    | a :: r => if lt a x then a :: place r else x :: a :: r
  place acc) []

/-- Little-endian bytes of a word (R9). -/
def bytesOf (n v : Nat) : List Byte := leBytes n v

/-- Bits [hi:lo] of a word as a number. -/
def wbits (v : Word) (hi lo : Nat) : Nat := bitsOf v.toNat hi lo

def wbit (v : Word) (i : Nat) : Bool := v.getLsbD i

/-- A word from a number. -/
def w64 (n : Nat) : Word := BitVec.ofNat 64 n

/-- A status in [7:0], zeros above. -/
def statusWord (s : BitVec 8) : Word := s.setWidth 64

def boolNat (b : Bool) : Nat := if b then 1 else 0

/-- One bit step of the reflected CRC-32C polynomial (R194). -/
def crcBit (c : BitVec 32) : BitVec 32 := if c.getLsbD 0 then (c >>> 1) ^^^ 0x82F63B78#32 else c >>> 1

def crcByte (c : BitVec 32) (b : Byte) : BitVec 32 :=
  crcBit (crcBit (crcBit (crcBit (crcBit (crcBit (crcBit (crcBit (c ^^^ b.setWidth 32))))))))

/-- Running CRC state over bytes; starts at all ones. -/
def crcRun (c : BitVec 32) (bs : List Byte) : BitVec 32 := bs.foldl crcByte c

/-- CRC-32C (R194). -/
def crc32c (bs : List Byte) : BitVec 32 := ~~~ (crcRun 0xFFFFFFFF#32 bs)

/-- Pads with zero bytes to a length. -/
def padTo (n : Nat) (bs : List Byte) : List Byte := bs.take n ++ List.replicate (n - bs.length) 0

/-- Bits of bytes, least significant first. -/
def bitsOfBytes (bs : List Byte) : List Bool := bs.flatMap fun b => (List.range 8).map fun i => b.getLsbD i

def natOfBits : List Bool → Nat
  | [] => 0
  | b :: r => boolNat b + 2 * natOfBits r

/-- Bytes of bits, least significant first; a last part byte is padded with zeros. `fuel` bounds the bytes. -/
def bytesOfBits : (fuel : Nat) → List Bool → List Byte
  | 0, _ => []
  | f + 1, l => if l.isEmpty then [] else BitVec.ofNat 8 (natOfBits (l.take 8)) :: bytesOfBits f (l.drop 8)

/-- Element `i` of packed values of `w` bits (R83): values lie from bit 0 upward. -/
def packedAt (w : Nat) (bs : List Byte) (i : Nat) : Nat := bitsOf (leNat bs) (w * i + w - 1) (w * i)

/-- Packs values of `w` bits from bit 0 upward into `n` bytes (R83). -/
def packBits (w n : Nat) (vs : List Nat) : List Byte :=
  leBytes n (vs.reverse.foldl (fun acc v => acc <<< w ||| v % 2 ^ w) 0)

/-- Splits a list into pieces of `n`. `fuel` bounds the pieces. -/
def chunks (n : Nat) : (fuel : Nat) → List α → List (List α)
  | 0, _ => []
  | f + 1, l => if l.isEmpty then [] else l.take n :: chunks n f (l.drop n)

end Sys2Proof.Machine
end

