-- ==== Sys2Proof/Machine/Num.lean ====
section
/-! DEFINITION. Number formats, exact values, and RoundTo (R79-R91, R123, R125). -/

namespace Sys2Proof.Machine

/-- How a floating format uses its all-ones exponent (R79): infinities and NaNs, one NaN (E4M3), or finite values. -/
inductive FKind where | ieee | oneNan | finite
deriving DecidableEq, Repr

/-- A floating format (R79). -/
structure FloatFmt where
  ebits : Nat
  mbits : Nat
  bias : Int
  kind : FKind
deriving DecidableEq, Repr

def fp64 : FloatFmt := ⟨11, 52, 1023, .ieee⟩
def fp32 : FloatFmt := ⟨8, 23, 127, .ieee⟩
def fp16 : FloatFmt := ⟨5, 10, 15, .ieee⟩
def bf16 : FloatFmt := ⟨8, 7, 127, .ieee⟩
def e5m2 : FloatFmt := ⟨5, 2, 15, .ieee⟩
def e4m3 : FloatFmt := ⟨4, 3, 7, .oneNan⟩
def e3m2 : FloatFmt := ⟨3, 2, 3, .finite⟩
def e2m3 : FloatFmt := ⟨2, 3, 1, .finite⟩
def e2m1 : FloatFmt := ⟨2, 1, 1, .finite⟩

def FloatFmt.width (F : FloatFmt) : Nat := 1 + F.ebits + F.mbits
/-- The exponent of the smallest normal. -/
def FloatFmt.emin (F : FloatFmt) : Int := 1 - F.bias
/-- The largest exponent field of a finite value. -/
def FloatFmt.maxE (F : FloatFmt) : Nat := if F.kind = .ieee then 2 ^ F.ebits - 2 else 2 ^ F.ebits - 1
/-- The pattern of the largest finite, without its sign. -/
def FloatFmt.maxMag (F : FloatFmt) : Nat :=
  match F.kind with
  | .ieee => (2 ^ F.ebits - 1) * 2 ^ F.mbits - 1
  | .oneNan => 2 ^ (F.ebits + F.mbits) - 2
  | .finite => 2 ^ (F.ebits + F.mbits) - 1
def FloatFmt.signBit (F : FloatFmt) : Nat := 2 ^ (F.ebits + F.mbits)
/-- The exponent of the largest normal (R86). -/
def FloatFmt.emax (F : FloatFmt) : Int := (F.maxE : Int) - F.bias
def FloatFmt.infMag (F : FloatFmt) : Nat := (2 ^ F.ebits - 1) * 2 ^ F.mbits

/-- The canonical NaN (R81); formats without a NaN give +0 (R90). -/
def FloatFmt.nan (F : FloatFmt) : Nat :=
  match F.kind with
  | .ieee => F.infMag + 2 ^ (F.mbits - 1)
  | .oneNan => 2 ^ (F.ebits + F.mbits) - 1
  | .finite => 0

/-- A value: NaN, infinity, or (-1)^neg × m × 2^e. -/
inductive Val where
  | nan (signalling : Bool)
  | inf (neg : Bool)
  | fin (neg : Bool) (m : Nat) (e : Int)
deriving DecidableEq, Repr

def Val.isNan : Val → Bool | .nan _ => true | _ => false
def Val.isSNan : Val → Bool | .nan s => s | _ => false
def Val.isInf : Val → Bool | .inf _ => true | _ => false
def Val.isZero : Val → Bool | .fin _ m _ => m == 0 | _ => false
def Val.neg : Val → Bool | .nan _ => false | .inf n => n | .fin n _ _ => n
/-- Negation of the value. -/
def Val.flip : Val → Val | .nan s => .nan s | .inf n => .inf (!n) | .fin n m e => .fin (!n) m e

/-- Decodes a pattern (R79-R81). -/
def FloatFmt.decode (F : FloatFmt) (p : Nat) : Val :=
  let E := bitsOf p (F.ebits + F.mbits - 1) F.mbits
  let M := p % 2 ^ F.mbits
  let neg := p.testBit (F.ebits + F.mbits)
  if F.kind = .ieee ∧ E = 2 ^ F.ebits - 1 then
    if M = 0 then .inf neg else .nan (!(M.testBit (F.mbits - 1)))
  else if F.kind = .oneNan ∧ E = 2 ^ F.ebits - 1 ∧ M = 2 ^ F.mbits - 1 then .nan false
  else if E = 0 then .fin neg M (F.emin - F.mbits)
  else .fin neg (M + 2 ^ F.mbits) ((E : Int) - F.bias - F.mbits)

/-- Floor of log2 of m × 2^e for m above 0. -/
def flog2 (m : Nat) (e : Int) : Int := (Nat.log2 m : Int) + e

/-- Rounds |x| = m × 2^e (plus a part of less than one unit when `sticky`) to a multiple of 2^eq: the multiple, whether it
was inexact, and whether it went up (R88). -/
def roundMult (neg : Bool) (m : Nat) (e : Int) (sticky : Bool) (eq : Int) (mode : Rnd) (draw : Nat) : Nat × Bool × Bool :=
  if eq ≤ e then (m <<< (e - eq).toNat, sticky, false)
  else
    let sh := (eq - e).toNat
    let lo := m >>> sh
    let rem := m % 2 ^ sh
    if rem = 0 ∧ !sticky then (lo, false, false)
    else
      let half := 2 ^ (sh - 1)
      let tie := rem == half && !sticky
      let above := decide (half < rem) || (rem == half && sticky)
      let up := match mode with
        | .rne => above || (tie && lo % 2 == 1)
        | .ta => above || tie
        | .rtz => false
        | .up => !neg
        | .down => neg
        | .sr => decide (2 ^ 32 ≤ ((rem <<< 32) >>> sh) + draw)
      (if up then lo + 1 else lo, true, up)

/-- The result of an overflow (R90): pattern without sign. -/
def FloatFmt.overflowMag (F : FloatFmt) (neg : Bool) (mode : Rnd) (up : Bool) : Nat :=
  if F.kind ≠ .ieee ∨ F.mbits = 2 then F.maxMag
  else
    match mode with
    | .rne | .ta => F.infMag
    | .rtz => F.maxMag
    | .up => if neg then F.maxMag else F.infMag
    | .down => if neg then F.infMag else F.maxMag
    | .sr => if up then F.infMag else F.maxMag

def FloatFmt.withSign (F : FloatFmt) (neg : Bool) (mag : Nat) : Nat := if neg then F.signBit + mag else mag

/-- RoundTo for a nonzero finite value and a floating destination (R88, R90): pattern and flags. -/
def FloatFmt.roundFin (F : FloatFmt) (neg : Bool) (m : Nat) (e : Int) (sticky : Bool) (mode : Rnd) (draw : Nat) : Nat × Flags :=
  if m = 0 then (F.withSign neg 0, 0)
  else
    let l := flog2 m e
    let eq := (if l < F.emin then F.emin else l) - F.mbits
    let r := roundMult neg m e sticky eq mode draw
    let k := r.1
    -- a carry out of the mantissa moves one binade up
    let carry := decide (2 ^ (F.mbits + 1) ≤ k)
    let k' := if carry then k / 2 else k
    let eq' := if carry then eq + 1 else eq
    let tiny := flagIf (r.2.1 && decide (l < F.emin)) fUnderflow
    let inx := flagIf r.2.1 fInexact
    let mag := if k' < 2 ^ F.mbits then k' else (k' - 2 ^ F.mbits) + ((eq' + F.mbits + F.bias).toNat) * 2 ^ F.mbits
    if F.maxMag < mag then (F.withSign neg (F.overflowMag neg mode r.2.2), inx ||| tiny ||| fOverflow ||| fInexact)
    else (F.withSign neg mag, inx ||| tiny)

/-- RoundTo of any value into a floating destination (R88, R90). -/
def FloatFmt.round (F : FloatFmt) (v : Val) (mode : Rnd) (draw : Nat) : Nat × Flags :=
  match v with
  | .nan s => (F.nan, flagIf (s || F.kind == .finite) fInvalid)
  | .inf n =>
    if F.kind = .ieee then (F.withSign n F.infMag, 0) else (F.withSign n F.maxMag, fOverflow ||| fInexact)
  | .fin n m e => F.roundFin n m e false mode draw

/-- An integer format (R82). -/
structure IntFmt where
  signed : Bool
  width : Nat
deriving DecidableEq, Repr

def IntFmt.min (T : IntFmt) : Int := if T.signed then -(2 ^ (T.width - 1) : Nat) else 0
def IntFmt.max (T : IntFmt) : Int := if T.signed then (2 ^ (T.width - 1) : Nat) - 1 else (2 ^ T.width : Nat) - 1
/-- The value of a pattern. -/
def IntFmt.decode (T : IntFmt) (p : Nat) : Int := if T.signed then signedOf p T.width else ((p % 2 ^ T.width : Nat) : Int)
/-- The pattern of a value of the format. -/
def IntFmt.encode (T : IntFmt) (v : Int) : Nat := wrapOf v T.width

/-- RoundTo of any value into an integer destination (R88, R90): value and flags. -/
def IntFmt.round (T : IntFmt) (v : Val) (mode : Rnd) (draw : Nat) : Int × Flags :=
  match v with
  | .nan _ => (0, fInvalid)
  | .inf n => (if n then T.min else T.max, fInvalid)
  | .fin n m e =>
    let r := roundMult n m e false 0 mode draw
    let x : Int := if n then -(r.1 : Int) else r.1
    if x < T.min then (T.min, fInvalid)
    else if T.max < x then (T.max, fInvalid)
    else (x, flagIf r.2.1 fInexact)

/-- IntFit (R123). -/
def IntFmt.fit (T : IntFmt) (x : Int) (sat : Bool) : Int × Flags :=
  if T.min ≤ x ∧ x ≤ T.max then (x, 0)
  else if sat then (if x < T.min then T.min else T.max, fOverflow)
  else (T.decode (wrapOf x T.width), 0)

/-- The nearest bound, with OVERFLOW (R90, integer to integer). -/
def IntFmt.clamp (T : IntFmt) (x : Int) : Int × Flags :=
  if x < T.min then (T.min, fOverflow) else if T.max < x then (T.max, fOverflow) else (x, 0)

/-- An integer as an exact value. -/
def valOfInt (x : Int) : Val := .fin (decide (x < 0)) x.natAbs 0

/-- Exact signed sum of two finite values; a zero sum takes its sign from IEEE 754-2019, 6.3. -/
def addFin (n1 : Bool) (m1 : Nat) (e1 : Int) (n2 : Bool) (m2 : Nat) (e2 : Int) (down : Bool) : Val :=
  let e := min e1 e2
  let a : Int := (m1 <<< (e1 - e).toNat : Nat)
  let b : Int := (m2 <<< (e2 - e).toNat : Nat)
  let s := (if n1 then -a else a) + (if n2 then -b else b)
  if s = 0 then .fin (if n1 == n2 then n1 else down) 0 e
  else .fin (decide (s < 0)) s.natAbs e

/-- NaN outcome of an operation (R91): the canonical NaN, with INVALID for a signalling operand. -/
def nanOf (F : FloatFmt) (signalling : Bool) : Nat × Flags := (F.nan, flagIf signalling fInvalid)

def invalid (F : FloatFmt) : Nat × Flags := (F.nan, fInvalid)

/-- x + y rounded once (R91, R121). -/
def fAddVal (F : FloatFmt) (x y : Val) (mode : Rnd) (draw : Nat) : Nat × Flags :=
  if x.isNan || y.isNan then nanOf F (x.isSNan || y.isSNan)
  else
    match x, y with
    | .inf a, .inf b => if a == b then F.round (.inf a) mode draw else invalid F
    | .inf a, _ => F.round (.inf a) mode draw
    | _, .inf b => F.round (.inf b) mode draw
    | .fin n1 m1 e1, .fin n2 m2 e2 => F.round (addFin n1 m1 e1 n2 m2 e2 (mode == .down)) mode draw
    | _, _ => invalid F

/-- The exact product of two values that are no NaN; none for 0 × ∞. -/
def mulVal (x y : Val) : Option Val :=
  match x, y with
  | .inf a, .inf b => some (.inf (a != b))
  | .inf a, .fin n m _ => if m = 0 then none else some (.inf (a != n))
  | .fin n m _, .inf b => if m = 0 then none else some (.inf (n != b))
  | .fin n1 m1 e1, .fin n2 m2 e2 => some (.fin (n1 != n2) (m1 * m2) (e1 + e2))
  | _, _ => none

def fMulVal (F : FloatFmt) (x y : Val) (mode : Rnd) (draw : Nat) : Nat × Flags :=
  if x.isNan || y.isNan then nanOf F (x.isSNan || y.isSNan)
  else match mulVal x y with
    | none => invalid F
    | some v => F.round v mode draw

/-- x × y + z rounded once. A quiet NaN addend with 0 × ∞ raises nothing (R91, DEDUCED, log 8). -/
def fFmaVal (F : FloatFmt) (x y z : Val) (mode : Rnd) (draw : Nat) : Nat × Flags :=
  if x.isNan || y.isNan || z.isNan then nanOf F (x.isSNan || y.isSNan || z.isSNan)
  else match mulVal x y with
    | none => invalid F
    | some v => fAddVal F v z mode draw

/-- The integer square root, found bit by bit from bit `k`. -/
def isqrtBits : (k : Nat) → (n r : Nat) → Nat
  | 0, _, r => r
  | k + 1, n, r => let t := r + 2 ^ k; isqrtBits k n (if t * t ≤ n then t else r)

def isqrt (n : Nat) : Nat := isqrtBits (Nat.log2 n / 2 + 1) n 0

/-- Division rounded once (R169). -/
def fDivVal (F : FloatFmt) (x y : Val) (mode : Rnd) (draw : Nat) : Nat × Flags :=
  if x.isNan || y.isNan then nanOf F (x.isSNan || y.isSNan)
  else
    match x, y with
    | .inf _, .inf _ => invalid F
    | .inf a, .fin n _ _ => F.round (.inf (a != n)) mode draw
    | .fin n _ _, .inf b => (F.withSign (n != b) 0, 0)
    | .fin n1 m1 e1, .fin n2 m2 e2 =>
      if m2 = 0 then if m1 = 0 then invalid F else (F.withSign (n1 != n2) F.infMag, fDivzero)
      else if m1 = 0 then (F.withSign (n1 != n2) 0, 0)
      else
        let k := 120 + Nat.log2 m2
        let q := (m1 <<< k) / m2
        F.roundFin (n1 != n2) q (e1 - e2 - k) ((m1 <<< k) % m2 != 0) mode draw
    | _, _ => invalid F

/-- Square root rounded once (R169, R122). -/
def fSqrtVal (F : FloatFmt) (x : Val) (mode : Rnd) (draw : Nat) : Nat × Flags :=
  match x with
  | .nan s => nanOf F s
  | .inf n => if n then invalid F else (F.infMag, 0)
  | .fin n m e =>
    if m = 0 then (F.withSign n 0, 0)
    else if n then invalid F
    else
      -- scale to an even exponent with at least 200 bits
      let odd := e % 2 = 1
      let m' := (if odd then 2 * m else m) <<< 200
      let e' := (if odd then e - 1 else e) - 200
      let r := isqrt m'
      F.roundFin false r (e' / 2) (r * r != m') mode draw

/-- Order of two values that are no NaN. -/
def Val.lt (x y : Val) : Bool :=
  match x, y with
  | .inf a, .inf b => a && !b
  | .inf a, _ => a
  | _, .inf b => !b
  | .fin n1 m1 e1, .fin n2 m2 e2 =>
    let e := min e1 e2
    let a : Int := (m1 <<< (e1 - e).toNat : Nat)
    let b : Int := (m2 <<< (e2 - e).toNat : Nat)
    decide ((if n1 then -a else a) < (if n2 then -b else b))
  | _, _ => false

def Val.eq (x y : Val) : Bool := !x.isNan && !y.isNan && !x.lt y && !y.lt x

/-- FMIN and FMAX on patterns of one format (R121): −0 lies below +0. -/
def fMinMax (F : FloatFmt) (isMax : Bool) (a b : Nat) : Nat × Flags :=
  let x := F.decode a
  let y := F.decode b
  if x.isSNan || y.isSNan then invalid F
  else if x.isNan && y.isNan then (F.nan, 0)
  else if x.isNan then (b, 0)
  else if y.isNan then (a, 0)
  else
    let less := x.lt y || (x.isZero && y.isZero && x.neg && !y.neg)
    (if less != isMax then a else b, 0)

/-- The conditions of R71: eq, ne, lt, le, gt, ge, unord, ord. -/
def fCond (cond : Nat) (x y : Val) : Bool :=
  let nan := x.isNan || y.isNan
  match cond with
  | 0 => !nan && x.eq y
  | 1 => nan || !x.eq y
  | 2 => !nan && x.lt y
  | 3 => !nan && (x.lt y || x.eq y)
  | 4 => !nan && y.lt x
  | 5 => !nan && (y.lt x || x.eq y)
  | 6 => nan
  | _ => !nan

/-- Flags of a floating comparison (R121). -/
def fCondFlags (cond : Nat) (x y : Val) : Flags :=
  if 2 ≤ cond ∧ cond ≤ 5 then flagIf (x.isNan || y.isNan) fInvalid else flagIf (x.isSNan || y.isSNan) fInvalid

def iCond (cond : Nat) (x y : Int) : Bool :=
  match cond with
  | 0 => x == y
  | 1 => x != y
  | 2 => decide (x < y)
  | 3 => decide (x ≤ y)
  | 4 => decide (y < x)
  | _ => decide (y ≤ x)

/-! ### Type codes (R70) -/

/-- A type code as a format: raw bits, floating, or integer. -/
inductive Ty where
  | raw
  | flt (F : FloatFmt)
  | int (T : IntFmt)
deriving DecidableEq, Repr

/-- The format of a type code (R70). -/
def tyOf (c : Nat) : Ty :=
  match c with
  | 0 => .raw
  | 1 => .flt fp32
  | 2 => .flt fp16
  | 3 => .flt bf16
  | 4 => .flt e4m3
  | 5 => .flt e5m2
  | 6 => .flt e3m2
  | 7 => .flt e2m3
  | 8 => .flt e2m1
  | 9 => .int ⟨true, 4⟩
  | 10 => .int ⟨true, 8⟩
  | 11 => .int ⟨true, 16⟩
  | 12 => .int ⟨true, 32⟩
  | 13 => .int ⟨false, 8⟩
  | 14 => .int ⟨false, 16⟩
  | _ => .int ⟨false, 32⟩

/-- The floating format of a code, FP32 where the code names none. -/
def fltOf (c : Nat) : FloatFmt := match tyOf c with | .flt F => F | _ => fp32
/-- The integer format of a code, N32 where the code names none. -/
def intOf (c : Nat) : IntFmt := match tyOf c with | .int T => T | _ => ⟨false, 32⟩
def isFlt (c : Nat) : Bool := match tyOf c with | .flt _ => true | _ => false

/-- A result pattern of type `c` extended to its lane (R101). -/
def laneOf (c : Nat) (p : Nat) : Lane :=
  let w := tyWidth (BitVec.ofNat 4 c)
  match tyOf c with
  | .int T => if T.signed then BitVec.ofInt 32 (signedOf p w) else BitVec.ofNat 32 (p % 2 ^ w)
  | _ => BitVec.ofNat 32 (p % 2 ^ w)

/-- The low bits of a lane that a node of type `c` reads (R101). -/
def laneIn (c : Nat) (x : Lane) : Nat := x.toNat % 2 ^ tyWidth (BitVec.ofNat 4 c)

/-- CVT of one value from type S to type T, as patterns (R125). -/
def convert (S T : Nat) (mode : Rnd) (draw : Nat) (p : Nat) : Nat × Flags :=
  let wT := tyWidth (BitVec.ofNat 4 T)
  let p := p % 2 ^ tyWidth (BitVec.ofNat 4 S)
  match tyOf S, tyOf T with
  | .raw, _ => (p % 2 ^ wT, 0)
  | _, .raw => (p, 0)
  | .flt F, .flt G =>
    if S = T then
      match F.decode p with
      | .nan s => nanOf F s
      | _ => (p, 0)
    else G.round (F.decode p) mode draw
  | .flt F, .int G => let r := G.round (F.decode p) mode draw; (G.encode r.1, r.2)
  | .int F, .flt G => G.round (valOfInt (F.decode p)) mode draw
  | .int F, .int G => let r := G.clamp (F.decode p); (G.encode r.1, r.2)

/-! ### Stochastic rounding (R89) -/

def lfsrStep (st : BitVec 32) : BitVec 32 := if st.getLsbD 0 then (st >>> 1) ^^^ 0x80200003#32 else st >>> 1

def lfsrSteps : Nat → BitVec 32 → BitVec 32
  | 0, st => st
  | n + 1, st => lfsrSteps n (lfsrStep st)

/-- Draw `k` of node slot `i` from a seed (R89). -/
def srDraw (seed : BitVec 32) (i k : Nat) : Nat :=
  (lfsrSteps (64 * i + k + 1) (if seed = 0 then 0xFFFFFFFF#32 else seed)).toNat

/-! ### Microscaling (R85-R87) -/

/-- |v| as mantissa and exponent, for finite values. -/
def Val.mag : Val → Nat × Int
  | .fin _ m e => (m, e)
  | _ => (0, 0)

/-- v / 2^x. -/
def Val.scale (v : Val) (x : Int) : Val := match v with | .fin n m e => .fin n m (e - x) | w => w

/-- The largest Floor(Log2 |v|) of the nonzero values, if any. -/
def maxLog2 : List Val → Option Int
  | [] => none
  | v :: r =>
    let o := maxLog2 r
    let (m, e) := v.mag
    if m = 0 then o else
      match o with
      | none => some (flog2 m e)
      | some x => some (max x (flog2 m e))

/-- QuantMx (R86): elements, scale byte, flags; `draws` gives each element's draw. Saturation raises INEXACT only. -/
def quantMx (F : FloatFmt) (mode : Rnd) (vs : List Val) (draws : Nat → Nat) : List Nat × Nat × Flags :=
  let anyNan := vs.any Val.isNan
  let anyInf := vs.any Val.isInf
  if anyNan || anyInf then (vs.map fun _ => 0, 0xFF, flagIf anyNan fInvalid ||| flagIf anyInf fOverflow)
  else
    let X : Int := match maxLog2 vs with
      | none => -127
      | some l => min (max (l - F.emax) (-127)) 127
    let rs := vs.zipIdx.map fun (v, i) => F.round (v.scale X) mode (draws i)
    let fl := rs.foldl (fun a r => a ||| (if r.2 &&& fOverflow ≠ 0 then fInexact else r.2)) (0 : Flags)
    (rs.map Prod.fst, (X + 127).toNat, fl)

/-- One element of an MX block as a value (R85). -/
def mxVal (F : FloatFmt) (scale p : Nat) : Val :=
  if scale = 0xFF then .nan false else (F.decode p).scale (127 - (scale : Int))

/-- An MX element delivered into a destination format (R87): NaN gives the canonical NaN; a signalling E5M2 NaN raises INVALID. -/
def mxOut (F G : FloatFmt) (scale p : Nat) : Nat × Flags := G.round (mxVal F scale p) .rne 0

end Sys2Proof.Machine
end

