-- ==== Sys2Proof/Machine/Ops.lean ====
section
/-! DEFINITION. Named operations over the state: threads and their registers, contexts, memory and poison, records,
taking a trap (R387) and returning from one (R389). -/

namespace Sys2Proof.Machine

/-! ### Free values -/

/-- The next free bit: one of two outcomes that the manual allows. -/
def State.freeBit (s : State) : Bool × State :=
  (Config.freeBit s.model.freeCount, { s with model := { s.model with freeCount := s.model.freeCount + 1 } })

/-- The cycle at which an access that leaves its source now reaches its home: the way takes a free time, bounded at 2^24 cycles
(DESIGN CHOICE, log 66). -/
def State.travel (s : State) : Nat × State :=
  (s.cycle.toNat + (Config.freeWord s.model.freeCount).toNat % 2 ^ 24,
   { s with model := { s.model with freeCount := s.model.freeCount + 1 } })

def State.freeWord (s : State) : Word × State :=
  (Config.freeWord s.model.freeCount, { s with model := { s.model with freeCount := s.model.freeCount + 1 } })

/-- A new identity for a context, gang, queue, request or image. -/
def State.fresh (s : State) : Nat × State :=
  (s.model.nextId, { s with model := { s.model with nextId := s.model.nextId + 1 } })

/-- Adds one to statistics counter `k` (R457 space 0x08): 0 dispatches, 1 commits, 2 discards, 3 blink mismatches, 4 rollbacks,
5 SFU requests. -/
def State.count (s : State) (k : Nat) : State := { s with stats := assign s.stats k (lookupD s.stats k 0 + 1) }

/-! ### Contexts -/

/-- The context that holds a station slot (R399). -/
def State.ctxAt (s : State) (st slot : Nat) : Option Ctx := s.ctxs.find? fun c => c.resident && c.station == st && c.slot == slot

def State.ctxOf (s : State) (id : Nat) : Option Ctx := s.ctxs.find? fun c => c.id == id

def State.modCtx (s : State) (id : Nat) (f : Ctx → Ctx) : State := { s with ctxs := modifyFirst (fun c => c.id == id) f s.ctxs }

/-- The context of a thread; none for an engine hart. -/
def State.actorCtx (s : State) (a : Actor) : Option Ctx :=
  match a with
  | .thread st slot _ => s.ctxAt st slot
  | .engine _ _ => none

/-- The context of the thread whose registers are loaded. -/
def State.myCtx (s : State) : Option Ctx := s.actorCtx s.who

def State.modMy (s : State) (f : Ctx → Ctx) : State :=
  match s.myCtx with
  | some c => s.modCtx c.id f
  | none => s

/-- Identity of an actor's context; 0 for an engine hart. -/
def State.ctxIdOf (s : State) (a : Actor) : Nat := match s.actorCtx a with | some c => c.id | none => 0

/-- Changes thread `i` of a context, wherever its registers are. -/
def State.modCtxThr (s : State) (cid i : Nat) (f : Thr → Thr) : State :=
  match s.ctxOf cid with
  | none => s
  | some c =>
    if c.resident && s.who == .thread c.station c.slot i then { s with cpu := f s.cpu }
    else s.modCtx cid fun c => { c with threads := c.threads.modify i f }

/-- The registers of thread `i` of a context. -/
def State.ctxThr (s : State) (cid i : Nat) : Option Thr :=
  match s.ctxOf cid with
  | none => none
  | some c => if c.resident && s.who == .thread c.station c.slot i then some s.cpu else c.threads[i]?

/-- Bytes of a context's partition (R36). -/
def Ctx.partSize (c : Ctx) : Nat := c.partUnits * 0x40000

/-- Physical address of a partition offset (R29, R245). -/
def Ctx.partAddr (c : Ctx) (off : Nat) : Nat := 0x10000000000 + c.station * 0x1000000 + c.partBase * 0x40000 + off

/-! ### Engines -/

def State.engineAt (s : State) (die eng : Nat) : Option Engine := s.engines.find? fun e => e.die == die && e.eng == eng

def State.modEngine (s : State) (die eng : Nat) (f : Engine → Engine) : State :=
  { s with engines := modifyFirst (fun e => e.die == die && e.eng == eng) f s.engines }

/-! ### Threads: the loaded one stands in `cpu` -/

/-- The registers of an actor as its table holds them. -/
def State.tableThr (s : State) (a : Actor) : Option Thr :=
  match a with
  | .thread st slot i => (s.ctxAt st slot).bind fun c => c.threads[i]?
  | .engine d e => (s.engineAt d e).map (·.thr)

/-- Writes the registers of an actor into its table. -/
def State.putTable (s : State) (a : Actor) (t : Thr) : State :=
  match a with
  | .thread st slot i =>
    match s.ctxAt st slot with
    | some c => s.modCtx c.id fun c => { c with threads := c.threads.set i t }
    | none => s
  | .engine d e => s.modEngine d e fun x => { x with thr := t }

/-- The registers of any actor. -/
def State.thrOf (s : State) (a : Actor) : Option Thr := if a = s.who then some s.cpu else s.tableThr a

/-- Changes the registers of any actor. -/
def State.modThr (s : State) (a : Actor) (f : Thr → Thr) : State :=
  if a = s.who then { s with cpu := f s.cpu }
  else match s.tableThr a with
    | some t => s.putTable a (f t)
    | none => s

/-- Writes the loaded registers back to their table, keeping them loaded. -/
def State.flush (s : State) : State := s.putTable s.who s.cpu

/-- Loads the registers of an actor. -/
def State.load (s : State) (a : Actor) : State :=
  if a = s.who then s
  else
    let s := s.flush
    match s.tableThr a with
    | some t => { s with who := a, cpu := t }
    | none => s

/-- Reads the registers of the loaded actor again from its table (after a change of tables as a whole). -/
def State.reload (s : State) : State :=
  match s.tableThr s.who with
  | some t => { s with cpu := t }
  | none => s

/-! ### General registers of the loaded thread (R154, R155) -/

/-- Number of general registers: an engine hart has 32. -/
def State.regCount (s : State) : Nat :=
  match s.who with
  | .engine _ _ => 32
  | .thread _ _ _ => match s.myCtx with | some c => c.regs | none => 32

/-- Register `n`; g0 reads as zero. -/
def Thr.reg (t : Thr) (r : Reg) : Word := if r = 0 then 0 else t.g[r.toNat]'(by have := r.isLt; omega)

/-- Writes a register; a write to g0 is discarded. -/
def Thr.setReg (t : Thr) (r : Reg) (v : Word) : Thr :=
  if r = 0 then t else { t with g := t.g.set r.toNat v (by have := r.isLt; omega) }

def State.reg (s : State) (r : Reg) : Word := s.cpu.reg r
def State.setReg (s : State) (r : Reg) (v : Word) : State := { s with cpu := s.cpu.setReg r v }

/-- A pair of registers (R155): the pair (g0, g1) reads as zero and discards writes. -/
def State.pair (s : State) (r : Reg) : BitVec 128 := if r = 0 then 0 else s.reg (r + 1) ++ s.reg r
def Thr.setPair (t : Thr) (r : Reg) (v : BitVec 128) : Thr :=
  if r = 0 then t else (t.setReg r (v.extractLsb' 0 64)).setReg (r + 1) (v.extractLsb' 64 64)
def State.setPair (s : State) (r : Reg) (v : BitVec 128) : State := { s with cpu := s.cpu.setPair r v }

/-- The register of a compact form (R64). -/
def creg (r : CReg) : Reg := r.setWidth 5

/-- Message register `i`. -/
def State.msg (s : State) (i : Fin 8) : Word := s.cpu.m[i]

/-- The program counter past an instruction of `n` parcels. -/
def State.advance (s : State) (n : Nat) : State := { s with cpu := { s.cpu with pc := s.cpu.pc + w64 (2 * n) } }

/-- A taken transfer of control: the fetch buffer refills (R174). -/
def Thr.jump (t : Thr) (pc : Word) : Thr := { t with pc := pc, buf := [], fetching := none }
def State.jump (s : State) (pc : Word) : State := { s with cpu := s.cpu.jump pc }

/-- The loaded thread waits (R38); its program counter stays at the instruction. -/
def State.waitFor (s : State) (w : Wait) : State := { s with cpu := { s.cpu with wait := w } }

/-! ### Memory (R206): one list of cells by physical address; unlisted bytes read zero (log 4) -/

/-- A byte of memory. -/
def memByte : List Host.Cell → Nat → Byte
  | [], _ => 0
  | (k, v) :: r, a => if k = a then v else if a < k then 0 else memByte r a

/-- Writes one byte and keeps the canonical form: rising addresses, no zero listed. -/
def memPut : List Host.Cell → Nat → Byte → List Host.Cell
  | [], a, b => if b = 0 then [] else [(a, b)]
  | (k, v) :: r, a, b =>
    if a < k then (if b = 0 then (k, v) :: r else (a, b) :: (k, v) :: r)
    else if a = k then (if b = 0 then r else (a, b) :: r)
    else (k, v) :: memPut r a b

/-- Bytes from an address upward. -/
def memBytes (m : List Host.Cell) (a n : Nat) : List Byte := (List.range n).map fun i => memByte m (a + i)

/-- Little-endian value of n bytes (R9). -/
def memNat (m : List Host.Cell) (a n : Nat) : Nat := leNat (memBytes m a n)

/-- Writes bytes from an address upward. -/
def memWrite (m : List Host.Cell) (a : Nat) : List Byte → List Host.Cell
  | [] => m
  | b :: bs => memWrite (memPut m a b) (a + 1) bs

/-- Every address of the list lies above `lo` and rises, and no listed byte is zero. -/
def Memory.above (lo : Nat) : List Host.Cell → Bool
  | [] => true
  | (k, v) :: r => decide (lo ≤ k) && v != 0 && Memory.above (k + 1) r

/-- The canonical form of memory. -/
def Memory.wf (m : List Host.Cell) : Bool := Memory.above 0 m

/-! ### The physical map (R28-R33) -/

/-- Where a physical address lies. -/
inductive Home where
  | hbm (pa : Nat)
  | spad (st : Nat) (pa : Nat)
  | stationCtl (st off : Nat)
  | dieCtl (die off : Nat)
  | pkgCtl (off : Nat)
  | remote (pkg off : Nat)
  /-- unassigned, or the upper half of a scratchpad window: PERMISSION -/
  | none
deriving DecidableEq, Repr

/-- Dies of the part (R3). -/
def State.dies (s : State) : Nat := if s.part = 2 then 1 else 4

/-- Home of a local address (R28-R30). -/
def State.localHome (s : State) (pa : Nat) : Home :=
  if pa < 0x8000000000 then (if s.part = 2 then .none else .hbm pa)
  else if 0x10000000000 ≤ pa ∧ pa < 0x10000000000 + s.dies * 24 * 0x1000000 then
    if (pa - 0x10000000000) % 0x1000000 < 0x800000 then .spad ((pa - 0x10000000000) / 0x1000000) pa else .none
  else if 0x20000000000 ≤ pa ∧ pa < 0x20000000000 + s.dies * 24 * 0x100000 then
    .stationCtl ((pa - 0x20000000000) / 0x100000) ((pa - 0x20000000000) % 0x100000)
  else if 0x20100000000 ≤ pa ∧ pa < 0x20100000000 + s.dies * 0x10000000 then
    .dieCtl ((pa - 0x20100000000) / 0x10000000) ((pa - 0x20100000000) % 0x10000000)
  else if 0x20200000000 ≤ pa ∧ pa < 0x20210000000 then .pkgCtl (pa - 0x20200000000)
  else .none

/-- Home of any physical address (R33). -/
def State.home (s : State) (pa : Nat) : Home :=
  if pa < 2 ^ 55 then s.localHome pa
  else if !s.pkgValid then .none
  else if bitsOf pa 54 46 = s.pkgid then s.localHome (pa % 2 ^ 46)
  else .remote (bitsOf pa 54 46) (pa % 2 ^ 46)

/-- An address in local form where it names the part itself in remote form (R33); its home is the same. -/
def State.localForm (s : State) (pa : Nat) : Nat :=
  if 2 ^ 55 ≤ pa ∧ s.pkgValid = true ∧ bitsOf pa 54 46 = s.pkgid then pa % 2 ^ 46 else pa

def Home.isCtl : Home → Bool
  | .stationCtl _ _ | .dieCtl _ _ | .pkgCtl _ => true
  | _ => false

/-- Whether a local address lies in the control window, whatever the part lacks. -/
def inCtlWindow (pa : Nat) : Bool := decide (0x20000000000 ≤ pa ∧ pa < 0x20210000000)

/-- The interleave hash (R31): controller, granule slot, pseudo-channel. -/
def hbmCtl (pa : Nat) : Nat :=
  let g := bitsOf pa 38 12
  let q := g / 96
  let h := (bitsOf q 6 0 ^^^ bitsOf q 13 7 ^^^ bitsOf q 20 14) % 96
  (g % 96 + h) % 96
def hbmSlot (pa : Nat) : Nat := bitsOf pa 38 12 / 96
def hbmPch (pa : Nat) : Nat := bitsOf pa 11 7

/-- The physical address of granule slot `q` at controller `c`: the inverse of R31. -/
def hbmGranule (c q : Nat) : Nat :=
  let h := (bitsOf q 6 0 ^^^ bitsOf q 13 7 ^^^ bitsOf q 20 14) % 96
  (q * 96 + (c + 96 - h) % 96) * 4096

/-! ### Poison (R273, R409) and exhausted rows (R440) -/

/-- The 64-byte granules of a byte range. -/
def granules (pa n : Nat) : List Nat := (List.range ((pa + n - 1) / 64 + 1 - pa / 64)).map fun i => pa / 64 + i

/-- A granule of an exhausted row. -/
def State.dead (s : State) (g : Nat) : Bool :=
  s.health.dead.contains (g / 2) ||
    (decide (g * 64 < 0x8000000000) && s.health.deadPch.contains (hbmCtl (g * 64), hbmPch (g * 64)))

def State.granulePoisoned (s : State) (g : Nat) : Bool := s.poison.contains g || s.dead g

/-- Some byte of the range lies in a poisoned granule. -/
def State.poisoned (s : State) (pa n : Nat) : Bool := (granules pa n).any s.granulePoisoned

def State.poisonGranule (s : State) (g : Nat) : State := if s.poison.contains g then s else { s with poison := g :: s.poison }
def State.cleanGranule (s : State) (g : Nat) : State := { s with poison := s.poison.filter (· ≠ g) }

/-! ### Protected supersteps (R403, R404) -/

def Ctx.isProt (c : Ctx) : Bool := c.prot.extractLsb' 0 2 == 1#2

/-- Two snapshots are of one episode of one domain. -/
def Snapshot.same (x y : Snapshot) : Bool := x.episode == y.episode && x.level == y.level && x.number == y.number

/-- Contexts that took the snapshot of the same episode as this one and are still in its superstep. -/
def State.members (s : State) (c : Ctx) : List Nat :=
  match c.snap with
  | none => [c.id]
  | some sn => (s.ctxs.filter fun d => match d.snap with | some x => x.same sn | none => false).map (·.id)

/-- k.prot changes to 2, unprotected, for every member, with its reason (R404). -/
def State.unprotect (s : State) (cid reason : Nat) : State :=
  match s.ctxOf cid with
  | none => s
  | some c =>
    if c.isProt then
      let ms := s.members c
      let f := fun (d : Ctx) => { d with prot := (d.prot &&& 0xFFFFFFFFFFFFFF0C#64) ||| w64 (2 + 16 * reason) }
      { s with ctxs := modifyAll (fun d => ms.contains d.id) f s.ctxs }
    else s

/-- The old line is copied to the undo area before the first write to it (R403). -/
def State.undoLine (s : State) (line : Nat) : State :=
  match s.ctxs.find? (fun c => c.isProt && decide (c.partAddr 0 ≤ line * 64) && decide (line * 64 < c.partAddr c.partSize)) with
  | none => s
  | some c =>
    if c.undoLog.any (fun u => u.line == line) then s
    else if 7168 ≤ c.undoLog.length then s.unprotect c.id 1
    else
      let old := memBytes s.mem (line * 64) 64
      let bad := s.poison.contains line
      let off := 0x20000 + 128 * c.undoLog.length
      let s := s.modCtx c.id fun c => { c with undoLog := c.undoLog ++ [⟨line, old, bad⟩] }
      match c.undoPas[off / 0x10000]? with
      | none => s
      | some f =>
        { s with mem := memWrite s.mem (f + off % 0x10000) (padTo 128 (old ++ bytesOf 8 (line * 64 + boolNat bad * 2 ^ 56))) }

/-- Bytes of a write that fall into granules that still take writes. -/
def State.putBytes (s : State) (pa : Nat) (bs : List Byte) : State :=
  if s.health.dead.isEmpty && s.health.deadPch.isEmpty then { s with mem := memWrite s.mem pa bs }
  else { s with mem := (bs.zipIdx.foldl (fun m (b, i) => if s.dead ((pa + i) / 64) then m else memPut m (pa + i) b) s.mem) }

/-- A write performed at a local HBM or scratchpad home, by a source of context `src`. -/
def State.write (s : State) (src : Option Nat) (pa : Nat) (bs : List Byte) : State :=
  let s := match src with
    | some c => if pa < 0x8000000000 then s.unprotect c 2 else s
    | none => s
  let s := (granules pa bs.length).foldl (fun s g => s.undoLine g) s
  s.putBytes pa bs

/-- A write that performs whole granules in one unit and so clears their poison (R273). -/
def State.writeWhole (s : State) (src : Option Nat) (pa : Nat) (bs : List Byte) : State :=
  let s := s.write src pa bs
  (granules pa bs.length).foldl (fun s g => s.cleanGranule g) s

/-- Writes whole granules as poisoned ones. -/
def State.writePoisoned (s : State) (src : Option Nat) (pa : Nat) (bs : List Byte) : State :=
  let s := s.write src pa bs
  (granules pa bs.length).foldl (fun s g => s.poisonGranule g) s

/-- The value of n bytes at a local address. -/
def State.read (s : State) (pa n : Nat) : Nat := memNat s.mem pa n

/-! ### Producer identities (R261) -/

def identity (pkg st kind index : Nat) : BitVec 23 := BitVec.ofNat 23 (pkg * 2 ^ 14 + st * 2 ^ 7 + kind * 2 ^ 5 + index)

/-- Hardware thread of a context's thread. -/
def Ctx.hwOf (c : Ctx) (i : Nat) : Nat := c.hw.getD i 0

def State.actorId (s : State) (a : Actor) : BitVec 23 :=
  match a with
  | .thread st slot i =>
    identity s.pkgid st 0 (slot * 8 + (match s.ctxAt st slot with | some c => c.hwOf i | none => 0))
  | .engine d e => identity s.pkgid d 2 e

def State.regionId (s : State) (r : Region) : BitVec 23 :=
  identity s.pkgid (match s.ctxOf r.ctx with | some c => c.station | none => 0) 1 r.index

/-! ### Records (R391, R392) -/

/-- A class of lane R. -/
def Cls.laneR (c : Cls) : Bool := decide (c.toNat < 0x20)

/-- Appends a record to the fault tree, with its source's next sequence number. Records of one source keep their order. `note` is a
mailbox entry that waits for the record's number (R390), `sender` that of a matrix command (R148). -/
def State.postWith (s : State) (cls : Cls) (kind source : Nat) (ctx : Option Ctx) (detail : BitVec 352)
    (note : Option (Nat × BitVec 128)) (sender : Option (BitVec 23)) : State :=
  let k := (kind, source)
  let n := lookupD s.tree.srcSeqs k 0
  let r : Record :=
    { laneR := Cls.laneR cls
      cls := cls
      kind := kind
      source := source
      srcSeq := n
      asid := match ctx with | some c => c.asid | none => 0
      slot := match ctx with | some c => c.slot | none => 0
      station := match ctx with | some c => c.station | none => 0x7F
      detail := detail
      seq := none
      sender := sender
      note := note }
  { s with tree := { s.tree with srcSeqs := assign s.tree.srcSeqs k (n + 1), recs := s.tree.recs ++ [r] } }

/-- A source that has posted a further record while one of its records waits stalls until that one has been taken (R394; DEDUCED, log 75). -/
def State.recordStall (s : State) (kind source : Nat) : Bool := decide (2 ≤ s.tree.recs.countP fun r => r.kind == kind && r.source == source)

/-- A region runs: nothing has frozen it, and no record stalls it. -/
def State.regionRuns (s : State) (r : Region) : Bool := r.freeze == .running && !s.recordStall 1 (s.regionId r).toNat

def State.post (s : State) (cls : Cls) (kind source : Nat) (ctx : Option Ctx) (detail : BitVec 352) : State :=
  s.postWith cls kind source ctx detail none none

def State.postNoted (s : State) (cls : Cls) (kind source : Nat) (ctx : Option Ctx) (detail : BitVec 352) (note : Nat × BitVec 128) : State :=
  s.postWith cls kind source ctx detail (some note) none

/-- The 64 bytes of a record that has its package sequence number (R391). -/
def Record.bits (r : Record) (seq : Nat) : BitVec 512 :=
  BitVec.ofNat 48 seq ++ BitVec.ofNat 32 r.srcSeq ++ r.cls ++ BitVec.ofNat 3 r.kind ++ BitVec.ofNat 23 r.source ++ 0#14
    ++ BitVec.ofNat 16 r.asid ++ 0#7 ++ BitVec.ofNat 2 r.slot ++ BitVec.ofNat 7 r.station ++ r.detail

/-- Detail from fields: value and lowest bit. -/
def detailOf (fs : List (Nat × Nat)) : BitVec 352 := BitVec.ofNat 352 (fs.foldl (fun a (v, lo) => a ||| v <<< lo) 0)

/-- A record of a thread or engine hart (R392, first row). -/
def State.postThread (s : State) (a : Actor) (cls : Cls) (pc val : Word) (more : List (Nat × Nat)) : State :=
  let kind := if a.isEngine then 2 else 0
  s.post cls kind (s.actorId a).toNat (s.actorCtx a) (detailOf ((pc.toNat, 0) :: (val.toNat, 64) :: more))

/-! ### SFU queues (R164-R167) -/

def State.sfuOf (s : State) (u : UnitId) : List SfuReq := lookupD s.sfus u []
def State.setSfu (s : State) (u : UnitId) (q : List SfuReq) : State := { s with sfus := assign s.sfus u q }

/-- Requests of an actor still to be written. -/
def State.pendingSfu (s : State) (a : Actor) : List SfuReq := (s.sfuOf a.unit).filter fun r => r.who == a

/-- Some result of the loaded thread is outstanding. -/
def State.sfuBusy (s : State) : Bool := !(s.pendingSfu s.who).isEmpty

/-- The loaded thread waits until its SFU results are written and its loads and atomics are answered. -/
def State.waitResults (s : State) : State := s.waitFor (if s.sfuBusy then .sfu else .loads [])

/-- Some SFU result, load or atomic of the loaded thread is outstanding. -/
def State.resultsOut (s : State) : Bool := s.sfuBusy || !s.cpu.pend.isEmpty

/-! ### Traps (R386, R387, R389) -/

/-- The trap vector: a context's, or a hart's own (R293). -/
def State.tvec (s : State) : Word :=
  match s.who with
  | .engine _ _ => s.cpu.hart.tvec
  | .thread _ _ _ => match s.myCtx with | some c => c.tvec | none => 0

/-- What k.tpc keeps of an address: its bits [63:56] are reserved and read as zero (R7, R388). -/
def tpcOf (pc : Word) : Word := pc &&& 0x00FFFFFFFFFFFFFF#64

/-- TakeTrap once nothing is outstanding (R387): the only place where a program trap is taken. A record of a poisoned atomic also names
the granule (R392). -/
def State.trapNow (s : State) (cls : Cls) (pc val : Word) (granule : Nat) : State :=
  if s.tvec.getLsbD 0 = false ∨ s.cpu.tcause.getLsbD 8 = true then
    let s := s.postThread s.who cls pc val (if granule = 0 then [] else [(granule, 200)])
    { s with cpu := { s.cpu with run := .ended, wait := .none, trapDue := none } }
  else
    let t := { s.cpu with tpc := tpcOf pc, tcause := 1#1 ++ cls, tval := val, wait := .none, trapDue := none }
    { s with cpu := t.jump (s.tvec &&& ~~~ 1#64) }

/-- Keeps a trap of the instruction with this key, unless an earlier instruction has one. -/
def Thr.dueTrap (t : Thr) (d : TrapDue) : Thr :=
  match t.trapDue with
  | some x => if x.key ≤ d.key then t else { t with trapDue := some d }
  | none => { t with trapDue := some d }

/-- TakeTrap (R387): the trap waits until the thread's SFU results are written (R167) and its earlier loads and atomics are answered
(DEDUCED, log 66). -/
def State.takeTrapAt (s : State) (cls : Cls) (pc val : Word) (granule : Nat) : State :=
  if s.resultsOut then { s with cpu := s.cpu.dueTrap ⟨s.model.nextId, cls, pc, val, granule⟩ }.waitResults
  else s.trapNow cls pc val granule

def State.takeTrap (s : State) (cls : Cls) (pc val : Word) : State := s.takeTrapAt cls pc val 0

/-- The trap of a load or an atomic whose answer fails (R371, R274). The thread has issued nothing since (R67, R156), and the trap is what it
does next. -/
def State.lateTrap (s : State) (p : Pend) (cls : Cls) (val : Word) (granule : Nat) : State :=
  { s with cpu := { s.cpu.dueTrap ⟨p.id, cls, p.pc, val, granule⟩ with wait := .none } }

/-- The loaded thread takes the trap that is due, or goes on waiting for what is outstanding. -/
def State.takeDue (s : State) (d : TrapDue) : State :=
  if s.resultsOut then s.waitResults else s.trapNow d.cls d.pc d.val d.granule

/-- Return from a trap (R389): none when the thread is not in a handler. -/
def State.returnTrap (s : State) : Option State :=
  if s.cpu.tcause.getLsbD 8 then
    some { s with cpu := ({ s.cpu with tcause := s.cpu.tcause &&& 0xFF#9, wait := .none }).jump s.cpu.tpc }
  else none

/-- A trap of the instruction at the program counter. -/
def State.trap (s : State) (cls : Cls) (val : Word) : State := s.takeTrap cls s.cpu.pc val

end Sys2Proof.Machine
end

