-- ==== Sys2Proof/Machine/Operands.lean ====
section
/-! DEFINITION. The checks that every sequencer instruction passes before its own effect (R67, R76, R77, R166), and how an
instruction ends. -/

namespace Sys2Proof.Machine

abbrev Out := Host.Outcome State Fault Refusal

/-- Which feature or hart kind an encoding needs (R67, R77). -/
inductive Gate where
  | all
  /-- SOPEN, SCLOSE, SSTAT: HBM -/
  | hbm
  /-- HOLDUP and PLATES -/
  | holdup
  /-- major 0x1E: MATRIX, and no engine hart -/
  | matrix
  /-- major 0x1F: no engine hart -/
  | sched
  /-- LLD, LST: engine harts only -/
  | engine
deriving DecidableEq, Repr

/-- What an instruction's encoding demands: gate, privilege, 64-bit register positions and 128-bit ones. -/
structure Form where
  gate : Gate
  service : Bool
  regs : List Reg
  pairs : List Reg
deriving DecidableEq, Repr

/-- A form with 64-bit positions alone, open to every hart. -/
def Form.plain (regs : List Reg) : Form := ⟨.all, false, regs, []⟩

/-- The encoding is assigned for this hart with the features accepted (R76, R77). -/
def Gate.open_ (g : Gate) (s : State) : Bool :=
  match g with
  | .all => true
  | .hbm => s.boot.acc0.getLsbD 0
  | .holdup => s.boot.acc0.getLsbD 1 && s.boot.acc0.getLsbD 2
  | .matrix => s.boot.acc0.getLsbD 3 && !s.who.isEngine
  | .sched => !s.who.isEngine
  | .engine => s.who.isEngine

/-- Service level (R346): of the context, or of the item an engine works for. -/
def State.service (s : State) : Bool :=
  match s.who with
  | .engine d e => (match s.engineAt d e with | some x => (match x.asid with | some p => p.2 | none => false) | none => false)
  | .thread _ _ _ => match s.myCtx with | some c => c.service | none => false

/-- A 64-bit position names a configured register. -/
def State.regOk (s : State) (r : Reg) : Bool := decide (r.toNat < s.regCount)

/-- A 128-bit position names an even register whose pair is configured (R155). -/
def State.pairOk (s : State) (r : Reg) : Bool := r.toNat % 2 == 0 && decide (r.toNat + 1 < s.regCount)

/-- Steps 2 to 4 of R67: the class of the first check that fails. -/
def Form.check (f : Form) (s : State) : Option Cls :=
  if !f.gate.open_ s then some clIllegalEncoding
  else if f.service && !s.service then some clPermission
  else if !(f.regs.all s.regOk && f.pairs.all s.pairOk) then some clIllegalOperand
  else none

/-- The form reads or writes this register. -/
def Form.meets (f : Form) (r : Reg) : Bool := f.regs.contains r || f.pairs.any fun p => p == r || p + 1 == r

/-- A register of the form has an SFU result outstanding (R166). -/
def Form.sfuWait (f : Form) (s : State) : Bool := (s.pendingSfu s.who).any fun r => f.meets r.gd

/-- A register of the form is still to be written by a load or an atomic (R209), or one may still trap (R156). -/
def Form.loadWait (f : Form) (s : State) : Bool := s.cpu.pend.any fun p => !p.sure || p.regs.any f.meets

/-- The registers that a form meets. -/
def Form.all (f : Form) : List Reg := f.regs ++ f.pairs.flatMap fun p => [p, p + 1]

/-- Runs an instruction: waits for SFU results, loads and atomics that it would observe, makes the checks of R67, then its own effect. -/
def issue (i : Instr) (f : Form) (s : State) (body : State → State) : Out :=
  if f.sfuWait s then .next (s.waitFor .sfu)
  else if f.loadWait s then .next (s.waitFor (.loads f.all))
  else
    match f.check s with
    | some cls => .next (s.trap cls i.wordVal)
    | none => .next (body s)

/-- The instruction of `n` parcels has completed. -/
def State.retire (s : State) (n : Nat) : State :=
  { s with cpu := { s.cpu with pc := s.cpu.pc + w64 (2 * n), wait := .none } }

/-- A transfer of control completes. -/
def State.retireTo (s : State) (pc : Word) : State :=
  { s with cpu := { s.cpu with pc := pc, wait := .none, buf := [], fetching := none } }

/-- Writes gd and completes a 32-bit word. -/
def State.finish (s : State) (d : Reg) (v : Word) : State := (s.setReg d v).retire 2

/-- Writes a status to gd [7:0], zeros above, and completes. -/
def State.finishStatus (s : State) (d : Reg) (st : BitVec 8) : State := s.finish d (statusWord st)

/-- Ends the instruction precisely with an operand fault (R386). -/
def State.illegal (s : State) (i : Instr) : State := s.trap clIllegalOperand i.wordVal

end Sys2Proof.Machine
end

