-- ==== Sys2Proof/Machine/Control.lean ====
section
/-! DEFINITION. Branches and jumps (R172, R173), HALT, TRAP and TRET (R389). -/

namespace Sys2Proof.Machine

/-- A branch on two registers (R172). -/
def opBranch (i : Instr) (a b : Reg) (o : BitVec 13) (taken : Word → Word → Bool) (s : State) : Out :=
  issue i (.plain [a, b]) s fun s =>
    if taken (s.reg a) (s.reg b) then s.retireTo (s.cpu.pc + (o.signExtend 64 <<< 1)) else s.retire 2

def execBeq (a b : Reg) (o : BitVec 13) (s : State) : Out := opBranch (.beq a b o) a b o (· == ·) s
def execBne (a b : Reg) (o : BitVec 13) (s : State) : Out := opBranch (.bne a b o) a b o (· != ·) s
def execBlt (a b : Reg) (o : BitVec 13) (s : State) : Out := opBranch (.blt a b o) a b o BitVec.slt s
def execBge (a b : Reg) (o : BitVec 13) (s : State) : Out := opBranch (.bge a b o) a b o (fun x y => !x.slt y) s
def execBltn (a b : Reg) (o : BitVec 13) (s : State) : Out := opBranch (.bltn a b o) a b o BitVec.ult s
def execBgen (a b : Reg) (o : BitVec 13) (s : State) : Out := opBranch (.bgen a b o) a b o (fun x y => !x.ult y) s

/-- A compact branch against g0 (R64, R172). -/
def opBranchC (i : Instr) (a : CReg) (o : BitVec 8) (taken : Word → Bool) (s : State) : Out :=
  issue i (.plain [creg a]) s fun s =>
    if taken (s.reg (creg a)) then s.retireTo (s.cpu.pc + (o.signExtend 64 <<< 1)) else s.retire 1

def execBeqCompact (a : CReg) (o : BitVec 8) (s : State) : Out := opBranchC (.beqCompact a o) a o (· == 0) s
def execBneCompact (a : CReg) (o : BitVec 8) (s : State) : Out := opBranchC (.bneCompact a o) a o (· != 0) s

def execJal (d : Reg) (o : BitVec 18) (s : State) : Out :=
  issue (.jal d o) (.plain [d]) s fun s =>
    (s.setReg d (s.cpu.pc + 4)).retireTo (s.cpu.pc + (o.signExtend 64 <<< 1))

/-- JALR: an odd target raises ALIGNMENT precisely, with the target as faulting address (DEDUCED, log 10). -/
def execJalr (d a : Reg) (imm : BitVec 13) (s : State) : Out :=
  issue (.jalr d a imm) (.plain [d, a]) s fun s =>
    let target := s.reg a + (imm.signExtend 64 <<< 1)
    if target.getLsbD 0 then s.trap clAlignment target
    else (s.setReg d (s.cpu.pc + 4)).retireTo target

/-- Starts a thread at a counter's handler entry (R282): g1 the counter index, g2 the landing offset; k.astat is zero at a thread's
start (R242). -/
def startHandler (t : Thr) (base : Nat) (c : Counter) (index : Nat) : Thr :=
  ({ (t.setReg 1 (w64 index)).setReg 2 c.landing with run := .running, wait := .none, astat := 0 }).jump (w64 (base + c.entry))

/-- The lowest-numbered pending counter bound to a thread (R282). -/
def pendingCounter (cs : List Counter) (thread : Nat) : Option Nat :=
  cs.findIdx? fun c => c.enabled && c.pending && c.thread == thread

/-- Dome-close has begun: a handler thread that halts has ended (R421). -/
def State.closing (s : State) : Bool := s.dome.phase != .idle

/-- A thread halts (R282): it starts at once for its lowest pending counter, whose pending bit clears. -/
def State.haltThread (s : State) : State :=
  let s := { s with cpu := { s.cpu with run := .halted, wait := .none } }
  match s.who, (if s.closing then none else s.myCtx) with
  | .thread _ _ i, some c =>
    match pendingCounter c.counters i with
    | none => s
    | some k =>
      match c.counters[k]? with
      | none => s
      | some ctr =>
        let s := s.modCtx c.id fun c => { c with counters := c.counters.modify k fun x => { x with pending := false } }
        { s with cpu := startHandler s.cpu (c.code.getD i (0, 0)).1 ctr k }
  | _, _ => s

/-- HALT waits for the thread's SFU results (R166) and for its loads and atomics (DEDUCED, log 66), then stops it past the instruction
(R389). -/
def opHalt (i : Instr) (n : Nat) (s : State) : Out :=
  if s.resultsOut then .next s.waitResults
  else issue i (.plain []) s fun s => (s.retire n).haltThread

def execHalt (s : State) : Out := opHalt .halt 2 s
def execHaltCompact (s : State) : Out := opHalt .haltCompact 1 s

/-- TRAP (R389): the return address is the next instruction. -/
def execTrap (a : Reg) (s : State) : Out :=
  issue (.trap a) (.plain [a]) s fun s => s.takeTrap clUserTrap (s.cpu.pc + 4) (s.reg a)

/-- TRET (R389). It waits for the handler's loads and atomics, whose traps are the handler's (DEDUCED, log 66). -/
def execTret (s : State) : Out :=
  issue .tret (.plain []) s fun s =>
    if !s.cpu.pend.isEmpty then s.waitFor (.loads [])
    else
      match s.returnTrap with
      | some s => s
      | none => s.illegal .tret

end Sys2Proof.Machine
end

