-- ==== Sys2Proof/Machine/Mmu.lean ====
section
/-! DEFINITION. Translation (R348-R354), pages that are not present (R355), scopes (R210) and the checks of an access (R236). -/

namespace Sys2Proof.Machine

/-- What an access needs of a leaf (R351). -/
inductive Need where | r | w | rw | x
deriving DecidableEq, Repr

/-- What Translate returns. -/
inductive Xl where
  | ok (pa : Nat) (via : Via)
  | permission
  | notPresent
deriving DecidableEq, Repr

/-- `n` bytes at a physical address lie in local HBM. -/
def State.inHbm (s : State) (pa n : Nat) : Bool := s.part != 2 && decide (pa + n ≤ 0x8000000000)

/-- A walk that reads a poisoned entry (R351): a record that starts no rollback. -/
def State.walkPoison (s : State) (u : UnitId) (addr : Nat) : State :=
  let (kind, source) := match u with
    | .station st => (6, st)
    | .engine d e => (2, (identity s.pkgid d 2 e).toNat)
  s.post clUncorrectable kind source none (detailOf [(addr / 64 * 64, 200)])

/-- The bits of an address that a level indexes (R349). -/
def levelShift (lev : Nat) : Nat := match lev with | 0 => 16 | 1 => 21 | 2 => 30 | _ => 39
def levelIndex (va lev : Nat) : Nat := match lev with
  | 0 => bitsOf va 20 16 | 1 => bitsOf va 29 21 | 2 => bitsOf va 38 30 | _ => bitsOf va 55 39

/-- A page-table entry is malformed at a level (R350). -/
def State.malformed (s : State) (e lev : Nat) : Bool :=
  let leaf := e.testBit 1
  let addr := bitsOf e 55 8 * 256
  bitsOf e 59 56 != 0 || bitsOf e 7 6 != 0 || (lev == 3 && leaf) || (lev == 0 && !leaf)
    || (!leaf && bitsOf e 5 2 != 0)
    || (if leaf then addr % 2 ^ levelShift lev != 0
        else addr % (if lev == 1 then 256 else 4096) != 0 || !s.inHbm addr (if lev == 1 then 256 else 4096))

/-- An ASID entry that a walk may use (R348, R351): well formed, with its root table in local HBM. -/
def State.asidOk (s : State) (a : Nat) : Bool :=
  let root := bitsOf a 55 12 * 4096
  bitsOf a 127 113 == 0 && bitsOf a 95 65 == 0 && bitsOf a 63 56 == 0 && bitsOf a 11 0 == 0 && s.inHbm root (8 * (bitsOf a 112 96 + 1))

/-- The set of a station's TLB in which a leaf is kept; an engine hart's TLB is one set. The manual gives no index function. -/
def TlbEntry.set (e : TlbEntry) : Nat := match e.unit with | .station _ => Config.tlbSet e.asid e.level e.key % 256 | .engine _ _ => 0
def TlbEntry.ways (e : TlbEntry) : Nat := match e.unit with | .station _ => 8 | .engine _ _ => 64

/-- A leaf, which lies in a TLB; another entry lies in the walk cache, whose size the manual does not give. -/
def TlbEntry.leaf (e : TlbEntry) : Bool := e.level != 4 && e.value.testBit 1

/-- Keeps an entry that a walk has read, in the place of an older copy. A full set gives up a free choice of its entries (R352, log 70). -/
def State.keepEntry (s : State) (e : TlbEntry) : State :=
  let same := fun (t : TlbEntry) => t.unit == e.unit && t.asid == e.asid && t.level == e.level && t.key == e.key
  let rest := s.mmu.tlb.filter fun t => !same t
  let near := rest.filter fun t => e.leaf && t.leaf && t.unit == e.unit && t.set == e.set
  if near.length < e.ways then { s with mmu := { s.mmu with tlb := e :: rest } }
  else
    let (w, s) := s.freeWord
    match near[w.toNat % near.length]? with
    | some gone => { s with mmu := { s.mmu with tlb := e :: rest.filter fun t => t != gone } }
    | none => s

/-- Reads a table entry of `n` bytes at `addr`, or a copy that the unit's TLB still keeps (R352): where the copy and the table
differ, either is allowed (free bit). Answers value and poison. A valid entry that is read is kept, unless it is malformed: its walk ends
in PERMISSION. -/
def State.walkRead (s : State) (u : UnitId) (asid level key addr n : Nat) : State × Nat × Bool :=
  let cur := s.read addr n
  let bad := s.poisoned addr n
  let good := if level = 4 then cur.testBit 64 && s.asidOk cur else cur.testBit 0 && !s.malformed cur level
  let keep := fun (s : State) => if good && !bad then s.keepEntry ⟨u, asid, level, key, cur⟩ else s
  match s.mmu.tlb.find? fun t => t.unit == u && t.asid == asid && t.level == level && t.key == key with
  | none => (keep s, cur, bad)
  | some c =>
    if c.value = cur ∧ !bad then (s, cur, false)
    else
      let (old, s) := s.freeBit
      if old then (s, c.value, false) else (keep s, cur, bad)

/-- A leaf grants the need (R351). -/
def leafGrants (e : Nat) : Need → Bool
  | .r => e.testBit 2
  | .w => e.testBit 3
  | .rw => e.testBit 2 && e.testBit 3
  | .x => e.testBit 4

/-- The local offset of a physical address, when it names this package. -/
def State.localOf (s : State) (pa : Nat) : Option Nat :=
  if pa < 2 ^ 55 then some pa else if s.pkgValid && bitsOf pa 54 46 == s.pkgid then some (pa % 2 ^ 46) else none

/-- The levels of a walk, from `lev` down (R351). -/
def walkLevels (u : UnitId) (asid va : Nat) (need : Need) (svc : Bool) : (lev : Nat) → (t : Nat) → State → State × Xl
  | lev, t, s =>
    let addr := t + 8 * levelIndex va lev
    let (s, e, bad) := s.walkRead u asid lev (va >>> levelShift lev) addr 8
    if bad then (s.walkPoison u addr, .permission)
    else if !e.testBit 0 then (s, .notPresent)
    else if s.malformed e lev then (s, .permission)
    else if e.testBit 1 then
      let span := 2 ^ levelShift lev
      let pa := bitsOf e 55 8 * 256 + va % span
      let ctl := match s.localOf pa with | some l => inCtlWindow l | none => false
      if !leafGrants e need || (e.testBit 5 && !svc) || (ctl && !svc) then (s, .permission)
      else (s, .ok pa ⟨asid, va / span * span, span⟩)
    else
      match lev with
      | 0 => (s, .permission)
      | lev + 1 => walkLevels u asid va need svc lev (bitsOf e 55 8 * 256) s

/-- Translate (R351). -/
def State.translate (s : State) (u : UnitId) (asid va : Nat) (need : Need) (svc : Bool) : State × Xl :=
  let addr := s.mmu.astbase.toNat + 16 * asid
  if !s.inHbm addr 16 then (s, .permission)
  else
    let (s, a, bad) := s.walkRead u asid 4 0 addr 16
    let root := bitsOf a 55 12 * 4096
    let limit := bitsOf a 112 96
    if bad then (s.walkPoison u addr, .permission)
    else if !a.testBit 64 || !s.asidOk a || decide (limit < bitsOf va 55 39) then (s, .permission)
    else walkLevels u asid va need svc 3 root s

/-- Frames of a run of 64 KiB pages, or why some page has none. -/
inductive Pages where
  | ok (frames : List Nat)
  | permission
  | notPresent (va : Nat)
deriving DecidableEq, Repr

/-- Translates `n` pages of 64 KiB from `va` upward. -/
def xlatePages (u : UnitId) (asid : Nat) (need : Need) (svc : Bool) : (n : Nat) → (va : Nat) → State → State × Pages
  | 0, _, s => (s, .ok [])
  | n + 1, va, s =>
    let (s, x) := s.translate u asid va need svc
    match x with
    | .permission => (s, .permission)
    | .notPresent => (s, .notPresent va)
    | .ok pa _ =>
      let (s, r) := xlatePages u asid need svc n (va + 0x10000) s
      (s, match r with | .ok fs => .ok (s.localForm pa :: fs) | e => e)

/-- A physical address in local HBM or a scratchpad. -/
def Home.isMem : Home → Bool
  | .hbm _ | .spad _ _ => true
  | _ => false

/-- Writes bytes at an offset of an area whose pages have these frames, 64 bytes at a time; `fuel` bounds the pieces. -/
def State.writePaged (src : Option Nat) (frames : List Nat) : (fuel : Nat) → (off : Nat) → List Byte → State → State
  | 0, _, _, s => s
  | n + 1, off, bs, s =>
    if bs.isEmpty then s
    else
      let k := 64 - off % 64
      let pa := frames.getD (off / 0x10000) 0 + off % 0x10000
      let s := if bs.length < k ∨ k < 64 then s.write src pa (bs.take k) else s.writeWhole src pa (bs.take 64)
      State.writePaged src frames n (off + k) (bs.drop k) s

/-- Address space, privilege and unit that an actor translates with (R345, R354); none for a hart before its first item. -/
def State.space (s : State) (a : Actor) : Option (Nat × Bool × UnitId) :=
  match a with
  | .thread _ _ _ => (s.actorCtx a).map fun c => (c.asid, c.service, a.unit)
  | .engine d e => (s.engineAt d e).bind fun x => x.asid.map fun p => (p.1, p.2, a.unit)

/-- Kinds of a waiting access in a PAGE-NOT-PRESENT record (R392). -/
def needKind (n : Need) (fetch : Bool) : Nat := if fetch then 98 else match n with | .r => 96 | .w => 97 | .rw => 99 | .x => 98

/-- A NOT-PRESENT result (R355): one record for each unit, ASID and 64 KiB page; answers the fault tag. -/
def State.pageAbsent (s : State) (u : UnitId) (asid va kind : Nat) (ctx : Option Ctx) : BitVec 32 × State :=
  let page := va / 0x10000
  match s.mmu.faults.find? fun f => f.unit == u && f.asid == asid && f.page == page with
  | some f => (f.tag, s)
  | none =>
    let tag := BitVec.ofNat 32 s.mmu.nextTag
    let f : PageFault := ⟨u, asid, page, tag⟩
    let s := { s with mmu := { s.mmu with nextTag := s.mmu.nextTag + 1, faults := s.mmu.faults ++ [f] } }
    let (k, source) := match u with
      | .station st => (6, st)
      | .engine d e => (2, (identity s.pkgid d 2 e).toNat)
    (tag, s.post clPageNotPresent k source ctx (detailOf [(page * 0x10000, 0), (tag.toNat, 64), (1, kind)]))

/-! ### Checks of a sequencer access (R236) -/

/-- How the checks of an access end. -/
inductive Chk where
  | go (pa : Nat) (via : Via)
  | trap (cls : Cls)
  | wait (tag : BitVec 32)
deriving DecidableEq, Repr

/-- The loaded thread runs as a dome-close handler (R422). -/
def State.inHandler (s : State) : Bool :=
  match s.dome.phase with
  | .handlers rs => rs.any fun r => r.1 == s.who
  | _ => false

/-- A home that a dome-close handler may reach (R422). -/
def State.handlerHome (s : State) (h : Home) : Bool :=
  match h with
  | .hbm _ => s.dome.keepAlive
  | .spad st _ | .stationCtl st _ => st == s.who.station
  | _ => false

/-- Checks an access of the loaded thread or hart at address `ea` (R27, R30, R236, R367, R422). -/
def State.checkAccess (s : State) (ea : Word) (size : Nat) (need : Need) (atomic : Bool) : State × Chk :=
  if wbits ea 63 56 ≠ 0 then (s, .trap clPermission)
  else if ea.toNat % size ≠ 0 then (s, .trap clAlignment)
  else
    match s.space s.who with
    | none => (s, .trap clPermission)
    | some (asid, svc, u) =>
      let (s, x) := s.translate u asid ea.toNat need svc
      match x with
      | .permission => (s, .trap clPermission)
      | .notPresent =>
        let (tag, s) := s.pageAbsent u asid ea.toNat (needKind need false) (s.actorCtx s.who)
        (s, .wait tag)
      | .ok pa via =>
        let h := s.home pa
        if h = .none then (s, .trap clPermission)
        else if h.isCtl && atomic then (s, .trap clPermission)
        else if h.isCtl && size != 4 && size != 8 then (s, .trap clAlignment)
        else if s.inHandler && !s.handlerHome h then (s, .trap clPermission)
        else (s, .go pa via)

/-! ### Scopes (R210) and waiting for earlier accesses (R211-R213) -/

/-- A home lies in a scope of an actor. An engine's `.sta` is its `.die`. -/
def inScope (a : Actor) (sc : Scope) (h : Home) : Bool :=
  match sc with
  | .thr => false
  | .sys => true
  | .pkg => match h with | .remote _ _ => false | _ => true
  | .sta | .die =>
    if sc = .sta ∧ !a.isEngine then
      match h with
      | .spad st _ => st == a.station
      | .stationCtl st _ => st == a.station
      | _ => false
    else
      match h with
      | .spad st _ => st / 24 == a.die
      | .stationCtl st _ => st / 24 == a.die
      | .dieCtl d _ => d == a.die
      | .hbm pa => hbmCtl pa / 24 == a.die
      | .pkgCtl _ => a.die == 0
      | _ => false

/-- The physical address whose home an outgoing request names: a remote form, or the outbound window of its die (R381). -/
def OutReq.place (r : OutReq) : Nat := if r.pkg.isSome then r.pa else 0x20100000000 + r.die * 0x10000000 + 0x8000000

/-- An access that a thread or hart has issued and that has not been performed: its request, its physical address, and whether it counts as a
load and as a store: an atomic is both (R214). -/
structure Issued where
  id : Nat
  pa : Nat
  reads : Bool
  writes : Bool
deriving DecidableEq, Repr

def MemOp.reads : MemOp → Bool
  | .load _ | .atomic _ _ _ | .cas _ _ _ => true
  | .store _ _ | .line _ _ => false
def MemOp.writes : MemOp → Bool
  | .load _ => false
  | _ => true

def MemReq.issued (r : MemReq) : Issued := ⟨r.id, r.pa, r.op.reads, r.op.writes⟩
def OutReq.issued (r : OutReq) : Issued := ⟨r.id, r.place, r.op.reads, r.op.writes⟩

/-- Accesses of an actor that have been issued and not performed. -/
def State.pendingOf (s : State) (a : Actor) : List Issued :=
  let c := s.ctxIdOf a
  let mine := fun (r : MemReq) => r.who == .actor a && r.ctx == c
  (s.bus.reqs.filter mine).map MemReq.issued
    ++ (s.bus.outs.filter fun r => r.who == .actor a && r.ctx == c).map OutReq.issued
    ++ s.health.ctls.flatMap fun h => (h.buffer.filter mine).map MemReq.issued

/-- The loaded thread waits until one more of its accesses has been performed, and then tries again. -/
def State.waitAccess (s : State) : State := s.waitFor (.access (s.pendingOf s.who).length)

/-- Some pending access of the loaded thread has its home in the scope. -/
def State.pendingIn (s : State) (sc : Scope) : Bool :=
  (s.pendingOf s.who).any fun p => inScope s.who sc (s.home p.pa)

/-- Some pending store or atomic goes to the package of a flag address (R213). -/
def State.pendingToPackage (s : State) (pa : Nat) : Bool :=
  let pkgOf := fun (a : Nat) => match s.home a with | .remote p _ => some p | _ => none
  (s.pendingOf s.who).any fun p => p.writes && pkgOf p.pa == pkgOf pa

/-- An order makes a later access to home `h` wait for the earlier access `p` (R211, R212). `storing` says that the later one is a store, an
atomic, an SFLAG or a synchronising operation of R216. -/
def FenceRec.holds (f : FenceRec) (a : Actor) (from_ : Home) (p : Issued) (h : Home) (storing : Bool) : Bool :=
  match f.kind with
  | .acquire => decide (p.id < f.upTo) && p.reads && inScope a f.scope h
  | .release => decide (p.id < f.upTo) && inScope a f.scope from_ && storing
  | .full => decide (p.id < f.upTo) && (inScope a f.scope from_ || inScope a f.scope h)
  | .ldaq id => p.id == id && inScope a f.scope h

/-- A later access of the loaded thread to home `h` must wait for accesses before an earlier FENCE or LDAQ. -/
def State.fenced (s : State) (h : Home) (storing : Bool) : Bool :=
  (s.pendingOf s.who).any fun p => s.cpu.fences.any fun f => f.holds s.who (s.home p.pa) p h storing

/-- A refill of the fetch buffer from home `h` must wait: a FENCE of kind full orders the thread's own stores before it (R174). -/
def State.fetchFenced (s : State) (h : Home) : Bool :=
  (s.pendingOf s.who).any fun p => s.cpu.fences.any fun f => f.kind == .full && f.holds s.who (s.home p.pa) p h false

/-- A synchronising operation at home `h` must wait: for accesses in its own scope, or for an order before it (R212, R216). -/
def State.mustRelease (s : State) (sc : Scope) (h : Home) : Bool := s.pendingIn sc || s.fenced h true

/-- The home of what a station holds for its contexts: queues, counters and mailboxes (R210). -/
def stationHome (st : Nat) : Home := .stationCtl st 0

/-- The home of a queue's home: a station; an engine's work queue lies in no scope below `.pkg` (DEDUCED, log 67). -/
def State.queueHome (s : State) (h : HomeAt) : Home :=
  match h with
  | .ctx c => match s.ctxOf c with | some c => stationHome c.station | none => .none
  | .engine _ _ => .none

/-- Records an order; one that has nothing pending before it orders nothing. -/
def State.addOrder (s : State) (k : OrderKind) (sc : Scope) : State :=
  let ps := s.pendingOf s.who
  let alive := s.cpu.fences.filter fun f => ps.any fun p => decide (p.id < f.upTo)
  { s with cpu := { s.cpu with fences := if ps.isEmpty ∨ sc = .thr then alive else alive ++ [⟨k, sc, s.model.nextId⟩] } }

/-- A FENCE (R212, R238). -/
def State.fence (s : State) (sc : Scope) (k : FenceKind) : State :=
  s.addOrder (match k with | .acq => .acquire | .rel => .release | .full => .full) sc

/-! ### Requests on their way (R206, R318, R321) -/

/-- Class of an actor's requests (R318). -/
def State.memClass (s : State) (a : Actor) : Nat :=
  match a with
  | .engine _ e => if e = 8 then 2 else 1
  | .thread _ _ _ => match s.actorCtx a with | some c => if c.service then 5 else c.mcls.toNat % 8 | none => 0

/-- Class of a source's requests (R318). A PCIe requester's is that of the link (DESIGN CHOICE, log 68). -/
def State.srcClass (s : State) (x : Source) : Nat :=
  match x with
  | .actor a | .fetch a => s.memClass a
  | .region h =>
    match (s.regions.find? fun r => r.handle == h).bind fun r => s.ctxOf r.ctx with
    | some c => if c.service then 5 else c.mcls.toNat % 8
    | none => 0
  | .job d e => s.memClass (.engine d e)
  | .link _ | .pcie _ _ => 4

/-- Cycles from the arrival of a source's request to its latest service (R321). -/
def Source.slack : Source → Option Nat
  | .actor (.engine _ 8) | .job _ 8 => some 4096
  | _ => none

/-- Sends an access to a local home, a memory controller or another. It arrives behind those that its source has sent there (R209). -/
def State.requestAt (s : State) (ctl : Nat) (who : Source) (ctx pa : Nat) (ea : Word) (via : Option Via) (op : MemOp) (ans : Answer) :
    State × Nat :=
  let (id, s) := s.fresh
  let (due, s) := s.travel
  let due := (s.bus.reqs.filter fun r => r.who == who && r.ctl == ctl).foldl (fun d r => Nat.max d r.due) due
  let r : MemReq :=
    { id := id, ctl := ctl, due := due, refused := false, who := who, ctx := ctx, cls := s.srcClass who, latest := who.slack.map (due + ·)
      pa := pa, ea := ea, via := via, op := op, ans := ans }
  ({ s with bus := { s.bus with reqs := s.bus.reqs ++ [r] } }, id)

/-- Sends an access to the memory controller of a local HBM address. -/
def State.request (s : State) (who : Source) (ctx pa : Nat) (ea : Word) (via : Option Via) (op : MemOp) (ans : Answer) : State × Nat :=
  s.requestAt (hbmCtl pa) who ctx pa ea via op ans

/-- A local home that is no memory controller, as requests name it (R28): a station with its scratchpad window and control block, a die's
units, the package control unit. -/
def Home.near : Home → Option Nat
  | .spad st _ | .stationCtl st _ => some (96 + st)
  | .dieCtl d _ => some (192 + d)
  | .pkgCtl _ => some 196
  | .hbm _ | .remote _ _ | .none => Option.none

/-- An access of the loaded thread to such a home takes a time: by choice, or behind an earlier one of the thread there (R209). -/
def State.goesSlow (s : State) (home : Nat) : Bool :=
  s.model.slow || s.bus.reqs.any fun r => r.who == .actor s.who && r.ctl == home

/-- Sends an access to another package. A store in a protected superstep ends that (R404). -/
def State.requestFar (s : State) (who : Source) (ctx : Option Nat) (pkg die pa : Nat) (ea : Word) (via : Option Via)
    (op : MemOp) (ans : Answer) : State × Nat :=
  let (id, s) := s.fresh
  let (due, s) := s.travel
  let r : OutReq :=
    { id := id, due := due, who := who, ctx := ctx.getD 0, pkg := some pkg, die := die, pa := pa, ea := ea, via := via, op := op
      ans := ans }
  let s := match ctx with | some c => if op.writes then s.unprotect c 2 else s | none => s
  ({ s with bus := { s.bus with outs := s.bus.outs ++ [r], sent := r :: s.bus.sent } }, id)

/-- Sends an access to the outbound window of a die's PCIe port, which it leaves in its turn (R381). -/
def State.requestOut (s : State) (who : Source) (ctx die bus : Nat) (ea : Word) (via : Option Via) (op : MemOp) (ans : Answer) : State × Nat :=
  let (id, s) := s.fresh
  let r : OutReq :=
    { id := id, due := 0, who := who, ctx := ctx, pkg := none, die := die, pa := bus, ea := ea, via := via, op := op, ans := ans }
  ({ s with bus := { s.bus with outs := s.bus.outs ++ [r] } }, id)

/-- A request that its home has not performed: at a controller, in a retire buffer, or out of the part. -/
def State.underWay (s : State) (id : Nat) : Bool :=
  (s.bus.reqs.any fun r => r.id == id) || (s.bus.outs.any fun r => r.id == id)
    || s.health.ctls.any fun h => h.buffer.any fun r => r.id == id

end Sys2Proof.Machine
end

