-- ==== Sys2Proof/Machine/Mail.lean ====
section
/-! DEFINITION. Mailboxes and their spill areas (R284, R286), and the arrival of messages at counters (R278, R282). -/

namespace Sys2Proof.Machine

/-! ### The save area of a context that is switched out (R399, R400) -/

/-- Bytes of the area that its check covers, and the offset of the check. -/
def areaChecked : Nat := 0x20000
def areaCheck : Nat := 0x78

/-- Bytes of an area from its frames. -/
def State.readPaged (s : State) (frames : List Nat) (off n : Nat) : List Byte :=
  (List.range n).map fun i => memByte s.mem (frames.getD ((off + i) / 0x10000) 0 + (off + i) % 0x10000)

/-- The check of an area: CRC-32C below 0x2_0000 with its own word taken as zero. -/
def areaCrc (bs : List Byte) : BitVec 32 :=
  crc32c (bs.take areaCheck ++ List.replicate 8 0 ++ (bs.take areaChecked).drop (areaCheck + 8))

/-- The part writes into the area of a context that is out, and keeps its check current. -/
def State.patchArea (s : State) (c : Ctx) (off : Nat) (bs : List Byte) : State :=
  if c.saveFrames.isEmpty then s
  else
    let s := s.writePaged none c.saveFrames 64 off bs
    let crc := areaCrc (s.readPaged c.saveFrames 0 areaChecked)
    s.writePaged none c.saveFrames 2 areaCheck (bytesOf 8 crc.toNat)

/-- The 128 bytes of a spill entry (R400). -/
def spillBytes (e : Spill) : List Byte :=
  match e with
  | .message ctr dec num src payload _ _ =>
    bytesOf 8 (1 + ctr * 2 ^ 8 + dec * 2 ^ 16 + num % 2 ^ 32 * 2 ^ 32) ++ bytesOf 8 (src.toNat + payload.length * 2 ^ 24)
      ++ padTo 112 payload
  | .entry e => bytesOf 8 2 ++ List.replicate 72 0 ++ bytesOf 16 e.toNat ++ List.replicate 32 0

/-- An arrival or entry for a context that is out goes to its spill area; `none` when that is full. The first since the switch sends a
record to lane R (R286). -/
def State.spillTo (s : State) (c : Ctx) (e : Spill) : Option State :=
  let n := c.spill.length
  if 1024 ≤ n then none
  else
    let s := s.modCtx c.id fun c => { c with spill := c.spill ++ [e], spilled := true }
    let s := if c.saveFrames.isEmpty then s else s.writePaged none c.saveFrames 4 (areaChecked + 128 * n) (spillBytes e)
    let s := s.patchArea c 0x70 (bytesOf 8 (n + 1))
    some (if c.spilled then s else s.post clMailboxSpilled 6 c.station (some c) (detailOf [(n, 0)]))

/-! ### Mailboxes -/

/-- An entry enters a mailbox that has a place. -/
def State.putMail (s : State) (c : Ctx) (e : BitVec 128) : Option State :=
  if c.mailbox.length < 256 then some (s.modCtx c.id fun c => { c with mailbox := c.mailbox ++ [e] }) else none

/-- Writes an entry at a context's mailbox, or its spill area while it is switched out; `none` when full, or while spills of a context
that is back have not been applied (R286, R400). An entry for a retired context is dropped. -/
def State.postMail (s : State) (cid : Nat) (e : BitVec 128) : Option State :=
  match s.ctxOf cid with
  | none => some s
  | some c => if c.resident then (if c.spill.isEmpty then s.putMail c e else none) else s.spillTo c (.entry e)

/-- A hardware writer's entry: refused by a full mailbox, or behind a refused one, it is retried (R286). -/
def State.mail (s : State) (cid : Nat) (e : BitVec 128) : State :=
  let wait := { s with bus := { s.bus with mails := s.bus.mails ++ [(cid, e)] } }
  if s.bus.mails.any fun m => m.1 == cid then wait
  else (s.postMail cid e).getD wait

/-- A 128-bit entry from fields: value and lowest bit. -/
def entryOf (fs : List (Nat × Nat)) : BitVec 128 := BitVec.ofNat 128 (fs.foldl (fun a (v, lo) => a ||| v <<< lo) 0)

/-- The message entry of R284. -/
def messageEntry (m : Msg) (ctr : Nat) (fired : Bool) (count : Nat) (st : Status) (off : Option Nat) (len : Nat) : BitVec 128 :=
  entryOf [(m.num % 2 ^ 32, 96), (m.source.toNat, 73), (ctr, 67), (boolNat fired, 66), (count, 48), (st.toNat, 40), (0x10, 32),
    (len, 24), (off.getD 0xFFFFFF, 0)]

/-- StartOrPend (R282): the bound thread starts when it has halted or never started; else the firing is kept pending once. -/
def State.startOrPend (s : State) (cid k : Nat) : State :=
  match s.ctxOf cid with
  | none => s
  | some c =>
    match c.counters[k]?  with
    | none => s
    | some ctr =>
      match s.ctxThr cid ctr.thread with
      | none => s
      | some t =>
        if (t.run = .halted ∨ t.run = .never) ∧ s.closing = false then
          s.modCtxThr cid ctr.thread fun t => startHandler t (c.code.getD ctr.thread (0, 0)).1 ctr k
        else
          s.modCtx cid fun c =>
            { c with counters := c.counters.modify k fun x => { x with pending := true, overrun := x.overrun || x.pending } }

/-- What an arrival does to its counter (R278): the counter after it, landing offset, status, firing. A start that is pending takes the
landing offset of the latest firing, one counted as overrun included (DESIGN CHOICE, log 76). -/
def arriveCounter (c : Counter) (dec len : Nat) : Counter × Option Nat × Status × Bool :=
  let off : Option Nat := if c.stride > 0 then some (c.base + 16 * c.stride * c.next) else none
  let next := if c.stride > 0 then (c.next + 1) % c.slots else c.next
  let st := if len > 16 * c.stride then stTrunc else stOK
  let c1 := { c with next := next, arrivals := (c.arrivals + 1) % 2 ^ 32 }
  if dec = 0 then (c1, off, st, false)
  else if c.count = 0 then (c1, off, stDenied, false)
  else
    let n := c.count - dec
    ({ c1 with count := n, landing := if n = 0 then (match off with | some o => w64 o | none => BitVec.allOnes 64) else c1.landing },
      off, st, decide (n = 0))

/-- Arrive (R278) at a context that holds its slot; `none` when its entry finds the mailbox full, and nothing changes (R286). -/
def State.arrive (s : State) (m : Msg) : Option State :=
  match s.ctxOf m.dest with
  | none => some s
  | some c =>
    match c.counters[m.ctr]? with
    | none => some s
    | some ctr =>
      let len := m.payload.length
      let (ctr', off, st, fire) := arriveCounter ctr m.dec len
      let posts := ctr.post || st != stOK || (fire && !ctr.enabled)
      if posts && decide (256 ≤ c.mailbox.length) then none
      else
        let s := match off with
          | some o => if len = 0 then s else s.write none (c.partAddr o) (m.payload.take (16 * ctr.stride))
          | none => s
        let s := s.modCtx m.dest fun c => { c with counters := c.counters.modify m.ctr fun _ => ctr' }
        let s := if fire && ctr.enabled then s.startOrPend m.dest m.ctr else s
        some (if posts then (s.putMail c (messageEntry m m.ctr fire ctr'.count st off len)).getD s else s)

/-- One message or command fewer outstanding from a thread to a die (R279). -/
def State.creditBack (s : State) (sender : Nat × Nat) (die : Nat) : State :=
  s.modCtxThr sender.1 sender.2 fun t => { t with outstanding := assign t.outstanding die (lookupD t.outstanding die 0 - 1) }

/-- A message reaches its destination: performed, spilled (it stays outstanding until it is performed, R279), dropped, or
refused by a full mailbox or spill area (R278, R286). -/
def State.messageAt (s : State) (m : Msg) : Option State :=
  match s.ctxOf m.dest with
  | none => some (s.creditBack m.sender (m.station / 24))
  | some c =>
    if c.resident then (if c.spill.isEmpty then (s.arrive m).map fun s => s.creditBack m.sender (m.station / 24) else none)
    else s.spillTo c (.message m.ctr m.dec m.num m.source m.payload m.sender (m.station / 24))

/-- Applies a spill to a context that is back; `none` when its mailbox refuses it. -/
def State.applySpill (s : State) (c : Ctx) (e : Spill) : Option State :=
  match e with
  | .entry e => s.putMail c e
  | .message ctr dec num src payload sender die =>
    (s.arrive ⟨0, sender, src, c.station, c.id, ctr, dec, payload, num⟩).map fun s => s.creditBack sender die

/-- Applies spills in their order, before any thread issues (R400); one that a full mailbox refuses waits with those after it, and holds
back every later writer (R286). -/
def State.applySpills (cid : Nat) : List Spill → State → State
  | [], s => s.modCtx cid fun c => { c with spill := [] }
  | e :: r, s =>
    match (s.ctxOf cid).bind fun c => s.applySpill c e with
    | some s => State.applySpills cid r s
    | none => s.modCtx cid fun c => { c with spill := e :: r }

/-- The spills of a context that is back go first. -/
def State.settleSpills (s : State) (cid : Nat) : State :=
  match s.ctxOf cid with
  | some c => if c.resident && !c.spill.isEmpty then State.applySpills cid c.spill s else s
  | none => s

/-- MAILBOX_WRITE_RETRY: what the mailbox of the context in `arg` refused is tried again, spills first, then the oldest entry. -/
def execMailboxWriteRetry (s : State) : Out :=
  match s.model.arg with
  | .n1 cid =>
    let s := s.settleSpills cid
    match s.bus.mails.find? fun m => m.1 == cid with
    | none => .next s
    | some m =>
      match s.postMail cid m.2 with
      | none => .next s
      | some s => .next { s with bus := { s.bus with mails := dropFirst (fun x => x.1 == cid) s.bus.mails } }
  | _ => .next s

/-- The oldest message of its sending thread to its station: the only one that may be performed next (R279). -/
def State.firstOfPair (s : State) (m : Msg) : Bool :=
  (s.bus.msgs.find? fun x => x.sender == m.sender && x.station == m.station) == some m

/-- MESSAGE_ARRIVE: the message at place `arg` among those on their way arrives. -/
def execMessageArrive (s : State) : Out :=
  match s.model.arg with
  | .n1 k =>
    match s.bus.msgs[k]? with
    | none => .next s
    | some m =>
      if s.firstOfPair m then
        match s.messageAt m with
        | none => .next s
        | some s => .next { s with bus := { s.bus with msgs := s.bus.msgs.filter fun x => x.id != m.id } }
      else .next s
  | _ => .next s

end Sys2Proof.Machine
end

