-- ==== Sys2Proof/Machine/QueueOps.lean ====
section
/-! DEFINITION. What happens at the homes of a queue: pushes, pops, reservations, markers, windows and numbers (R226, R264-R268). -/

namespace Sys2Proof.Machine

def State.queueOf (s : State) (q : Nat) : Option Queue := s.queues.find? fun x => x.id == q

def State.modQueue (s : State) (q : Nat) (f : Queue → Queue) : State := { s with queues := modifyFirst (fun x => x.id == q) f s.queues }

/-- A home that has not retired (R264). -/
def State.homeAlive (s : State) (h : HomeAt) : Bool :=
  match h with
  | .ctx c => (s.ctxOf c).isSome
  | .engine _ _ => true

def Queue.modHome (q : Queue) (h : HomeAt) (f : QHome → QHome) : Queue :=
  { q with homes := modifyFirst (fun x => x.at_ == h) f q.homes }

def Queue.home (q : Queue) (h : HomeAt) : Option QHome := q.homes.find? fun x => x.at_ == h

/-- Window items of a producer context at a home (R264). -/
def QHome.usedBy (h : QHome) (owner : Nat) : Nat := lookupD h.used owner 0

/-- Every live home has a free window place for the owner. -/
def State.windowFree (s : State) (q : Queue) (owner window : Nat) : Bool :=
  (q.homes.filter fun h => s.homeAlive h.at_).all fun h => decide (h.usedBy owner < window)

/-- Takes a window place of the owner at every live home. -/
def State.takeWindow (s : State) (q : Nat) (owner : Nat) : State :=
  let live := fun (h : QHome) => s.homeAlive h.at_
  s.modQueue q fun x => { x with homes := modifyAll live (fun h => { h with used := assign h.used owner (h.usedBy owner + 1) }) x.homes }

/-- Frees a window place of the owner at every home (a discarded QOUT, R268). -/
def State.freeWindow (s : State) (q : Nat) (owner : Nat) : State :=
  s.modQueue q fun x => { x with homes := x.homes.map fun h => { h with used := assign h.used owner (h.usedBy owner - 1) } }

/-- Places an item, with its producer's next number, at every live home (R226, R227). -/
def State.placeItem (s : State) (q : Nat) (owner : Nat) (source : BitVec 23) (data : List Byte) (bad : Bool) : State :=
  match s.queueOf q with
  | none => s
  | some x =>
    let n := lookupD x.seqs (owner, source) 0
    let it : QItem := ⟨source, owner, n, data, bad, none⟩
    let live := fun (h : QHome) => s.homeAlive h.at_
    s.modQueue q fun x =>
      { x with
        seqs := assign x.seqs (owner, source) ((n + 1) % 2 ^ 32)
        homes := modifyAll live (fun h => { h with entries := h.entries ++ [.item it] }) x.homes }

/-- A push (R264): RETIRED, BUSY, or OK with the item placed. -/
def State.push (s : State) (q : Nat) (owner window : Nat) (source : BitVec 23) (data : List Byte) : Status × State :=
  match s.queueOf q with
  | none => (stRetired, s)
  | some x =>
    if (x.homes.filter fun h => s.homeAlive h.at_).isEmpty then (stRetired, s)
    else if !s.windowFree x owner window then (stBusy, s)
    else (stOK, (s.takeWindow q owner).placeItem q owner source data false)

/-- What stands at the head of a home, items reserved by QIN skipped (R265). -/
def headOf : List QEntry → Option QEntry
  | [] => none
  | .marker n :: _ => some (.marker n)
  | .item i :: r => if i.reserved.isSome then headOf r else some (.item i)

/-- Removes that head. -/
def dropHead : List QEntry → List QEntry
  | [] => []
  | .marker _ :: r => r
  | .item i :: r => if i.reserved.isSome then .item i :: dropHead r else r

/-- Removes the head of a home; the popped item's credit starts on its way, or waits for the end of the protected superstep of the
context `keep` (R405). -/
def State.popHead (s : State) (q : Nat) (h : HomeAt) (keep : Option Nat) : State :=
  s.modQueue q fun x => x.modHome h fun y =>
    match headOf y.entries with
    | some (.item i) =>
      match keep with
      | some c => { y with entries := dropHead y.entries, popped := y.popped ++ [(c, i)] }
      | none => { y with entries := dropHead y.entries, credits := y.credits ++ [i.owner] }
    | _ => { y with entries := dropHead y.entries }

/-- WINDOW_CREDIT_RETURN: the oldest credit of a home reaches its producer (R264). -/
def execWindowCreditReturn (s : State) : Out :=
  match s.model.arg with
  | .n2 q k =>
    .next (s.modQueue q fun x => { x with homes := x.homes.modify k fun h =>
      match h.credits with
      | [] => h
      | o :: r => { h with credits := r, used := assign h.used o (h.usedBy o - 1) } })
  | _ => .next s

/-- Places a quiesce marker after every item of a home (R267). -/
def State.placeMarkers (s : State) (n : Nat) (p : Queue → QHome → Bool) : State :=
  { s with queues := s.queues.map fun x =>
      { x with homes := modifyAll (p x) (fun h => { h with entries := h.entries ++ [.marker n] }) x.homes } }

/-- Unreserved items ahead of the first marker (R314). -/
def itemsAhead : List QEntry → Nat
  | [] => 0
  | .marker _ :: _ => 0
  | .item i :: r => (if i.reserved.isSome then 0 else 1) + itemsAhead r

/-- Items held at a home. -/
def QHome.items (h : QHome) : List QItem := h.entries.filterMap fun e => match e with | .item i => some i | .marker _ => none

def QHome.hasMarker (h : QHome) : Bool := h.entries.any fun e => match e with | .marker _ => true | .item _ => false

/-- Reserves the next unreserved item for an invocation (R268); `none` when there is none; a marker reserves nothing. -/
def reserveNext (who : Nat × Nat) : List QEntry → Option (List QEntry × Option QItem)
  | [] => none
  | .marker n :: r => some (.marker n :: r, none)
  | .item i :: r =>
    if i.reserved.isSome then (reserveNext who r).map fun p => (.item i :: p.1, p.2)
    else some (.item { i with reserved := some who } :: r, some i)

/-- A discarded invocation's items return to the head in their former order (R268): the reservation mark goes. -/
def State.unreserve (s : State) (who : Nat × Nat) : State :=
  let f := fun (e : QEntry) => match e with
    | .item i => if i.reserved = some who then .item { i with reserved := none } else .item i
    | m => m
  { s with queues := s.queues.map fun x => { x with homes := x.homes.map fun h => { h with entries := h.entries.map f } } }

/-- A committed invocation's reserved items are removed, and their credits start on their way (R268). -/
def State.takeReserved (s : State) (who : Nat × Nat) (keep : Option Nat) : State :=
  let mine := fun (e : QEntry) => match e with | .item i => i.reserved == some who | .marker _ => false
  let f := fun (h : QHome) =>
    let got := (h.entries.filter mine).filterMap fun e => match e with | .item i => some i | .marker _ => none
    let h := { h with entries := h.entries.filter fun e => !mine e }
    match keep with
    | some c => { h with popped := h.popped ++ got.map fun i => (c, i) }
    | none => { h with credits := h.credits ++ got.map (·.owner) }
  { s with queues := s.queues.map fun x => { x with homes := x.homes.map f } }

end Sys2Proof.Machine
end

