-- ==== Sys2Proof/Machine/Sync.lean ====
section
/-! DEFINITION. Synchronisation domains, their episodes, and what completes them (R287-R292); snapshots and the end of a
protected superstep (R403, R405, R406). -/

namespace Sys2Proof.Machine

/-! ### Membership (R287, R288) -/

/-- The domain number of a context at a level, as its table numbers it: a station domain is the context's own, a die domain is
counted within its die. -/
def domainKey (c : Ctx) (level : Nat) : Nat :=
  match level with
  | 0 => c.id
  | 1 => (c.station / 24) * 256 + wbits c.dom 15 8
  | 2 => wbits c.dom 23 16
  | 3 => wbits c.dom 39 24
  | _ => wbits c.dom 55 40

/-- The number in k.dom at a level; 0 is no membership (level 0 always has one). -/
def domNumber (c : Ctx) (level : Nat) : Nat :=
  match level with
  | 0 => 1
  | 1 => wbits c.dom 15 8
  | 2 => wbits c.dom 23 16
  | 3 => wbits c.dom 39 24
  | _ => wbits c.dom 55 40

def inMask (c : Ctx) (t : Nat) : Bool := c.dom.getLsbD t && decide (t < 8)

def State.domainAt (s : State) (level key : Nat) : Option Domain := s.domains.find? fun d => d.level == level && d.number == key

def State.modDomain (s : State) (level key : Nat) (f : Domain → Domain) : State :=
  { s with domains := modifyFirst (fun d => d.level == level && d.number == key) f s.domains }

/-- A context of a domain's table is in the domain: its k.dom names it (R287). -/
def Domain.has (d : Domain) (c : Ctx) : Bool :=
  d.members.contains c.id && domNumber c d.level != 0 && domainKey c d.level == d.number

/-- Members (context, thread) in rank order: by context's rank, then thread index (R288). -/
def State.membersOf (s : State) (d : Domain) : List (Nat × Nat) :=
  d.members.flatMap fun cid =>
    match s.ctxOf cid with
    | none => ((d.far.filter fun f => f.id == cid).flatMap fun f => (List.range 8).filter f.mask.getLsbD).map fun t => (cid, t)
    | some c => if d.has c then ((List.range c.threads.length).filter (inMask c)).map fun t => (cid, t) else []

/-- Member contexts of this package. -/
def State.memberCtxs (s : State) (d : Domain) : List Nat := (s.ctxs.filter d.has).map (·.id)

/-- The domain that a thread belongs to at a level, if any. -/
def State.myDomain (s : State) (c : Ctx) (t level : Nat) : Option Domain :=
  if inMask c t && domNumber c level != 0 then
    (s.domainAt level (domainKey c level)).filter fun d => d.members.contains c.id
  else none

/-- Every domain that a k.dom value names lists the context (R287). -/
def State.domListed (s : State) (c : Ctx) : Bool :=
  [1, 2, 3, 4].all fun l =>
    domNumber c l == 0 || (match s.domainAt l (domainKey c l) with | some d => d.members.contains c.id | none => false)

/-- A thread of a context has joined an episode that has not completed. -/
def State.inEpisode (s : State) (cid t : Nat) : Bool :=
  s.domains.any fun d => d.episodes.any fun e => e.joins.any fun j => j.ctx == cid && j.thread == t

def freshDomain (level number : Nat) (members : List Nat) : Domain := ⟨level, number, members, [], 0, [], [], false⟩

/-- A row of a domain table: a context here as it is, another package's under a new identity. -/
def State.addMember (r : State × Domain) (m : DomMember) : State × Domain :=
  match m with
  | .here c => (r.1, { r.2 with members := r.2.members ++ [c] })
  | .far p mask =>
    let (id, s) := r.1.fresh
    (s, { r.2 with members := r.2.members ++ [id], far := r.2.far ++ [⟨id, p, mask⟩] })

/-- Service software defines or redefines a domain (R287, R292), whose episodes count from 0 again. While an episode of it is open it does
not (DESIGN CHOICE, log 71). -/
def State.defineDomain (s : State) (level number : Nat) (ms : List DomMember) : State :=
  let busy : Bool := match s.domainAt level number with | some d => !d.episodes.isEmpty | none => false
  if level = 0 ∨ 4 < level ∨ busy = true then s
  else
    let (s, d) := ms.foldl State.addMember (s, freshDomain level number [])
    { s with domains := (s.domains.filter fun x => !(x.level == level && x.number == number)) ++ [d] }

/-! ### Reductions (R290) -/

/-- Comb of R290: type 0 S64, 1 N64, 2 FP64, 3 FP32; op 0 add, 1 min, 2 max, 3 and, 4 or, 5 xor. -/
def comb (op ty : Nat) (x y : Word) : Word × Flags :=
  if ty ≤ 1 then
    let less := if ty = 0 then x.slt y else x.ult y
    (match op with
      | 0 => x + y
      | 1 => if less then x else y
      | 2 => if less then y else x
      | 3 => x &&& y
      | 4 => x ||| y
      | _ => x ^^^ y, 0)
  else
    let F := if ty = 2 then fp64 else fp32
    let a := x.toNat % 2 ^ F.width
    let b := y.toNat % 2 ^ F.width
    let r := match op with
      | 0 => fAddVal F (F.decode a) (F.decode b) .rne 0
      | 1 => fMinMax F false a b
      | _ => fMinMax F true a b
    (w64 r.1, r.2)

/-- One level of FoldTree: adjacent pairs, a last single value passes. -/
def foldLevel (op ty : Nat) : List Word → List Word × Flags
  | x :: y :: r => let c := comb op ty x y; let t := foldLevel op ty r; (c.1 :: t.1, c.2 ||| t.2)
  | l => (l, 0)

/-- The levels of FoldTree (R290); `fuel` bounds them. -/
def foldTree (op ty : Nat) : (fuel : Nat) → List Word → Word × Flags
  | 0, l => (l.headD 0, 0)
  | f + 1, l =>
    if l.length ≤ 1 then (l.headD 0, 0)
    else let t := foldLevel op ty l; let r := foldTree op ty f t.1; (r.1, t.2 ||| r.2)

/-- FoldTree of R290: each level leaves at most half of the values, so their number bounds the levels. -/
def foldAll (op ty : Nat) (l : List Word) : Word × Flags := foldTree op ty l.length l

/-! ### Ends of supersteps (R405, R406) -/

/-- The held pushes of a context are performed in issue order (R405). Their window places were taken when they were issued. -/
def State.flushHeld (s : State) (cid : Nat) : State :=
  match s.ctxOf cid with
  | none => s
  | some c =>
    let s := c.held.foldl (fun s h => s.placeItem h.queue cid h.source h.data false) s
    s.modCtx cid fun c => { c with held := [] }

/-- The superstep of a context ends: held pushes are performed, credits of its pops start on their way, undo entries go. -/
def State.endSuperstep (s : State) (cid : Nat) : State :=
  let s := s.flushHeld cid
  let mine := fun (p : Nat × QItem) => p.1 == cid
  let f := fun (h : QHome) =>
    { h with credits := h.credits ++ (h.popped.filter mine).map (fun p => p.2.owner), popped := h.popped.filter fun p => !mine p }
  let s := { s with queues := s.queues.map fun (x : Queue) => { x with homes := x.homes.map f } }
  s.modCtx cid fun c => { c with prot := 0, undoLog := [], undoPas := [], journals := [], snap := none }

/-- A member context takes its snapshot (R403), and k.prot reads 1 with the episode.
The manual does not give the layout of the snapshot in the undo area: its bytes are free values (log 13). An undo area that does
not translate to local memory counts as not enabled (log 13): the snapshot has no frames then. -/
def State.takeSnapshot (s : State) (cid level number episode : Nat) : State :=
  match s.ctxOf cid with
  | none => s
  | some c =>
    let threads := (List.range c.threads.length).filterMap fun i => s.ctxThr cid i
    let regs := (s.regions.filter fun r => r.ctx == cid).map fun r => (r.handle, r.frames, r.ags, r.blocks.map (·.disp))
    let seqs := s.queues.flatMap fun q => (q.seqs.filter fun p => p.1.1 == cid).map fun p => (q.id, p.1.2, p.2)
    let sn : Snapshot := { episode, level, number, threads, counters := c.counters, mailbox := c.mailbox, tiles := c.tiles, tags := c.tags,
                           recency := c.recency, vflags := c.vflags, regions := regs, qseqs := seqs
                           doms := s.domains.map fun d => ⟨d.level, d.number, d.count, d.joined⟩ }
    let (s, ps) := if c.undo.getLsbD 0 then xlatePages (.station c.station) c.asid .w c.service 16 (wbits c.undo 55 16 * 0x10000) s
      else (s, .permission)
    let frames := match ps with | .ok fs => if fs.all fun f => (s.home f).isMem then some fs else none | _ => none
    let s := match frames with
      | none => s
      | some fs => let (k, s) := s.fresh; State.writePaged none fs 2048 0 ((List.range 0x20000).map (Config.freeByte k)) s
    s.modCtx cid fun c =>
      { c with snap := some sn, prot := w64 1 ||| w64 episode <<< 32, undoLog := [], undoPas := frames.getD [], journals := [] }

/-- Every member context takes its snapshot; when one of them has no undo area, all are unprotected for reason 4 (R404). -/
def State.snapshotAll (s : State) (cs : List Nat) (level number episode : Nat) : State :=
  let s := cs.foldl (fun s c => s.takeSnapshot c level number episode) s
  match s.ctxs.find? fun c => cs.contains c.id && c.undoPas.isEmpty with
  | some c => s.unprotect c.id 4
  | none => s

/-! ### Episodes (R288-R292) -/

/-- Regions of the members have ended their invocations in flight (R403). -/
def State.membersQuiet (s : State) (d : Domain) : Bool := s.regions.all fun r => !(s.memberCtxs d).contains r.ctx || r.invs.isEmpty

/-- Every member has joined the episode. -/
def State.allJoined (s : State) (d : Domain) (e : Episode) : Bool :=
  (s.membersOf d).all fun m => e.joins.any fun j => j.ctx == m.1 && j.thread == m.2

/-- All joiners use one form with one ga. -/
def sameForm (e : Episode) : Bool :=
  match e.joins with
  | [] => true
  | j :: r => r.all fun x => x.form == j.form && x.ga == j.ga

def sstatWord (st : Status) (level episode : Nat) : Word := w64 (st.toNat + level * 2 ^ 8 + (episode % 2 ^ 32) * 2 ^ 32)

/-- What an episode's completion does to the registers of a joiner that waits in BAR, BARSNAP or REDUCE: it ends, past its word
(R289, R290). -/
def Thr.joined (t : Thr) (level : Nat) (e : Episode) (st : Status) (value : Word) (fl : Flags) (j : Join) : Thr :=
  let t := { t with sstat := sstatWord st level e.num, wait := .none, fflags := orFlags t.fflags fl, pc := t.pc + 4 }
  t.setReg j.gd (if j.form = .reduce then value else w64 (st.toNat + (e.num % 2 ^ 32) * 2 ^ 32))

/-- A thread record of a context that is out gets the outcome (R292, R399). -/
def State.patchJoined (s : State) (c : Ctx) (i : Nat) (t : Thr) (gd : Reg) : State :=
  let at_ := 0x100 + 512 * i
  let s := if gd = 0 then s else s.patchArea c (at_ + 8 * gd.toNat) (bytesOf 8 (t.reg gd).toNat)
  let s := s.patchArea c (at_ + 0x148) (bytesOf 8 t.fflags.toNat)
  let s := s.patchArea c (at_ + 0x158) (bytesOf 8 t.sstat.toNat)
  s.patchArea c (at_ + 0x180) (bytesOf 8 0)

/-- Delivers an episode's outcome to one joiner. DONE has ended long before. -/
def State.deliver (s : State) (level : Nat) (e : Episode) (st : Status) (value : Word) (fl : Flags) (j : Join) : State :=
  match j.form with
  | .done => s
  | _ =>
    let s := s.modCtxThr j.ctx j.thread fun t => t.joined level e st value fl j
    match s.ctxOf j.ctx with
    | none => s
    | some c => if c.resident then s else s.patchJoined c j.thread (c.threads.getD j.thread (Thr.zero .never 0 0)) j.gd

/-- Completes an episode with a status (R288, R291, R292). -/
def State.completeEpisode (s : State) (d : Domain) (e : Episode) (st : Status) : State :=
  let form := (e.joins.map (·.form)).headD .bar
  let ga := (e.joins.map (·.ga)).headD 0
  let ms := s.membersOf d
  let values := ms.filterMap fun m => (e.joins.find? fun j => j.ctx == m.1 && j.thread == m.2).map (·.value)
  let (v, fl) := if st = stOK ∧ form = .reduce then foldAll (wbits ga 6 4) (wbits ga 9 8) values else (0, 0)
  -- the flags of a reduction go to every member, through its own join
  let s := e.joins.foldl (fun s j => s.deliver d.level e st v fl j) s
  let s := if e.joins.any fun j => j.form == .done then
      s.mail ((ms.map (·.1)).headD 0)
        (entryOf [(e.num % 2 ^ 32, 96), (d.level, 88), (st.toNat, 40), (0x18, 32), (ms.length, 0)])
    else s
  let ends := e.joins.any fun j => j.form != .done
  -- a BAR, BARSNAP or REDUCE at the snapshot's level ends the superstep, whatever its status (R406)
  let here := s.memberCtxs d
  let s := if ends then here.foldl (fun s c =>
      match s.ctxOf c with
      | some x => (match x.snap with | some sn => if sn.level = d.level then s.endSuperstep c else s | none => s)
      | none => s) s
    else s
  let s := if st = stOK ∧ form = .barsnap then s.snapshotAll here d.level d.number e.num else s
  s.modDomain d.level d.number fun d => { d with count := e.num + 1, episodes := d.episodes.filter fun x => x.num != e.num }

/-- Whether the oldest open episode of a domain can complete, and with which status. A BARSNAP waits until the members' regions
have ended their invocations in flight (R403). -/
def State.episodeReady (s : State) (d : Domain) (e : Episode) : Option Status :=
  if d.broken then some stAborted
  else if s.allJoined d e then
    if !sameForm e then some stDenied
    else if e.joins.all (fun j => j.form == .barsnap) && !s.membersQuiet d then none
    else some stOK
  else none

/-- Completes what can complete in one domain; `fuel` bounds the open episodes. -/
def State.settleDomain : (fuel : Nat) → (level key : Nat) → State → State
  | 0, _, _, s => s
  | f + 1, level, key, s =>
    match s.domainAt level key with
    | none => s
    | some d =>
      match d.episodes with
      | [] => s
      | e :: _ =>
        match s.episodeReady d e with
        | none => s
        | some st => State.settleDomain f level key (s.completeEpisode d e st)

/-- Completes what can complete in every domain. -/
def State.settle (s : State) : State :=
  s.domains.foldl (fun s d => State.settleDomain (d.episodes.length + 1) d.level d.number s) s

/-- A BARSNAP episode that every member has joined holds back dispatch in the members' regions (R403). -/
def State.snapHold (s : State) (cid : Nat) : Bool :=
  s.domains.any fun d => (s.memberCtxs d).contains cid && !d.broken &&
    match d.episodes with
    | [] => false
    | e :: _ => s.allJoined d e && sameForm e && e.joins.all (fun j => j.form == .barsnap)

/-- A member joins its next episode (R288): the episode's number, and the state with the join. -/
def State.join (s : State) (d : Domain) (j : Join) : Nat × State :=
  let n := max d.count (lookupD d.joined (j.ctx, j.thread) d.count)
  let add := fun (d : Domain) =>
    let eps := if d.episodes.any fun e => e.num == n then
        modifyFirst (fun e => e.num == n) (fun e => { e with joins := e.joins ++ [j] }) d.episodes
      else d.episodes ++ [⟨n, [j]⟩]
    { d with episodes := eps, joined := assign d.joined (j.ctx, j.thread) (n + 1) }
  (n, s.modDomain d.level d.number add)

/-- A member retires (R292): every open episode of its domains completes ABORTED, and so do later ones. -/
def State.breakDomains (s : State) (cid : Nat) : State :=
  let s := { s with domains := modifyAll (fun d => (s.memberCtxs d).contains cid) (fun d => { d with broken := true }) s.domains }
  s.settle

/-- The link service enters a context in a domain that lists it: its k.dom names the domain from then on (R287). A mask thread in an open
episode holds it back, as with a PUTK. -/
def State.enterDomain (s : State) (cid level number : Nat) : State :=
  match s.ctxOf cid with
  | none => s
  | some c =>
    let put := fun (lo n : Nat) => (c.dom &&& ~~~ w64 ((2 ^ n - 1) * 2 ^ lo)) ||| w64 (number % 2 ^ n * 2 ^ lo)
    let v := match level with | 3 => put 24 16 | 4 => put 40 16 | _ => c.dom
    if s.domListed { c with dom := v } = false ∨ ((List.range 8).any fun t => c.dom.getLsbD t && s.inEpisode cid t) = true then s
    else (s.modCtx cid fun c => { c with dom := v }).settle

end Sys2Proof.Machine
end

