-- ==== Sys2Proof/Machine/Tables.lean ====
section
/-! DEFINITION. The tag table (R251-R253), the tile table (R254-R258) and address-generator records (R248-R250). -/

namespace Sys2Proof.Machine

/-- A form of majors 0x1B to 0x20 that needs a context: in a dome-close handler it writes DENIED and does nothing (R422); in an
engine hart, which has no context tables, `harts` answers (log 14). -/
def State.withCtx (s : State) (d : Reg) (harts : State → State) (body : Ctx → State → State) : State :=
  if s.inHandler then s.finishStatus d stDenied
  else match s.myCtx with
    | some c => body c s
    | none => harts s

/-! ### Tags -/

def Ctx.tagSets (c : Ctx) : Nat := 16 * c.partUnits
def Ctx.tagAt (c : Ctx) (i : Nat) : Tag := lookupD c.tags i ⟨false, false, 0, 0⟩
/-- Ways of a set, the most recent first. -/
def Ctx.waysOf (c : Ctx) (set : Nat) : List Nat := lookupD c.recency set [0, 1, 2, 3, 4, 5, 6, 7]
/-- Makes an entry the most recent of its set. -/
def Ctx.touch (c : Ctx) (i : Nat) : Ctx :=
  { c with recency := assign c.recency (i / 8) (i % 8 :: (c.waysOf (i / 8)).filter (· ≠ i % 8)) }
/-- The entry of a granule, if any. -/
def Ctx.findTag (c : Ctx) (g : Nat) : Option Nat :=
  (List.range 8).findSome? fun w =>
    let i := 8 * (g % c.tagSets) + w
    if (c.tagAt i).valid && (c.tagAt i).granule == g then some i else none
/-- The victim of a set (R252): the lowest invalid way, else the least recent. -/
def Ctx.victim (c : Ctx) (set : Nat) : Nat :=
  match (List.range 8).find? fun w => !(c.tagAt (8 * set + w)).valid with
  | some w => 8 * set + w
  | none => 8 * set + (c.waysOf set).getLastD 0

/-- gd of TLOOK. -/
def tlookWord (hit : Bool) (i : Nat) (t : Tag) : Word :=
  w64 (boolNat hit * 2 ^ 63 + boolNat t.valid * 2 ^ 62 + boolNat t.dirty * 2 ^ 61 + i * 2 ^ 32 + t.slot)

/-- TLOOK (R252). An operand carries its address in [55:0] (R27); the search is no access, so higher bits are not looked at (DEDUCED, log 15). -/
def execTlook (d a : Reg) (s : State) : Out :=
  issue (.tlook d a) (.plain [d, a]) s fun s =>
    s.withCtx d (·.illegal (.tlook d a)) fun c s =>
      let g := wbits (s.reg a) 55 12
      match c.findTag g with
      | some i => (s.modCtx c.id (·.touch i)).finish d (tlookWord true i (c.tagAt i))
      | none => let v := c.victim (g % c.tagSets); s.finish d (tlookWord false v (c.tagAt v))

/-- TINS (R252). Address bits [63:56] and the bits of gb outside its fields are not looked at, and a second insertion of a granule that
names the entry of the first is no other entry of the set, so it writes the entry again (DESIGN CHOICE, log 15). -/
def execTins (d a b : Reg) (s : State) : Out :=
  issue (.tins d a b) (.plain [d, a, b]) s fun s =>
    s.withCtx d (·.illegal (.tins d a b)) fun c s =>
      let va := s.reg a
      let v := s.reg b
      let i := wbits v 43 32
      let slot := wbits v 10 0
      let g := wbits va 55 12
      if 128 * c.partUnits ≤ i ∨ 64 * c.partUnits ≤ slot ∨ wbits va 11 0 ≠ 0 then s.illegal (.tins d a b)
      else
        let other := match c.findTag g with | some j => j != i | none => false
        if i / 8 ≠ g % c.tagSets ∨ other = true then s.finishStatus d stDenied
        else
          let t : Tag := ⟨true, wbit v 61, g, slot⟩
          (s.modCtx c.id fun c => ({ c with tags := assign c.tags i t }).touch i).finishStatus d stOK

/-- TINV (R252): G fills [55:12] of the answer. The bits of ga above the index are not looked at (DESIGN CHOICE, log 15). -/
def execTinv (d a : Reg) (s : State) : Out :=
  issue (.tinv d a) (.plain [d, a]) s fun s =>
    s.withCtx d (·.illegal (.tinv d a)) fun c s =>
      let i := wbits (s.reg a) 11 0
      if 128 * c.partUnits ≤ i then s.illegal (.tinv d a)
      else
        let t := c.tagAt i
        let old := w64 (boolNat t.valid * 2 ^ 63 + boolNat t.dirty * 2 ^ 62 + t.granule % 2 ^ 44 * 2 ^ 12 + t.slot)
        (s.modCtx c.id fun c => { c with tags := assign c.tags i { t with valid := false } }).finish d old

/-! ### Tiles -/

/-- An entry that no TDEF or declaration has defined: EMPTY, without elements. -/
def Tile.zero : Tile := ⟨.empty, 0, 0, false, [], 0, 0⟩

/-- Tile `i` of a context; none at or above 16n (R254). -/
def Ctx.tileAt (c : Ctx) (i : Nat) : Option Tile := if i < 16 * c.partUnits then some (lookupD c.tiles i Tile.zero) else none

def Ctx.setTile (c : Ctx) (i : Nat) (f : Tile → Tile) : Ctx := { c with tiles := assign c.tiles i (f (lookupD c.tiles i Tile.zero)) }

/-- Bytes of a row of elements (R255). -/
def Tile.rowBytes (t : Tile) : Nat := ceilDiv (t.extents.headD 0 * tyWidth t.fmt) 8
def Tile.rows (t : Tile) : Nat := t.extents.tail.foldl (· * ·) 1
def Tile.bytes (t : Tile) : Nat := if t.extents.isEmpty then 0 else t.rowBytes * t.rows
def Tile.scaleBytes (t : Tile) : Nat := if t.mx then ceilDiv (t.extents.headD 0) 32 * t.rows else 0
def Tile.count (t : Tile) : Nat := if t.extents.isEmpty then 0 else t.extents.foldl (· * ·) 1

/-- The gang's context on a station (R254). A gang may have several there (R277), and R254 does not say which one a tile index names: the
first in declaration order (DESIGN CHOICE, log 76). -/
def State.gangCtxOn (s : State) (gang st : Nat) : Option Ctx :=
  (s.ctxs.filter fun c => c.gang == gang && c.station == st).foldl
    (fun o c => match o with | none => some c | some x => if c.index < x.index then some c else o) none

/-- The context and entry of a tile named from a gang by station and index. -/
def State.tileOf (s : State) (gang st i : Nat) : Option (Ctx × Tile) :=
  match s.gangCtxOn gang st with
  | none => none
  | some c => (c.tileAt i).map fun t => (c, t)

def State.modTile (s : State) (cid i : Nat) (f : Tile → Tile) : State := s.modCtx cid (·.setTile i f)

def tileCode : TileState → Nat | .empty => 0 | .filling => 1 | .ready => 2 | .draining => 3

def isEFormat (f : Nat) : Bool := decide (4 ≤ f) && decide (f ≤ 8)

/-- The descriptor of TDEF in m0 to m3; none when malformed (R255). -/
def tileOfDesc (m0 m1 m2 m3 : Word) : Option Tile :=
  let fmt := wbits m0 35 32
  let mx := wbit m0 36
  let rank := wbits m0 39 37
  let es := [wbits m1 31 0, wbits m1 63 32, wbits m2 31 0, wbits m2 63 32]
  let used := es.take rank
  let scale := wbits m3 22 0
  if wbits m0 31 23 ≠ 0 ∨ wbits m0 5 0 ≠ 0 ∨ wbits m0 63 40 ≠ 0 ∨ wbits m3 63 23 ≠ 0 ∨ scale % 64 ≠ 0 ∨ (!mx ∧ scale ≠ 0)
      ∨ rank < 1 ∨ 4 < rank ∨ (mx ∧ !isEFormat fmt) ∨ used.any (· == 0) ∨ (es.drop rank).any (· != 0) then none
  else some ⟨.empty, wbits m0 22 0, BitVec.ofNat 4 fmt, mx, used, scale, 0⟩

/-- TDEF (R255). -/
def execTdef (d a : Reg) (s : State) : Out :=
  issue (.tdef d a) (.plain [d, a]) s fun s =>
    s.withCtx d (·.illegal (.tdef d a)) fun c s =>
      let v := s.reg a
      let i := wbits v 8 0
      match tileOfDesc (s.msg 0) (s.msg 1) (s.msg 2) (s.msg 3), c.tileAt i with
      | some t, some old =>
        if wbits v 63 9 ≠ 0 then s.illegal (.tdef d a)
        else if old.state ≠ .empty ∨ 0 < old.pins then s.finishStatus d stBusy
        else if c.partSize < t.base + t.bytes ∨ c.partSize < t.scale + t.scaleBytes then s.finishStatus d stDenied
        else (s.modTile c.id i fun _ => t).finishStatus d stOK
      | _, _ => s.illegal (.tdef d a)

/-- A change of state that TSTAT may request (R256), with the status it gets. -/
def tstatMove (t : Tile) (want : Nat) : Status :=
  if t.state = .empty ∧ want = 2 then stOK
  else if t.state = .ready ∧ want = 0 then (if 0 < t.pins then stBusy else stOK)
  else stDenied

/-- TSTAT (R258): setting READY releases at `.pkg`. -/
def execTstat (d a b : Reg) (s : State) : Out :=
  issue (.tstat d a b) (.plain [d, a, b]) s fun s =>
    s.withCtx d (·.illegal (.tstat d a b)) fun c s =>
      let v := s.reg a
      let r := s.reg b
      let i := wbits v 8 0
      match c.tileAt i with
      | none => s.illegal (.tstat d a b)
      | some t =>
        if wbits v 63 9 ≠ 0 ∨ wbits r 63 3 ≠ 0 ∨ (!wbit r 2 ∧ wbits r 1 0 ≠ 0) then s.illegal (.tstat d a b)
        else
          let out := fun (x : TileState) (st : Status) => w64 (tileCode x + 4 * boolNat (decide (0 < t.pins)) + st.toNat * 2 ^ 8)
          if wbit r 2 then
            let st := tstatMove t (wbits r 1 0)
            if st = stOK then
              if wbits r 1 0 = 2 ∧ s.mustRelease .pkg (stationHome c.station) then s.waitAccess
              else
                let x : TileState := if wbits r 1 0 = 2 then .ready else .empty
                (s.modTile c.id i fun t => { t with state := x }).finish d (out x stOK)
            else s.finish d (out t.state st)
          else s.finish d (out t.state stOK)

/-- TWAIT (R258). -/
def execTwait (d a : Reg) (s : State) : Out :=
  issue (.twait d a) (.plain [d, a]) s fun s =>
    s.withCtx d (·.illegal (.twait d a)) fun c s =>
      let v := s.reg a
      match c.tileAt (wbits v 8 0) with
      | none => s.illegal (.twait d a)
      | some t =>
        if wbits v 63 9 ≠ 0 then s.illegal (.twait d a)
        else match t.state with
          | .ready => s.finishStatus d stOK
          | .empty => s.finishStatus d stEmpty
          | _ => s.waitFor (.tile (wbits v 8 0))

/-! ### Address-generator records -/

def State.regionOf (s : State) (h : Nat) : Option Region := s.regions.find? fun r => r.handle == h
def State.modRegion (s : State) (h : Nat) (f : Region → Region) : State := { s with regions := modifyFirst (fun r => r.handle == h) f s.regions }

/-- The record of AGSET in m0 to m6 (R250); none when malformed. -/
def agOfDesc (m : Fin 8 → Word) : Option AgRec :=
  let rank := wbits (m 1) 2 0
  let es := [wbits (m 1) 63 32, wbits (m 2) 31 0, wbits (m 2) 63 32, wbits (m 3) 31 0, wbits (m 3) 63 32]
  let ss := [wbits (m 4) 31 0, wbits (m 4) 63 32, wbits (m 5) 31 0, wbits (m 5) 63 32, wbits (m 6) 31 0]
  if wbits (m 0) 63 56 ≠ 0 ∨ wbits (m 1) 7 3 ≠ 0 ∨ wbits (m 1) 31 9 ≠ 0 ∨ wbits (m 6) 63 32 ≠ 0 ∨ m 7 ≠ 0 ∨ rank < 1 ∨ 5 < rank
      ∨ (es.take rank).any (· == 0) ∨ (es.drop rank).any (· != 0) ∨ (ss.drop rank).any (· != 0) then none
  else some ⟨rank, wbit (m 1) 8, wbits (m 0) 55 0, es.take rank, (ss.take rank).map fun x => signedOf x 32⟩

/-- Changes an AG record of a region of the issuing context; DENIED for any other region (R250). -/
def State.putAg (s : State) (c : Ctx) (d : Reg) (h k : Nat) (f : AgRec → AgRec) : State :=
  match s.regionOf h with
  | none => s.finishStatus d stDenied
  | some r =>
    if r.ctx ≠ c.id then s.finishStatus d stDenied
    else (s.modRegion h fun r => { r with ags := r.ags.setIfInBounds k (f (r.ags.toArray.getD k AgRec.zero)) }).finishStatus d stOK

/-- AGSET (R250). m7 is outside the table, so reserved. -/
def execAgset (d a : Reg) (s : State) : Out :=
  issue (.agset d a) (.plain [d, a]) s fun s =>
    s.withCtx d (·.finishStatus d stDenied) fun c s =>
      let v := s.reg a
      match agOfDesc s.msg with
      | none => s.illegal (.agset d a)
      | some r => if wbits v 63 19 ≠ 0 then s.illegal (.agset d a) else s.putAg c d (wbits v 15 0) (wbits v 18 16) fun _ => r

/-- Selector of AGPARM: 0 the base, k the extent e(k − 1). -/
def agParam (r : AgRec) (sel : Nat) (v : Word) : AgRec :=
  if sel = 0 then { r with base := wbits v 55 0 } else { r with e := r.e.set (sel - 1) (wbits v 31 0) }

/-- AGPARM (R250). A rank of 0 in the record makes every extent selector one above the rank; the base of such a record is written (DESIGN
CHOICE, log 76). -/
def execAgparm (d a b : Reg) (s : State) : Out :=
  issue (.agparm d a b) (.plain [d, a, b]) s fun s =>
    s.withCtx d (·.finishStatus d stDenied) fun c s =>
      let v := s.reg a
      let x := s.reg b
      let sel := wbits v 22 20
      let bad := wbits v 63 23 ≠ 0 ∨ wbit v 19 ∨ 5 < sel ∨ (sel = 0 ∧ wbits x 63 56 ≠ 0) ∨ (0 < sel ∧ (wbits x 63 32 ≠ 0 ∨ wbits x 31 0 = 0))
      if bad then s.illegal (.agparm d a b)
      else
        match s.regionOf (wbits v 15 0) with
        | some r =>
          if r.ctx = c.id ∧ (r.ags.toArray.getD (wbits v 18 16) AgRec.zero).rank < sel then s.illegal (.agparm d a b)
          else s.putAg c d (wbits v 15 0) (wbits v 18 16) fun r => agParam r sel x
        | none => s.finishStatus d stDenied

end Sys2Proof.Machine
end

