-- ==== Sys2Proof/Machine/Recovery.lean ====
section
/-! DEFINITION. How invocations, streams and contexts end without completing: discard (R94, R116), retirement (R39), containment
(R395), rollback (R406), and what consuming poison leads to (R409). -/

namespace Sys2Proof.Machine

/-! ### Invocations -/

/-- The stream bound to a region's slot in a direction (R180, R272). -/
def State.streamAt (s : State) (h slot : Nat) (write : Bool) : Option Stream :=
  s.streams.find? fun x => x.requester == .region h slot && x.write == write

def State.modStream (s : State) (ctl str : Nat) (f : Stream → Stream) : State :=
  { s with streams := modifyFirst (fun x => x.ctl == ctl && x.str == str) f s.streams }

/-- Pins of an invocation end (R257). -/
def State.unpin (s : State) (pins : List (Nat × Nat)) : State :=
  pins.foldl (fun s p => s.modTile p.1 p.2 fun t => { t with pins := t.pins - 1 }) s

/-- Changes the replay windows of the read streams that a region's slots name. -/
def State.modHalves (s : State) (h : Nat) (f : List Half → List Half) : State :=
  let mine := fun (x : Stream) => !x.write && (match x.requester with | .region k _ => k == h | .tile _ _ => false)
  { s with streams := modifyAll mine (fun x => { x with halves := f x.halves }) s.streams }

/-- Undoes what a running invocation holds: reserved items return (R268), window places of held items free, delivered stream halves
come back (R184). -/
def State.undoInv (s : State) (r : Region) (i : Inv) : State :=
  let s := s.unreserve (r.handle, i.id)
  let s := i.items.foldl (fun s h =>
    match (s.ctxOf r.ctx).bind fun c => lookup c.bindings h.handle with
    | some b => s.freeWindow b.queue r.ctx
    | none => s) s
  s.modHalves r.handle (·.map fun h => if h.taker = some i.id then { h with taker := none } else h)

/-- Removes an invocation from its region: it gives up its place (R116), and its pins end. -/
def State.removeInv (s : State) (h : Nat) (i : Inv) : State :=
  (s.unpin i.pins).modRegion h fun r => { r with invs := r.invs.filter fun x => x.id != i.id }

/-- An invocation's tokens, held stores, flags and counters go; it keeps its place, latched values and pins (R116, R408). -/
def Inv.fresh (i : Inv) : Inv :=
  { id := i.id, work := i.work, srseed := i.srseed, vtrap := i.vtrap, ags := i.ags, trips := i.trips, mismatches := i.mismatches, pins := i.pins }

/-- A discard that leaves its place (R94). -/
def State.dropInv (s : State) (r : Region) (i : Inv) : State := ((s.undoInv r i).removeInv r.handle i).count 2

/-- A discard that keeps its place and runs again (R116). -/
def State.rerunInv (s : State) (r : Region) (i : Inv) : State :=
  ((s.undoInv r i).modRegion r.handle fun x => { x with invs := modifyFirst (fun y => y.id == i.id) Inv.fresh x.invs }).count 2

/-- The completion of a matrix command (R148). -/
def commandEntry (c : Command) (num invalids overflows sats : Nat) (st : Status) : BitVec 128 :=
  entryOf [(num % 2 ^ 32, 96), (invalids, 80), (overflows, 64), (sats, 48), (st.toNat, 40), (c.kind, 32), (wbits (c.desc[0]) 31 0, 0)]

/-- Discards every invocation of a region; commands among them answer with `st` when it is given. -/
def State.dropAll (s : State) (r : Region) (st : Option Status) : State :=
  r.invs.foldl (fun s i =>
    let s := s.dropInv r i
    match i.work, st with
    | .command c, some st =>
      (s.mail c.sender.1 (commandEntry c c.number 0 0 0 st)).modRegion r.handle fun r => { r with lastCmd := some c.number }
    | _, _ => s) s

/-! ### Streams -/

/-- The tile of a stream's requester side changes state when the stream ends (R183, R256). -/
def State.releaseTile (s : State) (x : Stream) : State :=
  match x.requester, s.ctxOf x.ctx with
  | .tile st i, some c =>
    match s.tileOf c.gang st i with
    | some (d, _) => if x.moving then s else s.modTile d.id i fun t => { t with state := if x.write then .empty else .ready }
    | none => s
  | _, _ => s

/-- Removes a stream without a completion (R203). -/
def State.dropStream (s : State) (x : Stream) : State :=
  let s := s.releaseTile x
  { s with streams := s.streams.filter fun y => !(y.ctl == x.ctl && y.str == x.str) }

/-! ### Retirement (R39) -/

def Segment.guaranteed (x : Segment) : Bool := decide (x.cls < 3)

/-- Keep-alive ends when the last guaranteed DRAM segment of the package goes (R413). -/
def State.settleKeepAlive (s : State) : State :=
  let need := s.ctxs.any fun c => c.segments.any fun x => x.guaranteed && !x.spad
  if s.dome.keepAlive && !need then { s with dome := { s.dome with keepAlive := false, hbudget := s.dome.hbudget + 350000 } } else s

/-- Returns the charges of a context (R413). -/
def State.returnCharges (s : State) (c : Ctx) : State :=
  { s with dome := { s.dome with hbudget := s.dome.hbudget + c.charge } }

/-- Clears a partition and its poison (R39). -/
def State.clearPartition (s : State) (c : Ctx) : State :=
  let lo := c.partAddr 0
  let hi := c.partAddr c.partSize
  { s with mem := s.mem.filter fun p => !(decide (lo ≤ p.1) && decide (p.1 < hi)),
           poison := s.poison.filter fun g => !(decide (lo ≤ g * 64) && decide (g * 64 < hi)) }

/-- Queued commands of a region whose owner retires complete ABORTED (R148); an MSTAT among them, which has no number, is answered as one
that arrives after the retirement is (DEDUCED, log 46). -/
def State.abortQueued (s : State) (r : Region) : State :=
  r.cmds.foldl (fun s e =>
    match e with
    | .cmd c => s.mail c.sender.1 (commandEntry c c.number 0 0 0 stAborted)
    | .stat who tag => s.mail who.1 (entryOf [(0xFFFFFFFF, 96), (stAborted.toNat, 40), (3, 32), (tag.toNat, 0)])
    | .marker _ => s) s

/-- A gang whose last context has gone leaves its graphs and its queues (R35, R177). -/
def State.endGang (s : State) (g : Nat) : State :=
  if s.ctxs.any fun c => c.gang == g then s
  else
    { s with gangs := s.gangs.filter fun x => x.id != g, graphs := s.graphs.filter fun x => x.gang != g,
             queues := s.queues.filter fun q => !(q.gang == some g) }

/-- Ownership of a directory entry ends with its owner (R429). -/
def Plate.disown (cid : Nat) (p : Plate) : Plate := if p.owner = some cid then { p with owner := none } else p

/-! ### Gangs and their quiesce (R267, R324) -/

def State.gangOf (s : State) (g : Nat) : Option Gang := s.gangs.find? fun x => x.id == g
def State.modGang (s : State) (g : Nat) (f : Gang → Gang) : State := { s with gangs := modifyFirst (fun x => x.id == g) f s.gangs }

/-- A region belongs to a gang through its owner context. -/
def State.inGang (s : State) (g : Nat) (r : Region) : Bool := match s.ctxOf r.ctx with | some c => c.gang == g | none => false
def State.gangRegions (s : State) (g : Nat) : List Region := s.regions.filter (s.inGang g)
def State.homeInGang (s : State) (g : Nat) (h : HomeAt) : Bool :=
  match h with
  | .ctx id => (match s.ctxOf id with | some c => c.gang == g | none => false)
  | .engine _ _ => false

/-- A quiescing gang whose regions have all stopped is at rest. -/
def State.settleQuiesce (s : State) (g : Nat) : State :=
  if (s.gangRegions g).all (·.stopped) then s.modGang g fun x => if x.qstate = 1 then { x with qstate := 2 } else x else s

/-- A context retires: threads stop, regions and partition return, its tables are cleared, its streams and engine items end without
a completion, and no record class is for such an item (R39, R203, R297, R14; log 32). A quiesce that waited for its regions alone is at rest
(R324). -/
def State.retireCtx (s : State) (cid : Nat) : State :=
  match s.ctxOf cid with
  | none => s
  | some c =>
    -- the registers of a thread of the context are no longer loaded
    let s := if s.ctxIdOf s.who = cid then { s with who := .engine 0 0 }.reload else s
    let s := s.breakDomains cid
    let s := (s.regions.filter fun r => r.ctx == cid).foldl (fun s r => (s.abortQueued r).dropAll r (some stAborted)) s
    let s := (s.streams.filter fun x => x.ctx == cid).foldl (fun s x => s.dropStream x) s
    let s := { s with
      jobs := s.jobs.filter fun (j : Job) => j.producer != cid
      regions := s.regions.filter fun (r : Region) => r.ctx != cid
      sfus := s.sfus.map fun (p : UnitId × List SfuReq) => (p.1, p.2.filter fun r => r.ctx != cid || r.who.isEngine)
      queues := s.queues.map fun (q : Queue) => { q with homes := q.homes.filter fun (h : QHome) => h.at_ != HomeAt.ctx cid }
      dome := { s.dome with plates := s.dome.plates.map (Plate.disown cid),
                            dirs := s.dome.dirs.map fun (d : Directory) => { d with plates := d.plates.map (Plate.disown cid) } } }
    let s := (s.returnCharges c).clearPartition c
    let s := { s with ctxs := s.ctxs.filter fun x => x.id != cid }
    -- spilled messages are dropped (R279)
    let s := c.spill.foldl (fun s e => match e with
      | .message _ _ _ _ _ sender die => s.creditBack sender die
      | .entry _ => s) s
    ((s.settleKeepAlive).settleQuiesce c.gang).endGang c.gang

/-- Containment (R395): threads stop, invocations are discarded, streams end, and the context retires. -/
def State.contain (s : State) (cid : Nat) : State := s.retireCtx cid

/-! ### Consuming poison (R395, R406, R409) -/

/-- A consumption by context `cid` rolls back: the superstep is protected and has not been rolled back. -/
def Ctx.rollsBack (c : Ctx) : Bool := c.isProt && wbits c.prot 15 8 == 0

/-- A queued command of one of these contexts. -/
def CmdEntry.sentBy (ms : List Nat) (e : CmdEntry) : Bool :=
  match e with
  | .cmd c => ms.contains c.sender.1
  | .stat q _ => ms.contains q.1
  | .marker _ => false

/-- Marks the members of a snapshot for a rollback: threads stop, SFU results are discarded, invocations end (steps 1 and 2). -/
def State.startRollback (s : State) (cid : Nat) : State :=
  match s.ctxOf cid with
  | none => s
  | some c =>
    let ms := s.members c
    let s := { s with
      ctxs := modifyAll (fun x => ms.contains x.id) (fun (x : Ctx) => { x with hold := true, rolling := true }) s.ctxs
      bus := { s.bus with mails := s.bus.mails.filter fun m => !ms.contains m.1 }
      sfus := s.sfus.map fun (p : UnitId × List SfuReq) => (p.1, p.2.filter fun r => !ms.contains r.ctx || r.who.isEngine) }
    (s.regions.filter fun r => ms.contains r.ctx).foldl (fun s r =>
      -- a command of a context that is no member goes back to the head of its queue
      let back := r.invs.filterMap fun i => match i.work with
        | .command c => if ms.contains c.sender.1 then none else some (CmdEntry.cmd c)
        | .block _ => none
      let keep := r.cmds.filter fun e => !e.sentBy ms
      let last := r.invs.filterMap fun i => match i.work with
        | .command c => if ms.contains c.sender.1 then some c.number else none
        | .block _ => none
      (s.dropAll r none).modRegion r.handle fun r => { r with cmds := back ++ keep, lastCmd := last.getLast?.or r.lastCmd }) s

/-- What follows a consumption: rollback of the members, or containment. -/
def State.afterConsume (s : State) (cid : Nat) (rolls : Bool) : State := if rolls then s.startRollback cid else s.contain cid

/-- Flags [256] rolled back and [257] contained of a record. -/
def consumeBits (rolls : Bool) : List (Nat × Nat) := if rolls then [(1, 256)] else [(1, 257)]

/-- The loaded thread consumes a poisoned granule at `pa`, met by an access or fetch of address `ea` in the instruction
at `pc` (R387, R392). An engine hart's consumption counts as that of its producer, and the hart ends (DESIGN CHOICE, log 16). -/
def State.consumePoison (s : State) (pc ea : Word) (pa : Nat) : State :=
  let g := pa / 64 * 64
  match s.who with
  | .thread _ _ _ =>
    match s.myCtx with
    | none => s
    | some c =>
      (s.postThread s.who clUncorrectable pc ea ((g, 200) :: consumeBits c.rollsBack)).afterConsume c.id c.rollsBack
  | .engine d e =>
    let rolls := match (s.engineAt d e).bind (·.producer) |>.bind s.ctxOf with | some c => c.rollsBack | none => false
    let s := s.postThread s.who clUncorrectable pc ea ((g, 200) :: consumeBits rolls)
    let s := { s with cpu := { s.cpu with run := .ended, wait := .none } }
    match (s.engineAt d e).bind (·.producer) with
    | some cid => s.afterConsume cid rolls
    | none => s

/-! ### Rollback (R406) -/

/-- One journal entry is applied: the old flit goes back to its address (step 3). -/
def State.applyJournal (s : State) (e : Nat × Nat) : State :=
  let st := s.read (e.2 + 7) 1
  let pa := s.read e.2 7
  if st = 1 then s.writeWhole none pa (memBytes s.mem e.1 128)
  else if st = 2 then s.writePoisoned none pa (memBytes s.mem e.1 128)
  else s

/-- One undo entry is applied. -/
def State.applyUndo (s : State) (u : UndoEntry) : State :=
  if u.poison then { s with mem := memWrite s.mem (u.line * 64) u.old }.poisonGranule u.line
  else { s with mem := memWrite s.mem (u.line * 64) u.old }.cleanGranule u.line

/-- The home of a member gets back what members popped and loses what they pushed since the snapshot (step 4). -/
def rollHome (ms : List Nat) (since : Nat → BitVec 23 → Nat) (h : QHome) : QHome :=
  let old := fun (i : QItem) => !ms.contains i.owner || decide (i.num < since i.owner i.source)
  let mine := fun (p : Nat × QItem) => ms.contains p.1
  let back := (h.popped.filter mine).map fun p => QEntry.item { p.2 with reserved := none }
  let all := back ++ h.entries
  let kept := all.filter fun e => match e with | .item i => old i | .marker _ => true
  let gone := all.filterMap fun e => match e with | .item i => if old i then none else some i.owner | .marker _ => none
  { h with entries := kept
           popped := h.popped.filter fun p => !mine p
           used := gone.foldl (fun u o => assign u o (lookupD u o 0 - 1)) h.used }

/-- Queues return to the snapshot (step 4): held pushes are dropped and their places freed. -/
def State.rollQueues (s : State) (ms : List Nat) : State :=
  let s := s.ctxs.foldl (fun s c =>
    if ms.contains c.id then
      c.held.foldl (fun s h => s.freeWindow h.queue c.id) s
    else s) s
  let base := fun (q : Nat) (owner : Nat) (src : BitVec 23) =>
    match (s.ctxOf owner).bind (·.snap) with
    | some sn => ((sn.qseqs.find? fun p => p.1 == q && p.2.1 == src).map fun p => p.2.2).getD 0
    | none => 0
  { s with queues := s.queues.map fun (x : Queue) =>
      { x with homes := x.homes.map (rollHome ms (base x.id))
               seqs := x.seqs.map fun p => if ms.contains p.1.1 then (p.1, base x.id p.1.1 p.1.2) else p } }

/-- A thread record comes back (step 5): R399's fields; message numbers and allowances are in no record and stay. -/
def Thr.restore (t old : Thr) : Thr :=
  { old with msgNum := t.msgNum, outstanding := t.outstanding, late := [], fences := [], buf := [], wait := .none, pend := []
             fetching := none, trapDue := none }

/-- A member's region gets its snapshot's frame registers, AG records and dispatch states. -/
def Snapshot.rollRegion (sn : Snapshot) (cid : Nat) (r : Region) : Region :=
  if r.ctx = cid then
    match sn.regions.find? fun p => p.1 == r.handle with
    | some (_, fs, ags, ds) =>
      { r with frames := fs, ags := ags, blocks := (r.blocks.zip ds).map fun p => { p.1 with disp := p.2 } }
    | none => r
  else r

/-- The tables of one member return to its snapshot (step 5), and the rollback count becomes 1. -/
def State.rollCtx (s : State) (cid : Nat) : State :=
  match s.ctxOf cid with
  | none => s
  | some c =>
    match c.snap with
    | none => s
    | some sn =>
      let s := sn.threads.zipIdx.foldl (fun s (t, i) => s.modCtxThr cid i fun x => x.restore t) s
      let s := { s with regions := s.regions.map (Snapshot.rollRegion sn cid) }
      s.modCtx cid fun c =>
        { c with counters := sn.counters, mailbox := sn.mailbox, tiles := sn.tiles, tags := sn.tags, recency := sn.recency,
                 vflags := sn.vflags, held := [], undoLog := [], journals := [], hold := false, rolling := false,
                 prot := (c.prot &&& ~~~ 0xFF00#64) ||| 0x100#64 }

/-- Domains of the members (step 5): the members' joins since the snapshot go. The snapshot's own domain counts from the episode after
it; another one counts as at the snapshot when all its members roll back. -/
def rollDomain (ms : List Nat) (sn : Snapshot) (d : Domain) : Domain :=
  if d.members.any ms.contains then
    if d.level = sn.level ∧ d.number = sn.number then
      { d with count := sn.episode + 1, episodes := [], joined := d.joined.map fun p => (p.1, sn.episode + 1) }
    else
      let was := sn.doms.find? fun x => x.level == d.level && x.number == d.number
      let old := fun (m : Nat × Nat) => match was with | some x => lookupD x.joined m x.count | none => 0
      { d with
        count := if d.members.all ms.contains then (match was with | some x => x.count | none => 0) else d.count
        episodes := (d.episodes.map fun e =>
          { e with joins := e.joins.filter fun j => !ms.contains j.ctx || decide (e.num < old (j.ctx, j.thread)) }).filter fun e => !e.joins.isEmpty
        joined := d.joined.map fun p => if ms.contains p.1.1 then (p.1, old p.1) else p }
  else d

/-- An access of one of these contexts, or of its units, is still to be performed here. -/
def State.accessesOf (s : State) (ms : List Nat) : Bool :=
  (s.bus.reqs.any fun r => ms.contains r.ctx) || s.health.ctls.any fun h => h.buffer.any fun r => ms.contains r.ctx

/-- No matrix command of these contexts is on its way, in a queue of a region of another context, or running. -/
def State.commandsEnded (s : State) (ms : List Nat) : Bool :=
  (s.bus.cmds.all fun m => !ms.contains m.sender.1 || ms.contains m.owner)
    && s.regions.all fun r =>
      (ms.contains r.ctx || r.cmds.all fun e => !e.sentBy ms)
        && r.invs.all fun i => match i.work with | .command c => !ms.contains c.sender.1 | .block _ => true

/-- The members' engine items, matrix commands and streams have ended (step 2), and what they issued is performed (R229). -/
def State.rollReady (s : State) (ms : List Nat) : Bool :=
  !s.accessesOf ms && s.commandsEnded ms && (s.jobs.all fun j => !ms.contains j.producer) && (s.streams.all fun x => !ms.contains x.ctx)
    && s.regions.all fun r => !ms.contains r.ctx || r.invs.isEmpty

/-- What the members' own regions still queue for members goes, with commands on their way there, whose credits return, and so do completions
that wait for a mailbox: step 2 posts none. -/
def State.dropMemberWork (s : State) (ms : List Nat) : State :=
  let gone := fun (m : CmdMsg) => ms.contains m.sender.1 && ms.contains m.owner
  let s := (s.bus.cmds.filter gone).foldl (fun s m => s.creditBack m.sender m.die) s
  { s with
    regions := s.regions.map fun (r : Region) => if ms.contains r.ctx then { r with cmds := r.cmds.filter fun e => !e.sentBy ms } else r
    bus := { s.bus with mails := s.bus.mails.filter fun m => !ms.contains m.1, cmds := s.bus.cmds.filter fun m => !gone m } }

/-- Steps 3 to 6 of R406. -/
def State.rollback (s : State) (sn : Snapshot) (ms : List Nat) : State :=
  let js := s.ctxs.flatMap fun x => if ms.contains x.id then x.journals.reverse else []
  let us := s.ctxs.flatMap fun x => if ms.contains x.id then x.undoLog.reverse else []
  let s := js.foldl (fun s e => s.applyJournal e) s
  let s := us.foldl (fun s u => s.applyUndo u) s
  let s := (s.dropMemberWork ms).rollQueues ms
  let s := ms.foldl (fun s m => s.rollCtx m) s
  let s := { s with domains := s.domains.map (rollDomain ms sn) }
  s.count 4

/-- Contexts of a snapshot that roll back: each stays one when an access that it had issued ends the protection meanwhile (R404). -/
def State.rollingWith (s : State) (sn : Snapshot) : List Nat :=
  (s.ctxs.filter fun d => d.rolling && match d.snap with | some x => x.same sn | none => false).map (·.id)

/-- ROLLBACK of the context in `arg`. -/
def execRollback (s : State) : Out :=
  match s.model.arg with
  | .n1 cid =>
    match s.ctxOf cid with
    | none => .next s
    | some c =>
      match c.snap with
      | none => .next s
      | some sn =>
        let ms := s.rollingWith sn
        if c.rolling && s.rollReady ms then .next (s.rollback sn ms) else .next s
  | _ => .next s

/-- CONTEXT_RETIREMENT: service software's retirement of the context in `arg` (R39). -/
def execContextRetirement (s : State) : Out :=
  match s.model.arg with
  | .n1 cid => .next (s.retireCtx cid)
  | _ => .next s

end Sys2Proof.Machine
end

