-- ==== Sys2Proof/Machine/Regs.lean ====
section
/-! DEFINITION. The registers of the control window (R30): station, die and package control blocks, and the writes that have a row of
their own in the opcode table. An offset that names no register reads as zero and ignores writes (DEDUCED from R7, log 17). -/

namespace Sys2Proof.Machine

/-- Runs `f` with the registers of an actor loaded, then loads the former actor again. -/
def State.asActor (s : State) (a : Actor) (f : State → State) : State :=
  let w := s.who
  let x := s.load a
  if x.who = a then (f x).load w else s

/-- Every thread and hart. -/
def State.actors (s : State) : List Actor :=
  (s.ctxs.flatMap fun c => if c.resident then (List.range c.threads.length).map fun i => Actor.thread c.station c.slot i else [])
    ++ s.engines.map fun e => .engine e.die e.eng

/-! ### FRESUME (R355, R356) -/

/-- A thread or hart that waits on a fault tag at a unit. -/
def State.waitsOn (s : State) (u : UnitId) (tag : BitVec 32) (a : Actor) : Option Word :=
  if a.unit = u then
    match s.thrOf a with
    | some t => match t.wait with | .page g ea => if g = tag then some ea else none | _ => none
    | none => none
  else none

/-- The unit a region translates through: its owner's station (R354). -/
def State.regionUnit (s : State) (r : Region) : UnitId := .station ((s.ctxOf r.ctx).map (·.station) |>.getD 0)
def State.streamUnit (s : State) (x : Stream) : UnitId := .station ((s.ctxOf x.ctx).map (·.station) |>.getD 0)

/-- The fault tag is pending at the unit. -/
def State.tagPending (s : State) (u : UnitId) (tag : BitVec 32) : Bool := s.mmu.faults.any fun f => f.unit == u && f.tag == tag

def State.answerTag (s : State) (u : UnitId) (tag : BitVec 32) : State :=
  { s with mmu := { s.mmu with faults := s.mmu.faults.filter fun f => !(f.unit == u && f.tag == tag) } }

/-- FRESUME with refuse 0: every waiting access walks again (R355). -/
def State.fresumeWalk (s : State) (u : UnitId) (tag : BitVec 32) : State :=
  if !s.tagPending u tag then s
  else
    let s := s.answerTag u tag
    let s := s.actors.foldl (fun s a => if (s.waitsOn u tag a).isSome then s.modThr a fun t => { t with wait := .none } else s) s
    let rs := s.regions.map fun r =>
      if s.regionUnit r = u then
        { r with invs := r.invs.map fun (i : Inv) => { i with pageWaits := i.pageWaits.filter fun w => w.2.2.1 != tag } }
      else r
    let xs := s.streams.map fun x => if s.streamUnit x = u ∧ x.page = some tag then { x with page := none } else x
    let js := s.jobs.map fun j => if UnitId.engine j.die j.eng = u ∧ j.page = some tag then { j with page := none } else j
    { s with regions := rs, streams := xs, jobs := js }

/-- The failures that a refusal gives an invocation. -/
def Inv.refusePages (i : Inv) (tag : BitVec 32) : Inv :=
  let hit := i.pageWaits.filter fun w => w.2.2.1 == tag
  { i with pageWaits := i.pageWaits.filter fun w => w.2.2.1 != tag
           failures := i.failures ++ hit.map fun w => ⟨w.2.1, w.1, .permission, w.2.2.2⟩ }

/-- Handle of a stream (R270). -/
def Stream.handle (x : Stream) : Nat := x.ctl * 16 + x.str

/-- A PERMISSION record of a stream (R203), and its end. -/
def State.refuseStream (s : State) (x : Stream) (va : Nat) : State :=
  let s := s.post clPermission 5 x.handle (s.ctxOf x.ctx) (detailOf [(va, 200)])
  s.modStream x.ctl x.str fun x => { x with page := none, aborted := true }

/-- FRESUME with refuse 1: every waiting access ends with PERMISSION, with the outcome of its source (R356). -/
def State.fresumeRefuse (s : State) (u : UnitId) (tag : BitVec 32) : State :=
  if !s.tagPending u tag then s
  else
    let page := ((s.mmu.faults.find? fun f => f.unit == u && f.tag == tag).map fun f => f.page * 0x10000).getD 0
    let s := s.answerTag u tag
    let rs := s.regions.map fun r =>
      if s.regionUnit r = u then { r with invs := r.invs.map fun (i : Inv) => i.refusePages tag } else r
    let js := s.jobs.map fun j =>
      if UnitId.engine j.die j.eng = u ∧ j.page = some tag then { j with page := none, status := stDenied } else j
    let s := { s with regions := rs, jobs := js }
    let s := (s.streams.filter fun x => s.streamUnit x == u && x.page == some tag).foldl (fun s x => s.refuseStream x page) s
    s.actors.foldl (fun s a =>
      match s.waitsOn u tag a with
      | some ea => s.asActor a fun s => s.trap clPermission ea
      | none => s) s

/-- A store to FRESUME: [32] refuse, [31:0] tag; higher bits are reserved and ignored. -/
def State.fresume (s : State) (u : UnitId) (v : Word) : State :=
  let tag := v.setWidth 32
  if wbit v 32 then s.fresumeRefuse u tag else s.fresumeWalk u tag

def execFresumeWalk (s : State) : Out :=
  match s.model.arg with
  | .tag u t => .next (s.fresumeWalk u t)
  | _ => .next s

def execFresumeRefuse (s : State) : Out :=
  match s.model.arg with
  | .tag u t => .next (s.fresumeRefuse u t)
  | _ => .next s

/-! ### Station block: MCLS (R329) -/

def State.mclsWrite (s : State) (st slot : Nat) (v : Word) : State :=
  match s.ctxAt st slot with
  | none => s
  | some c => if wbit v 3 ∨ wbits v 63 7 ≠ 0 then s else s.modCtx c.id fun c => { c with mcls := v.setWidth 7 }

/-- MCLS_WRITE: station and slot as 4 × station + slot, and the value. -/
def execMclsWrite (s : State) : Out :=
  match s.model.arg with
  | .store1 n v => .next (s.mclsWrite (n / 4) (n % 4) v)
  | _ => .next s

/-! ### Die block -/

/-- Slot table words (R319), all 0xDCBA_9888_DCBA_9888 at reset: words in force, and words written that wait for the pointer to pass slot 0. -/
def State.slotWord (s : State) (c k : Nat) : Word := lookupD s.bus.slotNow (c, k) 0xDCBA9888DCBA9888#64
def State.slotWritten (s : State) (c k : Nat) : Word := lookupD s.bus.slotNew (c, k) (s.slotWord c k)

/-- A write to a slot table word takes effect when the controller's pointer next passes slot 0 (R319). -/
def State.slotTableWrite (s : State) (c k : Nat) (v : Word) : State :=
  { s with bus := { s.bus with slotNew := assign s.bus.slotNew (c, k) v } }

def execSlotTableWrite (s : State) : Out :=
  match s.model.arg with
  | .store2 c k v => if c < (if s.part = 2 then 24 else 96) ∧ k < 4 then .next (s.slotTableWrite c k v) else .next s
  | _ => .next s

/-- BLINKIV (R407): 16 to 30, no bit of [63:5]. -/
def State.blinkiv (s : State) (die : Nat) : Nat := lookupD s.health.blinkiv die 20
def State.blinkivWrite (s : State) (die : Nat) (v : Word) : State :=
  if 16 ≤ v.toNat ∧ v.toNat ≤ 30 then { s with health := { s.health with blinkiv := assign s.health.blinkiv die v.toNat } } else s

def execBlinkivWrite (s : State) : Out :=
  match s.model.arg with
  | .store1 d v => .next (s.blinkivWrite d v)
  | _ => .next s

/-- An engine waits on its empty work queue, or has halted (R300). -/
def State.engineIdle (s : State) (d e : Nat) : Bool :=
  match s.engineAt d e with
  | none => false
  | some x =>
    match s.thrOf (.engine d e) with
    | none => false
    | some t =>
      let empty := s.queues.all fun q => q.homes.all fun h => !(h.at_ == .engine d e) || h.entries.isEmpty
      if x.loaded then t.run != .running || (t.wait == .workQueue && empty)
      else (s.jobs.all fun j => !(j.die == d && j.eng == e)) && empty

/-- MCCTL start (R300): verification begins; a start while verifying is ignored. -/
def State.microcodeStart (s : State) (d e : Nat) : State :=
  s.modEngine d e fun x => if x.mcstat = 1 then x else { x with mcstat := 1, mccause := 0 }

def execMicrocodeStart (s : State) : Out :=
  match s.model.arg with
  | .n2 d e => .next (s.microcodeStart d e)
  | _ => .next s

def mcctlWord (x : Engine) : Word := w64 (x.mcstat + x.mccause * 2 ^ 8)

/-! Health blocks (R436) -/

def Health.zero (c : Nat) : Health := ⟨c, 1024, 0, 0, [], [], none, []⟩
def State.healthOf (s : State) (c : Nat) : Health := (s.health.ctls.find? fun h => h.ctl == c).getD (Health.zero c)
def State.modHealth (s : State) (c : Nat) (f : Health → Health) : State :=
  if s.health.ctls.any fun h => h.ctl == c then
    { s with health := { s.health with ctls := modifyFirst (fun h => h.ctl == c) f s.health.ctls } }
  else { s with health := { s.health with ctls := s.health.ctls ++ [f (Health.zero c)] } }

/-- HTRAIN (R436): a write of 0 is ignored. -/
def State.htrainWrite (s : State) (c : Nat) (v : Word) : State :=
  if wbits v 15 0 = 0 then s else s.modHealth c fun h => { h with htrain := v.setWidth 16 }

def execHtrainWrite (s : State) : Out :=
  match s.model.arg with
  | .store1 c v => if s.part = 2 then .next s else .next (s.htrainWrite c v)
  | _ => .next s

/-- HPMAP (R436): spare i of the controller's stack in [16i + 15:16i]. -/
def State.hpmapWord (s : State) (c : Nat) : Word :=
  w64 ((List.range 4).foldl (fun a i =>
    match lookup s.health.hpmap (c / 12, i) with
    | some l => a + (0x8000 + l) * 2 ^ (16 * i)
    | none => a) 0)

/-- STFENCE (R442): a bit changes only for a station without a station context. -/
def State.stfenceWrite (s : State) (die : Nat) (v : Word) : State :=
  let old := lookupD s.health.stfence die 0
  let new := (List.range 24).foldl (fun a i =>
    let busy := s.ctxs.any fun c => c.station == 24 * die + i
    let b := if busy then old.testBit i else wbit v i
    a + boolNat b * 2 ^ i) 0
  { s with health := { s.health with stfence := assign s.health.stfence die new } }

def execStfenceWrite (s : State) : Out :=
  match s.model.arg with
  | .store1 d v => if s.part = 2 then .next s else .next (s.stfenceWrite d v)
  | _ => .next s

/-! ### Package block -/

/-- The FEAT words (R452). -/
def State.feat (s : State) (n : Nat) : Word := match n with | 0 => s.boot.feat0 | 1 => s.boot.feat1 | 2 => s.boot.feat2 | _ => 0

/-- A user context exists (R78). -/
def State.userExists (s : State) : Bool := s.ctxs.any fun c => !c.service

/-- A write to an ACC word (R452, R78). -/
def State.accWrite (s : State) (n : Nat) (v : Word) : State :=
  if s.userExists then s
  else
    let x := v &&& s.feat n
    match n with
    | 0 =>
      let x := if x.getLsbD 1 ≠ x.getLsbD 2 then x &&& ~~~ 6#64 else x
      { s with boot := { s.boot with acc0 := x } }
    | 1 => { s with boot := { s.boot with acc1 := x } }
    | _ => s

def execAccWrite (s : State) : Out :=
  match s.model.arg with
  | .store1 n v => .next (s.accWrite n v)
  | _ => .next s

/-- BOOTSTAT (R451). -/
def State.bootstat (s : State) : Word :=
  w64 (s.boot.stage + s.boot.fail * 2 ^ 8 + boolNat s.boot.hostReady * 2 ^ 31 + s.boot.version.toNat * 2 ^ 32)

/-- PKGID (R159): once per reset, while no user context exists. -/
def State.pkgidWrite (s : State) (v : Word) : State :=
  if s.pkgValid ∨ s.userExists then s else { s with pkgid := wbits v 8 0, pkgValid := true }

def execPkgidWrite (s : State) : Out :=
  match s.model.arg with
  | .value v => .next (s.pkgidWrite v)
  | _ => .next s

/-- A write of a lane's tail (R394): one that passes HEAD is ignored. -/
def State.laneTailWrite (s : State) (laneR : Bool) (v : BitVec 32) : State :=
  let ok := fun (head tail : Nat) => decide ((v.toNat + 2 ^ 32 - tail) % 2 ^ 32 ≤ (head + 2 ^ 32 - tail) % 2 ^ 32)
  if laneR then (if ok s.tree.lrhead s.tree.lrtail then { s with tree := { s.tree with lrtail := v.toNat } } else s)
  else if ok s.tree.lfhead s.tree.lftail then { s with tree := { s.tree with lftail := v.toNat } } else s

def execLaneTailWrite (s : State) : Out :=
  match s.model.arg with
  | .tail r v => .next (s.laneTailWrite r v)
  | _ => .next s

/-- PWRCAP (R456). -/
def State.pwrcapWrite (s : State) (v : Word) : State :=
  let x := wbits v 15 0
  if 600 ≤ x ∧ x ≤ 2600 then { s with boot := { s.boot with pwrcap := x } } else s

def execPwrcapWrite (s : State) : Out :=
  match s.model.arg with
  | .value v => .next (s.pwrcapWrite v)
  | _ => .next s

/-- A measurement entry (R453): digest, kind, entry number. -/
def logEntry (digest : BitVec 256) (kind n : Nat) : BitVec 512 := 0#192 ++ BitVec.ofNat 32 n ++ BitVec.ofNat 32 kind ++ digest

/-- Appends a measurement entry; when the log is full, nothing is appended and LOGEXT reads 1. -/
def State.measure (s : State) (digest : BitVec 256) (kind : Nat) : State :=
  if s.boot.log.length < 1024 then
    { s with boot := { s.boot with
      log := s.boot.log ++ [logEntry digest kind s.boot.log.length], logFull := decide (1023 ≤ s.boot.log.length) } }
  else { s with boot := { s.boot with logFull := true } }

/-- A store to LOGEXT (R453): kind 4 appends; another kind does nothing. -/
def State.logExtend (s : State) (v : Word) : State := if wbits v 2 0 = 4 then s.measure s.boot.logdig 4 else s

def execLogExtend (s : State) : Out :=
  match s.model.arg with
  | .value v => .next (s.logExtend v)
  | _ => .next s

/-- A start of attestation (R454): ignored while busy; nothing starts while ATTEST is not accepted; else the entry count is latched. -/
def State.attestStart (s : State) (v : Word) : State :=
  if !wbit v 0 ∨ s.boot.attStat = 1 ∨ s.boot.acc0.getLsbD 4 = false then s
  else { s with boot := { s.boot with attStat := 1, attCount := s.boot.log.length } }

/-- ATTCTL reads 3 while FEAT0 bit [4] is not accepted (R454). -/
def State.attctl (s : State) : Word := w64 ((if s.boot.acc0.getLsbD 4 then s.boot.attStat else 3) + s.boot.attCount * 2 ^ 32)

def execAttestStart (s : State) : Out :=
  match s.model.arg with
  | .value v => .next (s.attestStart v)
  | _ => .next s

/-- ATTEST_DONE (R454): the signature covers nonce, PARTID, the entries latched at the start, and their count. The manual gives no
numbers for an ECDSA signature: it is an uninterpreted function of what it covers (log 18). -/
def execAttestDone (s : State) : Out :=
  if s.boot.attStat = 1 then
    .next { s with boot := { s.boot with
      attStat := 2
      attSig := Config.attSign s.boot.attNonce (s.boot.log.take s.boot.attCount) (BitVec.ofNat 32 s.boot.attCount) } }
  else .next s

/-- Puts a 64-bit word into a wide register at word `k`. -/
def putWord {w : Nat} (x : BitVec w) (k : Nat) (v : Word) : BitVec w :=
  (x &&& ~~~ ((BitVec.allOnes 64).setWidth w <<< (64 * k))) ||| (v.setWidth w <<< (64 * k))

def getWord {w : Nat} (x : BitVec w) (k : Nat) : Word := (x >>> (64 * k)).setWidth 64

/-! Peer, bus-window and group tables (R368, R373, R380) -/

def Staged.zero (w : Nat) : Staged w := ⟨0, 0⟩

/-- A store of 8 bytes to half `k` of a peer or bus-window entry: bytes 8–15 make the staged entry current, unless their state field
is 0b11. `mask` keeps the defined bits of the high half. -/
def stagePut (e : Staged 128) (k : Nat) (v mask : Word) : Staged 128 :=
  if k = 0 then { e with stg := putWord e.stg 0 (v &&& 0x3FFFFFFF0000#64) }
  else if wbits v 47 46 = 3 then e
  else let n := putWord e.stg 1 (v &&& mask); ⟨n, n⟩

def peerMask : Word := 0x01FFF000FFFFFFFF#64
def busMask : Word := 0xFFFFF000FFFFFFFF#64

def State.peerOf (s : State) (n : Nat) : Staged 128 := lookupD s.link.peers n (Staged.zero 128)
def State.busOf (s : State) (n : Nat) : Staged 128 := lookupD s.link.buses n (Staged.zero 128)
def State.groupOf (s : State) (n : Nat) : Staged 1024 := lookupD s.link.groups n (Staged.zero 1024)

/-- State field of a peer entry. -/
def peerState (e : BitVec 128) : Nat := bitsOf e.toNat 111 110

/-- The epoch of a peer window or group (R360). -/
def State.linkEpoch (s : State) (kind n : Nat) : BitVec 16 := lookupD s.link.epochs (kind, n) 0
def State.advanceLinkEpoch (s : State) (kind n : Nat) : State :=
  { s with link := { s.link with epochs := assign s.link.epochs (kind, n) (s.linkEpoch kind n + 1) } }

/-- A store to a peer entry. A revocation advances the window's epoch (R370). -/
def State.peerWrite (s : State) (n k : Nat) (v : Word) : State :=
  let old := s.peerOf n
  let new := stagePut old k v peerMask
  let s := { s with link := { s.link with peers := assign s.link.peers n new } }
  if peerState new.cur = 2 ∧ peerState old.cur ≠ 2 then s.advanceLinkEpoch 4 n else s

def State.busWrite (s : State) (n k : Nat) (v : Word) : State :=
  { s with link := { s.link with buses := assign s.link.buses n (stagePut (s.busOf n) k v busMask) } }

/-- Defined bits of word `k` of a group entry. -/
def groupMask (k : Nat) : Word :=
  if k < 8 then BitVec.allOnes 64 else if k = 8 then 0x80003FFFFFFFFFC0#64 else if k = 9 then 0xFFFFFFFF#64 else 0

/-- A store to word `k` of a group entry: word 8 makes the staged entry current (R373). -/
def State.groupWrite (s : State) (n k : Nat) (v : Word) : State :=
  let e := s.groupOf n
  let stg := putWord e.stg k (v &&& groupMask k)
  { s with link := { s.link with groups := assign s.link.groups n (if k = 8 then ⟨stg, stg⟩ else { e with stg := stg }) } }

/-- PEER_ENTRY_VALIDATE, PEER_REVOKE and PEER_ENTRY_FREE: a store to bytes 8–15 with state valid, revoked or free. -/
def peerEvent (want : Nat) (s : State) : Out :=
  match s.model.arg with
  | .store1 n v => if n < 4096 ∧ wbits v 47 46 = want then .next (s.peerWrite n 1 v) else .next s
  | _ => .next s

def execPeerEntryValidate (s : State) : Out := peerEvent 1 s
def execPeerRevoke (s : State) : Out := peerEvent 2 s
def execPeerEntryFree (s : State) : Out := peerEvent 0 s

def execGroupEntryCommit (s : State) : Out :=
  match s.model.arg with
  | .store1 n v => if n < 1024 then .next (s.groupWrite n 8 v) else .next s
  | _ => .next s

def execBusWindowCommit (s : State) : Out :=
  match s.model.arg with
  | .store1 n v => if n < 1024 then .next (s.busWrite n 1 v) else .next s
  | _ => .next s

/-! ### Pseudo-channel retirement and calibration start (R441, R442) -/

/-- Starts a retirement: the pseudo-channel freezes and accesses are buffered (steps 1 and 2). Accesses accepted before are performed at
the old location; the manual moves no contents, so they and the copy leave memory as it is. -/
def State.pchRetireStart (s : State) (c pch : Nat) (reason : Nat) : State :=
  if (s.healthOf c).retiring.isSome then s
  else s.modHealth c fun h => { h with hretire := 1, retiring := some (pch, reason) }

/-- PCH_RETIRE_START: controller, pseudo-channel, reason. -/
def execPchRetireStart (s : State) : Out :=
  match s.model.arg with
  | .n3 c p r => if s.part = 2 then .next s else .next (s.pchRetireStart c p r)
  | _ => .next s

/-- HRETIRE (R436): go starts a retirement with reason 2. -/
def State.hretireWrite (s : State) (c : Nat) (v : Word) : State :=
  if wbit v 8 then s.pchRetireStart c (wbits v 4 0) 2 else s

/-- CALCTL (R442): go starts a test of a fenced station; [1:0] reads 0 while it runs. A start while a test runs, or of a station
that is not fenced, is not described: it is ignored (DESIGN CHOICE, log 19). -/
def State.calibrationStart (s : State) (die : Nat) (v : Word) : State :=
  let running := (s.health.calctl.any fun p => p.1 == die) && wbits (lookupD s.health.calctl die 0) 1 0 == 0
  if wbit v 8 ∧ (lookupD s.health.stfence die 0).testBit (wbits v 4 0) ∧ !running then
    { s with health := { s.health with calctl := assign s.health.calctl die (w64 (wbits v 4 0 * 2 ^ 8)) } }
  else s

def execCalibrationStart (s : State) : Out :=
  match s.model.arg with
  | .store1 d v => if s.part = 2 then .next s else .next (s.calibrationStart d v)
  | _ => .next s

/-! ### Reading and writing the blocks -/

/-- A die block register by its offset, a multiple of 8. -/
inductive DieReg where
  | bootStage | fresume (e : Nat) | blinkiv | mcbase (e : Nat) | mclen (e : Nat) | mcctl (e : Nat) | outWin (i : Nat)
  | slot (c k : Nat) | htrain (c : Nat) | htemp (c : Nat) | hretire (c : Nat) | hpmap (c : Nat) | stfence | calbase | calctl | none
deriving DecidableEq, Repr

def dieReg (s : State) (die off : Nat) : DieReg :=
  if off = 0x40 then .bootStage
  else if 0x2000 ≤ off ∧ off < 0x2000 + 0x240 ∧ off % 0x40 = 0 then .fresume ((off - 0x2000) / 0x40)
  else if off = 0x3000 then .blinkiv
  else if 0x4000 ≤ off ∧ off < 0x4000 + 0x240 then
    let e := (off - 0x4000) / 0x40
    if off % 0x40 = 0 then .mcbase e else if off % 0x40 = 8 then .mclen e else if off % 0x40 = 0x10 then .mcctl e else .none
  else if 0x10000 ≤ off ∧ off < 0x10200 then .outWin ((off - 0x10000) / 8)
  else if 0x100000 ≤ off ∧ off < 0x100000 + 0x600 then
    let c := (off - 0x100000) / 0x40
    if off % 0x40 < 0x20 then .slot (24 * die + c) (off % 0x40 / 8) else .none
  else if s.part = 2 then .none
  else if 0x200000 ≤ off ∧ off < 0x200000 + 0x1800 then
    let c := 24 * die + (off - 0x200000) / 0x100
    match off % 0x100 with
    | 0 => .htrain c | 8 => .htemp c | 0x10 => .hretire c | 0x18 => .hpmap c | _ => .none
  else if off = 0x300000 then .stfence else if off = 0x300008 then .calbase else if off = 0x300010 then .calctl
  else .none

/-- A local HBM base field: only its defined bits are held. -/
def baseBits (v : Word) (lo : Nat) : Word := w64 (wbits v 55 lo * 2 ^ lo)

def State.dieRead (s : State) (die off : Nat) : Word :=
  match dieReg s die off with
  | .bootStage => w64 (lookupD s.boot.dies die s.boot.stage)
  | .blinkiv => w64 (s.blinkiv die)
  | .mcbase e => (s.engineAt die e).map (·.mcbase) |>.getD 0
  | .mclen e => (s.engineAt die e).map (·.mclen) |>.getD 0
  | .mcctl e => (s.engineAt die e).map mcctlWord |>.getD 0
  | .outWin i => if die = 0 ∨ die = 2 then lookupD s.link.outWin (die, i) 0 else 0
  | .slot c k => s.slotWritten c k
  | .htrain c => (s.healthOf c).htrain.setWidth 64
  | .htemp c => (s.healthOf c).htemp
  | .hretire c => w64 (s.healthOf c).hretire
  | .hpmap c => s.hpmapWord c
  | .stfence => w64 (lookupD s.health.stfence die 0)
  | .calbase => lookupD s.health.calbase die 0
  | .calctl => let v := lookupD s.health.calctl die 0; w64 (wbits v 1 0 + wbits v 63 32 * 2 ^ 32)
  | .fresume _ | .none => 0

/-- A die block store. `v` is the new register value; `raw` the stored bits alone, zeros elsewhere. -/
def State.dieWrite (s : State) (die off : Nat) (v raw : Word) : State :=
  match dieReg s die off with
  | .fresume e => s.fresume (.engine die e) raw
  | .blinkiv => s.blinkivWrite die v
  | .mcbase e => s.modEngine die e fun x => { x with mcbase := baseBits v 6 }
  | .mclen e => s.modEngine die e fun x => { x with mclen := w64 (wbits v 16 0) }
  | .mcctl e => if wbit raw 0 then s.microcodeStart die e else s
  | .outWin i => if die = 0 ∨ die = 2 then
      { s with link := { s.link with outWin := assign s.link.outWin (die, i) (v &&& 0xFFFFFFFFFFE00001#64) } } else s
  | .slot c k => s.slotTableWrite c k v
  | .htrain c => s.htrainWrite c v
  | .hretire c => s.hretireWrite c raw
  | .stfence => s.stfenceWrite die v
  | .calbase => { s with health := { s.health with calbase := assign s.health.calbase die (baseBits v 12) } }
  | .calctl => s.calibrationStart die raw
  | .bootStage | .htemp _ | .hpmap _ | .none => s

/-- Reads a package block register (offset a multiple of 8). -/
def State.pkgRead (s : State) (off : Nat) : Word :=
  if off < 0x20 then s.feat (off / 8)
  else if off = 0x20 then s.boot.acc0
  else if off = 0x28 then s.boot.acc1
  else if off = 0x30 then s.boot.feat2
  else if off = 0x40 then s.bootstat
  else if off = 0x100 then s.mmu.astbase
  else if off = 0x200 then s.tree.lfbase
  else if off = 0x208 then w64 s.tree.lfhead
  else if off = 0x210 then w64 s.tree.lftail
  else if off = 0x218 then s.tree.lrbase
  else if off = 0x220 then w64 s.tree.lrhead
  else if off = 0x228 then w64 s.tree.lrtail
  else if off = 0x300 then w64 (s.pkgid + boolNat s.pkgValid * 2 ^ 9)
  else if off = 0x400 then w64 s.boot.pwrcap
  else if off = 0x408 then (Config.powerNow s.cycle.toNat).setWidth 64
  else if 0x800 ≤ off ∧ off < 0x820 then getWord s.boot.attNonce ((off - 0x800) / 8)
  else if off = 0x820 then s.attctl
  else if off = 0x828 then w64 (boolNat s.boot.logFull)
  else if off = 0x830 then Config.partId
  else if 0x840 ≤ off ∧ off < 0x880 then getWord s.boot.attSig ((off - 0x840) / 8)
  else if 0x880 ≤ off ∧ off < 0x8C0 then getWord Config.attKey ((off - 0x880) / 8)
  else if 0x8C0 ≤ off ∧ off < 0x8E0 then getWord s.boot.logdig ((off - 0x8C0) / 8)
  else if 0x10000 ≤ off ∧ off < 0x20000 then getWord (s.boot.log.getD ((off - 0x10000) / 64) 0) (off % 64 / 8)
  else if 0x800000 ≤ off ∧ off < 0x810000 then getWord (s.peerOf ((off - 0x800000) / 16)).cur (off % 16 / 8)
  else if 0x810000 ≤ off ∧ off < 0x814000 then getWord (s.busOf ((off - 0x810000) / 16)).cur (off % 16 / 8)
  else if 0x900000 ≤ off ∧ off < 0x920000 then getWord (s.groupOf ((off - 0x900000) / 128)).cur (off % 128 / 8)
  else 0

/-- What a store of part of a register is merged with: the staging copy of a staged table, the register elsewhere. -/
def State.pkgMerge (s : State) (off : Nat) : Word :=
  if 0x800000 ≤ off ∧ off < 0x810000 then getWord (s.peerOf ((off - 0x800000) / 16)).stg (off % 16 / 8)
  else if 0x810000 ≤ off ∧ off < 0x814000 then getWord (s.busOf ((off - 0x810000) / 16)).stg (off % 16 / 8)
  else if 0x900000 ≤ off ∧ off < 0x920000 then getWord (s.groupOf ((off - 0x900000) / 128)).stg (off % 128 / 8)
  else s.pkgRead off

/-- A store to the package block. BOOTSTAT [31] is writable in stage 1 only (R451). -/
def State.pkgWrite (s : State) (off : Nat) (v raw : Word) : State :=
  if 0x20 ≤ off ∧ off < 0x40 then s.accWrite ((off - 0x20) / 8) v
  else if off = 0x40 then
    if s.boot.stage = 1 then { s with boot := { s.boot with hostReady := wbit v 31 } } else s
  else if off = 0x100 then { s with mmu := { s.mmu with astbase := baseBits v 20 } }
  else if off = 0x200 then { s with tree := { s.tree with lfbase := baseBits v 15 } }
  else if off = 0x210 then s.laneTailWrite false (v.setWidth 32)
  else if off = 0x218 then { s with tree := { s.tree with lrbase := baseBits v 18 } }
  else if off = 0x228 then s.laneTailWrite true (v.setWidth 32)
  else if off = 0x300 then s.pkgidWrite raw
  else if off = 0x400 then s.pwrcapWrite v
  else if 0x800 ≤ off ∧ off < 0x820 then
    if s.boot.attStat = 1 then s else { s with boot := { s.boot with attNonce := putWord s.boot.attNonce ((off - 0x800) / 8) v } }
  else if off = 0x820 then s.attestStart raw
  else if off = 0x828 then s.logExtend raw
  else if 0x8C0 ≤ off ∧ off < 0x8E0 then { s with boot := { s.boot with logdig := putWord s.boot.logdig ((off - 0x8C0) / 8) v } }
  else if 0x800000 ≤ off ∧ off < 0x810000 then s.peerWrite ((off - 0x800000) / 16) (off % 16 / 8) v
  else if 0x810000 ≤ off ∧ off < 0x814000 then s.busWrite ((off - 0x810000) / 16) (off % 16 / 8) v
  else if 0x900000 ≤ off ∧ off < 0x920000 then s.groupWrite ((off - 0x900000) / 128) (off % 128 / 8) v
  else s

/-- Reads a station block register. -/
def State.stationRead (s : State) (st off : Nat) : Word :=
  if 0x100 ≤ off ∧ off < 0x120 then (s.ctxAt st ((off - 0x100) / 8)).map (fun c => c.mcls.setWidth 64) |>.getD 0 else 0

def State.stationWrite (s : State) (st off : Nat) (v raw : Word) : State :=
  if 0x100 ≤ off ∧ off < 0x120 then s.mclsWrite st ((off - 0x100) / 8) v
  else if off = 0x1000 then s.fresume (.station st) raw
  else s

/-- The 8-byte register that holds an offset of a control home. -/
def State.ctlRead8 (s : State) (h : Home) : Word :=
  match h with
  | .stationCtl st off => s.stationRead st (off / 8 * 8)
  | .dieCtl d off => s.dieRead d (off / 8 * 8)
  | .pkgCtl off => s.pkgRead (off / 8 * 8)
  | _ => 0

def ctlOff : Home → Nat
  | .stationCtl _ off | .dieCtl _ off | .pkgCtl off => off
  | _ => 0

/-- A load of 4 or 8 bytes from the control window. -/
def State.ctlRead (s : State) (h : Home) (size : Nat) : Nat := ((s.ctlRead8 h).toNat >>> (8 * (ctlOff h % 8))) % 2 ^ (8 * size)

/-- FRESUME and PKGID act on a store of their low half; a store of the high half alone does nothing (DEDUCED, log 17). -/
def State.isCommandReg (s : State) (h : Home) : Bool :=
  match h with
  | .stationCtl _ off => off / 8 * 8 == 0x1000
  | .dieCtl d off => match dieReg s d (off / 8 * 8) with | .fresume _ => true | _ => false
  | .pkgCtl off => off / 8 * 8 == 0x300
  | _ => false

/-- A store of 4 or 8 bytes to the control window: a part of a register leaves its other bytes as they were (DEDUCED, log 17). -/
def State.ctlWrite (s : State) (h : Home) (size data : Nat) : State :=
  let sh := 8 * (ctlOff h % 8)
  let raw := w64 (data % 2 ^ (8 * size) * 2 ^ sh)
  let mask := w64 ((2 ^ (8 * size) - 1) * 2 ^ sh)
  let old := match h with | .pkgCtl off => s.pkgMerge (off / 8 * 8) | h => s.ctlRead8 h
  let v := (old &&& ~~~ mask) ||| raw
  if ctlOff h % 8 ≠ 0 ∧ s.isCommandReg h = true then s
  else match h with
  | .stationCtl st off => s.stationWrite st (off / 8 * 8) v raw
  | .dieCtl d off => s.dieWrite d (off / 8 * 8) v raw
  | .pkgCtl off => s.pkgWrite (off / 8 * 8) v raw
  | _ => s

/-! ### MSI-X (R455), whose table is that of the PCI Express specification (R379; log 59) -/

/-- A word of the MSI-X area: every vector is masked at reset. -/
def State.msixWord (s : State) (k : Nat) : Word :=
  lookupD s.boot.msix k (if (List.range 64).any fun v => k == Config.msixTable + 2 * v + 1 then 2 ^ 32 else 0)

/-- Sends the interrupts that are pending and not masked. -/
def State.sendInterrupts (s : State) : State :=
  (List.range 64).foldl (fun s v =>
    let pending := s.msixWord Config.msixPending
    let ctl := s.msixWord (Config.msixTable + 2 * v + 1)
    if wbit pending v && !wbit ctl 32 then
      { s with boot := { s.boot with
        msix := assign s.boot.msix Config.msixPending (pending &&& ~~~ (1#64 <<< v))
        interrupts := s.boot.interrupts ++ [(s.msixWord (Config.msixTable + 2 * v), ctl.setWidth 32)] } }
    else s) s

/-- A service raises one of the 64 vectors. -/
def State.raiseVector (s : State) (v : Nat) : State :=
  if 64 ≤ v then s
  else State.sendInterrupts { s with boot := { s.boot with
    msix := assign s.boot.msix Config.msixPending (s.msixWord Config.msixPending ||| (1#64 <<< v)) } }

/-- A host store into the MSI-X area, whose pending bits it does not reach. -/
def State.msixWrite (s : State) (o size : Nat) (v : Word) : State :=
  let sh := 8 * (o % 8)
  let mask := w64 ((2 ^ (8 * size) - 1) * 2 ^ sh)
  let x := (s.msixWord (o / 8) &&& ~~~ mask) ||| (w64 (v.toNat * 2 ^ sh) &&& mask)
  if o / 8 = Config.msixPending then s else State.sendInterrupts { s with boot := { s.boot with msix := assign s.boot.msix (o / 8) x } }

/-- Sum of the windows of a queue's producer bindings (R323). -/
def State.windowSum (s : State) (q : Nat) : Nat :=
  s.ctxs.foldl (fun n c => c.bindings.foldl (fun n p => if p.2.queue = q then n + p.2.window.getD 0 else n) n) 0

/-- Service software defines an engine's work queue anew with a capacity (R296): while it is empty and its windows fit. -/
def State.sizeWorkQueue (s : State) (d e cap : Nat) : State :=
  match s.queues.find? fun q => q.homes.any fun h => h.at_ == .engine d e with
  | none => s
  | some q =>
    if cap = 0 ∨ 65536 < cap ∨ (q.homes.any fun h => !h.entries.isEmpty) = true ∨ cap < s.windowSum q.id then s
    else s.modQueue q.id fun q => { q with cap := cap }

/-- REGISTER_WRITE: an 8-byte store by service software to the control window, at a physical address; or what service software writes where
the manual names no register: a domain table, a context's entry in a domain (R287), a work queue's capacity (R296; log 71). -/
def execRegisterWrite (s : State) : Out :=
  match s.model.arg with
  | .store1 pa v =>
    let h := s.localHome pa
    if h.isCtl ∧ pa % 8 = 0 then .next (s.ctlWrite h 8 v.toNat) else .next s
  | .domain level number ms => .next (s.defineDomain level number ms)
  | .enter c level number => .next (s.enterDomain c level number)
  | .workQueue d e cap => .next (s.sizeWorkQueue d e cap)
  | .vector v => .next (s.raiseVector v)
  | _ => .next s

end Sys2Proof.Machine
end

