-- ==== Sys2Proof/Machine/StreamIO.lean ====
section
/-! DEFINITION. The DRAM side of streams: home sequences (R181), whole-flit accesses (R185), and their pauses and refusals (R203). -/

namespace Sys2Proof.Machine

/-- A pseudo-channel of the address is being retired: its accesses are held (R441). -/
def State.pchHeld (s : State) (pa : Nat) : Bool :=
  decide (pa < 0x8000000000) && !s.health.ctls.isEmpty &&
    match (s.healthOf (hbmCtl pa)).retiring with
    | some (p, _) => p == hbmPch pa
    | none => false

/-- Some byte of a range is held. -/
def State.rangeHeld (s : State) (pa n : Nat) : Bool := s.pchHeld pa || s.pchHeld (pa + n - 1)

/-! ### Bits of flits -/

/-- Bits of `n` bytes at a local address with the poison of their granules (R188). -/
def State.readBits (s : State) (pa n : Nat) : List SBit :=
  (List.range n).flatMap fun k =>
    let bad := s.granulePoisoned ((pa + k) / 64)
    let b := memByte s.mem (pa + k)
    (List.range 8).map fun i => (b.getLsbD i, bad)

def natOfS : List SBit → Nat
  | [] => 0
  | b :: r => boolNat b.1 + 2 * natOfS r

/-- Bytes of whole bytes of bits. -/
def bytesOfS (bs : List SBit) : List Byte := leBytes (bs.length / 8) (natOfS bs)

/-- Some bit is poisoned. -/
def badS (bs : List SBit) : Bool := bs.any Prod.snd

/-- Bits up to length `n`, with clean zeros after the last. -/
def padS (n : Nat) (bs : List SBit) : List SBit := bs ++ List.replicate (n - bs.length) (false, false)

/-- Writes bits at a local address, granule by granule: a granule with a poisoned bit is written as poisoned, a whole clean one clears
its poison (R188, R273). `fuel` bounds the granules. -/
def State.putBits (src : Option Nat) : (fuel : Nat) → (pa : Nat) → List SBit → State → State
  | 0, _, _, s => s
  | n + 1, pa, bs, s =>
    if bs.isEmpty then s
    else
      let k := 64 - pa % 64
      let now := bs.take (8 * k)
      let s := if badS now then s.writePoisoned src pa (bytesOfS now)
        else if k = 64 ∧ now.length = 512 then s.writeWhole src pa (bytesOfS now)
        else s.write src pa (bytesOfS now)
      State.putBits src n (pa + k) (bs.drop (8 * k)) s

/-! ### Home sequences (R181) -/

def SeqPos.zero : SeqPos := ⟨0, 0, none⟩
/-- The flit after this one. -/
def SeqPos.next (p : SeqPos) : SeqPos := if p.flit = 31 then { p with gran := p.gran + 1, flit := 0 } else { p with flit := p.flit + 1 }

/-- Where a home sequence goes on. -/
inductive Seek where
  /-- the flit at this local address -/
  | at_ (pa : Nat)
  | exceeds
  /-- no flit this time: a page without a granule of this controller was passed, or the stream paused or ended -/
  | later
deriving DecidableEq, Repr

/-- The stream pauses at a page that is not present (R203). -/
def State.pauseStream (s : State) (x : Stream) (va kind : Nat) : State :=
  match s.ctxOf x.ctx with
  | none => s
  | some c =>
    let (tag, s) := s.pageAbsent (s.streamUnit x) c.asid va kind (some c)
    s.modStream x.ctl x.str fun x => { x with page := some tag }

/-- The frame that a run's translation gives a virtual address, when its page holds that. -/
def SeqPos.frame (p : SeqPos) (va : Nat) : Option (Via × Nat) :=
  p.run.filter fun r => decide (r.1.lo ≤ va) && decide (va < r.1.lo + r.1.size)

/-- Looks from a place for the next granule homed at the stream's controller, in one 64 KiB page of the range (`base`, `count` granules). A
page of any size is translated once for its run (R354); a frame in another package or in the control window is refused (R30, R367). -/
def State.seek (s : State) (x : Stream) (p : SeqPos) (base count : Nat) (need : Need) : State × SeqPos × Seek :=
  if count ≤ p.gran then (s, { p with run := none }, .exceeds)
  else
    match s.ctxOf x.ctx with
    | none => (s, p, .later)
    | some c =>
      let va := base + 4096 * p.gran
      let page := va / 65536 * 65536
      let (s, t) := match p.frame va with
        | some (v, f) => (s, Xl.ok (f + (page - v.lo)) v)
        | none => s.translate (s.streamUnit x) c.asid page need c.service
      match t with
      | .permission => (s.refuseStream x va, p, .later)
      | .notPresent => (s.pauseStream x va (needKind need false), p, .later)
      | .ok f via =>
        let run := some (via, f - (page - via.lo))
        let last := Nat.min count ((page + 65536) / 4096 - base / 4096)
        match s.home f with
        | .hbm l =>
          let mine := fun (g : Nat) => hbmCtl (l + (base + 4096 * g) % 65536) == x.ctl
          match (List.range (last - p.gran)).find? fun k => mine (p.gran + k) with
          | some k =>
            let g := p.gran + k
            let flit := if k = 0 then p.flit else 0
            (s, ⟨g, flit, run⟩, .at_ (l + (base + 4096 * g) % 65536 + 128 * flit))
          | none => (s, ⟨last, 0, run⟩, .later)
        | .spad _ _ => (s, ⟨last, 0, run⟩, .later)
        | _ => (s.refuseStream x va, p, .later)

/-! ### The head and the tail in DRAM (R182, R183) -/

/-- Words of the stream's graph. -/
def State.graphWords (s : State) (x : Stream) : List (BitVec 64) :=
  match s.graphs.find? fun g => g.ctl == x.ctl && g.slot == x.graphSlot with
  | some g => g.words
  | none => []

/-- Operator of a node word (R73). -/
def snodeOp (w : BitVec 64) : Nat := w.toNat / 2 ^ 58

/-- Routes on which a node sends flits: SPLIT has two (R189). -/
def snodeOuts (op : Nat) (w : NodeWord) : List Nat := w.out.toNat :: if op = 1 then [w.params.toNat % 16] else []

/-- A flit waits for room at the tail. -/
def State.flitWaits (s : State) (x : Stream) : Bool :=
  (s.graphWords x).zipIdx.any fun p =>
    (snodeOuts (snodeOp p.1) (nodeFields p.1)).contains 6 && match x.nodes[p.2]? with | some n => decide (1024 ≤ n.out.length) | none => false

/-- The node that takes the head. -/
def headNode (ws : List (BitVec 64)) : Nat := (ws.findIdx? fun w => (nodeFields w).inA == 1#4 || (nodeFields w).inB == 1#4).getD 0

/-- Gives bits of the head to the inputs that take it. -/
def SNode.feedHead (n : SNode) (w : NodeWord) (bs : List SBit) : SNode :=
  { n with hungry := false, inA := if w.inA = 1#4 then n.inA ++ bs else n.inA, inB := if w.inB = 1#4 then n.inB ++ bs else n.inB }

def SNode.endHead (n : SNode) (w : NodeWord) : SNode :=
  { n with endA := n.endA || w.inA == 1#4, endB := n.endB || w.inB == 1#4 }

/-- Changes the head node by a function that sees its word. -/
def State.modHead (s : State) (x : Stream) (f : NodeWord → SNode → SNode) : State :=
  let ws := s.graphWords x
  let k := headNode ws
  s.modStream x.ctl x.str fun x => { x with nodes := x.nodes.modify k (f (nodeFields (ws.getD k 0))) }

/-- The head may take a flit: its node can do nothing more without one, and no node holds a flit that its destination has not accepted. -/
def Stream.headRoom (x : Stream) (ws : List (BitVec 64)) : Bool :=
  (match x.nodes[headNode ws]? with | some n => n.hungry | none => false)
    && x.nodes.all fun n => decide (n.out.length < 1024)

/-- UNDO has seen the flit that the tail writes next (R195). -/
def Stream.undone (x : Stream) (ws : List (BitVec 64)) : Bool :=
  (ws.zip x.nodes).all fun p => snodeOp p.1 != 0x38 || decide (x.tailed < p.2.count)

/-- The stream has a DRAM access to make. -/
def State.streamWants (s : State) (x : Stream) : Bool :=
  let ws := s.graphWords x
  !s.closing && !x.aborted && !x.moving && x.page.isNone &&
    (if x.write then !x.tail.isEmpty && x.undone ws else !x.headDone && x.headRoom ws)

/-- The context whose writes to HBM leave a protected superstep: none for a protected stream (R404). -/
def Stream.src (x : Stream) : Option Nat := if x.prot then none else some x.ctx

/-- A poisoned flit counts once (R186, R188). -/
def Stream.countBad (x : Stream) (bs : List SBit) : Stream := if badS bs then { x with poisoned := Nat.min 255 (x.poisoned + 1) } else x

/-- The stream's next DRAM access: a read into the head, or a write from the tail. A flit of a pseudo-channel that is being retired
waits at the controller (R441). -/
def State.streamFlit (s : State) (x : Stream) : State :=
  let s := s.modStream x.ctl x.str fun x => { x with asked := s.cycle.toNat }
  let (s, p, k) := s.seek x x.dram x.base x.granules (if x.write then .w else .r)
  let s := s.modStream x.ctl x.str fun x => { x with dram := p }
  match k with
  | .later => s
  | .exceeds =>
    if x.write then s.modStream x.ctl x.str fun x => { x with tail := x.tail.drop 1024, tailed := x.tailed + 1, trunc := true }
    else (s.modHead x fun w n => n.endHead w).modStream x.ctl x.str fun x => { x with headDone := true }
  | .at_ pa =>
    if s.rangeHeld pa 128 then s
    else if x.write then
      let bs := x.tail.take 1024
      (State.putBits x.src 2 pa bs s).modStream x.ctl x.str fun x =>
        ({ x with tail := x.tail.drop 1024, tailed := x.tailed + 1, done := x.done + 1, dram := p.next }).countBad bs
    else
      let bs := s.readBits pa 128
      (s.modHead x fun w n => n.feedHead w bs).modStream x.ctl x.str fun x => { x with done := x.done + 1, dram := p.next }

/-- Class of a stream's requests (R318). -/
def State.streamClass (s : State) (x : Stream) : Nat := match s.ctxOf x.ctx with | some c => c.mcls.toNat / 16 | none => 3

end Sys2Proof.Machine
end

