-- ==== Sys2Proof/Machine/Fetch.lean ====
section
/-! DEFINITION. The fetch buffer (R174): its refill at the home of the code, the faults of a fetch (R67, R236, R387), an engine's store
(R293), and the parcels that an instruction slot finds. -/

namespace Sys2Proof.Machine

/-- Parcels of the loaded thread's buffer from its program counter on. -/
def Thr.buffered (t : Thr) : List (BitVec 16) :=
  let o := (t.pc - t.bufBase).toNat
  if o % 2 = 0 then t.buf.drop (o / 2) else []

/-- The parcels make a whole instruction. -/
def wholeInstr : List (BitVec 16) → Bool
  | _ :: _ :: _ => true
  | [p] => !isFirstParcel p
  | [] => false

/-- The next parcels are in the buffer (R317). -/
def Thr.hasNext (t : Thr) : Bool := wholeInstr t.buffered

/-- Bytes from an address to the end of its 64-byte granule. -/
def toGranuleEnd (a : Nat) : Nat := 64 - a % 64

/-- Keeps parcels as the fetch buffer from the program counter on. -/
def State.keepBuffer (s : State) (ps : List (BitVec 16)) : State :=
  { s with cpu := { s.cpu with bufBase := s.cpu.pc, buf := ps.take Config.fetchParcels } }

/-- A fault of a fetch ends the instruction at the program counter; the faulting address is that of the parcel (R67, R387). -/
def State.fetchTrap (s : State) (cls : Cls) (ea : Word) : State :=
  { s with cpu := s.cpu.dueTrap ⟨s.model.nextId, cls, s.cpu.pc, ea, 0⟩ }

/-- Refills the loaded hart's buffer from its instruction store, outside which nothing is described: PERMISSION (DESIGN CHOICE, log 39). -/
def State.refillHart (s : State) (e : Engine) (ea : Word) : State :=
  let a := ea.toNat
  if a % 2 ≠ 0 then s.fetchTrap clAlignment ea
  else if 65536 ≤ a then s.fetchTrap clPermission ea
  else s.keepBuffer (s.cpu.buffered ++ parcelsOfBytes (memBytes e.istore a (toGranuleEnd a)))

/-- Refills the loaded thread's buffer from `ea` to the end of the granule there: a refill reads no granule that it does not need (DESIGN
CHOICE, log 39). -/
def State.refillThread (s : State) (ea : Word) : State :=
  match s.checkAccess ea 2 .x false with
  | (s, .trap c) => s.fetchTrap c ea
  | (s, .wait t) => s.waitFor (.page t ea)
  | (s, .go pa via) =>
    if s.fetchFenced (s.home pa) then s
    else
      match s.home pa with
      | .hbm a =>
        let (s, id) := s.request (.fetch s.who) (s.ctxIdOf s.who) a ea (some via) (.load (toGranuleEnd a)) .fetch
        { s with cpu := { s.cpu with fetching := some id } }
      | .spad _ a =>
        if s.poisoned a 2 then s.consumePoison s.cpu.pc ea a
        else s.keepBuffer (s.cpu.buffered ++ parcelsOfBytes (memBytes s.mem a (toGranuleEnd a)))
      | _ => s.fetchTrap clPermission ea

/-- The loaded thread refills its buffer when its next parcels are not there and nothing else is under way (R174). A word may run past
the end of what has been read. -/
def State.refill (s : State) : State :=
  if s.cpu.run ≠ .running ∨ s.cpu.wait ≠ .none ∨ s.cpu.hasNext ∨ s.cpu.fetching.isSome ∨ s.cpu.trapDue.isSome then s
  else
    let ea := s.cpu.pc + w64 (2 * s.cpu.buffered.length)
    match s.who with
    | .engine d e => match s.engineAt d e with | some x => s.refillHart x ea | none => s
    | .thread _ _ _ => s.refillThread ea

/-- The parcel that stands at an address of the loaded thread's code now, where its page translates to memory. -/
def State.codeNow (s : State) (ea : Word) : Option (BitVec 16) :=
  match s.who with
  | .engine d e => (s.engineAt d e).bind fun x => (parcelsOfBytes (memBytes x.istore ea.toNat 2)).head?
  | .thread _ _ _ =>
    match s.checkAccess ea 2 .x false with
    | (_, .go pa _) =>
      match s.home pa with
      | .hbm a | .spad _ a => (parcelsOfBytes (memBytes s.mem a 2)).head?
      | _ => none
    | _ => none

/-- A buffered parcel as it is executed: where the code under it has changed, the old or the new one (R174). -/
def State.oldOrNew (s : State) (ea : Word) (p : BitVec 16) : BitVec 16 × State :=
  match s.codeNow ea with
  | some q =>
    if q = p then (p, s)
    else
      let (new, s) := s.freeBit
      (if new then q else p, s)
  | none => (p, s)

/-- The parcels of the next instruction, out of the buffer; none while they are not there. -/
def State.fetch (s : State) : State × Option (List (BitVec 16)) :=
  if !s.cpu.hasNext then (s, none)
  else
    match s.cpu.buffered with
    | p :: q :: r =>
      let (p, s) := s.oldOrNew s.cpu.pc p
      let (q, s) := s.oldOrNew (s.cpu.pc + 2) q
      (s, some (p :: q :: r))
    | [p] =>
      -- a new parcel may be the first of a word, whose second is not there yet
      let (p, s) := s.oldOrNew s.cpu.pc p
      if isFirstParcel p then (s.keepBuffer [p], none) else (s, some [p])
    | [] => (s, none)

/-- The word or parcel that stands first, as a trap reports it (R387). -/
def parcelsVal : List (BitVec 16) → Word
  | p :: q :: _ => if isFirstParcel p then (p ++ q).setWidth 64 else p.setWidth 64
  | [p] => p.setWidth 64
  | [] => 0

/-- The row that a word stands for with the operand registers' values (R332, R364, R401, R430). -/
def State.rowOf (s : State) (i : Instr) : Instr :=
  match i with
  | .cancelBlock _ a b | .ctxswOut _ a b | .capmintInstall _ a b | .platerdHeader _ a b => refine (s.reg a) (s.reg b) i
  | i => i

end Sys2Proof.Machine
end

