-- ==== Sys2Proof/Machine/Access.lean ====
section
/-! DEFINITION. Performing accesses at their homes (R206, R209), the requests of threads and harts on their way there, and the choice of a
memory controller (R318-R322, R441). -/

namespace Sys2Proof.Machine

/-! ### Values -/

def ldSize : LdW → Nat | .s8 | .n8 => 1 | .s16 | .n16 => 2 | .s32 | .n32 => 4 | .d64 => 8 | .q128 => 16
def stSize : StW → Nat | .b8 => 1 | .b16 => 2 | .b32 => 4 | .b64 => 8 | .b128 => 16

/-- gd after a load of at most 8 bytes (R235). -/
def ldValue (w : LdW) (v : Nat) : Word :=
  match w with
  | .s8 => (BitVec.ofNat 8 v).signExtend 64
  | .s16 => (BitVec.ofNat 16 v).signExtend 64
  | .s32 => (BitVec.ofNat 32 v).signExtend 64
  | .n8 => w64 (v % 2 ^ 8)
  | .n16 => w64 (v % 2 ^ 16)
  | .n32 => w64 (v % 2 ^ 32)
  | .d64 | .q128 => w64 v

/-- Writes a loaded value to gd, or to the pair (R9). -/
def Thr.putLoad (t : Thr) (gd : Reg) (w : LdW) (v : Nat) : Thr :=
  match w with
  | .q128 => t.setPair gd (BitVec.ofNat 128 v)
  | _ => t.setReg gd (ldValue w v)

/-- AtomicAtHome's new value and flags (R240); operations by sub-op number, `n` bits. -/
def atomicNew (op n old y : Nat) : Nat × Flags :=
  match op with
  | 0 => ((old + y) % 2 ^ n, 0)
  | 1 => (old &&& y, 0)
  | 2 => (old ||| y, 0)
  | 3 => (old ^^^ y, 0)
  | 4 => (if signedOf y n < signedOf old n then y else old, 0)
  | 5 => (if signedOf old n < signedOf y n then y else old, 0)
  | 6 => (y, 0)
  | 7 => fAddVal fp32 (fp32.decode old) (fp32.decode y) .rne 0
  | _ =>
    let half := fun (x : Nat) (k : Nat) => bf16.decode (bitsOf x (16 * k + 15) (16 * k))
    let lo := fAddVal bf16 (half old 0) (half y 0) .rne 0
    let hi := fAddVal bf16 (half old 1) (half y 1) .rne 0
    (lo.1 + hi.1 * 2 ^ 16, lo.2 ||| hi.2)

/-- An answer's data, status, flags and poison. -/
structure Result where
  data : Nat
  status : Status
  flags : Flags
  poisoned : Bool
deriving DecidableEq, Repr

/-- Performs an operation at a local HBM or scratchpad address, at one instant (R206, R240, R241, R274). -/
def State.perform (s : State) (src : Option Nat) (pa : Nat) (op : MemOp) : State × Result :=
  match op with
  | .load n => (s, ⟨s.read pa n, stOK, 0, s.poisoned pa n⟩)
  | .store _ bs => (s.write src pa bs, ⟨0, stOK, 0, false⟩)
  | .atomic op n b =>
    if s.poisoned pa n then (s, ⟨0, stPoison, 0, false⟩)
    else
      let old := s.read pa n
      let r := atomicNew op (8 * n) old (b.toNat % 2 ^ (8 * n))
      (s.write src pa (bytesOf n r.1), ⟨old, stOK, r.2, false⟩)
  | .line bs bad => (if bad then s.writePoisoned src pa bs else s.writeWhole src pa bs, ⟨0, stOK, 0, false⟩)
  | .cas n e v =>
    if s.poisoned pa n then (s, ⟨0, stPoison, 0, false⟩)
    else
      let old := s.read pa n
      let s := if old = e.toNat % 2 ^ (8 * n) then s.write src pa (bytesOf n v.toNat) else s
      (s, ⟨old, stOK, 0, false⟩)

/-! ### Answers at the thread -/

/-- Comb of k.lcomb (R295): operation 1 add, 2 min, 3 max; types f32, bf16, f16, s32, n32. -/
def lineComb (op ty a b : Nat) : Nat × Flags :=
  if ty < 3 then
    let F := if ty = 0 then fp32 else if ty = 1 then bf16 else fp16
    if op = 1 then fAddVal F (F.decode a) (F.decode b) .rne 0 else fMinMax F (op == 3) a b
  else
    let T := IntFmt.mk (ty == 3) 32
    if op = 1 then ((a + b) % 2 ^ 32, 0)
    else if op = 2 then (if T.decode b < T.decode a then b else a, 0)
    else (if T.decode a < T.decode b then b else a, 0)

/-- Element width of a combining type. -/
def combWidth (ty : Nat) : Nat := if ty = 1 ∨ ty = 2 then 16 else 32

/-- Comb over `n` elements of `w` bits. -/
def combAll (op ty w : Nat) : (n : Nat) → (a b : Nat) → Nat × Flags
  | 0, _, _ => (0, 0)
  | n + 1, a, b =>
    let r := lineComb op ty (a % 2 ^ w) (b % 2 ^ w)
    let q := combAll op ty w n (a >>> w) (b >>> w)
    (r.1 + q.1 <<< w, r.2 ||| q.2)

/-- A line of 2,048 bits combined under k.lcomb: the new line and flags. -/
def combLine (k : Word) (old new : Nat) : Nat × Flags :=
  let op := wbits k 2 0
  let ty := wbits k 6 4
  if op = 0 then (new, 0) else combAll op ty (combWidth ty) (2048 / combWidth ty) old new

/-- LLD has all four quarters: the line is loaded or combined, a poisoned quarter stays poisoned (R294, R295). -/
def Thr.putLine (t : Thr) (l : Nat) (qs : List (Nat × Nat × Bool)) : Thr :=
  let new := qs.foldl (fun a q => a + q.2.1 <<< (512 * q.1)) 0
  let bad := qs.foldl (fun a q => a ||| (boolNat q.2.2 <<< q.1)) 0
  let old := t.hart.lines.toArray.getD l 0
  let was := t.hart.poison.toArray.getD l 0
  let r := combLine t.hart.lcomb old.toNat new
  let bits := if wbits t.hart.lcomb 2 0 = 0 then BitVec.ofNat 4 bad else was ||| BitVec.ofNat 4 bad
  { t with
    fflags := orFlags t.fflags r.2
    hart := { t.hart with lines := t.hart.lines.setIfInBounds l (BitVec.ofNat 2048 r.1), poison := t.hart.poison.setIfInBounds l bits } }

/-- One more quarter of a line register; the fourth completes it. -/
def Thr.gotQuarter (t : Thr) (l q v : Nat) (bad : Bool) : Thr :=
  let got := t.hart.got ++ [(l, q, v, bad)]
  let mine := (got.filter fun x => x.1 == l).map Prod.snd
  if mine.length < 4 then { t with hart := { t.hart with got := got } }
  else { t with hart := { t.hart with got := got.filter fun x => x.1 != l } }.putLine l mine

/-- k.astat after the atomic with request `id`: the latest one in program order stands (R242). -/
def Thr.setAstat (t : Thr) (id : Nat) (st : Status) : Thr := if t.astatId ≤ id then { t with astat := st, astatId := id } else t

/-- What an answer leaves in the thread's registers (R235, R240, R241, R294): an atomic that was not performed writes k.astat alone. -/
def Thr.accept (t : Thr) (id : Nat) (ans : Answer) (r : Result) : Thr :=
  match ans with
  | .load gd w => t.putLoad gd w r.data
  | .line l q => t.gotQuarter l q r.data r.poisoned
  | .atomic gd _ =>
    (if r.status = stOK then { t.setReg gd (w64 r.data) with fflags := orFlags t.fflags r.flags } else t).setAstat id r.status
  | .cas gd _ wide =>
    (if r.status = stOK then (if wide then t.setPair gd (BitVec.ofNat 128 r.data) else t.setReg gd (w64 r.data)) else t).setAstat id r.status
  | .none | .fetch | .lane _ | .piece | .reply _ _ => t

/-- How an access ends with an answer. -/
inductive Ending where
  | good
  | trap (cls : Cls)
  /-- poison enters a register (R274, R409) -/
  | consume
deriving DecidableEq, Repr

/-- The ending that an answer gives (R240, R274, R371). -/
def Answer.ending (ans : Answer) (r : Result) : Ending :=
  match ans with
  | .load _ _ => if r.poisoned then .consume else if r.status ≠ stOK then .trap clPermission else .good
  | .line _ _ => if r.status ≠ stOK then .trap clPermission else .good
  | .atomic _ trap | .cas _ trap _ => if trap ∧ r.status = stPoison then .trap clUncorrectable else .good
  | .none | .fetch | .lane _ | .piece | .reply _ _ => .good

/-- Whether registers are written at this ending: not by a load that fails (R67). -/
def Answer.keeps (ans : Answer) (e : Ending) : Bool :=
  match ans with
  | .load _ _ | .line _ _ => e == .good
  | _ => true

/-- The granule that a trap's record names (R392). -/
def trapGranule (cls : Cls) (pa : Nat) : Nat := if cls = clUncorrectable then pa / 64 * 64 else 0

/-- An access of the instruction at the program counter that was performed at once: it completes, or ends precisely. -/
def State.answer (s : State) (ans : Answer) (parcels : Nat) (ea : Word) (pa : Nat) (r : Result) : State :=
  let e := ans.ending r
  let s := if ans.keeps e then { s with cpu := s.cpu.accept (Nat.max s.cpu.astatId s.model.nextId) ans r } else s
  match e with
  | .good => s.retire parcels
  | .trap cls => s.takeTrapAt cls s.cpu.pc ea (trapGranule cls pa)
  | .consume => { s with cpu := { s.cpu with wait := .none } }.consumePoison s.cpu.pc ea pa

/-- The answer of an access issued before comes to the loaded thread: it writes the registers, or the trap of its instruction is due. The
other quarters of a line that fails are forgotten. An access that the thread has gone on past ends well: what says otherwise is no run of
the machine, and changes nothing (log 66). -/
def State.deliverTo (s : State) (p : Pend) (ans : Answer) (ea : Word) (pa : Nat) (r : Result) : State :=
  let e := ans.ending r
  let rest := fun (q : Pend) => q.id != p.id && (e == .good || p.line.isNone || q.line != p.line)
  let got := if e = .good then s.cpu.hart.got else s.cpu.hart.got.filter fun x => some x.1 != p.line
  let t := { s.cpu with pend := s.cpu.pend.filter rest, hart := { s.cpu.hart with got := got } }
  let s := { s with cpu := if ans.keeps e then t.accept p.id ans r else t }
  match e with
  | .good => s
  | .trap cls => s.lateTrap p cls ea (trapGranule cls pa)
  | .consume => s.consumePoison p.pc ea pa

/-- The answer is one that cannot come: the thread has gone on past the access. -/
def Pend.excludes (p : Pend) (ans : Answer) (r : Result) : Bool := p.sure && ans.ending r != .good

/-- Parcels that a fetch reads come to the loaded thread (R174); poisoned ones are consumed (R386). -/
def State.refilled (s : State) (ea : Word) (pa : Nat) (r : Result) : State :=
  let s := { s with cpu := { s.cpu with fetching := none } }
  if r.poisoned then s.consumePoison s.cpu.pc ea pa
  else s.keepBuffer (s.cpu.buffered ++ parcelsOfBytes (bytesOf (64 - pa % 64) r.data))

/-- An answer reaches its source, if that still waits for it. -/
def State.answerTo (s : State) (who : Source) (id : Nat) (ans : Answer) (ea : Word) (pa : Nat) (r : Result) : State :=
  match who with
  | .actor a => s.asActor a fun s =>
    match s.cpu.pend.find? fun p => p.id == id with
    | some p => if p.excludes ans r then s else s.deliverTo p ans ea pa r
    | none => s
  | .fetch a => s.asActor a fun s => if s.cpu.fetching = some id then s.refilled ea pa r else s
  | .region _ | .job _ _ | .link _ | .pcie _ _ => s

/-! ### Refusals (R371, R372) -/

/-- Counts a refusal in k.lnack. -/
def Ctx.countRefusal (c : Ctx) (pa : Nat) (st : Status) : Ctx :=
  let n := bitsOf c.lnack.toNat 31 0
  { c with lnack := st ++ BitVec.ofNat 32 (if n = 2 ^ 32 - 1 then n else n + 1),
           lnaddr := if n = 0 then BitVec.ofNat 56 pa else c.lnaddr }

def State.countRefusal (s : State) (cid pa : Nat) (st : Status) : State := s.modCtx cid fun c => c.countRefusal pa st

/-! ### Issuing -/

/-- An outbound PCIe port behind a control home (R381): its die, and the offset in the window. -/
def outbound : Home → Option (Nat × Nat)
  | .dieCtl d off => if (d = 0 ∨ d = 2) ∧ 0x8000000 ≤ off then some (d, off - 0x8000000) else none
  | _ => none

/-- Bus address of an outbound access; none through an invalid entry (R381). -/
def State.busAddr (s : State) (d off : Nat) : Option Nat :=
  let e := lookupD s.link.outWin (d, off / 0x200000) 0
  if wbit e 0 then some (wbits e 63 21 * 0x200000 + off % 0x200000) else none

/-- Performs an operation at a local home: a memory, or a control unit, which takes loads and stores (R30). -/
def State.performAt (s : State) (h : Home) (src : Option Nat) (op : MemOp) : State × Result :=
  match h, op with
  | .hbm l, op | .spad _ l, op => s.perform src l op
  | h, .load n => (s, ⟨s.ctlRead h n, stOK, 0, false⟩)
  | h, .store n bs => (s.ctlWrite h n (leNat bs), ⟨0, stOK, 0, false⟩)
  | _, _ => (s, ⟨0, stPermission, 0, false⟩)

/-- How an issued access goes on. -/
inductive Going where
  /-- performed, with its result -/
  | done (r : Result)
  /-- on its way under this identity: the thread goes on -/
  | sent (id : Nat)
  /-- refused at once with PERMISSION -/
  | refused
  /-- refused with TIMEOUT: the package is unreachable (R378) -/
  | unreachable
deriving DecidableEq, Repr

/-- Sends an access of the loaded thread or hart to its home (R206). One to a scratchpad or a control home is performed at once, or takes a
time, so that a later access to another home may come first (R209, log 66). -/
def State.send (s : State) (ea : Word) (pa : Nat) (via : Via) (op : MemOp) (ans : Answer) : State × Going :=
  let ctx := s.ctxIdOf s.who
  let src := if ctx = 0 then none else some ctx
  let me := Source.actor s.who
  let h := s.home pa
  let slow := fun (s : State) => let r := s.requestAt (h.near.getD 0) me ctx (pa % 2 ^ 46) ea (some via) op ans; (r.1, Going.sent r.2)
  let late := match h.near with | some n => s.goesSlow n | none => false
  match h with
  | .none => (s, .refused)
  | .spad _ l => if late then slow s else let (s, r) := s.perform src l op; (s, .done r)
  | .hbm l => let (s, id) := s.request me ctx l ea (some via) op ans; (s, .sent id)
  | .remote p _ =>
    if s.link.unreachable.contains p then (s, .unreachable)
    else let (s, id) := s.requestFar me src p s.who.die pa ea (some via) op ans; (s, .sent id)
  | .stationCtl _ _ | .dieCtl _ _ | .pkgCtl _ =>
    match outbound h with
    | some (d, off) =>
      match s.busAddr d off with
      | none => (s, .refused)
      | some bus => let (s, id) := s.requestOut me ctx d bus ea (some via) op ans; (s, .sent id)
    | none =>
      match op with
      | .load _ | .store _ _ => if late then slow s else let (s, r) := s.performAt h src op; (s, .done r)
      | _ => (s, .refused)

/-- The general registers that an answer writes. -/
def Answer.regs : Answer → List Reg
  | .load gd .q128 | .cas gd _ true => [gd, gd + 1]
  | .load gd _ | .atomic gd _ | .cas gd _ false => [gd]
  | _ => []

/-- The answer may be a trap of its instruction. -/
def Answer.mayTrap : Answer → Bool
  | .load _ _ | .line _ _ => true
  | .atomic _ trap | .cas _ trap _ => trap
  | _ => false

/-- What an answer still has to do in its thread. -/
def Answer.pend (ans : Answer) (id : Nat) (pc : Word) (ahead : Bool) : Pend :=
  { id := id
    pc := pc
    regs := ans.regs
    line := match ans with | .line l _ => some l | _ => Option.none
    atomic := match ans with | .atomic _ _ | .cas _ _ _ => true | _ => false
    sure := ahead || !ans.mayTrap }

/-- The access of the loaded thread is on its way. Where `ahead` says so the thread goes on past it, and later accesses may be performed
before it (R209); otherwise it issues nothing more until the answer, which may be a trap (R156). -/
def State.goOn (s : State) (id : Nat) (ans : Answer) : State :=
  { s with cpu := { s.cpu with pend := s.cpu.pend ++ [ans.pend id s.cpu.pc s.model.ahead] } }

/-- An access of the loaded thread: its checks (R236), then the fences and earlier accesses that hold it back (R211-R213), then `body` with
its physical address. -/
def State.access (s : State) (ea : Word) (size : Nat) (need : Need) (atomic write : Bool) (hold : State → Nat → Bool)
    (body : State → Nat → Via → State) : State :=
  match s.checkAccess ea size need atomic with
  | (s, .trap cls) => s.trap cls ea
  | (s, .wait tag) => s.waitFor (.page tag ea)
  | (s, .go pa via) => if s.fenced (s.home pa) write || hold s pa then s.waitAccess else body s pa via

/-- Nothing but its fences holds an access back. -/
def notHeld : State → Nat → Bool := fun _ _ => false

/-- A load of the loaded thread, after its checks. `acq` gives the scope of an LDAQ (R211). -/
def State.doLoad (s : State) (ea : Word) (size : Nat) (ans : Answer) (parcels : Nat) (acq : Scope) : State :=
  s.access ea size .r false false notHeld fun s pa via =>
    match s.send ea pa via (.load size) ans with
    | (s, .done r) => s.answer ans parcels ea pa r
    | (s, .sent id) => ((s.goOn id ans).addOrder (.ldaq id) acq).retire parcels
    | (s, _) => s.trap clPermission ea

/-- A store of the loaded thread, after its checks; `hold` says whether earlier accesses hold it back (R211, R213). -/
def State.doStore (s : State) (ea : Word) (bs : List Byte) (parcels : Nat) (hold : State → Nat → Bool) : State :=
  s.access ea bs.length .w false true hold fun s pa via =>
    match s.send ea pa via (.store bs.length bs) .none with
    | (s, .refused) => s.trap clPermission ea
    | (s, .unreachable) => (s.countRefusal (s.ctxIdOf s.who) pa stTimeout).retire parcels
    | (s, _) => s.retire parcels

/-- An atomic or CAS of the loaded thread, after its checks. To an unreachable package it ends with PERMISSION in k.astat (R378). -/
def State.doAtomic (s : State) (ea : Word) (size : Nat) (op : MemOp) (ans : Answer) : State :=
  s.access ea size .rw true true notHeld fun s pa via =>
    match s.send ea pa via op ans with
    | (s, .done r) => s.answer ans 2 ea pa r
    | (s, .sent id) => (s.goOn id ans).retire 2
    | (s, .refused) => s.trap clPermission ea
    | (s, .unreachable) =>
      (s.countRefusal (s.ctxIdOf s.who) pa stTimeout).answer ans 2 ea pa ⟨0, stPermission, 0, false⟩

/-! ### Memory controllers (R320, R322, R441) -/

def MemOp.isStore : MemOp → Bool
  | .store _ _ | .line _ _ => true
  | _ => false

/-- A PCIe request stands behind an earlier write of its port, at any home; a write with Relaxed Ordering never does (R380). -/
def State.behindWrite (s : State) (r : MemReq) : Bool :=
  match r.who with
  | .pcie p false =>
    let first := fun (x : MemReq) => decide (x.id < r.id) && x.op.isStore && match x.who with | .pcie q _ => q == p | _ => false
    s.bus.reqs.any first || s.health.ctls.any fun h => h.buffer.any first
  | _ => false

/-- Requests that a controller may choose: of those that have come, the oldest of each source (R209), none behind a refused one of its
source (R441), nor behind an earlier write of its port. -/
def State.waiting (s : State) (c : Nat) : List MemReq :=
  let all := s.bus.reqs.filter fun r => r.ctl == c
  all.filter fun r =>
    (all.find? fun x => x.who == r.who && x.ctx == r.ctx) == some r && !r.refused && decide (r.due ≤ s.cycle.toNat) && !s.behindWrite r

/-- What waits at a controller: a request, or the next flit of a stream. -/
inductive MemCand where
  | req (r : MemReq)
  | flit (x : Stream) (cls : Nat)
deriving DecidableEq, Repr

def MemCand.cls : MemCand → Nat | .req r => r.cls | .flit _ k => k
/-- The cycle of its arrival. -/
def MemCand.arrived : MemCand → Nat | .req r => r.due | .flit x _ => x.asked

/-- All that waits at a controller, by arrival. -/
def State.candidates (s : State) (c : Nat) : List MemCand :=
  sortBy (fun a b => decide (a.arrived < b.arrived))
    ((s.waiting c).map MemCand.req
      ++ (s.streams.filter fun x => x.ctl == c && s.streamWants x).map fun x => MemCand.flit x (s.streamClass x))

/-- A slot table entry: valid and class (R319). -/
def State.slotEntry (s : State) (c i : Nat) : Nat := wbits (s.slotWord c (i / 16)) (4 * (i % 16) + 3) (4 * (i % 16))

/-- The first table entry from the pointer whose class has a request waiting; `n` entries are left to look at. -/
def State.slotScan (s : State) (c : Nat) (ws : List MemCand) : (n : Nat) → (i : Nat) → Option (MemCand × Nat)
  | 0, _ => none
  | n + 1, i =>
    let e := s.slotEntry c (i % 64)
    match (if e.testBit 3 then ws.find? fun r => r.cls == e % 8 else none) with
    | some r => some (r, i + 1)
    | none => s.slotScan c ws n (i + 1)

/-- A deadline request that goes first: earliest latest-service cycle, then earliest arrival. -/
def State.urgent (s : State) (ws : List MemReq) : Option MemReq :=
  best (fun a b => match a.latest, b.latest with
      | some x, some y => decide (x < y) || (x == y && decide (a.due < b.due))
      | _, _ => false)
    (ws.filter fun r => match r.latest with | some l => decide (l ≤ s.cycle.toNat + 256) | none => false)

/-- Pointer past slot 0: newly written words take effect (R319). -/
def State.movePointer (s : State) (c i : Nat) : State :=
  let s := { s with bus := { s.bus with slotPtr := assign s.bus.slotPtr c (i % 64) } }
  if i < 64 then s
  else
    { s with bus := { s.bus with
      slotNow := (s.bus.slotNew.filter fun p => p.1.1 == c).foldl (fun t p => assign t p.1 p.2) s.bus.slotNow
      slotNew := s.bus.slotNew.filter fun p => p.1.1 != c } }

/-- NextRequest (R320), over the requests that wait at the controller (DEDUCED, log 74). -/
def State.nextRequest (s : State) (c : Nat) : State × Option MemCand :=
  match s.urgent (s.waiting c) with
  | some r => (s, some (.req r))
  | none =>
    match s.slotScan c (s.candidates c) 64 (lookupD s.bus.slotPtr c 0) with
    | some (r, i) => (s.movePointer c i, some r)
    | none => (s, none)

/-- An answer leaves the part. -/
def State.reply (s : State) (source : Nat) (pcie : Bool) (r : Result) : State :=
  { s with bus := { s.bus with replies := ⟨source, pcie, r.status, r.data, r.poisoned⟩ :: s.bus.replies } }

/-- The answer of a piece that shipped microcode reads from another package: it is written next. -/
def State.pieceAnswer (s : State) (id data : Nat) (bad : Bool) : State :=
  { s with jobs := s.jobs.map fun j =>
      { j with pend := j.pend.map fun p => if p.stage = 1 ∧ p.out = id then { p with stage := 2, data := bytesOf 64 data, bad := bad } else p } }

/-- The answer of a lane's read by a LOAD node: its data, or a refusal, which is a cause of discard (R371, R459). -/
def Inv.laneAnswer (i : Inv) (id : Nat) (data : Option (Nat × Bool)) : Inv :=
  let mine := fun (r : RemoteRead) => r.id == id
  match i.remote.find? mine, data with
  | some _, some x => { i with remote := modifyFirst mine (fun r => { r with answer := some x }) i.remote }
  | some r, none => { i with remote := dropFirst mine i.remote, failures := i.failures ++ [⟨r.iter, r.node, .permission, r.pa⟩] }
  | none, _ => i

/-- The same in its region. -/
def State.laneAnswered (s : State) (at_ : FireAt) (id : Nat) (data : Option (Nat × Bool)) : State :=
  s.modRegion at_.region fun r => { r with invs := modifyFirst (fun i => i.id == at_.inv) (fun i => i.laneAnswer id data) r.invs }

/-- Performs a request at its home; the answer of a thread's load or atomic is on its way then. -/
def State.performReq (s : State) (r : MemReq) : State :=
  let src := if r.ctx = 0 then none else some r.ctx
  let (s, x) := if r.ctl < 96 then s.perform src r.pa r.op else s.performAt (s.home r.pa) src r.op
  match r.ans with
  | .none => s
  | .reply src pcie => s.reply src pcie x
  | .piece => s.pieceAnswer r.id x.data x.poisoned
  | .lane at_ => s.laneAnswered at_ r.id (some (x.data, x.poisoned))
  | ans =>
    let a : MemAnswer :=
      { id := r.id, who := r.who, ea := r.ea, pa := r.pa, ans := ans, ctx := r.ctx, data := x.data, status := x.status, flags := x.flags
        poisoned := x.poisoned }
    { s with bus := { s.bus with answers := s.bus.answers ++ [a] } }

def State.dropReq (s : State) (id : Nat) : State := { s with bus := { s.bus with reqs := s.bus.reqs.filter fun x => x.id != id } }

/-- Requests whose time has come at stations, dies and the package control unit are performed, the earlier sent first. -/
def State.performNear (s : State) : State :=
  (s.bus.reqs.filter fun r => decide (96 ≤ r.ctl) && decide (r.due ≤ s.cycle.toNat)).foldl (fun s r => (s.dropReq r.id).performReq r) s

/-- A chosen request arrives: performed, or held in the retire buffer, or refused by a full one (R441). -/
def State.arriveReq (s : State) (r : MemReq) : State :=
  if s.pchHeld r.pa then
    if (s.healthOf r.ctl).buffer.length < 4096 then
      (s.dropReq r.id).modHealth r.ctl fun h => { h with buffer := h.buffer ++ [{ r with refused := false }] }
    else { s with bus := { s.bus with reqs := modifyFirst (fun x => x.id == r.id) (fun x => { x with refused := true }) s.bus.reqs } }
  else (s.dropReq r.id).performReq r

/-- DRAM_REQUEST_SELECT at the controller in `arg`. -/
def execDramRequestSelect (s : State) : Out :=
  match s.model.arg with
  | .n1 c =>
    match s.nextRequest c with
    | (s, some (.req r)) => .next (s.arriveReq r)
    | (s, some (.flit x _)) => .next (s.streamFlit x)
    | (s, none) => .next s
  | _ => .next s

/-- RETIRE_BUFFER_RETRY: the refused request with identity `arg` is sent again. -/
def execRetireBufferRetry (s : State) : Out :=
  match s.model.arg with
  | .n1 id =>
    match s.bus.reqs.find? fun r => r.id == id && r.refused with
    | some r => .next (s.arriveReq { r with refused := false })
    | none => .next s
  | _ => .next s

/-! ### Answers returning -/

def Answer.isLoad : Answer → Bool
  | .load _ _ | .line _ _ | .piece | .fetch | .lane _ => true
  | _ => false

/-- Whose answer it is: a thread's or hart's, of an access or of a fetch. -/
def Source.isOf (x : Source) (a : Actor) : Bool := x == .actor a || x == .fetch a

/-- Delivers the oldest local answer of an actor, of a load or fetch or of an atomic. -/
def State.localAnswer (s : State) (a : Actor) (load : Bool) : State :=
  match s.bus.answers.find? fun x => x.who.isOf a && x.ans.isLoad == load with
  | none => s
  | some x =>
    let s := { s with bus := { s.bus with answers := dropFirst (· == x) s.bus.answers } }
    s.answerTo x.who x.id x.ans x.ea x.pa ⟨x.data, x.status, x.flags, x.poisoned⟩

/-- A link port that is accepted and not fenced; one whose ACC1 bit is clear keeps its link down (R378, R452). -/
def State.linkUp (s : State) (p : Nat) : Bool := decide (p < 32) && s.boot.acc1.getLsbD p && !s.link.portsDown.contains p

/-- Some port's link is up. -/
def State.linked (s : State) : Bool := (List.range 32).any s.linkUp

/-- A request that another package has to answer, by its identity. -/
def State.remoteReq (s : State) (id : Nat) (load : Bool) : Option OutReq :=
  if s.linked then s.bus.outs.find? fun r => r.id == id && r.pkg.isSome && r.ans != .none && r.ans.isLoad == load else none

def State.dropOut (s : State) (id : Nat) : State := { s with bus := { s.bus with outs := s.bus.outs.filter fun r => r.id != id } }

/-- LOAD_ANSWER: of a local home, or with the data that another package returns. -/
def execLoadAnswer (s : State) : Out :=
  match s.model.arg with
  | .actor a => .next (s.localAnswer a true)
  | .load id data bad =>
    match s.remoteReq id true with
    | some r =>
      let s := s.dropOut r.id
      match r.ans with
      | .piece => .next (s.pieceAnswer r.id data.toNat bad)
      | .lane at_ => .next (s.laneAnswered at_ r.id (some (data.toNat, bad)))
      | ans => .next (s.answerTo r.who r.id ans r.ea r.pa ⟨data.toNat, stOK, 0, bad⟩)
    | none => .next s
  | _ => .next s

/-- ATOMIC_ANSWER: of a local home, or as another package returns it. The flags of a remote AFADD are those of the rounding that its
old value and operand give. -/
def execAtomicAnswer (s : State) : Out :=
  match s.model.arg with
  | .actor a => .next (s.localAnswer a false)
  | .atomic id st old =>
    match s.remoteReq id false with
    | some r =>
      let fl := match r.op with | .atomic op n b => (atomicNew op (8 * n) old.toNat (b.toNat % 2 ^ (8 * n))).2 | _ => 0
      let s := s.dropOut r.id
      let s := if st = stNackRevoked ∨ st = stPermission then s.countRefusal r.ctx r.pa st else s
      .next (s.answerTo r.who r.id r.ans r.ea r.pa ⟨old.toNat, st, fl, false⟩)
    | none => .next s
  | _ => .next s

end Sys2Proof.Machine
end

