-- ==== Sys2Proof/Machine/Caps.lean ====
section
/-! DEFINITION. Capabilities: their fields, the objects they name, and the check of a use (R357-R360, R364). -/

namespace Sys2Proof.Machine

def capKind (c : BitVec 128) : Nat := bitsOf c.toNat 127 120
/-- Rights r, w, x, m, s. -/
def capR (c : BitVec 128) : Bool := c.getLsbD 119
def capW (c : BitVec 128) : Bool := c.getLsbD 118
def capX (c : BitVec 128) : Bool := c.getLsbD 117
def capM (c : BitVec 128) : Bool := c.getLsbD 116
def capS (c : BitVec 128) : Bool := c.getLsbD 115
def capEpoch (c : BitVec 128) : BitVec 16 := c.extractLsb' 96 16
def capParam (c : BitVec 128) : Nat := bitsOf c.toNat 95 64
def capPkg (c : BitVec 128) : Nat := bitsOf c.toNat 63 55
def capStation (c : BitVec 128) : Nat := bitsOf c.toNat 54 48
def capSlot (c : BitVec 128) : Nat := bitsOf c.toNat 47 46
def capIndex (c : BitVec 128) : Nat := bitsOf c.toNat 31 0

/-- The context that a station and slot name: the one that holds the slot, else one switched out of it. -/
def State.ctxBySlot (s : State) (st slot : Nat) : Option Ctx :=
  match s.ctxAt st slot with
  | some c => some c
  | none => s.ctxs.find? fun c => c.station == st && c.slot == slot

/-- The work queue of an engine (R296). -/
def State.engineQueue (s : State) (d e : Nat) : Option Queue := s.queues.find? fun q => q.homes.any fun h => h.at_ == .engine d e

/-- What a capability names. -/
inductive CapObj where
  | region (h : Nat)
  | queue (q : Nat) (home : HomeAt)
  | gang (g : Nat)
  | peer (n : Nat)
  | group (n : Nat)
deriving DecidableEq, Repr

/-- The object of a capability, if it exists (R358, R359). A queue capability with index [31] set, which no handle has, names the work queue
of the engine that index [30:0] gives on the die of its station (DESIGN CHOICE, log 22). A peer window of another package is no object of
this one (R370). -/
def State.capObj (s : State) (c : BitVec 128) : Option CapObj :=
  let i := capIndex c
  let own := capPkg c == s.pkgid
  match capKind c with
  | 1 =>
    match s.regionOf i, s.ctxBySlot (capStation c) (capSlot c) with
    | some r, some x => if own && r.matrix && r.ctx == x.id then some (.region i) else none
    | _, _ => none
  | 2 =>
    if !own then none
    else if 2 ^ 31 ≤ i then
      (s.engineQueue (capStation c / 24) (i - 2 ^ 31)).map fun q => .queue q.id (.engine (capStation c / 24) (i - 2 ^ 31))
    else
      match s.ctxBySlot (capStation c) (capSlot c) with
      | none => none
      | some x =>
        match lookup x.bindings i with
        | some b =>
          match s.queueOf b.queue with
          | some q => if q.homes.any fun h => h.at_ == .ctx x.id then some (.queue q.id (.ctx x.id)) else none
          | none => none
        | none => none
  | 3 => if own then (s.ctxBySlot (capStation c) (capSlot c)).map fun x => .gang x.gang else none
  | 4 => if own ∧ i < 4096 ∧ peerState (s.peerOf i).cur ≠ 0 then some (.peer i) else none
  | 5 => if own && decide (i < 1024) && (s.groupOf i).cur.getLsbD (512 + 63) then some (.group i) else none
  | _ => none

/-- An object's epoch (R360). -/
def State.epochOf (s : State) (o : CapObj) : BitVec 16 :=
  match o with
  | .region h => (s.regionOf h).map (·.epoch) |>.getD 0
  | .queue q _ => (s.queueOf q).map (·.epoch) |>.getD 0
  | .gang g => (s.gangs.find? fun x => x.id == g).map (·.epoch) |>.getD 0
  | .peer n => s.linkEpoch 4 n
  | .group n => s.linkEpoch 5 n

/-- A use of an entry of a context's table (R360): the object, when it exists and the epochs agree. The right is the caller's to
check. -/
def State.useCap (s : State) (c : Ctx) (i : Nat) : Option (BitVec 128 × CapObj) :=
  if 256 ≤ i then none
  else
    match lookup c.caps i with
    | none => none
    | some x =>
      match s.capObj x with
      | some o => if s.epochOf o = capEpoch x then some (x, o) else none
      | none => none

/-- Advances an object's epoch, and removes bindings of older capabilities (R360). -/
def State.advanceEpoch (s : State) (o : CapObj) : State :=
  match o with
  | .region h => s.modRegion h fun r => { r with epoch := r.epoch + 1 }
  | .queue q _ =>
    let s := s.modQueue q fun x => { x with epoch := x.epoch + 1 }
    let drop := fun (c : Ctx) => { c with bindings := c.bindings.filter fun p => !(p.2.queue == q && p.2.byCap.isSome) }
    { s with ctxs := s.ctxs.map drop }
  | .gang g => { s with gangs := modifyFirst (fun x => x.id == g) (fun x => { x with epoch := x.epoch + 1 }) s.gangs }
  | .peer n => s.advanceLinkEpoch 4 n
  | .group n => s.advanceLinkEpoch 5 n

/-- Fields of a capability are well formed for its kind (R358, R359, R364): reserved bits zero, a station of at most 95, a kind assigned, its
rights allowed and at least one, its parameter and index as the kind gives; kind 0x00 has neither rights nor parameter nor index. -/
def capWellFormed (c : BitVec 128) : Bool :=
  let k := capKind c
  let rights := [capR c, capW c, capX c, capM c, capS c]
  let allowed := match k with
    | 1 => [false, false, false, true, false]
    | 2 => [true, false, false, false, true]
    | 3 => [false, false, true, false, false]
    | 4 => [true, true, false, false, false]
    | 5 => [false, true, false, false, false]
    | _ => [false, false, false, false, false]
  let whole := bitsOf c.toNat 114 112 == 0 && bitsOf c.toNat 45 32 == 0 && decide (capStation c ≤ 95)
  if k = 0 then whole && !rights.any id && capParam c == 0 && capIndex c == 0
  else decide (k ≤ 5) && whole && rights.any id && (rights.zip allowed).all (fun p => !p.1 || p.2)
    && (match k with
      | 1 => capParam c == 0 && decide (capIndex c < 2 ^ 16)
      | 2 => if capS c then decide (capParam c < 2 ^ 12) else capParam c == 0
      | 3 => capParam c == 0 && capIndex c == 0
      | 4 => capParam c == 0 && decide (capIndex c < 2 ^ 12)
      | _ => capParam c == 0 && decide (capIndex c < 2 ^ 16))

end Sys2Proof.Machine
end

