-- ==== Sys2Proof/Machine/Messages.lean ====
section
/-! DEFINITION. Messages, counters and the mailbox (R276-R286). -/

namespace Sys2Proof.Machine

/-- A form of major 0x1B: DENIED in an engine hart (R277) and in a dome-close handler (R422).
A FENCE holds it back as an access at its station (R210, R212). -/
def State.msgForm (s : State) (d : Reg) (body : Ctx → State → State) : State :=
  s.withCtx d (·.finishStatus d stDenied) fun c s => if s.fenced (stationHome c.station) true then s.waitAccess else body c s

/-- The gang's contexts on a station, in declaration order (R277). One that has retired leaves the count, so those after it move up (DESIGN
CHOICE, log 76). -/
def State.gangCtxs (s : State) (gang st : Nat) : List Ctx :=
  sortBy (fun a b => decide (a.index < b.index)) (s.ctxs.filter fun c => c.gang == gang && c.station == st)

/-- The index of the loaded thread in its context. -/
def Actor.index : Actor → Nat
  | .thread _ _ i => i
  | .engine _ _ => 0

def State.myIndex (s : State) : Nat := match s.who with | .thread _ _ i => i | .engine _ _ => 0

/-- Reserved bits of a SEND header. -/
def sendReserved (h : Word) : Bool := wbit h 7 || wbits h 15 14 != 0 || wbits h 31 26 != 0 || wbits h 63 38 != 0

/-- The payload m0 to m(n − 1) (R277). -/
def State.payload (s : State) (n : Nat) : List Byte := (s.cpu.m.toList.take n).flatMap fun w => bytesOf 8 w.toNat

/-- SEND (R277, R279). -/
def execSend (d a : Reg) (s : State) : Out :=
  issue (.send d a) (.plain [d, a]) s fun s =>
    s.msgForm d fun c s =>
      let h := s.reg a
      let st := wbits h 6 0
      let n := wbits h 35 32
      if sendReserved h ∨ 95 < st ∨ 8 < n then s.illegal (.send d a)
      else
        match (s.gangCtxs c.gang st)[wbits h 37 36]? with
        | none => s.finishStatus d stDenied
        | some dest =>
          let die := st / 24
          let used := lookupD s.cpu.outstanding die 0
          if Config.sendAllowance ≤ used then s.finishStatus d stBusy
          else if s.mustRelease .pkg (stationHome st) then s.waitAccess
          else
            let num := lookupD s.cpu.msgNum st 0
            let (id, s) := s.fresh
            let m : Msg := ⟨id, (c.id, s.myIndex), s.actorId s.who, st, dest.id, wbits h 13 8, wbits h 25 16, s.payload n, num⟩
            let cpu := { s.cpu with msgNum := assign s.cpu.msgNum st ((num + 1) % 2 ^ 32), outstanding := assign s.cpu.outstanding die (used + 1) }
            ({ s with cpu := cpu, bus := { s.bus with msgs := s.bus.msgs ++ [m] } }).finish d (w64 (stOK.toNat + num * 2 ^ 32))

/-- CSET (R280). -/
def execCset (d a b : Reg) (s : State) : Out :=
  issue (.cset d a b) (.plain [d, a, b]) s fun s =>
    s.msgForm d fun c s =>
      let k := s.reg a
      let v := s.reg b
      let stride := wbits v 41 39
      let slots := wbits v 51 42 + 1
      let base := wbits v 38 16
      if wbits k 63 6 ≠ 0 ∨ wbits v 63 53 ≠ 0 ∨ base % 16 ≠ 0 ∨ 4 < stride then s.illegal (.cset d a b)
      else if c.partSize < base + 16 * stride * slots then s.finishStatus d stDenied
      else
        let f := fun (x : Counter) =>
          { x with count := wbits v 15 0, stride := stride, slots := slots, base := base, next := 0, arrivals := 0, post := wbit v 52,
                   pending := false, overrun := false }
        (s.modCtx c.id fun c => { c with counters := c.counters.modify (wbits k 5 0) f }).finishStatus d stOK

/-- The state that CGET writes (R281). -/
def Counter.word (x : Counter) : Word :=
  w64 (x.count + x.next * 2 ^ 16 + boolNat x.pending * 2 ^ 26 + boolNat x.overrun * 2 ^ 27 + boolNat x.enabled * 2 ^ 28
    + x.thread * 2 ^ 29 + x.arrivals * 2 ^ 32)

def Ctx.counter (c : Ctx) (k : Nat) : Counter := c.counters.getD k Counter.zero

def execCget (d a : Reg) (s : State) : Out :=
  issue (.cget d a) (.plain [d, a]) s fun s =>
    s.msgForm d fun c s =>
      let k := s.reg a
      if wbits k 63 6 ≠ 0 then s.illegal (.cget d a) else s.finish d (c.counter (wbits k 5 0)).word

/-- CBIND (R281): an unbound counter reads thread 0. -/
def execCbind (d a b : Reg) (s : State) : Out :=
  issue (.cbind d a b) (.plain [d, a, b]) s fun s =>
    s.msgForm d fun c s =>
      let k := s.reg a
      let v := s.reg b
      let t := wbits k 10 8
      let put := fun (f : Counter → Counter) =>
        (s.modCtx c.id fun c => { c with counters := c.counters.modify (wbits k 5 0) f }).finishStatus d stOK
      if wbits k 63 12 ≠ 0 ∨ wbits k 7 6 ≠ 0 then s.illegal (.cbind d a b)
      else if wbit k 11 then
        if c.threads.length ≤ t ∨ wbit v 0 ∨ (c.code.getD t (0, 0)).2 ≤ v.toNat then s.illegal (.cbind d a b)
        else put fun x => { x with enabled := true, thread := t, entry := v.toNat }
      else if t ≠ 0 ∨ v ≠ 0 then s.illegal (.cbind d a b)
      else put fun x => { x with enabled := false, thread := 0, entry := 0, pending := false }

/-- CWAIT (R281). -/
def execCwait (d a b : Reg) (s : State) : Out :=
  issue (.cwait d a b) (.plain [d, a, b]) s fun s =>
    s.msgForm d fun c s =>
      let k := s.reg a
      if wbits k 63 6 ≠ 0 then s.illegal (.cwait d a b)
      else
        let i := wbits k 5 0
        if (c.counter i).count = 0 then s.finishStatus d stOK
        else
          match s.cpu.wait with
          | .counter _ _ _ _ => s
          | _ => s.waitFor (.counter d i s.cycle.toNat (s.reg b).toNat)

/-- MBWAIT (R285). -/
def execMbwait (d b : Reg) (s : State) : Out :=
  issue (.mbwait d b) (.plain [d, b]) s fun s =>
    s.msgForm d fun c s =>
      if c.mailbox.isEmpty then
        match s.cpu.wait with
        | .mailbox _ _ _ => s
        | _ => s.waitFor (.mailbox d s.cycle.toNat (s.reg b).toNat)
      else s.finish d (w64 (stOK.toNat + c.mailbox.length * 2 ^ 16))

/-- MBPOP and MBPEEK (R285). Where gd lies in the destination pair, gd's own result stands (DESIGN CHOICE, log 20). -/
def opMailbox (i : Instr) (d b : Reg) (pop : Bool) (s : State) : Out :=
  issue i ⟨.all, false, [d], [b]⟩ s fun s =>
    s.msgForm d fun c s =>
      match c.mailbox with
      | [] => s.finish d (w64 stEmpty.toNat)
      | e :: r =>
        let s := s.setPair b e
        if pop then (s.modCtx c.id fun c => { c with mailbox := r }).finish d (w64 (stOK.toNat + r.length * 2 ^ 16))
        else s.finish d (w64 (stOK.toNat + c.mailbox.length * 2 ^ 16))

def execMbpop (d b : Reg) (s : State) : Out := opMailbox (.mbpop d b) d b true s
def execMbpeek (d b : Reg) (s : State) : Out := opMailbox (.mbpeek d b) d b false s

/-- The limit of a waiting CWAIT or MBWAIT has passed. -/
def waitExpired (w : Wait) (now : Nat) : Bool :=
  match w with
  | .counter _ _ since limit | .mailbox _ since limit => limit != 0 && decide (since + limit ≤ now)
  | _ => false

/-- WAIT_TIMEOUT (R281, R285) of the thread in `arg`: its CWAIT or MBWAIT ends with TIMEOUT, unless what it waits for has come. -/
def execWaitTimeout (s : State) : Out :=
  match s.model.arg with
  | .actor a =>
    .next (s.asActor a fun s =>
      if waitExpired s.cpu.wait s.cycle.toNat then
        match s.cpu.wait, s.myCtx with
        | .counter gd k _ _, some c =>
          if (c.counter k).count = 0 then s else s.finish gd (w64 (stTimeout.toNat + (c.counter k).count * 2 ^ 16))
        | .mailbox gd _ _, some c => if c.mailbox.isEmpty then s.finish gd (w64 stTimeout.toNat) else s
        | _, _ => s
      else s)
  | _ => .next s

end Sys2Proof.Machine
end

