-- ==== Sys2Proof/Machine/Queues.lean ====
section
/-! DEFINITION. The queue instructions (R260-R267, R274, R405). -/

namespace Sys2Proof.Machine

/-- What a handle gives the loaded thread or hart: the queue, a producer's window, a consumer's home. -/
structure Bound where
  q : Nat
  window : Option Nat
  home : Option HomeAt
deriving DecidableEq, Repr

/-- The binding of a handle. An engine hart has its own work queue at handle 0 and no other (R293, log 14). -/
def State.bindOf (s : State) (h : Word) : Option Bound :=
  match s.who with
  | .engine d e => if h = 0 then (s.engineQueue d e).map fun q => ⟨q.id, none, some (.engine d e)⟩ else none
  | .thread _ _ _ => s.myCtx.bind fun c => (lookup c.bindings h.toNat).map fun b => ⟨b.queue, b.window, b.consumer⟩

/-- A queue form: DENIED in a dome-close handler (R422). -/
def State.queueForm (s : State) (d : Reg) (body : State → State) : State := if s.inHandler then s.finishStatus d stDenied else body s

/-- The partition that a larger item travels through: the context's; for a hart, that of its item's producer (log 23). -/
def State.itemCtx (s : State) : Option Ctx :=
  match s.who with
  | .thread _ _ _ => s.myCtx
  | .engine d e => (s.engineAt d e).bind fun x => x.producer.bind s.ctxOf

/-- Physical address of an item of `n` bytes at a partition offset, or the class that its check raises, in the order of R236 (R262). -/
def State.itemPlace (s : State) (off : Word) (n : Nat) : Except Cls Nat :=
  match s.itemCtx with
  | none => .error clPermission
  | some c =>
    if wbits off 63 56 ≠ 0 then .error clPermission
    else if off.toNat % 64 ≠ 0 then .error clAlignment
    else if c.partSize < off.toNat + n then .error clPermission
    else .ok (c.partAddr off.toNat)

/-- Registers of an item form: for 16 bytes an even pair (R262), whose results must be written (R166). -/
def pairBad (q : Queue) (b : Reg) : Bool := q.size == 16 && b.toNat % 2 == 1
def State.pairWait (s : State) (q : Queue) (b : Reg) : Bool :=
  q.size == 16 && ((s.pendingSfu s.who).any (fun r => r.gd == b + 1) || s.cpu.pend.any fun p => p.regs.contains (b + 1))

/-- Waits for what still writes the second register of an item's pair. -/
def State.waitPair (s : State) (b : Reg) : State :=
  s.waitFor (if (s.pendingSfu s.who).any (fun r => r.gd == b + 1) then .sfu else .loads [b + 1])

/-- An order holds back an access to the queue at one of these homes, or to the partition bytes of a larger item (R210, R212). -/
def State.queueFenced (s : State) (q : Queue) (hs : List HomeAt) : Bool :=
  hs.any (fun h => s.fenced (s.queueHome h) true) || (q.size != 16 && s.fenced (stationHome s.who.station) true)

/-- Homes of a queue whose context has not retired. -/
def State.liveHomes (s : State) (q : Queue) : List HomeAt := (q.homes.filter fun h => s.homeAlive h.at_).map (·.at_)

/-- gd of QPOP and QPEEK (R265). -/
def popWord (i : QItem) (st : Status) : Word := w64 (i.num * 2 ^ 32 + i.source.toNat * 2 ^ 9 + st.toNat)
def markerWord : Word := w64 (2 ^ 8 + stEmpty.toNat)

/-! ### QPUSH (R264) -/

/-- A member's push to a queue with a consumer outside the superstep is held (R405): in a protected superstep, and behind a push to the
queue that is still held when k.prot has changed to 2, since held pushes are performed in issue order at the superstep's end. -/
def State.holdsPush (s : State) (c : Ctx) (q : Queue) : Bool :=
  (c.isProt || c.held.any fun h => h.queue == q.id) && (q.homes.filter fun h => s.homeAlive h.at_).any fun h =>
    match h.at_ with
    | .ctx id => !(s.members c).contains id
    | .engine _ _ => true

/-- Pushes the item's bytes, or says why not. -/
def State.pushItem (s : State) (c : Ctx) (q : Queue) (window : Nat) (data : List Byte) : Option (Status × State) :=
  let src := s.actorId s.who
  if (q.homes.filter fun h => s.homeAlive h.at_).isEmpty then some (stRetired, s)
  else if !s.windowFree q c.id window then some (stBusy, s)
  else if s.holdsPush c q then
    if c.held.length < 256 then
      some (stOK, (s.takeWindow q.id c.id).modCtx c.id fun c => { c with held := c.held ++ [⟨q.id, src, data⟩] })
    else none
  else some (s.push q.id c.id window src data)

/-- The item's bytes and where a poisoned source lies. -/
def State.itemSource (s : State) (q : Queue) (b : Reg) : Except Cls (List Byte × Option Nat) :=
  if q.size = 16 then .ok (bytesOf 16 (s.pair b).toNat, none)
  else
    match s.itemPlace (s.reg b) q.size with
    | .error c => .error c
    | .ok pa => .ok (memBytes s.mem pa q.size, if s.poisoned pa q.size then (granules pa q.size).find? s.granulePoisoned else none)

def execQpush (rel : Bool) (d a b : Reg) (s : State) : Out :=
  issue (.qpush rel d a b) (.plain [d, a, b]) s fun s =>
    s.queueForm d fun s =>
      match s.bindOf (s.reg a) with
      | none => s.illegal (.qpush rel d a b)
      | some x =>
        match s.queueOf x.q with
        | none => if x.window.isSome then s.finishStatus d stRetired else s.trap clPermission (Instr.qpush rel d a b).wordVal
        | some q =>
          if pairBad q b then s.illegal (.qpush rel d a b)
          else
            match x.window, s.myCtx with
            | some w, some c =>
              if s.pairWait q b then s.waitPair b
              else
                match s.itemSource q b with
                | .error cls => s.trap cls (s.reg b)
                | .ok (data, none) =>
                  if (rel && s.pendingIn .pkg) || s.queueFenced q (s.liveHomes q) then s.waitAccess
                  else
                    match s.pushItem c q w data with
                    | some (st, s) => s.finishStatus d st
                    | none => s.waitFor .holding
                | .ok (_, some g) => s.consumePoison s.cpu.pc (s.reg b) (g * 64)
            | _, _ => s.trap clPermission (Instr.qpush rel d a b).wordVal

/-! ### QPOP and QPEEK (R265) -/

/-- An engine's pop returns an item: its producer, and its address space unless the item was poisoned (R293, R297). -/
def State.takeProducer (s : State) (i : QItem) (poison : Bool) : State :=
  match s.who with
  | .thread _ _ _ => s
  | .engine d e =>
    let space := if poison then none else (s.ctxOf i.owner).map fun c => (c.asid, c.service)
    s.modEngine d e fun x => { x with producer := some i.owner, asid := space }

/-- A protected superstep keeps what its members pop (R405). -/
def State.keepOf (s : State) : Option Nat := s.myCtx.bind fun c => if c.isProt then some c.id else none

/-- Takes or looks at the head of the binding's home. -/
def State.popFrom (s : State) (q : Queue) (h : HomeAt) (d b : Reg) (pop : Bool) : State :=
  let remove := fun (s : State) => if pop then s.popHead q.id h s.keepOf else s
  match (q.home h).bind fun x => headOf x.entries with
  | none =>
    match s.who with
    | .engine _ _ => if pop then s.waitFor .workQueue else s.finishStatus d stEmpty
    | .thread _ _ _ => s.finishStatus d stEmpty
  | some (.marker _) => (remove s).finish d markerWord
  | some (.item it) =>
    let s1 := if pop then s.takeProducer it it.poison else s
    if it.poison then (remove s1).finish d (popWord it stPoison)
    else if q.size = 16 then ((remove s1).setPair b (BitVec.ofNat 128 (leNat it.data))).finish d (popWord it stOK)
    else
      match s1.itemPlace (s.reg b) q.size with
      | .error cls => s.trap cls (s.reg b)
      | .ok pa => ((remove s1).write (s.myCtx.map (·.id)) pa it.data).finish d (popWord it stOK)

/-- The check of an offset that a pop or peek makes before its head is looked at (R262). A hart's offset is checked against the item's
own producer. -/
def State.popCheck (s : State) (q : Queue) (b : Reg) : Option Cls :=
  if q.size = 16 ∨ s.who.isEngine then none
  else match s.itemPlace (s.reg b) q.size with | .error c => some c | .ok _ => none

def opPop (i : Instr) (d a b : Reg) (pop : Bool) (s : State) : Out :=
  issue i (.plain [d, a, b]) s fun s =>
    s.queueForm d fun s =>
      match s.bindOf (s.reg a) with
      | none => s.illegal i
      | some x =>
        match s.queueOf x.q with
        | none => if x.home.isSome then s.finishStatus d stEmpty else s.trap clPermission i.wordVal
        | some q =>
          if pairBad q b then s.illegal i
          else
            match x.home with
            | none => s.trap clPermission i.wordVal
            | some h =>
              match s.popCheck q b with
              | some cls => s.trap cls (s.reg b)
              | none =>
                if s.pairWait q b then s.waitPair b
                else if s.queueFenced q [h] then s.waitAccess
                else s.popFrom q h d b pop

def execQpop (d a b : Reg) (s : State) : Out := opPop (.qpop d a b) d a b true s
def execQpeek (d a b : Reg) (s : State) : Out := opPop (.qpeek d a b) d a b false s

/-! ### QSTAT (R266) -/

/-- Mesh coordinates of a station (R15). -/
def meshXY (st : Nat) : Nat × Nat := (6 * (st / 24 % 2) + st % 6, 4 * (st / 24 / 2) + st % 24 / 6)

/-- Distance on the package mesh; the manual defines no other, and an engine counts at its die's first station (log 21). -/
def meshDist (a b : Nat) : Nat :=
  let p := meshXY a
  let q := meshXY b
  (p.1 - q.1) + (q.1 - p.1) + (p.2 - q.2) + (q.2 - p.2)

def State.homeStation (s : State) (h : HomeAt) : Nat :=
  match h with
  | .ctx c => (s.ctxOf c).map (·.station) |>.getD 0
  | .engine d _ => 24 * d

/-- The issuer's nearest live home. -/
def State.nearestHome (s : State) (q : Queue) : Option QHome :=
  best (fun a b => decide (meshDist s.who.station (s.homeStation a.at_) < meshDist s.who.station (s.homeStation b.at_)))
    (q.homes.filter fun h => s.homeAlive h.at_)

/-- Free window of a producer context (R264, R266). -/
def State.freeWindowOf (s : State) (q : Queue) (owner window : Nat) : Nat :=
  window - ((q.homes.filter fun h => s.homeAlive h.at_).map (·.usedBy owner)).foldl max 0

def execQstat (d a : Reg) (s : State) : Out :=
  issue (.qstat d a) (.plain [d, a]) s fun s =>
    s.queueForm d fun s =>
      match s.bindOf (s.reg a) with
      | none => s.illegal (.qstat d a)
      | some x =>
        match s.queueOf x.q with
        | none => s.finish d (match x.window with | some w => w64 (w * 2 ^ 32) | none => 0)
        | some q =>
          let h := match x.home with | some h => q.home h | none => s.nearestHome q
          let n := (h.map fun h => h.items.length).getD 0
          let m := match h.bind fun h => headOf h.entries with | some (.marker _) => 1 | _ => 0
          let w := match x.window with | some w => s.freeWindowOf q (s.ctxIdOf s.who) w | none => 0
          s.finish d (w64 (n + w * 2 ^ 32 + m * 2 ^ 48))

/-! ### Definitions and bindings (R263, R267, R323) -/

/-- The lowest free handle at or above those of the image (R260). -/
def State.freeHandle (s : State) (c : Ctx) : Option Nat :=
  let base := ((s.gangs.find? fun g => g.id == c.gang).map (·.queues)).getD 0
  ((List.range 1024).filter fun h => decide (base ≤ h)).find? fun h => (lookup c.bindings h).isNone

def State.bind (s : State) (cid h : Nat) (b : Binding) : State :=
  s.modCtx cid fun c => { c with bindings := assign c.bindings h b }

/-- The descriptor of QDEF in m0 to m4: item bytes, capacity, priority, type and consumers as (station, slot). -/
structure QDesc where
  size : Nat
  cap : Nat
  prio : Nat
  ty : BitVec 4
  consumers : List (Nat × Nat)
deriving DecidableEq, Repr

def qdescOf (m : Fin 8 → Word) : Option QDesc :=
  let m0 := m 0
  let n := wbits m0 43 40 + 1
  let fields := [m 1, m 2, m 3, m 4].flatMap fun w => (List.range 4).map fun k => wbits w (16 * k + 15) (16 * k)
  if 4 < wbits m0 2 0 ∨ wbits m0 15 3 ≠ 0 ∨ wbits m0 39 34 ≠ 0 ∨ wbits m0 63 48 ≠ 0 ∨ (fields.take n).any (fun f => decide (512 ≤ f))
      ∨ (fields.drop n).any (· != 0) then none
  else some ⟨16 * 2 ^ wbits m0 2 0, wbits m0 31 16 + 1, wbits m0 33 32, BitVec.ofNat 4 (wbits m0 47 44),
    (fields.take n).map fun f => (f / 4, f % 4)⟩

/-- Defines a queue: its homes, the issuer's binding, and a binding for every other listed consumer. -/
def State.defineQueue (s : State) (c : Ctx) (h window : Nat) (x : QDesc) (cs : List Nat) : State :=
  let (id, s) := s.fresh
  let q : Queue := { id := id, ty := x.ty, size := x.size, cap := x.cap, prio := x.prio, gang := none,
                     homes := cs.map fun k => ⟨.ctx k, [], [], [], []⟩, seqs := [], epoch := 0 }
  let s := { s with queues := s.queues ++ [q] }
  let s := s.bind c.id h
    { queue := id, window := if window = 0 then none else some window
      consumer := if cs.contains c.id then some (.ctx c.id) else none
      byCap := none }
  cs.foldl (fun s k =>
    if k = c.id then s
    else
      match s.ctxOf k with
      | none => s
      | some y =>
        match s.freeHandle y with
        | some h => s.bind k h { queue := id, window := none, consumer := some (.ctx k), byCap := none }
        | none => s) s

/-- Bytes of storage that queues reserve, a copy at each home. -/
def State.queueBytes (s : State) : Nat := s.queues.foldl (fun n q => n + q.size * q.cap * q.homes.length) 0

/-- QDEF (R263): service only. The manual gives no size of the queue storage: it is an uninterpreted
constant (log 69). An engine hart has no binding table, so no handle is free (log 14). -/
def execQdef (d a : Reg) (s : State) : Out :=
  issue (.qdef d a) ⟨.all, true, [d, a], []⟩ s fun s =>
    s.queueForm d fun s =>
      match qdescOf s.msg with
      | none => s.illegal (.qdef d a)
      | some x =>
        let w := wbits (s.reg a) 12 0
        if wbits (s.reg a) 63 13 ≠ 0 ∨ 4096 < w ∨ x.cap < w then s.illegal (.qdef d a)
        else
          let cs := x.consumers.map fun p => s.ctxBySlot p.1 p.2
          match s.myCtx with
          | none => s.finishStatus d stDenied
          | some c =>
            if cs.any (·.isNone) then s.finishStatus d stDenied
            else
              match s.freeHandle c with
              | none => s.finishStatus d stDenied
              | some h =>
                let ids := (cs.filterMap fun c => c.map (·.id)).eraseDups
                if Config.queueStorage < s.queueBytes + x.size * x.cap * ids.length then s.finishStatus d stDenied
                else (s.defineQueue c h w x ids).finish d (w64 (stOK.toNat + h * 2 ^ 16))

/-- A use of capability `i` of the loaded thread (R360); a hart has no table. -/
def State.myCap (s : State) (i : Nat) : Option (BitVec 128 × CapObj) := s.myCtx.bind fun c => s.useCap c i

def State.capFault (s : State) (i : Instr) : State := s.trap clCapability i.wordVal

/-- QBIND (R267). -/
def execQbind (d a : Reg) (s : State) : Out :=
  issue (.qbind d a) (.plain [d, a]) s fun s =>
    s.queueForm d fun s =>
      match s.myCap (s.reg a).toNat, s.myCtx with
      | some (x, .queue q h), some c =>
        if !capS x && !capR x then s.capFault (.qbind d a)
        else
        let w := if capS x then some (capParam x % 2 ^ 12 + 1) else none
        let full := match s.queueOf q with | some y => decide (y.cap < s.windowSum q + w.getD 0) && w.isSome | none => false
        match s.freeHandle c with
        | some k =>
          if full then s.finishStatus d stDenied
          else (s.bind c.id k { queue := q, window := w, consumer := if capR x then some h else none, byCap := some (capEpoch x) }).finish d
            (w64 (stOK.toNat + k * 2 ^ 16))
        | none => s.finishStatus d stDenied
      | _, _ => s.capFault (.qbind d a)

/-! ### Quiesce (R267, R324) -/

/-- Starts a quiesce: number, state, markers at the gang's queue homes and matrix command queues. -/
def State.startQuiesce (s : State) (g : Gang) : State :=
  let n := (g.qnumber + 1) % 2 ^ 32
  let s := s.modGang g.id fun x => { x with qnumber := n, qstate := 1 }
  let s := s.placeMarkers n fun _ h => s.homeInGang g.id h.at_
  let rs := s.regions.map fun r => if s.inGang g.id r && r.matrix then { r with cmds := r.cmds ++ [.marker n] } else r
  { s with regions := rs }.settleQuiesce g.id

def State.qmark (s : State) (d : Reg) (g : Option Gang) : State :=
  match g with
  | none => s.finishStatus d stDenied
  | some g => if g.qstate ≠ 0 then s.finishStatus d stBusy else (s.startQuiesce g).finishStatus d stOK

def execQmark (d a : Reg) (s : State) : Out :=
  issue (.qmark d a) (.plain [d, a]) s fun s =>
    s.queueForm d fun s =>
      if s.reg a = 0 then s.qmark d (s.myCtx.bind fun c => s.gangOf c.gang)
      else
        match s.myCap (s.reg a).toNat with
        | some (x, .gang g) => if capX x then s.qmark d (s.gangOf g) else s.capFault (.qmark d a)
        | _ => s.capFault (.qmark d a)

end Sys2Proof.Machine
end

