-- ==== Sys2Proof/Machine/MatrixCmd.lean ====
section
/-! DEFINITION. Matrix commands: sending (R142-R144), acceptance and retry (R145), MSTAT's reply (R149), and cancelling a command (R332). -/

namespace Sys2Proof.Machine

/-! ### Sending -/

/-- Operand types of the array (R134). -/
def isArrayType (t : Nat) : Bool := decide (2 ≤ t ∧ t ≤ 0xA)

/-- Drain formats (R135). -/
def isDrainFormat (t : Nat) : Bool := decide (1 ≤ t ∧ t ≤ 8) || t == 0xA

/-- A bit outside a set of fields [hi:lo] is set. -/
def outside (v : Word) (fields : List (Nat × Nat)) : Bool :=
  (v &&& ~~~ fields.foldl (fun m p => m ||| w64 ((2 ^ (p.1 + 1 - p.2) - 1) * 2 ^ p.2)) 0) != 0

/-- The descriptor breaks R143 or R144. -/
def badDesc (kind : Nat) (m : Fin 8 → Word) : Bool :=
  let tile := [(8, 0), (22, 16), (27, 24)]
  let rows := outside (m 2) [(8, 0), (16, 16)]
  if kind = 3 then false
  else outside (m 0) [(31, 0)] || outside (m 1) tile || decide (95 < wbits (m 1) 22 16) || m 7 != 0
    || (if kind = 0 then m 2 != 0 || m 3 != 0 else rows)
    || (if kind = 2 then
          let k := m 4
          outside k [(7, 0)] || decide (5 < wbits k 2 0) || wbits k 5 4 == 3 || !isDrainFormat (wbits (m 1) 27 24)
            || (wbit k 3 && !isEFormat (wbits (m 1) 27 24)) || outside (m 5) [(8, 0), (24, 16)]
            || (!wbit k 6 && wbits (m 5) 8 0 != 0) || (!wbit k 7 && wbits (m 5) 24 16 != 0)
        else m 4 != 0 || m 5 != 0 || m 6 != 0 || !isArrayType (wbits (m 1) 27 24))

/-- The matrix region that capability `i` of the context names with the right `m` (R144). -/
def State.matrixCap (s : State) (c : Ctx) (i : Nat) : Option Region :=
  match s.useCap c i with
  | some (x, .region h) => if capM x then (s.regionOf h).filter (·.matrix) else none
  | _ => none

/-- The die of a region's owner station. -/
def State.regionDie (s : State) (r : Region) : Nat := ((s.ctxOf r.ctx).map (·.station)).getD 0 / 24

/-- Sending one more to each of these dies would pass the allowance of some die (R144, R279). -/
def State.passesAllowance (s : State) (dies : List Nat) : Bool :=
  dies.any fun d => decide (Config.sendAllowance < lookupD s.cpu.outstanding d 0 + (dies.filter (· == d)).length)

/-- Puts a command for a region on its way. -/
def State.sendCmd (s : State) (c : Ctx) (r : Region) (k : CmdKind) : State :=
  let (id, s) := s.fresh
  let die := s.regionDie r
  let m : CmdMsg := ⟨id, (c.id, s.myIndex), s.actorId s.who, r.handle, r.ctx, die, k, false⟩
  let cpu := { s.cpu with outstanding := assign s.cpu.outstanding die (lookupD s.cpu.outstanding die 0 + 1) }
  { s with cpu := cpu, bus := { s.bus with cmds := s.bus.cmds ++ [m] } }

/-- MLOAD, MRUN, MDRAIN and MSTAT by their sub-op (R142-R144, R149). -/
def opMatrix (i : Instr) (kind : Nat) (d a b : Reg) (s : State) : Out :=
  issue i ⟨.matrix, false, if kind = 3 then [d, a] else [d, a, b], []⟩ s fun s =>
    s.withCtx d (·.illegal i) fun c s =>
      let v := s.reg a
      let x := s.reg b
      let e := wbits v 18 16
      if wbits v 63 19 ≠ 0 ∨ 4 < e ∨ (kind = 3 ∧ e ≠ 0) ∨ x.toNat >>> (16 * e) ≠ 0 ∨ badDesc kind s.msg then s.illegal i
      else
        let ids := wbits v 15 0 :: (List.range e).map fun k => wbits x (16 * k + 15) (16 * k)
        let rs := ids.map (s.matrixCap c)
        if rs.any (·.isNone) then s.capFault i
        else
          let rs := rs.filterMap id
          if s.passesAllowance (rs.map s.regionDie) then s.finishStatus d stBusy
          else if s.mustRelease .pkg (stationHome c.station) then s.waitAccess
          else (rs.foldl (fun s r => s.sendCmd c r (.command kind s.cpu.m)) s).finishStatus d stOK

def execMload (d a b : Reg) (s : State) : Out := opMatrix (.mload d a b) 0 d a b s
def execMrun (d a b : Reg) (s : State) : Out := opMatrix (.mrun d a b) 1 d a b s
def execMdrain (d a b : Reg) (s : State) : Out := opMatrix (.mdrain d a b) 2 d a b s
def execMstat (d a : Reg) (s : State) : Out := opMatrix (.mstat d a) 3 d a 0 s

/-! ### At the owner station -/

/-- A command invocation of the region is in flight. -/
def Region.commandRuns (r : Region) : Bool := r.invs.any fun i => match i.work with | .command _ => true | .block _ => false

/-- MSTAT's reply (R149). -/
def statEntry (r : Region) (tag : BitVec 32) : BitVec 128 :=
  let queued := (r.cmds.filter fun e => match e with | .cmd _ => true | _ => false).length
  entryOf [(r.lastCmd.getD 0xFFFFFFFF, 96), (queued, 80), ((r.wtype.map (·.toNat)).getD 0xFF, 72), (boolNat (!r.invs.isEmpty), 64),
    (stOK.toNat, 40), (3, 32), (tag.toNat, 0)]

/-- Answers the MSTATs that stand at the head of a command queue once no command ahead of them runs; `fuel` bounds them. -/
def State.answerStats : (fuel : Nat) → (h : Nat) → State → State
  | 0, _, s => s
  | n + 1, h, s =>
    match s.regionOf h with
    | none => s
    | some r =>
      match r.cmds with
      | .stat who tag :: rest =>
        if r.commandRuns then s
        else State.answerStats n h ((s.modRegion h fun r => { r with cmds := rest }).mail who.1 (statEntry r tag))
      | _ => s

def State.settleStats (s : State) (h : Nat) : State :=
  match s.regionOf h with
  | none => s
  | some r => State.answerStats r.cmds.length h s

/-- Places taken in a command queue; markers take none. -/
def Region.queueFill (r : Region) : Nat := (r.cmds.filter fun e => match e with | .marker _ => false | _ => true).length

/-- A queued command of a thread with a tag. -/
def isQueued (who : Nat × Nat) (tag : BitVec 32) (e : CmdEntry) : Bool :=
  match e with
  | .cmd c => c.sender == who && (c.desc[0]).setWidth 32 == tag
  | _ => false

def isRunning (who : Nat × Nat) (tag : BitVec 32) (i : Inv) : Bool :=
  match i.work with
  | .command c => c.sender == who && (c.desc[0]).setWidth 32 == tag
  | .block _ => false

/-- The answer of CANCEL kind 1 at a region (R332): its status and the state. MSTAT's `last` counts the commands that ran: one that is
cancelled before dispatch leaves it as it was (DESIGN CHOICE, log 46). -/
def State.cancelAt (s : State) (r : Region) (who : Nat × Nat) (tag : BitVec 32) : Status × State :=
  if r.invs.any (isRunning who tag) then (stStarted, s)
  else
    match r.cmds.find? (isQueued who tag) with
    | some (.cmd c) =>
      let s := s.modRegion r.handle fun r => { r with cmds := dropFirst (isQueued who tag) r.cmds }
      (stOK, (s.mail who.1 (commandEntry c c.number 0 0 0 stAborted)).settleStats r.handle)
    | _ => (stEmpty, s)

/-- The answer of a CANCEL reaches its thread, and the instruction ends. -/
def State.answerCancel (s : State) (who : Nat × Nat) (gd : Reg) (st : Status) : State :=
  s.modCtxThr who.1 who.2 fun t =>
    if t.wait = .answer then { t.setReg gd (statusWord st) with pc := t.pc + 4, wait := .none } else t

/-- The region that a command was sent to, while its owner has not retired. -/
def State.cmdRegion (s : State) (m : CmdMsg) : Option Region := (s.regionOf m.region).filter fun r => r.ctx == m.owner

/-- A command reaches the owner station; `none` when its queue is full (R145, R149, R332). -/
def State.arriveCmd (s : State) (m : CmdMsg) : Option State :=
  match s.cmdRegion m, m.kind with
  | none, .command kind desc =>
    -- the owner has retired
    let c : Command := ⟨kind, 0xFFFFFFFF, m.sender, m.source, desc⟩
    some (s.mail m.sender.1 (commandEntry c 0xFFFFFFFF 0 0 0 stAborted))
  | none, .cancel _ gd => some (s.answerCancel m.sender gd stEmpty)
  | some r, .cancel tag gd =>
    let (st, s) := s.cancelAt r m.sender tag
    some (s.answerCancel m.sender gd st)
  | some r, .command kind desc =>
    if 64 ≤ r.queueFill then none
    else if kind = 3 then
      some ((s.modRegion r.handle fun r => { r with cmds := r.cmds ++ [.stat m.sender ((desc[0]).setWidth 32)] }).settleStats r.handle)
    else
      let c : Command := ⟨kind, r.nextCmd, m.sender, m.source, desc⟩
      some (s.modRegion r.handle fun r => { r with cmds := r.cmds ++ [.cmd c], nextCmd := (r.nextCmd + 1) % 2 ^ 32 })

/-- The oldest command of its thread to its region: later ones are held back behind it (R145). -/
def State.firstCmd (s : State) (m : CmdMsg) : Bool :=
  (s.bus.cmds.find? fun x => x.sender == m.sender && x.region == m.region && x.owner == m.owner) == some m

def State.cmdArrives (s : State) (m : CmdMsg) : State :=
  if !s.firstCmd m then s
  else
    match s.arriveCmd m with
    | some s => { s.creditBack m.sender m.die with bus := { s.bus with cmds := s.bus.cmds.filter fun x => x.id != m.id } }
    | none => { s with bus := { s.bus with cmds := modifyFirst (fun x => x.id == m.id) (fun x => { x with refused := true }) s.bus.cmds } }

/-- MATRIX_COMMAND_ARRIVAL: the command with identity `arg` reaches the owner station for the first time. -/
def execMatrixCommandArrival (s : State) : Out :=
  match s.model.arg with
  | .n1 id =>
    match s.bus.cmds.find? fun m => m.id == id && !m.refused with
    | some m => .next (s.cmdArrives m)
    | none => .next s
  | _ => .next s

/-- COMMAND_RETRY: the sending station sends the refused command with identity `arg` again. -/
def execCommandRetry (s : State) : Out :=
  match s.model.arg with
  | .n1 id =>
    match s.bus.cmds.find? fun m => m.id == id && m.refused with
    | some m => .next (s.cmdArrives m)
    | none => .next s
  | _ => .next s

end Sys2Proof.Machine
end

