-- ==== Sys2Proof/Machine/Sched.lean ====
section
/-! DEFINITION. The scheduling instructions (R330-R333) and the issue slots (R317). -/

namespace Sys2Proof.Machine

/-! ### Blocks -/

/-- Runs `body` on the block that ga names in a region of the loaded thread's context: a fault for a reserved bit, DENIED for another's
region, a fault above its blocks, in this order (R330). -/
def State.withBlock (s : State) (i : Instr) (d : Reg) (v : Word) (reserved : Bool) (body : Ctx → Region → Block → State → State) : State :=
  s.withCtx d (·.illegal i) fun c s =>
    if reserved then s.illegal i
    else
      match s.regionOf (wbits v 15 0) with
      | none => s.finishStatus d stDenied
      | some r =>
        if r.ctx ≠ c.id then s.finishStatus d stDenied
        else
        match r.blocks[wbits v 22 16]? with
        | none => s.illegal i
        | some b => body c r b s

def State.modBlock (s : State) (h k : Nat) (f : Block → Block) : State :=
  s.modRegion h fun r => { r with blocks := r.blocks.modify k f }

def State.modDisp (s : State) (h k : Nat) (f : Dispatch → Dispatch) : State := s.modBlock h k fun b => { b with disp := f b.disp }

/-- Capacity of the queue behind a handle of a context. -/
def State.capacityOf (s : State) (c : Ctx) (h : Nat) : Nat :=
  match (lookup c.bindings h).bind fun b => s.queueOf b.queue with
  | some q => q.cap
  | none => 0

/-- RARM (R331). -/
def execRarm (d a b : Reg) (s : State) : Out :=
  issue (.rarm d a b) ⟨.sched, false, [d, a, b], []⟩ s fun s =>
    let i := Instr.rarm d a b
    let v := s.reg a
    let x := s.reg b
    s.withBlock i d v (wbits v 63 23 != 0 || wbits x 63 12 != 0) fun c r k s =>
      let n := wbits v 22 16
      if k.queueArmed then
        let t := wbits x 11 0 + 1
        if r.stopped ∨ k.armedQs.any (fun h => decide (s.capacityOf c h < t)) then s.finishStatus d stDenied
        else (s.modDisp r.handle n fun p => { p with armed := true, threshold := t }).finishStatus d stOK
      else if x ≠ 0 then s.illegal i
      else if r.stopped then s.finishStatus d stDenied
      else if k.disp.pending = 65535 then s.finishStatus d stBusy
      else (s.modDisp r.handle n fun p => { p with pending := p.pending + 1 }).finishStatus d stOK

/-- RDISARM (R331). -/
def execRdisarm (d a : Reg) (s : State) : Out :=
  issue (.rdisarm d a) ⟨.sched, false, [d, a], []⟩ s fun s =>
    let i := Instr.rdisarm d a
    let v := s.reg a
    s.withBlock i d v (wbits v 63 23 != 0) fun _ r k s =>
      (s.modDisp r.handle (wbits v 22 16) fun p => { p with armed := false }).finishStatus d (if k.disp.armed then stOK else stEmpty)

/-- RPRIO (R331). -/
def execRprio (d a b : Reg) (s : State) : Out :=
  issue (.rprio d a b) ⟨.sched, false, [d, a, b], []⟩ s fun s =>
    let i := Instr.rprio d a b
    let v := s.reg a
    let x := s.reg b
    s.withBlock i d v (wbits v 63 23 != 0 || wbits x 63 2 != 0) fun c r _ s =>
      if c.prio < wbits x 1 0 then s.finishStatus d stDenied
      else (s.modDisp r.handle (wbits v 22 16) fun p => { p with base := wbits x 1 0 }).finishStatus d stOK

/-! ### CANCEL (R332) -/

/-- Kind 0: lowers a pending count. -/
def State.cancelBlock (s : State) (i : Instr) (d : Reg) (v x : Word) : State :=
  s.withBlock i d v (wbits v 63 23 != 0 || wbits x 63 2 != 0) fun _ r k s =>
    let n := wbits v 22 16
    if 0 < k.disp.pending then (s.modDisp r.handle n fun p => { p with pending := p.pending - 1 }).finishStatus d stOK
    else if r.invs.any fun x => x.work == .block n then s.finishStatus d stStarted
    else s.finishStatus d stEmpty

/-- Kind 1: travels as a matrix command does; the thread waits for the answer. -/
def State.cancelCommand (s : State) (i : Instr) (d : Reg) (cap : Nat) (tag : BitVec 32) : State :=
  s.withCtx d (·.illegal i) fun c s =>
    match s.matrixCap c cap with
    | none => s.capFault i
    | some r =>
      if s.passesAllowance [s.regionDie r] then s.finishStatus d stBusy
      else (s.sendCmd c r (.cancel tag d)).waitFor .answer

/-- Kind 2: a hung region's invocations are discarded, and it thaws. -/
def State.cancelHung (s : State) (i : Instr) (d : Reg) (h : Nat) : State :=
  s.withCtx d (·.illegal i) fun c s =>
    match s.regionOf h with
    | none => s.finishStatus d stDenied
    | some r =>
      if r.ctx ≠ c.id ∨ r.freeze ≠ .hung then s.finishStatus d stDenied
      else (((s.dropAll r (some stAborted)).modRegion h fun r => { r with freeze := .running, idle := 0 }).settleStats h).finishStatus d stOK

/-- CANCEL: gb [1:0] gives the kind. -/
def opCancel (i : Instr) (d a b : Reg) (s : State) : Out :=
  issue i ⟨.sched, false, [d, a, b], []⟩ s fun s =>
    let v := s.reg a
    let x := s.reg b
    if s.inHandler then s.finishStatus d stDenied
    else
      match wbits x 1 0 with
      | 0 => s.cancelBlock i d v x
      | 1 => if wbits v 63 16 ≠ 0 ∨ wbits x 31 2 ≠ 0 then s.illegal i
             else s.cancelCommand i d (wbits v 15 0) (x.extractLsb' 32 32)
      | 2 => if wbits v 63 16 ≠ 0 ∨ wbits x 63 2 ≠ 0 then s.illegal i else s.cancelHung i d (wbits v 15 0)
      | _ => s.illegal i

def execCancelBlock (d a b : Reg) (s : State) : Out := opCancel (.cancelBlock d a b) d a b s
def execCancelCommand (d a b : Reg) (s : State) : Out := opCancel (.cancelCommand d a b) d a b s
def execCancelHungRegion (d a b : Reg) (s : State) : Out := opCancel (.cancelHungRegion d a b) d a b s

/-! ### Threads (R333) -/

def execThprio (d a : Reg) (s : State) : Out :=
  issue (.thprio d a) ⟨.sched, false, [d, a], []⟩ s fun s =>
    s.withCtx d (·.illegal (.thprio d a)) fun c s =>
      let v := s.reg a
      let t := wbits v 2 0
      let p := wbits v 9 8
      if wbits v 63 10 ≠ 0 ∨ wbits v 7 3 ≠ 0 ∨ c.threads.length ≤ t then s.illegal (.thprio d a)
      else if c.prio < p then s.finishStatus d stDenied
      else (s.modCtxThr c.id t fun x => { x with prio := p }).finishStatus d stOK

/-- YIELD (R333); in a dome-close handler it does nothing (R422). -/
def opYield (i : Instr) (n : Nat) (s : State) : Out :=
  issue i ⟨.sched, false, [], []⟩ s fun s =>
    (if s.inHandler then s else { s with cpu := { s.cpu with yielded := true } }).retire n

def execYield (s : State) : Out := opYield .yield 2 s
def execYieldCompact (s : State) : Out := opYield .yieldCompact 1 s

/-! ### Issue (R317) -/

/-- A waiting thread can go on: its instruction is executed again. -/
def State.waitOver (s : State) (a : Actor) (t : Thr) : Bool :=
  match t.wait with
  | .none => true
  | .system _ => true
  | .mailbox _ _ _ => (match s.actorCtx a with | some c => !c.mailbox.isEmpty | none => true)
  | .counter _ k _ _ => (match s.actorCtx a with | some c => (c.counter k).count == 0 | none => true)
  | .tile i =>
    (match (s.actorCtx a).bind fun c => c.tileAt i with
     | some t => t.state == .ready || t.state == .empty
     | none => true)
  | .sfu => (s.pendingSfu a).isEmpty && decide ((s.sfuOf a.unit).length < Config.sfuQueue)
  | .holding => (match s.actorCtx a with | some c => decide (c.held.length < 256) | none => true)
  | .workQueue =>
    (match a with
     | .engine d e => (match (s.engineQueue d e).bind fun q => q.home (.engine d e) with | some h => (headOf h.entries).isSome | none => false)
     | .thread _ _ _ => true)
  | .access n => decide ((s.pendingOf a).length < n)
  | .loads rs => if rs.isEmpty then t.pend.isEmpty else t.pend.all fun p => p.sure && p.regs.all fun r => !rs.contains r
  | .barrier _ _ _ _ | .page _ _ | .answer => false

/-- Dome-close lets threads issue: not at all once frozen, its handlers alone while they run (R421, R422). -/
def State.domeLets (s : State) (a : Actor) : Bool :=
  match s.dome.phase with
  | .idle => true
  | .handlers rs => rs.any fun r => r.1 == a
  | _ => false

/-- A thread or hart is ready (R317): its next parcels are in its fetch buffer, or a trap is due. A switch of its context interrupts no TLBINV
or other instruction that waits in the part (R362). -/
def State.ready (s : State) (a : Actor) : Bool :=
  match s.thrOf a with
  | none => false
  | some t =>
    t.run == .running && s.waitOver a t && (t.hasNext || t.trapDue.isSome) && s.domeLets a
      && (match s.actorCtx a with
        | some c => c.resident && (!c.hold || s.closing || (!c.rolling && (match t.wait with | .system _ => true | _ => false)))
        | none => true)

/-- Ready threads of a station with their hardware threads. -/
def State.readyAt (s : State) (st : Nat) : List (Actor × Nat) :=
  ((s.ctxs.filter fun c => c.resident && c.station == st).flatMap fun c =>
    (List.range c.threads.length).map fun i => (Actor.thread st c.slot i, c.hwOf i)).filter fun p => s.ready p.1

/-- Distance of a hardware thread after the owner of the cycle, modulo 8. -/
def slotAfter (owner h : Nat) : Nat := (h + 8 - owner - 1) % 8

/-- The thread that takes the slot of this cycle, and whether it owns it (R317). -/
def State.slotTaker (s : State) (st : Nat) : Option (Actor × Bool) :=
  let owner := s.cycle.toNat % 8
  let rs := s.readyAt st
  match rs.find? fun p => p.2 == owner with
  | some p => some (p.1, true)
  | none =>
    let prio := fun (a : Actor) => (s.thrOf a).map (·.prio) |>.getD 0
    let free := rs.filter fun p => !((s.thrOf p.1).map (·.yielded) |>.getD false)
    (best (fun x y => decide (prio y.1 < prio x.1) || (prio x.1 == prio y.1 && decide (slotAfter owner x.2 < slotAfter owner y.2))) free).map
      fun p => (p.1, false)

/-- Gives the slot to an actor: it is loaded and runs one instruction next. The free choices of that instruction are drawn (log 66). -/
def State.giveSlot (s : State) (a : Actor) (owned : Bool) : State :=
  let (x, s) := (s.load a).freeWord
  { s with model := { s.model with run := some a, owned := owned, slow := x.getLsbD 0, ahead := x.getLsbD 1 } }

/-- The loaded thread turns out to wait for SFU results or for its own accesses (R166): it was not ready, so its station's slot goes to
another thread, and a YIELD of its own stands (R317). -/
def State.passSlot (s : State) (yielded : Bool) : State :=
  match s.cpu.wait with
  | .sfu | .loads _ | .access _ =>
    let again : List Task := match s.who with | .thread st _ _ => [⟨.issueSlot, .n1 st⟩] | .engine _ _ => []
    { s with cpu := { s.cpu with yielded := yielded }, model := { s.model with agenda := again ++ s.model.agenda } }
  | _ => s

/-- ISSUE_SLOT: of the station in `arg`, or of an engine hart, which issues whenever it is ready. -/
def execIssueSlot (s : State) : Out :=
  match s.model.arg with
  | .n1 st =>
    match s.slotTaker st with
    | some (a, owned) => .next (s.giveSlot a owned)
    | none => .next s
  | .actor (.engine d e) => if s.ready (.engine d e) then .next (s.giveSlot (.engine d e) true) else .next s
  | _ => .next s

end Sys2Proof.Machine
end

