-- ==== Sys2Proof/Machine/Barrier.lean ====
section
/-! DEFINITION. Barriers, snapshots, reductions and done-trees (R287-R292). -/

namespace Sys2Proof.Machine

/-- The scope of a join at a level: a full FENCE on arrival and on departure (R216), between which the thread makes no access. -/
def levelScope (level : Nat) : Scope := match level with | 0 => .sta | 1 => .die | 2 => .pkg | _ => .sys

/-- The joins of R289: checks of the level, the fence on arrival, then `body` with context, thread and domain. -/
def State.withDomain (s : State) (i : Instr) (d a : Reg) (bad : Bool) (body : Ctx → Nat → Domain → State → State) : State :=
  s.withCtx d (·.illegal i) fun c s =>
    let level := wbits (s.reg a) 2 0
    match s.myDomain c s.myIndex level with
    | none => s.illegal i
    | some dm =>
      if bad || decide (4 < level) then s.illegal i
      else if s.mustRelease (levelScope level) .none then s.waitAccess
      else body c s.myIndex dm (s.addOrder .full (levelScope level))

/-- BAR, BARSNAP and REDUCE join and wait; the completion writes gd and goes past the word. -/
def State.joinAndWait (s : State) (dm : Domain) (j : Join) : State :=
  let (n, s) := s.join dm j
  (s.waitFor (.barrier dm.level n j.gd (j.form == .reduce))).settle

def opBar (i : Instr) (form : JoinForm) (d a : Reg) (s : State) : Out :=
  issue i (.plain [d, a]) s fun s =>
    s.withDomain i d a (wbits (s.reg a) 63 3 != 0) fun c t dm s => s.joinAndWait dm ⟨c.id, t, form, s.reg a, 0, d⟩

def execBar (d a : Reg) (s : State) : Out := opBar (.bar d a) .bar d a s
def execBarsnap (d a : Reg) (s : State) : Out := opBar (.barsnap d a) .barsnap d a s

/-- ga of a REDUCE is malformed (R290). -/
def badReduce (v : Word) : Bool :=
  wbits v 63 10 != 0 || wbit v 3 || decide (5 < wbits v 6 4) || (decide (2 ≤ wbits v 9 8) && decide (3 ≤ wbits v 6 4))

/-- What a member contributes (R290). -/
def reduceValue (ga v : Word) : Word := if wbits ga 9 8 = 3 then w64 (wbits v 31 0) else v

def execReduce (d a b : Reg) (s : State) : Out :=
  issue (.reduce d a b) (.plain [d, a, b]) s fun s =>
    s.withDomain (.reduce d a b) d a (badReduce (s.reg a)) fun c t dm s =>
      s.joinAndWait dm ⟨c.id, t, .reduce, s.reg a, reduceValue (s.reg a) (s.reg b), d⟩

/-- DONE (R291): joins and goes on. -/
def execDone (d a : Reg) (s : State) : Out :=
  issue (.done_ d a) (.plain [d, a]) s fun s =>
    s.withDomain (.done_ d a) d a (wbits (s.reg a) 63 3 != 0) fun c t dm s =>
      let (n, s) := s.join dm ⟨c.id, t, .done, s.reg a, 0, d⟩
      let s := { s with cpu := { s.cpu with sstat := sstatWord stOK dm.level n } }
      (s.finish d (w64 (stOK.toNat + (n % 2 ^ 32) * 2 ^ 32))).settle

end Sys2Proof.Machine
end

