-- ==== Sys2Proof/Machine/CtrlRegs.lean ====
section
/-! DEFINITION. GETK and PUTK of every control register (R92, R158, R159, R242, R276, R287, R295, R329, R347, R372, R388, R404, R415). -/

namespace Sys2Proof.Machine

/-! ### Reading -/

/-- k.thread (R159, R293). -/
def State.kThread (s : State) : Word :=
  match s.who with
  | .thread st slot i => w64 (st * 2 ^ 8 + slot * 2 ^ 6 + i * 2 ^ 3 + (match s.myCtx with | some c => c.hwOf i | none => 0))
  | .engine d e => w64 ((112 + d) * 2 ^ 8 + e * 2 ^ 4)

/-- k.qstate (R329). -/
def State.kQstate (s : State) (c : Ctx) : Word :=
  match s.gangOf c.gang with
  | none => 0
  | some g => w64 (g.qstate + ((s.gangRegions g.id).filter fun r => !r.stopped).length % 2 ^ 10 * 2 ^ 16 + g.qnumber * 2 ^ 32)

/-- k.hcharge (R415). -/
def Ctx.kHcharge (c : Ctx) : Word :=
  w64 (c.charge % 2 ^ 32 + (c.segments.filter (·.guaranteed)).length % 16 * 2 ^ 32 + c.opens.length % 16 * 2 ^ 36)

/-- Registers of a station context; a hart has none of them (log 14). Those of dome-close do not exist on a ZS9-D (R3). -/
def State.getCtxK (s : State) (c : Ctx) (n : Nat) : Option Word :=
  match n with
  | 0x004 => some (w64 c.asid)
  | 0x005 => some (w64 (boolNat c.service))
  | 0x011 => some (c.vflags.setWidth 64)
  | 0x012 => some (c.vtrap.setWidth 64)
  | 0x013 => some (c.srseed.setWidth 64)
  | 0x030 => some c.dom
  | 0x032 => some (c.mcls.setWidth 64)
  | 0x033 => some (s.kQstate c)
  | 0x034 => some (c.hangiv.setWidth 64)
  | 0x035 => some (c.hangmap.setWidth 64)
  | 0x060 => some (c.lnack.setWidth 64)
  | 0x061 => some (c.lnaddr.setWidth 64)
  | 0x070 => some c.tvec
  | 0x074 => some c.prot
  | 0x075 => some c.undo
  | 0x076 => if s.part = 2 then none else some c.hentry
  | 0x078 => if s.part = 2 then none else some c.kHcharge
  | _ => none

/-- Registers of an engine hart alone (R293, R295). -/
def HartRegs.getK (h : HartRegs) (n : Nat) : Option Word :=
  match n with
  | 0x050 => some h.lcomb
  | 0x051 => some h.ecompl
  | 0x052 => some h.ecomph
  | 0x070 => some h.tvec
  | _ => none

/-- The value of control register `n` for the loaded thread or hart; `none` when the number names no register. -/
def State.getK (s : State) (n : Nat) : Option Word :=
  match n with
  | 0x000 => some s.kThread
  | 0x001 => some (w64 s.regCount)
  | 0x002 => some s.cycle
  | 0x003 => some (w64 (s.pkgid + boolNat s.pkgValid * 2 ^ 9))
  | 0x010 => some (s.cpu.fflags.setWidth 64)
  | 0x020 => some (s.cpu.astat.setWidth 64)
  | 0x031 => some s.cpu.sstat
  | 0x071 => some s.cpu.tpc
  | 0x072 => some (s.cpu.tcause.setWidth 64)
  | 0x073 => some s.cpu.tval
  | 0x077 => if s.part = 2 then none else some (w64 (s.dome.hbudget % 2 ^ 32))
  | n =>
    if 0x040 ≤ n ∧ n < 0x048 then some (s.cpu.m.toArray.getD (n - 0x040) 0)
    else match s.who with
    | .engine _ _ => s.cpu.hart.getK n
    | .thread _ _ _ => s.myCtx.bind fun c => s.getCtxK c n

/-- GETK and PUTK above 0x0FF are for service contexts (R67). -/
def kService (n : BitVec 13) : Bool := decide (0x100 ≤ n.toNat)

/-- Outstanding answers still write the register, or are still to be combined under it: k.fflags, k.astat, k.lcomb (R92, R242, R295). -/
def Thr.owes (t : Thr) (n : Nat) : Bool :=
  match n with
  | 0x010 => t.pend.any fun p => p.atomic || p.line.isSome
  | 0x020 => t.pend.any fun p => p.atomic
  | 0x050 => t.pend.any fun p => p.line.isSome
  | _ => false

def execGetk (d : Reg) (n : BitVec 13) (s : State) : Out :=
  issue (.getk d n) ⟨.all, kService n, [d], []⟩ s fun s =>
    if n = 0x10 ∧ s.sfuBusy then s.waitFor .sfu
    else if s.cpu.owes n.toNat then s.waitFor (.loads [])
    else
      match s.getK n.toNat with
      | some v => s.finish d v
      | none => s.illegal (.getk d n)

/-! ### Writing -/

/-- A write of k.dom: regroups the context, or is refused (R287). -/
def State.putDom (s : State) (c : Ctx) (v : Word) : Option State :=
  let c' := { c with dom := v }
  let joined := (List.range 8).any fun t => (c.dom.getLsbD t || v.getLsbD t) && s.inEpisode c.id t
  if wbits v 63 56 ≠ 0 ∨ s.domListed c' = false ∨ joined = true then none
  else some (s.modCtx c.id fun c => { c with dom := v }).settle

/-- A write of k.lnack: 0 alone, which clears both registers (R372). -/
def State.putLnack (s : State) (c : Ctx) (v : Word) : Option State :=
  if v = 0 then some (s.modCtx c.id fun c => { c with lnack := 0, lnaddr := 0 }) else none

/-- A write to a register of a station context; `none` for a read-only one, a reserved bit, or a value its own rule refuses. -/
def State.putCtxK (s : State) (c : Ctx) (n : Nat) (v : Word) : Option State :=
  let put := fun (ok : Bool) (f : Ctx → Ctx) => if ok then some (s.modCtx c.id f) else none
  match n with
  | 0x011 => put (wbits v 63 5 == 0) fun c => { c with vflags := v.setWidth 5 }
  | 0x012 => put (wbits v 63 5 == 0) fun c => { c with vtrap := v.setWidth 5 }
  | 0x013 => put (wbits v 63 32 == 0) fun c => { c with srseed := v.setWidth 32 }
  | 0x030 => s.putDom c v
  | 0x034 => put (wbits v 63 20 == 0) fun c => { c with hangiv := v.setWidth 20 }
  | 0x035 => put (wbits v 63 23 == 0 && wbits v 5 0 == 0) fun c => { c with hangmap := v.setWidth 23 }
  | 0x060 => s.putLnack c v
  | 0x070 => put (wbits v 63 56 == 0) fun c => { c with tvec := v }
  | 0x075 => put (!outside v [(55, 16), (0, 0)] && !c.isProt) fun c => { c with undo := v }
  | 0x076 => put (s.part != 2 && wbits v 63 56 == 0 && (!wbit v 0 || c.handler.isSome)) fun c => { c with hentry := v }
  | _ => none

/-- k.lcomb is well formed (R295). -/
def lcombOk (v : Word) : Bool := wbits v 63 7 == 0 && !wbit v 3 && decide (wbits v 2 0 ≤ 3) && decide (wbits v 6 4 ≤ 4)

/-- A write to a register of a hart. -/
def State.putHartK (s : State) (n : Nat) (v : Word) : Option State :=
  let put := fun (ok : Bool) (f : HartRegs → HartRegs) => if ok then some { s with cpu := { s.cpu with hart := f s.cpu.hart } } else none
  match n with
  | 0x050 => put (lcombOk v) fun h => { h with lcomb := v }
  | 0x051 => put true fun h => { h with ecompl := v }
  | 0x070 => put (wbits v 63 56 == 0) fun h => { h with tvec := v }
  | _ => none

/-- A write to control register `n`; `none` raises ILLEGAL-OPERAND. -/
def State.putK (s : State) (n : Nat) (v : Word) : Option State :=
  match n with
  | 0x010 => if wbits v 63 5 = 0 then some { s with cpu := { s.cpu with fflags := v.setWidth 5 } } else none
  | 0x071 => if wbits v 63 56 = 0 ∧ !wbit v 0 then some { s with cpu := { s.cpu with tpc := v } } else none
  | n =>
    if 0x040 ≤ n ∧ n < 0x048 then some { s with cpu := { s.cpu with m := s.cpu.m.setIfInBounds (n - 0x040) v } }
    else match s.who with
    | .engine _ _ => s.putHartK n v
    | .thread _ _ _ => s.myCtx.bind fun c => s.putCtxK c n v

/-- k.ecomph of a hart (R295): the completion goes to the producer's mailbox once the hart's accesses have been performed; a full
mailbox makes the hart wait (R286), and an entry without a producer, or for a retired one, is dropped. -/
def State.putEcomph (s : State) (v : Word) : State :=
  if !(s.pendingOf s.who).isEmpty then s.waitAccess
  else
    let done := fun (s : State) => ({ s with cpu := { s.cpu with hart := { s.cpu.hart with ecomph := v } } }).retire 2
    match s.who with
    | .thread _ _ _ => s
    | .engine d e =>
      match (s.engineAt d e).bind (·.producer) with
      | none => done s
      | some cid =>
        if s.bus.mails.any fun m => m.1 == cid then s.waitFor (.system s.cycle.toNat)
        else
          match s.postMail cid (v ++ s.cpu.hart.ecompl) with
          | some s => done s
          | none => s.waitFor (.system s.cycle.toNat)

/-- PUTK of any number: k.fflags waits for the thread's SFU results (R158). -/
def opPutk (i : Instr) (a : Reg) (n : BitVec 13) (s : State) : Out :=
  issue i ⟨.all, kService n, [a], []⟩ s fun s =>
    let v := s.reg a
    if n = 0x10 ∧ s.sfuBusy then s.waitFor .sfu
    else if s.cpu.owes n.toNat then s.waitFor (.loads [])
    else if n = 0x52 ∧ s.who.isEngine then s.putEcomph v
    else
      match s.putK n.toNat v with
      | some s => s.retire 2
      | none => s.illegal i

def execPutk (a : Reg) (n : BitVec 13) (s : State) : Out := opPutk (.putk a n) a n s
def execPutkEcomph (a : Reg) (s : State) : Out := opPutk (.putkEcomph a) a 0x52 s
def execPutkDom (a : Reg) (s : State) : Out := opPutk (.putkDom a) a 0x30 s
def execPutkLnack (a : Reg) (s : State) : Out := opPutk (.putkLnack a) a 0x60 s

end Sys2Proof.Machine
end

