-- ==== Sys2Proof/Machine/SaveArea.lean ====
section
/-! DEFINITION. Context switches (R399-R402): the save area's layout, CTXSW out, in and kill. The manual gives no layout inside a
counter, tile, tag or binding entry: those bytes of an area are an uninterpreted function of the entry, and CTXSW in reads from them the
entry that they stand for (log 24). -/

namespace Sys2Proof.Machine

/-! ### Rendering (R399) -/

/-- Code of a thread's state in its record. -/
def stateCode (t : Thr) : Nat :=
  match t.run with
  | .never | .halted => 6
  | .ended => 7
  | .running =>
    if t.trapDue.isSome then 5
    else match t.wait with
    | .mailbox _ _ _ => 1
    | .counter _ _ _ _ => 2
    | .tile _ => 3
    | .barrier _ _ _ _ => 4
    | .sfu => 5
    | .page _ _ => 8
    | .holding => 9
    | _ => 0

def words (ws : List Word) : List Byte := ws.flatMap fun w => bytesOf 8 w.toNat

def lateBytes (r : Word × BitVec 5 × Reg) : List Byte :=
  bytesOf 8 r.1.toNat ++ bytesOf 8 (r.2.1.toNat + r.2.2.toNat * 2 ^ 5 + 2 ^ 10)

/-- A thread record: 512 bytes. A thread waiting at a barrier is saved with its PC past the word. One whose trap waits for SFU results is
saved at the instruction that trapped, which executes again. -/
def threadRecord (t : Thr) : List Byte :=
  let pc := match t.trapDue with | some d => d.pc | none => if stateCode t = 4 then t.pc + 4 else t.pc
  padTo 512
    (padTo 0x1C0
      (words ((List.range 32).map (fun i => t.reg (BitVec.ofNat 5 i)) ++ t.m.toList
        ++ [pc, t.fflags.setWidth 64, t.astat.setWidth 64, t.sstat, t.tpc, t.tcause.setWidth 64, t.tval,
            w64 (t.prio + 4 * boolNat t.yielded), w64 (stateCode t)]))
      ++ (t.late.take 4).flatMap lateBytes)

/-- The header up to its check. The manual gives no bit positions for station, slot and ASID at 0x08: that word is an uninterpreted
function of the three (log 26). -/
def areaHeader (c : Ctx) : List Byte :=
  words [0x57534358, Config.ctxHead c.station c.slot c.asid, c.tvec, c.dom, c.prot, c.undo, c.hangiv.setWidth 64, c.hangmap.setWidth 64,
    c.mcls.setWidth 64, c.vflags.setWidth 64, c.vtrap.setWidth 64, c.srseed.setWidth 64, c.lnack.setWidth 64, c.lnaddr.setWidth 64,
    w64 c.spill.length, 0, c.hentry]

def optFields (x : Option Nat) : List Nat := match x with | some n => [1, n] | none => [0]

/-- Fields of entry `e` of a station table (R457): counters, mailbox, tiles, tags, bindings, capabilities. -/
def Ctx.tableEntry (c : Ctx) (t e : Nat) : List Nat :=
  match t with
  | 0 => match c.counters[e]? with
    | some k => [k.count, k.stride, k.slots, k.base, k.next, k.arrivals, boolNat k.post, boolNat k.pending, boolNat k.overrun,
        boolNat k.enabled, k.thread, k.entry, k.landing.toNat]
    | none => []
  | 2 => match c.tileAt e with
    | some x => [match x.state with | .empty => 0 | .filling => 1 | .ready => 2 | .draining => 3, x.base, x.fmt.toNat, boolNat x.mx, x.scale,
        x.pins] ++ x.extents
    | none => []
  | 3 => match lookup c.tags e with
    | some x => [boolNat x.valid, boolNat x.dirty, x.granule, x.slot]
    | none => []
  | 4 => match lookup c.bindings e with
    | some b => b.queue :: optFields b.window ++ optFields (b.byCap.map (·.toNat)) ++ (match b.consumer with
        | some (.ctx i) => [1, i]
        | some (.engine d k) => [2, d, k]
        | none => [0])
    | none => []
  | _ => []

/-- Entries of a station table, and bytes of an entry (R399). -/
def tableShape (t : Nat) : Nat × Nat := [(64, 32), (256, 16), (512, 32), (4096, 8), (1024, 16), (256, 16)].getD t (0, 1)

/-- Offset of a station table in the area. -/
def tableStart (t : Nat) : Nat := [0x1100, 0x1900, 0x2900, 0x6900, 0xE900, 0x12900].getD t 0

/-- Byte `o` of a station table: the mailbox and the capabilities as words, the others by entry. -/
def Ctx.tableByteAt (c : Ctx) (t o : Nat) : Byte :=
  let n := (tableShape t).2
  let word := fun (v : BitVec 128) => (bytesOf 16 v.toNat).getD (o % n) 0
  match t with
  | 1 => word (c.mailbox.getD (o / n) 0)
  | 5 => word (lookupD c.caps (o / n) 0)
  | _ => Config.tableByte t (c.tableEntry t (o / n)) (o % n)

def Ctx.tableBytes (c : Ctx) (t : Nat) : List Byte := (List.range ((tableShape t).1 * (tableShape t).2)).map (c.tableByteAt t)

/-- The area below 0x2_0000 with a check of zero. -/
def areaBody (c : Ctx) (threads : List Thr) : List Byte :=
  let recs := (List.range 8).flatMap fun i => match threads[i]? with | some t => threadRecord t | none => List.replicate 512 0
  padTo areaChecked
    (padTo 0x100 (areaHeader c) ++ recs ++ (List.range 6).flatMap c.tableBytes)

/-- The whole area: its body, its check, and the spill entries so far. -/
def areaBytes (c : Ctx) (threads : List Thr) : List Byte :=
  let body := areaBody c threads
  let body := body.take areaCheck ++ bytesOf 8 (areaCrc body).toNat ++ body.drop (areaCheck + 8)
  padTo 0x40000 (body ++ c.spill.flatMap spillBytes)

def State.writeArea (s : State) (src : Option Nat) (frames : List Nat) (c : Ctx) (threads : List Thr) : State :=
  s.writePaged src frames 4096 0 (areaBytes c threads)

/-! ### Out -/

/-- The instruction may go on while a switch holds its context: no switch interrupts it (R362). -/
def sysWait (w : Wait) : Bool := match w with | .system _ => true | _ => false

/-- Results of a context's threads outstanding at the SFU. -/
def State.sfuOfCtx (s : State) (cid : Nat) : Bool := s.sfus.any fun p => p.2.any fun r => r.ctx == cid && !r.who.isEngine

/-- Accesses of a context's threads that are still to be performed here or answered (R218). Stores on their way to another package do
not hold a switch: their refusals count while the context is out (R385). -/
def State.ctxPending (s : State) (cid : Nat) : Bool :=
  (s.bus.reqs.any fun r => r.ctx == cid) || (s.bus.outs.any fun r => r.ctx == cid && r.ans != .none) || (s.bus.answers.any fun r => r.ctx == cid)
    || s.health.ctls.any fun h => h.buffer.any fun r => r.ctx == cid

/-- Threads of a context with something that has to end before the capture: an answer on its way, or an instruction that no switch
interrupts. -/
def State.ctxBusy (s : State) (c : Ctx) : Bool :=
  (List.range c.threads.length).any fun i =>
    match s.ctxThr c.id i with
    | some t => t.run == .running && (t.wait == .answer || sysWait t.wait || !t.pend.isEmpty || t.fetching.isSome)
    | none => false

/-- The switch may capture (R399): results written or 64 cycles gone, and every access of the context performed (log 25). -/
def State.mayCapture (s : State) (c : Ctx) : Bool :=
  match c.swapping with
  | none => false
  | some since =>
    c.resident && (!s.sfuOfCtx c.id || decide (since + 64 ≤ s.cycle.toNat)) && !s.ctxPending c.id && !s.ctxBusy c

/-- The capture instant: registers go into the tables and the slot is free. -/
def State.capture (s : State) (cid : Nat) : State :=
  let s := s.flush
  let s := if s.ctxIdOf s.who = cid then { s with who := .engine 0 0 }.reload else s
  s.modCtx cid fun c => { c with resident := false, spilled := false, saveFrames := [] }

/-- CTXSW_SFU_WAIT_EXPIRY: 64 cycles after the CTXSW out of the context in `arg` began. -/
def execCtxswSfuWaitExpiry (s : State) : Out :=
  match s.model.arg with
  | .n1 cid =>
    match s.ctxOf cid with
    | some c => if s.mayCapture c then .next (s.capture cid) else .next s
    | none => .next s
  | _ => .next s

/-- Pages of 64 KiB that `n` bytes at a virtual address touch. -/
def pagesOf (va n : Nat) : Nat := (va + n - 1) / 0x10000 + 1 - va / 0x10000

/-- Runs `body` with the frames of an area of the issuer, once every page translates (R401). The control window takes no access of an area's
size (R30). -/
def State.withArea (s : State) (va n : Nat) (need : Need) (body : List Nat → State → State) : State :=
  match s.space s.who with
  | none => s.trap clPermission (w64 va)
  | some (asid, svc, u) =>
    match xlatePages u asid need svc (pagesOf va n) (va / 0x10000 * 0x10000) s with
    | (s, .permission) => s.trap clPermission (w64 va)
    | (s, .notPresent p) =>
      let (tag, s) := s.pageAbsent u asid p (needKind need false) (s.actorCtx s.who)
      s.waitFor (.page tag (w64 va))
    | (s, .ok fs) =>
      match fs.find? fun f => !(s.home f).isMem with
      | none => body fs s
      | some f => s.trap (if (s.home f).isCtl then clAlignment else clPermission) (w64 va)

/-- The context that a CTXSW out has captured and is still writing. -/
def State.swapped (s : State) (st slot : Nat) : Option Ctx :=
  s.ctxs.find? fun c => !c.resident && c.swapping.isSome && c.station == st && c.slot == slot

/-- The second part of CTXSW out, from the capture on: the area is written after the last late result. -/
def State.finishOut (s : State) (d : Reg) (c : Ctx) (frames : List Nat) : State :=
  if s.sfuOfCtx c.id then s.waitFor (.system s.cycle.toNat)
  else
    let s := s.writeArea (s.myCtx.map (·.id)) frames c c.threads
    -- the area holds the refusals so far; those that return while the context is out count from 0
    (s.modCtx c.id fun c => { c with saveFrames := frames, swapping := none, lnack := 0, lnaddr := 0 }).finishStatus d stOK

/-- CTXSW out begins (R399, R401): issue of the context stops. -/
def State.beginOut (s : State) (d : Reg) (st slot : Nat) : State :=
  match s.ctxAt st slot with
  | none => s.finishStatus d stDenied
  | some c =>
    if c.swapping.isSome || (s.regions.any fun r => r.ctx == c.id && (match r.freeze with | .saved _ => false | _ => true)) then
      s.finishStatus d stDenied
    else (s.modCtx c.id fun c => { c with hold := true, swapping := some s.cycle.toNat }).waitFor (.system s.cycle.toNat)

/-- CTXSW out goes on: it waits for the capture instant, captures, and writes. -/
def State.goOnOut (s : State) (d : Reg) (st slot : Nat) (frames : List Nat) : State :=
  match s.swapped st slot with
  | some c => s.finishOut d c frames
  | none =>
    match s.ctxAt st slot with
    | none => s.finishStatus d stDenied
    | some c =>
      if c.swapping.isNone then s.finishStatus d stDenied
      else if s.mayCapture c then
        let s := s.capture c.id
        match s.ctxOf c.id with
        | some c => s.finishOut d c frames
        | none => s
      else s

def State.ctxswOut (s : State) (d : Reg) (st slot : Nat) (frames : List Nat) : State :=
  if sysWait s.cpu.wait then s.goOnOut d st slot frames else s.beginOut d st slot

/-! ### In -/

/-- A 64-bit word of an area's bytes. -/
def wordAt (bs : List Byte) (off : Nat) : Word := w64 (leNat ((bs.drop off).take 8))

/-- A late result slot that is valid. -/
def lateOf (bs : List Byte) : Option (Word × BitVec 5 × Reg) :=
  let h := wordAt bs 8
  if wbit h 10 then some (wordAt bs 0, BitVec.ofNat 5 (wbits h 4 0), BitVec.ofNat 5 (wbits h 9 5)) else none

/-- A value without the reserved bits of its register, which read zero (R7): a word of 56 bits, and k.sstat (R287). -/
def low56 (v : Word) : Word := v &&& 0x00FFFFFFFFFFFFFF#64
def sstatOf (v : Word) : Word := v &&& 0xFFFFFFFF000007FF#64

/-- A thread from its record; what no record holds stays as it was, and reserved bits and bit 0 of its program counter are zero (R7, R62). A
wait is left, so that the instruction executes again; a thread that still waits at its barrier goes on waiting there. -/
def Thr.fromRecord (t : Thr) (bs : List Byte) : Thr :=
  let code := wbits (wordAt bs 0x180) 3 0
  let barrier := code == 4 && stateCode t == 4
  let t1 := { t with
    g := Vector.ofFn fun (i : Fin 32) => wordAt bs (8 * i.val)
    m := Vector.ofFn fun (i : Fin 8) => wordAt bs (0x100 + 8 * i.val)
    pc := (if barrier then wordAt bs 0x140 - 4 else wordAt bs 0x140) &&& ~~~ 1#64
    fflags := (wordAt bs 0x148).setWidth 5
    astat := (wordAt bs 0x150).setWidth 8
    sstat := sstatOf (wordAt bs 0x158)
    tpc := tpcOf (wordAt bs 0x160) &&& ~~~ 1#64
    tcause := (wordAt bs 0x168).setWidth 9
    tval := wordAt bs 0x170
    prio := wbits (wordAt bs 0x178) 1 0
    yielded := wbit (wordAt bs 0x178) 2
    run := if code = 6 then (if t.run = .never then .never else .halted) else if code = 7 then .ended else .running
    wait := if barrier then t.wait else .none
    buf := []
    fetching := none
    late := []
    fences := []
    pend := []
    trapDue := none }
  ((List.range 4).filterMap fun k => lateOf (bs.drop (0x1C0 + 16 * k))).foldl
    (fun t r => { t.setReg r.2.2 r.1 with fflags := orFlags t.fflags r.2.1 }) t1

/-- Entries of a saved mailbox of which `n` entries were saved. The area holds no count, and an entry of zeros is an entry: those up to the
last that is not zero stand, and no fewer than were saved (DESIGN CHOICE, log 24). -/
def mailboxOf (n : Nat) (bs : List Byte) : List (BitVec 128) :=
  let es := (List.range 256).map fun k => BitVec.ofNat 128 (leNat ((bs.drop (16 * k)).take 16))
  es.take (Nat.max n (256 - (es.reverse.takeWhile (· == 0)).length))

/-- Entry `e` of a table as an area holds it: the kept entry where the bytes are those that it renders to, and else what they say by
themselves (log 24). -/
def Ctx.entryOf {α : Type} (c : Ctx) (area : List Byte) (t e : Nat) (kept : α) (read : List Byte → α) : α :=
  let n := (tableShape t).2
  let bs := (area.drop (tableStart t + n * e)).take n
  if bs = (List.range n).map (fun o => c.tableByteAt t (n * e + o)) then kept else read bs

/-- A table kept as a list by index. -/
def Ctx.listOf {α : Type} (c : Ctx) (area : List Byte) (t : Nat) (kept : Nat → Option α) (read : List Byte → Option α) : List (Nat × α) :=
  (List.range (tableShape t).1).filterMap fun e => (c.entryOf area t e (kept e) read).map fun x => (e, x)

/-- Stations that carry service contexts alone (R40): by default the first of each die. -/
def State.isServiceStation (s : State) (st : Nat) : Bool := st % 24 == 0 || s.boot.services.contains st

/-- The thread that an identity names (R261); no thread for another producer. -/
def State.threadOf (s : State) (id : Nat) : Nat × Nat :=
  match (if id / 2 ^ 14 = s.pkgid ∧ id / 32 % 4 = 0 then s.ctxAt (id / 2 ^ 7 % 2 ^ 7) (id / 8 % 4) else none) with
  | some c => (c.id, c.hw.findIdx (· == id % 8))
  | none => (0, 0)

/-- A spill entry from its bytes (R400), for a context that was switched out of station `st`. Its sender is the thread that the source
identity names. -/
def State.spillFrom (s : State) (st : Nat) (bs : List Byte) : Option Spill :=
  let v := (wordAt bs 0).toNat
  let w := (wordAt bs 8).toNat
  if v % 256 = 1 then
    some (.message (bitsOf v 13 8) (bitsOf v 25 16) (bitsOf v 63 32) (BitVec.ofNat 23 w) ((bs.drop 16).take (min 64 (bitsOf w 31 24)))
      (s.threadOf (bitsOf w 22 0)) (st / 24))
  else if v % 256 = 2 then some (.entry (BitVec.ofNat 128 (leNat ((bs.drop 80).take 16))))
  else none

/-- The spills of an area, by its count (R400); one that the part wrote and nobody changed is the kept one. -/
def State.spillsOf (s : State) (c : Ctx) (area : List Byte) : List Spill :=
  (List.range (min 1024 (wordAt area 0x70).toNat)).filterMap fun k =>
    let bs := (area.drop (areaChecked + 128 * k)).take 128
    match c.spill[k]? with
    | some e => if spillBytes e = bs then some e else s.spillFrom c.station bs
    | none => s.spillFrom c.station bs

/-- Hardware threads free on a station. -/
def State.freeHw (s : State) (st : Nat) : List Nat :=
  (List.range 8).filter fun h => s.ctxs.all fun c => !(c.resident && c.station == st && c.hw.contains h)

/-- Refusals of the area, and those that returned while the context was out (R372, R385). -/
def Ctx.addRefusals (c out : Ctx) : Ctx :=
  let n := bitsOf c.lnack.toNat 31 0
  let k := bitsOf out.lnack.toNat 31 0
  if k = 0 then c
  else { c with lnack := (out.lnack.extractLsb' 32 8) ++ BitVec.ofNat 32 (min (n + k) (2 ^ 32 - 1)),
                lnaddr := if n = 0 then out.lnaddr else c.lnaddr }

/-- A context from an area's bytes, in a slot: at service level exactly on a service station (R346). -/
def Ctx.fromArea (c : Ctx) (bs : List Byte) (service : Bool) (st slot : Nat) (hw : List Nat) : Ctx :=
  { c with
    station := st, slot := slot, service := service, resident := true, hold := false, hw := hw, saveFrames := [], swapping := none
    spilled := false
    tvec := low56 (wordAt bs 0x10), dom := low56 (wordAt bs 0x18), prot := wordAt bs 0x20 &&& 0xFFFFFFFF0000FFF3#64
    undo := wordAt bs 0x28 &&& 0x00FFFFFFFFFF0001#64
    hangiv := (wordAt bs 0x30).setWidth 20, hangmap := (wordAt bs 0x38).setWidth 23 &&& 0x7FFFC0#23, mcls := (wordAt bs 0x40).setWidth 7
    vflags := (wordAt bs 0x48).setWidth 5, vtrap := (wordAt bs 0x50).setWidth 5, srseed := (wordAt bs 0x58).setWidth 32
    lnack := (wordAt bs 0x60).setWidth 40, lnaddr := (wordAt bs 0x68).setWidth 56, hentry := low56 (wordAt bs 0x80)
    threads := c.threads.zipIdx.map fun p => p.1.fromRecord ((bs.drop (0x100 + 512 * p.2)).take 512)
    counters := c.counters.zipIdx.map fun p => c.entryOf bs 0 p.2 p.1 fun e => (Config.counterOf e).getD p.1
    mailbox := mailboxOf c.mailbox.length (bs.drop 0x1900)
    tiles := c.listOf bs 2 c.tileAt Config.tileOf
    tags := c.listOf bs 3 (lookup c.tags) Config.tagOf
    bindings := c.listOf bs 4 (lookup c.bindings) Config.bindingOf
    caps := (List.range 256).filterMap fun k =>
      let v := BitVec.ofNat 128 (leNat ((bs.drop (0x12900 + 16 * k)).take 16))
      if v = 0 then none else some (k, v) }

/-- CTXSW in (R399-R401). -/
def State.ctxswIn (s : State) (i : Instr) (d : Reg) (st slot : Nat) (frames : List Nat) : State :=
  let bs := s.readPaged frames 0 0x40000
  if wordAt bs 0 ≠ 0x57534358#64 ∨ wordAt bs areaCheck ≠ (areaCrc bs).setWidth 64 then s.illegal i
  else
    let img := s.ctxs.find? fun c => !c.resident && c.swapping.isNone && Config.ctxHead c.station c.slot c.asid == wordAt bs 8
    match s.ctxAt st slot, img with
    | none, some c =>
      let hw := (s.freeHw st).take c.threads.length
      -- what the context issued before the switch is performed first (R218)
      if s.bus.outs.any fun r => r.ctx == c.id then s.waitFor (.system s.cycle.toNat)
      else if hw.length < c.threads.length then s.finishStatus d stDenied
      else
        let spills := s.spillsOf c bs
        let s := s.modCtx c.id fun x => (x.fromArea bs (s.isServiceStation st) st slot hw).addRefusals x
        (State.applySpills c.id spills s).finishStatus d stOK
    | _, _ => s.finishStatus d stDenied

/-- CTXSW kill (R395). -/
def State.ctxswKill (s : State) (d : Reg) (st slot : Nat) : State :=
  match s.ctxAt st slot with
  | none => s.finishStatus d stDenied
  | some c =>
    let mine := s.ctxIdOf s.who == c.id
    let s := s.contain c.id
    if mine then s else s.finishStatus d stOK

/-- CTXSW: the operation stands in ga [13:12]. -/
def opCtxsw (i : Instr) (d a b : Reg) (s : State) : Out :=
  issue i ⟨.all, true, [d, a, b], []⟩ s fun s =>
    let v := s.reg a
    let x := s.reg b
    let st := wbits v 6 0
    let slot := wbits v 9 8
    let op := wbits v 13 12
    if wbit v 7 ∨ wbits v 11 10 ≠ 0 ∨ wbits v 63 14 ≠ 0 ∨ op = 3 ∨ 95 < st ∨ wbits x 15 0 ≠ 0
        ∨ (op = 2 ∧ x ≠ 0) then s.illegal i
    else if op = 2 then s.ctxswKill d st slot
    else if op = 0 then s.withArea x.toNat 0x40000 .w fun fs s => s.ctxswOut d st slot fs
    else s.withArea x.toNat 0x40000 .r fun fs s => s.ctxswIn i d st slot fs

def execCtxswOut (d a b : Reg) (s : State) : Out := opCtxsw (.ctxswOut d a b) d a b s
def execCtxswIn (d a b : Reg) (s : State) : Out := opCtxsw (.ctxswIn d a b) d a b s
def execCtxswKill (d a b : Reg) (s : State) : Out := opCtxsw (.ctxswKill d a b) d a b s

end Sys2Proof.Machine
end

