-- ==== Sys2Proof/Machine/Alloc.lean ====
section
/-! DEFINITION. The fabric allocator: the page grid of a die (R18, R310), and where a region fits (R310, R311, R442). -/

namespace Sys2Proof.Machine

/-- Station and page of a grid position of a die (R310). -/
def gridStation (die gx gy : Nat) : Nat := 24 * die + 6 * (gy / 2) + gx / 2
def gridPage (gx gy : Nat) : Nat := gx % 2 + 2 * (gy % 2)

/-- Page number (R18). -/
def gridNumber (die gx gy : Nat) : Nat := 4 * gridStation die gx gy + gridPage gx gy

/-- The region holds pages of the grid. -/
def Region.placed (r : Region) : Bool := match r.freeze with | .saved _ => false | _ => true

/-- A grid position lies in the region's rectangle. -/
def Region.covers (r : Region) (die gx gy : Nat) : Bool :=
  r.placed && r.die == die && decide (r.orig.1 ≤ gx) && decide (gx < r.orig.1 + r.w) && decide (r.orig.2 ≤ gy) && decide (gy < r.orig.2 + r.h)

/-- Grid position of a logical page. -/
def Region.gridOf (r : Region) (q : Nat) : Nat × Nat := (r.orig.1 + q % r.w, r.orig.2 + q / r.w)

def State.fencedStation (s : State) (st : Nat) : Bool := (lookupD s.health.stfence (st / 24) 0).testBit (st % 24)

/-- A page that a region may take, when `rs` are the regions that stand (R310). -/
def State.pageFree (s : State) (rs : List Region) (die gx gy : Nat) : Bool :=
  let st := gridStation die gx gy
  !s.isServiceStation st && !s.fencedStation st && (rs.all fun r => !r.covers die gx gy)
    && s.health.suspects.all fun p => p.1 != gridNumber die gx gy

/-- Every page of a rectangle is free. -/
def State.rectFree (s : State) (rs : List Region) (die w h : Nat) (o : Nat × Nat) : Bool :=
  decide (o.1 + w ≤ 12) && decide (o.2 + h ≤ 8) &&
    (List.range h).all fun y => (List.range w).all fun x => s.pageFree rs die (o.1 + x) (o.2 + y)

/-- Origins in increasing gy0, then gx0. -/
def origins : List (Nat × Nat) := (List.range 8).flatMap fun y => (List.range 12).map fun x => (x, y)

/-- The first origin that fits (R310). -/
def State.findRect (s : State) (rs : List Region) (die w h : Nat) : Option (Nat × Nat) := origins.find? fun o => s.rectFree rs die w h o

/-- Puts a region on another rectangle. Its waits for pages are dropped, so that each access translates afresh (R366). -/
def Region.moveTo (r : Region) (o : Nat × Nat) : Region :=
  { r with orig := o, invs := r.invs.map fun (i : Inv) => { i with pageWaits := [] } }

/-- The region that holds a page of a station (R18). -/
def State.regionAtPage (s : State) (st p : Nat) : Option (Region × Nat) :=
  let gx := 2 * (st % 6) + p % 2
  let gy := 2 * (st % 24 / 6) + p / 2
  (s.regions.find? fun r => r.covers (st / 24) gx gy).map fun r => (r, (gy - r.orig.2) * r.w + (gx - r.orig.1))

end Sys2Proof.Machine
end

