-- ==== Sys2Proof/Machine/PageState.lean ====
section
/-! DEFINITION. The state of a page as the configuration network reads it (R396, R398, R457): element state, page state, weight stores and
commit buffer. The manual lists what each space holds. Where it gives no arrangement inside a space, the page state stands in the order of
its list, packed as said at each field, and the pipeline registers are an uninterpreted function of the invocations (DESIGN CHOICE, log
24). -/

namespace Sys2Proof.Machine

/-- Some blink verdict on the invocation is still outstanding (R407). -/
def Inv.unverified (i : Inv) (now : Nat) : Bool := i.shadowed.any fun x => decide (now < x.2.2)

/-- Trip counts with unused counters at 1 (R111). -/
def Inv.trip (i : Inv) (k : Nat) : Nat := (i.trips.getD []).getD k 1

/-- Iterations of the invocation's space, once its trip counts are taken. -/
def Inv.total (i : Inv) : Option Nat := i.trips.map fun t => t.foldl (· * ·) 1

/-- The iteration vector of iteration `j` (R112): counters 0, 1 and 2, and the iteration index. -/
def Inv.vector (i : Inv) (j : Nat) : Nat × Nat × Nat × Nat :=
  let n0 := max (i.trip 0) 1
  let n1 := max (i.trip 1) 1
  (j % n0, j / n0 % n1, j / (n0 * n1), j)

/-- Invocation order of two held stores or items (R219). -/
def orderKey (iter depth lsid : Nat) : Nat := (iter * 64 + depth) * 64 + lsid

/-- Invocation order of held stores and of held items (R219). -/
def storesInOrder (hs : List HeldStore) : List HeldStore :=
  sortBy (fun x y => decide (orderKey x.iter x.depth x.lsid < orderKey y.iter y.depth y.lsid)) hs

def itemsInOrder (hs : List HeldItem) : List HeldItem :=
  sortBy (fun x y => decide (orderKey x.iter x.depth x.lsid < orderKey y.iter y.depth y.lsid)) hs

/-! ### Where nodes stand (R108, R109) -/

/-- Opcode and fields of a stored block word. -/
def wordOp (v : BitVec 64) : Nat := (v.extractLsb' 56 8).toNat

/-- Logical element coordinates of element `e` of logical page `q` in a region `w` pages wide (R108). -/
def elemXY (w q e : Nat) : Nat × Nat := (4 * (q % w) + e % 4, 4 * (q / w) + e / 4)

/-- Coordinates of copy `k` of node `i` of a block (R109). -/
def copyXY (w home i k : Nat) : Nat × Nat := let n := i / 8 + k; elemXY w (home + n / 16) (n % 16)

/-- The node in slot `sl` of element `e` of logical page `q`: its index and word. -/
def Block.nodeAt (b : Block) (q e sl : Nat) : Option (Nat × BitVec 64) :=
  let t := 16 * (q - b.home) + e
  if q < b.home then none
  else (b.words.zipIdx.find? fun p => p.2 % 8 == sl && decide (p.2 / 8 ≤ t) && decide (t - p.2 / 8 < (blockFields p.1).copies)).map
    fun p => (p.2, p.1)

/-- A token entered a buffer before another. -/
def Flying.before (x y : Flying) : Bool := decide (x.due < y.due) || (x.due == y.due && decide (x.seq < y.seq))

/-- Fields from the lowest bit upward, as value and width. -/
def packFields (fs : List (Nat × Nat)) : Nat := fs.foldr (fun p a => p.1 % 2 ^ p.2 + a * 2 ^ p.2) 0

/-- Lanes as words, two to a word, the first in the low half. -/
def laneWords (v : Vector Lane 16) : List Word := (List.range 8).map fun k => v.toArray.getD (2 * k + 1) 0 ++ v.toArray.getD (2 * k) 0

/-! ### Element state: space 0x02 -/

/-- A token entry of 72 bytes: 16 lanes, the valid mask, the iteration tag. -/
def tokenWords (t : Token) : List Word := laneWords t.lanes ++ [w64 (packFields [(t.valid.toNat, 16), (t.tag, 32)])]

def padWords (n : Nat) (ws : List Word) : List Word := ws.take n ++ List.replicate (n - ws.length) 0

/-- The home page of the block that an invocation runs. -/
def Region.homeOf (r : Region) (i : Inv) : Option Nat :=
  match i.work with
  | .block k => (r.blocks[k]?).map (·.home)
  | .command _ => none

/-- Place `k` of an element's buffers (0 to 23 the slot positions, 24 to 27 the router inputs) at which a token of an invocation stands, with
the logical page and the element. -/
def Region.placeOf (r : Region) (i : Inv) (t : Flying) : Option (Nat × Nat × Nat) :=
  match t.at_ with
  | .slot n c p => (r.homeOf i).map fun h => (h + (n / 8 + c) / 16, (n / 8 + c) % 16, 3 * (n % 8) + p)
  | .router x y d _ _ _ => some (y / 4 * r.w + x / 4, y % 4 * 4 + x % 4, 24 + d)

/-- The tokens in a buffer of an element, the oldest first. -/
def Region.placeTokens (r : Region) (q e k : Nat) : List Flying :=
  sortBy Flying.before (r.invs.flatMap fun i => i.tokens.filter fun t => r.placeOf i t == some (q, e, k))

/-- Entries of a buffer, and its first word in the element's state. -/
def placeEntries (k : Nat) : Nat := if k < 24 then 4 else 8
def placeWord (k : Nat) : Nat := if k < 24 then 704 + 36 * k else 1568 + 72 * (k - 24)

/-- Slot token buffers and router input buffers of an element: words 704 to 1,855, in entries of nine words. -/
def Region.tokenState (r : Region) (q e : Nat) : List Word :=
  (List.range 28).flatMap fun k => padWords (9 * placeEntries k) ((r.placeTokens q e k).flatMap fun t => tokenWords t.tok)

/-- Word `k` of an element's state. -/
def Region.elementWord (r : Region) (q e k : Nat) : Word :=
  if k < 704 then Config.pipeWord r.invs q e k else (r.tokenState q e).getD (k - 704) 0

/-! ### Page state: space 0x03 -/

/-- The block whose footprint holds logical page `q`, with its index. -/
def Region.blockOn (r : Region) (q : Nat) : Option (Nat × Block) :=
  let pages := fun (b : Block) => ((b.words.zipIdx.map fun p => p.2 / 8 + (blockFields p.1).copies).foldl max 0 + 15) / 16
  (r.blocks.zipIdx.find? fun p => decide (p.1.home ≤ q) && decide (q < p.1.home + max 1 (pages p.1))).map fun p => (p.2, p.1)

/-- A dispatch state: armed, boost, skips, base, pending count, threshold. -/
def Dispatch.word (d : Dispatch) : Word :=
  w64 (packFields [(boolNat d.armed, 1), (d.boost, 2), (d.skips, 6), (d.base, 7), (d.pending, 16), (d.threshold, 32)])

/-- The dispatch state that such a word gives. -/
def Dispatch.fromWord (d : Dispatch) (v : Word) : Dispatch :=
  { d with armed := wbit v 0, boost := wbits v 2 1, skips := wbits v 8 3, base := wbits v 15 9, pending := wbits v 31 16,
           threshold := wbits v 63 32 }

/-- An AG record as AGSET lays it out in m0 to m7 (R250). -/
def AgRec.words (g : AgRec) : List Word :=
  let e := fun (k : Nat) => g.e.getD k 0
  let st := fun (k : Nat) => (g.st.getD k 0 % 2 ^ 32).toNat
  [w64 g.base, w64 (packFields [(g.rank, 3), (0, 5), (boolNat g.space, 1), (0, 23), (e 0, 32)]), w64 (packFields [(e 1, 32), (e 2, 32)]),
    w64 (packFields [(e 3, 32), (e 4, 32)]), w64 (packFields [(st 0, 32), (st 1, 32)]), w64 (packFields [(st 2, 32), (st 3, 32)]), w64 (st 4), 0]

/-- Items that a copy of a QIN node has reserved, over the region's invocations of its block. -/
def Region.reservedAt (r : Region) (k n c : Nat) : Nat :=
  ((r.invs.filter fun i => i.work == .block k).map fun i => lookupD i.reserved (n, c) 0).foldl (· + ·) 0

/-- Elements and slots of a page, as the node words and the counts stand in its page state. -/
def pageSlots : List (Nat × Nat) := (List.range 16).flatMap fun e => (List.range 8).map fun sl => (e, sl)

/-- The copy of node `n` of a block that stands on element `e` of logical page `q`. -/
def Block.copyAt (b : Block) (q e n : Nat) : Nat := 16 * (q - b.home) + e - n / 8

/-- The loop counters that a page's block has reached: counters 0, 1 and 2, and the iteration index, of its oldest invocation. -/
def Region.counters (r : Region) (k : Nat) : List Nat :=
  match r.invs.find? fun i => i.work == .block k with
  | some i => let v := i.vector i.started; [v.1, v.2.1, v.2.2.1, v.2.2.2]
  | none => []

/-- The page state of logical page `q`: the block's header (words 0 and 1) and the node words by element and slot (2 to 129); the four
loop counters (130 to 133); the frame registers (134 to 389); the AG records (390 to 453); the dispatch states of the block and of the
command queue (454, 455); the weight type and the next command number (456, 457); the reservation counts of the QIN copies by element and
slot (458 to 585). -/
def Region.pageWords (r : Region) (q : Nat) : List Word :=
  let on := r.blockOn q
  let at_ := fun (p : Nat × Nat) => on.bind fun b => (b.2.nodeAt q p.1 p.2).map fun n => (b, n)
  let header : BitVec 128 := match on with | some b => b.2.header | none => 0
  [header.setWidth 64, (header >>> 64).setWidth 64] ++ pageSlots.map (fun p => ((at_ p).map (·.2.2)).getD 0)
    ++ padWords 4 (((on.map fun b => r.counters b.1).getD []).map w64)
    ++ r.frames.toList.flatMap laneWords ++ r.ags.toList.flatMap AgRec.words
    ++ [(on.map fun b => b.2.disp.word).getD 0, r.cmdDisp.word, w64 ((r.wtype.map (·.toNat)).getD 0xFF), w64 r.nextCmd]
    ++ pageSlots.map fun p => w64 (((at_ p).map fun x =>
        if wordOp x.2.2 = 0x64 then r.reservedAt x.1.1 x.2.1 (x.1.2.copyAt q p.1 x.2.1) else 0).getD 0)

end Sys2Proof.Machine
end

