-- ==== Sys2Proof/Machine/RegionSave.lean ====
section
/-! DEFINITION. Freeze-save, drain-save and restore of a region (R396-R398, R401). The image shows its header, its weight stores and its
commit buffer as laid out, and the page and element state as PageState arranges it (log 24). RESTORE writes every part back: what the
pipeline registers hold is what the saved region held when the image says so, and else an uninterpreted reading of the image. -/

namespace Sys2Proof.Machine

/-! ### Images (R398, R457) -/

/-- The 768 bytes of weights of element `e` of logical page `q`: 16 rows of 48 bytes (R134-R136). -/
def Region.elementWeights (r : Region) (rows : List (List Byte)) (q e : Nat) : List Byte :=
  let x := 4 * (q % r.w) + e % 4
  let y := 4 * (q / r.w) + e / 4
  (List.range 16).flatMap fun k => padTo 48 (((rows.getD (16 * x + k) []).drop (48 * y)).take 48)

/-- Space 0x09 of a page: active and staging store of each element. -/
def Region.weightBytes (r : Region) (q : Nat) (both : Bool) : List Byte :=
  (List.range 16).flatMap fun e =>
    r.elementWeights r.weights q e ++ if both then r.elementWeights r.staging q e else []

/-- What the commit buffer of a region holds, in invocation order: a 64-byte line with its byte mask and data, or a queue item. -/
inductive HeldEntry where
  | line (pa : Nat) (mask : Nat) (data : List Byte)
  | item (handle : Nat) (data : List Byte)
deriving DecidableEq, Repr

/-- Puts a byte into the line entry of its address, the latest value standing. -/
def putLine (es : List (Nat × Nat × List Byte)) (pa : Nat) (b : Byte) : List (Nat × Nat × List Byte) :=
  let l := pa / 64
  let put := fun (e : Nat × Nat × List Byte) => (l, e.2.1 ||| 2 ^ (pa % 64), e.2.2.set (pa % 64) b)
  if es.any fun e => e.1 == l then modifyFirst (fun e => e.1 == l) put es
  else es ++ [put (l, 0, List.replicate 64 0)]

/-- Bytes that a store changes, each over what the line holds so far where it writes only some of a byte's bits. -/
def storeLines (es : List (Nat × Nat × List Byte)) (h : HeldStore) : List (Nat × Nat × List Byte) :=
  h.bytes.zipIdx.foldl (init := es) fun es p =>
    let a := h.pa + p.2
    let m := h.mask.getD p.2 0xFF
    let old := ((es.find? fun e => e.1 == a / 64).map fun e => e.2.2.getD (a % 64) 0).getD 0
    if m = 0 then es else putLine es a (old &&& ~~~ m ||| p.1 &&& m)

/-- Held lines and items of an invocation, in its order: the rows and values that the matrix work holds, then its stores. -/
def Inv.heldEntries (i : Inv) : List HeldEntry :=
  let lines := (storesInOrder i.stores).foldl storeLines (i.accs.foldl (fun es p => putLine es p.1 p.2) [])
  lines.map (fun e => HeldEntry.line (64 * e.1) e.2.1 e.2.2) ++ (itemsInOrder i.items).map fun h => .item h.handle h.data

/-- An entry of space 0x0A: ten words. -/
def heldWords (e : HeldEntry) : List Byte :=
  match e with
  | .line pa mask d => bytesOf 8 (2 ^ 63 + pa) ++ bytesOf 8 mask ++ padTo 64 d
  | .item h d => bytesOf 8 (2 ^ 63 + 2 ^ 62 + h) ++ bytesOf 8 d.length ++ padTo 64 d

/-- Entries of the commit buffer of logical page `q`: each page holds up to 1,024 of its region's. -/
def Region.pageEntries (r : Region) (q : Nat) : List HeldEntry := ((r.invs.flatMap Inv.heldEntries).drop (1024 * q)).take 1024

/-- Space 0x0A of a page. -/
def Region.bufferBytes (r : Region) (q : Nat) : List Byte :=
  let es := r.pageEntries q
  padTo 81984 (padTo 64 (bytesOf 8 es.length) ++ es.flatMap heldWords)

/-- Words `lo` to `lo + n - 1` of every element's state. -/
def Region.elementBytes (r : Region) (q lo n : Nat) : List Byte :=
  (List.range 16).flatMap fun e => words ((List.range n).map fun k => r.elementWord q e (lo + k))

/-- A page part of a freeze-save or drain-save (R457). -/
def Region.pagePart (r : Region) (q : Nat) (freeze : Bool) : List Byte :=
  let page := padTo 0x4000 (words (r.pageWords q))
  if freeze then
    padTo 0x60000 (page ++ r.elementBytes q 0 704 ++ r.weightBytes q true ++ r.elementBytes q 704 1152 ++ r.bufferBytes q)
  else page ++ (if r.matrix then r.weightBytes q false else List.replicate 0x3000 0)

def partSize (freeze : Bool) : Nat := if freeze then 0x60000 else 0x7000

def imageSize (n : Nat) (freeze : Bool) : Nat := 0x1000 + n * partSize freeze

/-- The header's first 64 bytes (R398). -/
def regionHeader (r : Region) (c : Ctx) (freeze : Bool) (check : BitVec 32) : List Byte :=
  let v := [(check.toNat, 160), (r.nextCmd, 128), (imageSize (r.w * r.h) freeze, 96), (c.asid, 80), (c.slot, 71), (c.station, 64),
    (r.handle, 48), (boolNat r.matrix, 47), (r.h - 1, 44), (r.w - 1, 40), (if freeze then 1 else 2, 32), (0x52454753, 0)]
  bytesOf 64 (v.foldl (fun a p => a ||| p.1 <<< p.2) 0)

/-- The whole image. -/
def regionImage (r : Region) (c : Ctx) (freeze : Bool) : List Byte :=
  let body := List.replicate 0xFC0 0 ++ (List.range (r.w * r.h)).flatMap fun q => r.pagePart q freeze
  regionHeader r c freeze (crc32c body) ++ body

/-- Writes a region's image; the region is then saved and its pages are free. -/
def State.saveRegion (s : State) (r : Region) (c : Ctx) (freeze : Bool) (va : Nat) (frames : List Nat) : State :=
  let s := s.writePaged (s.myCtx.map (·.id)) frames 0x100000 (va % 0x10000) (regionImage r c freeze)
  s.modRegion r.handle fun r => { r with freeze := .saved (r.freeze == .hung), drain := none }

/-! ### FRZSAVE and DRNSAVE -/

/-- The region that ga names: handle, owner station and slot. -/
def State.regionNamed (s : State) (v : Word) : Option (Region × Ctx) :=
  match s.regionOf (wbits v 15 0), s.ctxBySlot (wbits v 22 16) (wbits v 25 24) with
  | some r, some c => if r.ctx = c.id ∧ r.placed then some (r, c) else none
  | _, _ => none

/-- Reserved bits, the station and the alignment of FRZSAVE and DRNSAVE. -/
def badSave (v x : Word) (top : Nat) : Bool :=
  wbit v 23 || wbits v top 26 != 0 || decide (95 < wbits v 22 16) || wbits x 11 0 != 0

/-- Accesses that the region has issued are still to be performed or answered, or a blink verdict is outstanding (R218, steps 2 and 4 of
R396). -/
def State.regionPending (s : State) (r : Region) : Bool :=
  let mine := fun (w : Source) => w == .region r.handle
  (r.invs.any fun i => i.unverified s.cycle.toNat || i.remote.any fun q => q.answer.isNone)
    || (s.bus.reqs.any fun q => mine q.who) || (s.bus.outs.any fun q => mine q.who)
    || s.health.ctls.any fun h => h.buffer.any fun q => mine q.who

/-- A region on another rectangle (R311): it stands still there until what it had issued has been performed and answered (R218). -/
def State.movedTo (s : State) (r : Region) (o : Nat × Nat) : Region :=
  if r.freeze = .running ∧ s.regionPending r then { r.moveTo o with freeze := .moving } else r.moveTo o

/-- A region that moved runs again once nothing of it is pending. -/
def State.landed (s : State) (r : Region) : Region := if r.freeze = .moving ∧ !s.regionPending r then { r with freeze := .running } else r

/-- FRZSAVE stands the region still, waits for its accesses, and saves it. -/
def execFrzsave (d a b : Reg) (s : State) : Out :=
  issue (.frzsave d a b) ⟨.all, true, [d, a, b], []⟩ s fun s =>
    let v := s.reg a
    let x := s.reg b
    if badSave v x 63 then s.illegal (.frzsave d a b)
    else
      match s.regionNamed v with
      | none => s.finishStatus d stDenied
      | some (r, c) =>
        s.withArea x.toNat (imageSize (r.w * r.h) true) .w fun fs s =>
          if s.regionPending r then
            (s.modRegion r.handle fun r => if r.freeze = .running ∨ r.freeze = .moving then { r with freeze := .frozen } else r).waitFor (.system s.cycle.toNat)
          else (s.saveRegion r c true x.toNat fs).finishStatus d stOK

/-- DRNSAVE (R397): dispatch is held while invocations end; past its limit the region resumes. -/
def execDrnsave (d a b : Reg) (s : State) : Out :=
  issue (.drnsave d a b) ⟨.all, true, [d, a, b], []⟩ s fun s =>
    let v := s.reg a
    let x := s.reg b
    if badSave v x 31 then s.illegal (.drnsave d a b)
    else
      match s.regionNamed v with
      | none => s.finishStatus d stDenied
      | some (r, c) =>
        s.withArea x.toNat (imageSize (r.w * r.h) false) .w fun fs s =>
          if sysWait s.cpu.wait && r.drain.isNone then s.finishStatus d stTimeout
          else if r.invs.isEmpty ∧ !s.regionPending r then (s.saveRegion r c false x.toNat fs).finishStatus d stOK
          else if r.drain.isSome then s.waitFor (.system s.cycle.toNat)
          else (s.modRegion r.handle fun r => { r with drain := some (s.cycle.toNat, 1024 * wbits v 63 32) }).waitFor (.system s.cycle.toNat)

/-- DRAIN_SAVE_TIMEOUT of the region in `arg`: it resumes dispatch, and nothing is saved. -/
def execDrainSaveTimeout (s : State) : Out :=
  match s.model.arg with
  | .n1 h =>
    match (s.regionOf h).bind (·.drain) with
    | some (since, limit) =>
      if limit ≠ 0 ∧ since + limit ≤ s.cycle.toNat then .next (s.modRegion h fun r => { r with drain := none }) else .next s
    | none => .next s
  | _ => .next s

/-! ### RESTORE -/

/-- A saved region stands again on a rectangle. -/
def Region.resume (r : Region) (hung : Bool) (o : Nat × Nat) : Region :=
  { r.moveTo o with freeze := if hung then .hung else .running }

/-- A lane from the word that holds it. -/
def wordLane (v : Word) (k : Nat) : Lane := if k % 2 = 0 then v.setWidth 32 else (v >>> 32).setWidth 32

def lanesOf (word : Nat → Word) : Vector Lane 16 := Vector.ofFn fun (l : Fin 16) => wordLane (word (l.val / 2)) l.val

/-- A token from its nine words. -/
def tokenOf (word : Nat → Word) : Token := ⟨lanesOf word, (word 8).setWidth 16, wbits (word 8) 47 16⟩

/-- The entries that a page's part holds of the commit buffer. -/
def entriesOf (bs : List Byte) : List HeldEntry :=
  (List.range (leNat (bs.take 2))).filterMap fun n =>
    let e := (bs.drop (64 + 80 * n)).take 80
    let v := leNat (e.take 8)
    if !v.testBit 63 then none
    else if v.testBit 62 then some (.item (bitsOf v 9 0) ((e.drop 16).take (bitsOf (leNat ((e.drop 8).take 8)) 6 0)))
    else some (.line (64 * bitsOf v 55 6) (leNat ((e.drop 8).take 8)) (e.drop 16))

/-- An invocation with the held lines and items that an image gives it. Nothing changes where they are its own; otherwise each store takes
the line's bytes at its addresses, and what no store covers stands beside the stores. -/
def Inv.withHeld (i : Inv) (es : List HeldEntry) : Inv :=
  if es = i.heldEntries then i
  else
    let bytes := es.flatMap fun e => match e with
      | .line pa mask d => (d.zipIdx.filter fun p => mask.testBit p.2).map fun p => (pa + p.2, p.1)
      | .item _ _ => []
    let items := es.filterMap fun e => match e with | .item h d => some (h, d) | .line _ _ _ => none
    let at_ := fun (h : HeldStore) (k : Nat) => lookup bytes (h.pa + k)
    let own := itemsInOrder i.items
    { i with
      stores := i.stores.map fun (h : HeldStore) =>
        { h with
          bytes := (List.range h.bytes.length).map fun k => (at_ h k).getD 0
          mask := (List.range h.bytes.length).map fun k => if (at_ h k).isSome then h.mask.getD k 0xFF else 0 }
      accs := bytes.filter fun p => !i.stores.any fun h => decide (h.pa ≤ p.1) && decide (p.1 < h.pa + h.bytes.length)
      items := items.zipIdx.map fun p =>
        match own[p.2]? with
        | some h => { h with handle := p.1.1, data := p.1.2 }
        | none => ⟨i.started, 0, 0, p.1.1, p.1.2⟩ }

/-- Held lines and items of an image, to each invocation as many as it held and the rest to the last. -/
def heldFrom (es : List HeldEntry) : List Inv → List Inv
  | [] => []
  | [i] => [i.withHeld es]
  | i :: is => let n := i.heldEntries.length; i.withHeld (es.take n) :: heldFrom (es.drop n) is

/-- The tokens of an invocation as an image holds their entries. -/
def Region.tokensFrom (r : Region) (word : Nat → Nat → Nat → Word) (i : Inv) : Inv :=
  { i with tokens := i.tokens.map fun (t : Flying) =>
      match r.placeOf i t with
      | none => t
      | some (q, e, k) =>
        let n := (r.placeTokens q e k).findIdx (· == t)
        if n < placeEntries k then { t with tok := tokenOf fun w => word q e (placeWord k + 9 * n + w) } else t }

/-- Loop counters and reservation counts of an image: where they are not those of the region, its oldest invocation of the block takes
them. -/
def Region.countsFrom (r : Region) (page : Nat → Nat → Word) : Region :=
  r.blocks.zipIdx.foldl (init := r) fun r b =>
    match r.invs.find? fun i => i.work == .block b.2 with
    | none => r
    | some i =>
      let same := (r.counters b.2).map w64 == (List.range 4).map fun k => page b.1.home (130 + k)
      let copies := (b.1.words.zipIdx.filter fun v => wordOp v.1 == 0x64).flatMap fun v =>
        (List.range (blockFields v.1).copies).map fun c => (v.2, c)
      let reserved := copies.foldl (init := i.reserved) fun l x =>
        let at_ := x.1 / 8 + x.2
        let n := (page (b.1.home + at_ / 16) (458 + 8 * (at_ % 16) + x.1 % 8)).toNat
        let all := r.reservedAt b.2 x.1 x.2
        if n = all then l else assign l x (n - (all - lookupD i.reserved x 0))
      let put := fun (x : Inv) =>
        { x with started := if same then x.started else (page b.1.home 133).toNat, reserved := reserved }
      { r with invs := modifyFirst (fun x => x.id == i.id) put r.invs }

/-- The work in flight as a freeze-save image holds it: the invocations that the pipeline registers say, with their tokens, held lines and
items, loop counters and reservation counts. -/
def Region.workFrom (r : Region) (part : Nat → List Byte) : Region :=
  let word := fun (q e k : Nat) =>
    wordAt (part q) (if k < 704 then 0x4000 + 5632 * e + 8 * k else 0x20000 + 9216 * e + 8 * (k - 704))
  let pages := List.range (r.w * r.h)
  let pipe := fun (f : Nat → Nat → Nat → Word) => pages.flatMap fun q => (List.range 16).flatMap fun e => (List.range 704).map (f q e)
  let base := if pipe word = pipe r.elementWord then r.invs else Config.pipeInvs (pipe word)
  let r1 := { r with invs := base }
  let r2 := { r1 with invs := heldFrom (pages.flatMap fun q => entriesOf ((part q).drop 0x44000)) (r1.invs.map (r1.tokensFrom word)) }
  r2.countsFrom fun q k => wordAt (part q) (8 * k)

/-- A block with the configuration words and the dispatch state of an image. -/
def Block.fromPages (b : Block) (page : Nat → Nat → Word) : Block :=
  { b with
    header := page b.home 1 ++ page b.home 0
    words := ((List.range b.words.length).map fun n => page (b.home + n / 128) (2 + n % 128) : List (BitVec 64))
    disp := b.disp.fromWord (page b.home 454) }

/-- RESTORE writes each part of an image back (R396-R398, R401, R457): configuration words, frame registers, AG records, dispatch states,
weight stores and type, the next command number, and from a freeze-save the work in flight. A command accepted while the region was saved
(R151) has its number by then; the image's next number replaces the region's own all the same (DESIGN CHOICE, log 24). -/
def Region.fromImage (r : Region) (freeze : Bool) (bs : List Byte) : Region :=
  let part := fun (q : Nat) => bs.drop (0x1000 + q * partSize freeze)
  let page := fun (q k : Nat) => wordAt (part q) (8 * k)
  let stores := fun (off : Nat) => (List.range (64 * r.w)).map fun n => (List.range (4 * r.h)).flatMap fun y =>
    let e := n / 16 % 4 + 4 * (y % 4)
    let at_ := if freeze then 0x1A000 + 1536 * e + off else 0x4000 + 768 * e
    ((part (y / 4 * r.w + n / 64)).drop (at_ + 48 * (n % 16))).take 48
  let ag := fun (n : Nat) =>
    (agOfDesc fun k => page 0 (390 + 8 * n + k)).getD { AgRec.zero with base := (page 0 (390 + 8 * n)).toNat }
  let t := wbits (page 0 456) 7 0
  let r := if freeze then r.workFrom part else r
  { r with
    frames := Vector.ofFn fun (n : Fin 32) => lanesOf fun k => page 0 (134 + 8 * n.val + k)
    ags := Vector.ofFn fun (n : Fin 8) => ag n.val
    blocks := r.blocks.map (·.fromPages page)
    cmdDisp := r.cmdDisp.fromWord (page 0 455)
    weights := if r.matrix then stores 0 else r.weights
    staging := if r.matrix ∧ freeze = true then stores 768 else r.staging
    wtype := if t = 0xFF then none else some (BitVec.ofNat 4 t)
    nextCmd := bitsOf (leNat (bs.take 64)) 159 128 }

/-- Fields of an image's header. -/
def headerField (bs : List Byte) (hi lo : Nat) : Nat := bitsOf (leNat (bs.take 64)) hi lo

/-- The first page of the image translates, then all of it; the header says how long it is. -/
def execRestore (d a b : Reg) (s : State) : Out :=
  issue (.restore d a b) ⟨.all, true, [d, a, b], []⟩ s fun s =>
    let i := Instr.restore d a b
    let v := s.reg a
    let x := s.reg b
    if v ≠ 0 ∨ wbits x 11 0 ≠ 0 then s.illegal i
    else s.withArea x.toNat 0x1000 .r fun fs s =>
      let hd := s.readPaged fs (x.toNat % 0x10000) 64
      let kind := headerField hd 39 32
      let n := (headerField hd 43 40 + 1) * (headerField hd 46 44 + 1)
      if headerField hd 31 0 ≠ 0x52454753 ∨ (kind ≠ 1 ∧ kind ≠ 2) ∨ headerField hd 127 96 ≠ imageSize n (kind == 1) then s.illegal i
      else s.withArea x.toNat (imageSize n (kind == 1)) .r fun fs s =>
        let body := s.readPaged fs (x.toNat % 0x10000 + 64) (imageSize n (kind == 1) - 64)
        if (crc32c body).toNat ≠ headerField hd 191 160 then s.illegal i
        else
          match s.regionOf (headerField hd 63 48) with
          | none => s.finishStatus d stDenied
          | some r =>
            match r.freeze with
            | .saved hung =>
              match s.findRect s.regions r.die r.w r.h with
              | none => s.finishStatus d stBusy
              | some o => (s.modRegion r.handle fun r => (r.fromImage (kind == 1) (hd ++ body)).resume hung o).finishStatus d stOK
            | _ => s.finishStatus d stDenied

end Sys2Proof.Machine
end

