-- ==== Sys2Proof/Machine/Inval.lean ====
section
/-! DEFINITION. TLBINV (R362, R363) and CAPMINT (R364). -/

namespace Sys2Proof.Machine

/-! ### TLBINV -/

/-- The operands of a TLBINV. -/
structure TlbOp where
  kind : Nat
  asid : Nat
  scope : Scope
  start : Nat
  stop : Nat
deriving DecidableEq, Repr

/-- Decodes ga and gb; none raises ILLEGAL-OPERAND. -/
def tlbOpOf (v x : Word) : Option TlbOp :=
  let kind := wbits x 21 20
  let count := wbits x 63 32
  let scope : Option Scope := match wbits x 18 16 with | 1 => some .sta | 2 => some .die | 3 => some .pkg | _ => none
  let stop := v.toNat + 65536 * count
  match scope with
  | none => none
  | some sc =>
    if wbit x 19 ∨ wbits x 31 22 ≠ 0 ∨ kind = 3 ∨ (kind = 2 ∧ wbits x 15 0 ≠ 0) ∨ (kind ≠ 0 ∧ (count ≠ 0 ∨ v ≠ 0))
        ∨ (kind = 0 ∧ (count = 0 ∨ wbits v 15 0 ≠ 0 ∨ wbits v 63 56 ≠ 0 ∨ 2 ^ 56 < stop)) then none
    else some ⟨kind, wbits x 15 0, sc, v.toNat, stop⟩

/-- A unit lies in the scope of an issuer. -/
def unitIn (a : Actor) (sc : Scope) (u : UnitId) : Bool :=
  match sc with
  | .pkg | .sys => true
  | .die => (match u with | .station st => st / 24 == a.die | .engine d _ => d == a.die)
  | .sta | .thr => u == a.unit

/-- The translations M of TlbInv: bytes [lo, hi) of an address space. -/
def TlbOp.hits (m : TlbOp) (asid lo hi : Nat) : Bool :=
  m.kind == 2 || (asid == m.asid && (m.kind == 1 || (decide (lo < m.stop) && decide (m.start < hi))))

/-- A kept translation belongs to M. A copy of an ASID-table entry translates no page: a range leaves it. -/
def TlbOp.hitsEntry (m : TlbOp) (e : TlbEntry) : Bool :=
  if e.level = 4 then m.kind != 0 && m.hits e.asid 0 0
  else m.hits e.asid (e.key <<< levelShift e.level) ((e.key + 1) <<< levelShift e.level)

/-- An access came through a translation of M: a larger page counts whole. -/
def TlbOp.hitsVia (m : TlbOp) (v : Via) : Bool := m.hits v.asid v.lo (v.lo + v.size)

/-- An invocation that holds a store which M translated becomes stale (R363). -/
def TlbOp.stale (m : TlbOp) (i : Inv) : Inv :=
  if i.stores.any fun h => match h.via with | some v => m.hitsVia v | none => false then { i with stale := true } else i

/-- The unit that a source translates through (R354); none of a request that comes translated. -/
def State.sourceUnit (s : State) (x : Source) : Option UnitId :=
  match x with
  | .actor a | .fetch a => some a.unit
  | .region h => (s.regions.find? fun r => r.handle == h).map s.regionUnit
  | .job d e => some (.engine d e)
  | .link _ | .pcie _ _ => none

/-- A home sequence over `count` granules from `base` is in a run that M translated, and a flit of the run is left: of its page, a granule of
the stream's controller from the place on. Each row of 96 granules has one, so 192 granules show whether there is one (R31). -/
def State.runOpen (s : State) (m : TlbOp) (ctl base count : Nat) (p : SeqPos) : Bool :=
  match p.frame (base + 4096 * p.gran) with
  | none => false
  | some (v, f) =>
    let stop := Nat.min count ((v.lo + v.size - base + 4095) / 4096)
    m.hitsVia v && (List.range (Nat.min 192 (stop - p.gran))).any fun k =>
      match s.home (f + (base + 4096 * (p.gran + k) - v.lo)) with
      | .hbm l => hbmCtl l == ctl
      | _ => false

/-- A stream in scope is in a run that M translated, which that translation serves to its end (R354). -/
def State.runPending (s : State) (m : TlbOp) : Bool :=
  s.streams.any fun x => unitIn s.who m.scope (s.streamUnit x) && !x.aborted
    && (s.runOpen m x.ctl x.base x.granules x.dram || s.runOpen m x.ctl x.base x.granules x.undo
      || s.runOpen m x.ctl x.journal x.jgranules x.jour)

/-- A body write of PLATERD has a piece left in a page that M translated (R430). -/
def BodyWrite.pending (m : TlbOp) (w : BodyWrite) : Bool :=
  w.vias.zipIdx.any fun p =>
    let inPage := fun (o : Nat) => (w.off + o) / 0x10000 == p.2
    m.hitsVia p.1 && ((w.pend.any inPage) || (decide (w.next < w.plate.len) && decide ((w.off + w.next) / 0x10000 ≤ p.2)))

/-- An access in scope that M translated, issued before number `since`, is still to be performed. So is the report of a multicast copy,
translated at acceptance. -/
def State.tlbPending (s : State) (m : TlbOp) (since : Nat) : Bool :=
  let hit := fun (who : Source) (via : Option Via) (id : Nat) =>
    decide (id < since) && (match s.sourceUnit who, via with | some u, some v => unitIn s.who m.scope u && m.hitsVia v | _, _ => false)
  (s.bus.reqs.any fun r => hit r.who r.via r.id) || (s.bus.outs.any fun r => hit r.who r.via r.id)
    || s.runPending m || (s.ctxs.any fun c => unitIn s.who m.scope (.station c.station) && c.bodyWrite.any (BodyWrite.pending m))
    || (s.jobs.any fun j => j.reportAt.any fun x => hit (.job j.die j.eng) x.2 0)
    || s.health.ctls.any fun h => h.buffer.any fun r => hit r.who r.via r.id

/-- Drops M and marks stale invocations. -/
def State.tlbDrop (s : State) (m : TlbOp) : State :=
  let tlb := s.mmu.tlb.filter fun e => !(unitIn s.who m.scope e.unit && m.hitsEntry e)
  let rs := s.regions.map fun r =>
    if unitIn s.who m.scope (s.regionUnit r) then { r with invs := r.invs.map m.stale } else r
  { s with mmu := { s.mmu with tlb := tlb }, regions := rs }

/-- TLBINV: the drop at its first execution; then it waits for accesses that M translated. -/
def execTlbinv (d a b : Reg) (s : State) : Out :=
  issue (.tlbinv d a b) ⟨.all, true, [d, a, b], []⟩ s fun s =>
    match tlbOpOf (s.reg a) (s.reg b) with
    | none => s.illegal (.tlbinv d a b)
    | some m =>
      match s.cpu.wait with
      | .system since => if s.tlbPending m since then s else s.finishStatus d stOK
      | _ =>
        let s := s.tlbDrop m
        if s.tlbPending m s.model.nextId then s.waitFor (.system s.model.nextId) else s.finishStatus d stOK

/-! ### CAPMINT -/

/-- Operands of an advance: the naming fields alone, of an assigned kind (R364). Kind 0x00 is assigned and names no object. -/
def advanceWellFormed (x : BitVec 128) : Bool :=
  decide (capKind x ≤ 5) && decide (capStation x ≤ 95) && bitsOf x.toNat 119 64 == 0 && bitsOf x.toNat 45 32 == 0

/-- A capability names a peer window of another package (R370). Whether that package has it, and its epoch there, is a free choice: the
home answers from outside this part (log 22). -/
def farWindow (s : State) (x : BitVec 128) : Bool := capKind x == 4 && capPkg x != s.pkgid && decide (capIndex x < 4096)

def State.capInstall (s : State) (i : Instr) (d : Reg) (v : Word) (x : BitVec 128) : State :=
  let st := wbits v 6 0
  if wbit v 7 ∨ wbits v 15 10 ≠ 0 ∨ wbits v 30 24 ≠ 0 ∨ wbits v 63 32 ≠ 0 ∨ 95 < st ∨ capWellFormed x = false then s.illegal i
  else
    match s.ctxBySlot st (wbits v 9 8) with
    | none => s.finishStatus d stDenied
    | some c =>
      let put := fun (s : State) =>
        (s.modCtx c.id fun c =>
          { c with caps := if capKind x = 0 then erase c.caps (wbits v 23 16) else assign c.caps (wbits v 23 16) x }).finishStatus d stOK
      if capKind x = 0 then put s
      else
        match s.capObj x with
        | some o => if s.epochOf o = capEpoch x then put s else s.finishStatus d stDenied
        | none =>
          if farWindow s x then
            let (there, s) := s.freeBit
            if there then put s else s.finishStatus d stDenied
          else s.finishStatus d stDenied

def State.capAdvance (s : State) (i : Instr) (d : Reg) (v : Word) (x : BitVec 128) : State :=
  if wbits v 30 0 ≠ 0 ∨ wbits v 63 32 ≠ 0 ∨ advanceWellFormed x = false then s.illegal i
  else
    match s.capObj x with
    | none =>
      if farWindow s x then
        let (there, s) := s.freeBit
        let (e, s) := s.freeWord
        if there then s.finish d (w64 (stOK.toNat + wbits e 15 0 * 2 ^ 16)) else s.finishStatus d stDenied
      else s.finishStatus d stDenied
    | some o =>
      let s := s.advanceEpoch o
      s.finish d (w64 (stOK.toNat + (s.epochOf o).toNat * 2 ^ 16))

/-- CAPMINT: ga [31] selects the operation. -/
def opCapmint (i : Instr) (d a b : Reg) (s : State) : Out :=
  issue i ⟨.all, true, [d, a], [b]⟩ s fun s =>
    if wbit (s.reg a) 31 then s.capAdvance i d (s.reg a) (s.pair b) else s.capInstall i d (s.reg a) (s.pair b)

def execCapmintInstall (d a b : Reg) (s : State) : Out := opCapmint (.capmintInstall d a b) d a b s
def execCapmintAdvance (d a b : Reg) (s : State) : Out := opCapmint (.capmintAdvance d a b) d a b s

end Sys2Proof.Machine
end

