-- ==== Sys2Proof/Machine/Readback.lean ====
section
/-! DEFINITION. RDSTATE (R365, R457, R458). Spaces whose arrangement the manual does not give read as PageState and SaveArea
arrange them (log 24). -/

namespace Sys2Proof.Machine

/-- What RDSTATE finds: an item and whether its unit runs; an absent unit; an item beyond its space. `open_` is an item whose value is free. -/
inductive Item where
  | val (v : Word) (live : Bool)
  | open_ (live : Bool)
  | absent
  | bad
deriving DecidableEq, Repr

/-- Spares of a bank as it starts (R439). -/
def Bank.zero (ctl pch bank : Nat) : Bank :=
  { ctl := ctl, pch := pch, bank := bank, rows := 8, remaps := 16
    granules := if bank = 0 ∧ 42 ≤ ctl ∧ ctl ≤ 73 then 14 else 16
    weak := [], exhausted := [] }

def State.bankOf (s : State) (ctl pch bank : Nat) : Bank :=
  (s.health.banks.find? fun b => b.ctl == ctl && b.pch == pch && b.bank == bank).getD (Bank.zero ctl pch bank)

def ctxLive (s : State) (c : Ctx) : Bool := !c.hold && s.dome.phase == .idle

/-- The context of an item that names station and slot; a context that is switched out is absent (R458). -/
def State.itemOwner (s : State) (a : Word) : Option Ctx := s.ctxAt (wbits a 54 48) (wbits a 47 46)

/-- Space 0x00: a control register of a thread. -/
def State.rdControl (s : State) (a : Word) : Item :=
  if wbits a 42 13 ≠ 0 ∨ 95 < wbits a 54 48 then .bad
  else
    match s.itemOwner a with
    | none => .absent
    | some c =>
      let i := wbits a 45 43
      match (s.load (.thread c.station c.slot i)).getK (wbits a 12 0) with
      | none => .bad
      | some v => if i < c.threads.length then .val v (ctxLive s c) else .absent

/-- Space 0x01: a register of a thread. -/
def State.rdThread (s : State) (a : Word) : Item :=
  let n := wbits a 5 0
  if wbits a 42 6 ≠ 0 ∨ 95 < wbits a 54 48 ∨ 40 < n then .bad
  else
    match s.itemOwner a with
    | none => .absent
    | some c =>
      match s.ctxThr c.id (wbits a 45 43) with
      | none => .absent
      | some t =>
        let v := if n < 32 then t.reg (BitVec.ofNat 5 n) else if n < 40 then t.m.toArray.getD (n - 32) 0 else t.pc
        .val v (ctxLive s c)

/-- The region on the page that an item names. -/
def State.itemPage (s : State) (a : Word) : Option (Region × Nat) := s.regionAtPage (wbits a 54 48) (wbits a 47 46)

def regionLive (s : State) (r : Region) : Bool := r.freeze == .running && !r.stopped && s.dome.phase == .idle

/-- Space 0x02: element state. A page that no region holds, and so every page of a saved region, is absent (R458). -/
def State.rdElement (s : State) (a : Word) : Item :=
  if 95 < wbits a 54 48 ∨ 1855 < wbits a 10 0 then .bad
  else match s.itemPage a with
    | none => .absent
    | some (r, q) => .val (r.elementWord q (wbits a 45 42) (wbits a 10 0)) (regionLive s r)

/-- Space 0x03: page state. -/
def State.rdPage (s : State) (a : Word) : Item :=
  if 95 < wbits a 54 48 then .bad
  else match s.itemPage a with
    | none => .absent
    | some (r, q) => .val ((r.pageWords q).getD (wbits a 10 0) 0) (regionLive s r)

/-- Space 0x04: station tables. -/
def State.rdTable (s : State) (a : Word) : Item :=
  let t := wbits a 23 20
  let w := wbits a 15 0
  if wbits a 45 24 ≠ 0 ∨ wbits a 19 16 ≠ 0 ∨ 95 < wbits a 54 48 ∨ (tableShape t).1 * (tableShape t).2 ≤ 8 * w then .bad
  else
    match s.itemOwner a with
    | none => .absent
    | some c => .val (w64 (leNat ((List.range 8).map fun k => c.tableByteAt t (8 * w + k)))) (ctxLive s c)

/-- Space 0x05: a memory-side array. -/
def State.rdMsa (s : State) (a : Word) : Item :=
  if wbits a 47 16 ≠ 0 ∨ 95 < wbits a 54 48 then .bad
  else if s.part = 2 then .absent
  else
    let here := s.streams.filter fun x => x.ctl == wbits a 54 48
    .val (Config.msaWord (s.graphs.filter fun g => g.ctl == wbits a 54 48) here (wbits a 15 0)) (!here.isEmpty)

/-- Space 0x06: an engine, which runs also while it waits on its queue. The registers of a hart that runs the shipped microcode are not held: they are free. -/
def State.rdEngine (s : State) (a : Word) : Item :=
  let n := wbits a 13 0
  let d := wbits a 54 53
  let e := wbits a 52 49
  if wbit a 55 ∨ wbits a 48 14 ≠ 0 ∨ 8 < e ∨ (32 < n ∧ n < 1024) ∨ 9215 < n then .bad
  else
    match s.engineAt d e, s.thrOf (.engine d e) with
    | some x, some t =>
      let live := (!x.loaded || t.run == .running) && s.dome.phase == .idle
      if s.dies ≤ d then .absent
      else if 1024 ≤ n then
        .val (if x.loaded then w64 (memNat x.istore (8 * (n - 1024)) 8) else Config.shipped (boolNat (e == 8)) (n - 1024)) live
      else if n = 0 then .val 0 live
      else if !x.loaded then .open_ live
      else .val (if n < 32 then t.reg (BitVec.ofNat 5 n) else t.pc) live
    | _, _ => .absent

/-- Space 0x07: memory health of a bank. -/
def State.rdHealth (s : State) (a : Word) : Item :=
  if wbits a 47 17 ≠ 0 ∨ wbits a 6 0 ≠ 0 ∨ 95 < wbits a 54 48 then .bad
  else if s.part = 2 then .absent
  else
    let b := s.bankOf (wbits a 54 48) (wbits a 11 7) (wbits a 16 12)
    let gone := if s.health.deadPch.contains (b.ctl, b.pch) then Config.bankRows else b.exhausted.length
    .val (w64 (b.rows % 16 + b.remaps % 32 * 2 ^ 4 + b.granules % 32 * 2 ^ 9 + gone % 2 ^ 16 * 2 ^ 16)) true

/-- Space 0x08: statistics. -/
def State.rdStats (s : State) (a : Word) : Item :=
  if 5 < a.toNat % 2 ^ 56 then .bad else .val (w64 (lookupD s.stats (wbits a 7 0) 0)) true

/-- Space 0x09: the weight stores of an element. -/
def State.rdWeights (s : State) (a : Word) : Item :=
  let w := wbits a 7 0
  if wbits a 41 8 ≠ 0 ∨ 95 < wbits a 54 48 ∨ 191 < w then .bad
  else if !s.boot.acc0.getLsbD 3 then .absent
  else match s.itemPage a with
    | none => .absent
    | some (r, q) =>
      let e := wbits a 45 42
      .val (wordAt (r.elementWeights (if w < 96 then r.weights else r.staging) q e) (8 * (w % 96))) (regionLive s r)

/-- Space 0x0A: the commit buffer of a page. -/
def State.rdBuffer (s : State) (a : Word) : Item :=
  let w := wbits a 13 0
  if wbits a 45 14 ≠ 0 ∨ 95 < wbits a 54 48 ∨ 10247 < w then .bad
  else match s.itemPage a with
    | none => .absent
    | some (r, q) => .val (wordAt (r.bufferBytes q) (8 * w)) (regionLive s r)

def State.readItem (s : State) (a : Word) : Item :=
  match wbits a 63 56 with
  | 0x00 => if wbit a 55 then .bad else s.rdControl a
  | 0x01 => if wbit a 55 then .bad else s.rdThread a
  | 0x02 => if wbit a 55 ∨ wbits a 41 11 ≠ 0 then .bad else s.rdElement a
  | 0x03 => if wbit a 55 ∨ wbits a 45 11 ≠ 0 then .bad else s.rdPage a
  | 0x04 => if wbit a 55 then .bad else s.rdTable a
  | 0x05 => if wbit a 55 then .bad else s.rdMsa a
  | 0x06 => s.rdEngine a
  | 0x07 => if wbit a 55 then .bad else s.rdHealth a
  | 0x08 => s.rdStats a
  | 0x09 => if wbit a 55 then .bad else s.rdWeights a
  | 0x0A => if wbit a 55 then .bad else s.rdBuffer a
  | _ => .bad

def execRdstate (d a : Reg) (s : State) : Out :=
  issue (.rdstate d a) ⟨.all, true, [a], [d]⟩ s fun s =>
    let done := fun (s : State) (v : Word) (st : Status) (live : Bool) =>
      (s.setPair d (w64 (st.toNat + 2 ^ 8 * boolNat live) ++ v)).retire 2
    match s.readItem (s.reg a) with
    | .bad => s.illegal (.rdstate d a)
    | .absent => done s 0 stDenied false
    | .val v live => done s v stOK live
    | .open_ live => let (v, s) := s.freeWord; done s v stOK live

end Sys2Proof.Machine
end

