-- ==== Sys2Proof/Machine/Fabric.lean ====
section
/-! DEFINITION. How a block's nodes fire: footprints and copies (R108-R110), tokens and predicates (R100-R106), routes and buffers
(R107, R335), iterations that met a cause of discard (R459), and the shared shape of a firing. -/

namespace Sys2Proof.Machine

/-! ### Blocks -/

def Block.node (b : Block) (i : Nat) : Option (Nat × BlockWord) := (b.words[i]?).map fun v => (wordOp v, blockFields v)

def Block.depth (b : Block) : Nat := (b.header.extractLsb' 110 3).toNat

/-- Every node with its index. -/
def Block.nodes (b : Block) : List (Nat × Nat × BlockWord) := b.words.zipIdx.map fun p => (p.2, wordOp p.1, blockFields p.1)

/-- Memory nodes carry an LSID (R219, R244). -/
def isMemOp (op : Nat) : Bool := decide (0x60 ≤ op ∧ op ≤ 0x67)

/-- Matrix nodes (R139). -/
def isMatrixOp (op : Nat) : Bool := decide (0x80 ≤ op ∧ op ≤ 0x82)

/-- Some word names the position as a target. -/
def Block.targeted (b : Block) (node pos : Nat) : Bool := b.words.any fun v => (blockFields v).targets.contains (node, pos)

/-- The node consumes operand a (R103, R121-R131, R139, R244). A NULL consumes it when it is targeted. -/
def usesA (op : Nat) (w : BlockWord) (targeted : Bool) : Bool :=
  if op = 0x60 then !w.useAg
  else if op = 0x61 then true
  else if op = 0x64 ∨ op = 0x66 ∨ op = 0x70 ∨ op = 0x72 ∨ op = 0x74 ∨ op = 0x75 then false
  else if op = 0x73 then targeted
  else true

/-- The node consumes operand b. -/
def usesB (op : Nat) (w : BlockWord) : Bool :=
  if op ≤ 0x05 ∨ op = 0x08 then true
  else if op ≤ 0x10 then false
  else if op ≤ 0x2E then op != 0x26 && op != 0x2B
  else if op = 0x41 ∨ op = 0x48 ∨ op = 0x4C ∨ op = 0x63 ∨ op = 0x77 then true
  else if op = 0x42 then !w.mx
  else if op = 0x61 then !w.useAg
  else false

/-- The node consumes operand p: FMA's addend, or a predicate. -/
def usesP (op : Nat) (w : BlockWord) : Bool := op == 0x03 || w.pred != 0

/-- A source node consumes no a and no b (R112). -/
def Block.isSource (b : Block) (i op : Nat) (w : BlockWord) : Bool := !usesA op w (b.targeted i 0) && !usesB op w

/-! ### Footprints and copies (R108-R110) -/

/-- Manhattan distance. -/
def xyDist (a b : Nat × Nat) : Nat := (if a.1 < b.1 then b.1 - a.1 else a.1 - b.1) + (if a.2 < b.2 then b.2 - a.2 else a.2 - b.2)

/-- The lowest-indexed node that targets a position. -/
def Block.feeder (b : Block) (i pos : Nat) : Option Nat := (b.nodes.find? fun n => n.2.2.targets.contains (i, pos)).map (·.1)

/-- The start copy k0 of a node with `c` copies (R110). -/
def Block.startCopy (b : Block) (w i c : Nat) : Nat :=
  match (b.feeder i 0).orElse fun _ => (b.feeder i 1).orElse fun _ => b.feeder i 2 with
  | none => 0
  | some m =>
    let o := copyXY w b.home m 0
    (best (fun x y => decide (xyDist (copyXY w b.home i x) o < xyDist (copyXY w b.home i y) o)) (List.range c)).getD 0

/-- The copy that iteration `j` is dealt to (R110). -/
def Block.copyOf (b : Block) (w i j : Nat) : Nat :=
  match b.node i with
  | none => 0
  | some (_, x) => (b.startCopy w i x.copies + j) % x.copies

/-! ### Tokens (R100-R105) -/

/-- A token from its lanes; a null lane reads as zero. -/
def Token.of (tag : Nat) (f : Nat → Option Lane) : Token where
  lanes := Vector.ofFn fun l => (f l.val).getD 0
  valid := (List.range 16).foldl (fun v l => if (f l).isSome then v ||| 1#16 <<< l else v) 0
  tag := tag

def Token.null (tag : Nat) : Token := Token.of tag fun _ => none

/-- Lane `l`, when it is valid. -/
def Token.lane (t : Token) (l : Nat) : Option Lane := if t.valid.getLsbD l then some (t.lanes.toArray.getD l 0) else none

def Token.isNull (t : Token) : Bool := t.valid == 0

/-- Bit `l` of the predicate (R105). -/
def predHolds (use : BitVec 2) (p : Token) (l : Nat) : Bool :=
  if use = 0 then true
  else match p.lane l with
    | none => false
    | some x => x.getLsbD 0 == (use == 1)

/-! ### Routes and buffers (R107, R335) -/

/-- The next place of a token at element `at_` on its way to a slot of element `to`: along X first, then Y. The side of a router
buffer is 0 north, 1 east, 2 south, 3 west. -/
def nextPlace (at_ toward : Nat × Nat) (node copy pos : Nat) : Place :=
  if at_ = toward then .slot node copy pos
  else if at_.1 < toward.1 then .router (at_.1 + 1) at_.2 3 node copy pos
  else if toward.1 < at_.1 then .router (at_.1 - 1) at_.2 1 node copy pos
  else if at_.2 < toward.2 then .router at_.1 (at_.2 + 1) 0 node copy pos
  else .router at_.1 (at_.2 - 1) 2 node copy pos

/-- Two places are one buffer. -/
def samePlace (x y : Place) : Bool :=
  match x, y with
  | .slot n c p, .slot n' c' p' => n == n' && c == c' && p == p'
  | .router a b d _ _ _, .router a' b' d' _ _ _ => a == a' && b == b' && d == d'
  | _, _ => false

def Place.cap : Place → Nat
  | .slot _ _ _ => 4
  | .router _ _ _ _ _ _ => 8

/-- Tokens in the buffer of a place: a slot's of one invocation, a router's of all. -/
def Region.inPlace (r : Region) (i : Inv) (p : Place) : List Flying :=
  match p with
  | .slot _ _ _ => i.tokens.filter fun t => samePlace t.at_ p
  | .router _ _ _ _ _ _ => (r.invs.flatMap (·.tokens)).filter fun t => samePlace t.at_ p

/-- First places of the tokens that node `n`'s copy sends in iteration `j`. -/
def Region.firstPlaces (r : Region) (b : Block) (n j : Nat) (w : BlockWord) : List Place :=
  let here := copyXY r.w b.home n (b.copyOf r.w n j)
  w.targets.map fun t =>
    let c := b.copyOf r.w t.1 j
    nextPlace here (copyXY r.w b.home t.1 c) t.1 c t.2

/-- Every first place has a free entry for what is sent there. -/
def Region.hasRoom (r : Region) (i : Inv) (ps : List Place) : Bool :=
  ps.all fun p => decide ((r.inPlace i p).length + (ps.filter (samePlace p)).length ≤ p.cap)

/-! ### Invocations -/

def State.modInv (s : State) (h id : Nat) (f : Inv → Inv) : State :=
  s.modRegion h fun r => { r with invs := modifyFirst (fun i => i.id == id) f r.invs }

def Region.inv (r : Region) (id : Nat) : Option Inv := r.invs.find? fun i => i.id == id

/-- Invocations dispatched earlier that have neither committed nor given up their place (R116). -/
def Region.earlier (r : Region) (id : Nat) : List Inv := r.invs.takeWhile fun i => i.id != id

/-- The block an invocation runs. -/
def Region.blockOf (r : Region) (i : Inv) : Option Block :=
  match i.work with
  | .block k => r.blocks[k]?
  | .command _ => none

/-- The block writes frame register `n` (R55, R117). -/
def Block.writesFrame (b : Block) (n : Nat) : Bool := b.nodes.any fun x => x.2.1 == 0x71 && x.2.2.frame == n

/-- An earlier invocation that may still write frame register `n` (R117). -/
def Region.frameWait (r : Region) (id n : Nat) : Bool :=
  (r.earlier id).any fun i => match r.blockOf i with | some b => b.writesFrame n | none => false


def Inv.hasFired (i : Inv) (n j : Nat) : Bool := i.fired.contains (n, j)

/-- Every node has fired in iteration `j`: then it has counted (R113), and its flags are complete (R94; DEDUCED, log 27). -/
def Inv.iterDone (i : Inv) (b : Block) (j : Nat) : Bool := (List.range b.words.length).all fun n => i.hasFired n j

/-- Branches taken in iteration `j`. -/
def Inv.taken (i : Inv) (j : Nat) : Nat := (i.brs.filter fun p => p.1 == j).length

/-- The iteration breaks the branch rule (R114). -/
def Inv.branchBreak (i : Inv) (b : Block) (j : Nat) : Bool := decide (1 < i.taken j) || (i.taken j == 0 && i.iterDone b j)

/-- Flags raised in iteration `j`. -/
def Inv.flagsOf (i : Inv) (j : Nat) : Flags := lookupD i.flags j 0

/-- The cause that iteration `j` met first; ARITH-TRAP before a break of the branch rule, which is no single node's (R114, R459). -/
def Inv.causeAt (i : Inv) (b : Option Block) (j : Nat) : Option Failure :=
  match i.failures.find? fun f => f.iter == j with
  | some f => some f
  | none =>
    match b with
    | some b => if i.branchBreak b j then some ⟨j, 0xFF, .illegalOperand, 0⟩ else none
    | none => none

/-- The lowest iteration that met a cause. -/
def Inv.worst (i : Inv) (b : Option Block) : Option Failure :=
  let js := i.failures.map (·.iter) ++ (match b with | some b => (List.range i.started).filter fun j => i.branchBreak b j | none => [])
  match best (fun x y => decide (x < y)) js with
  | none => none
  | some j => i.causeAt b j

/-! ### Firing (R103, R104, R107) -/

/-- A node that can fire: its region, invocation, block and copy, and its operands (null where it consumes none). -/
structure Firing where
  r : Region
  i : Inv
  b : Block
  at_ : FireAt
  op : Nat
  w : BlockWord
  copy : Nat
  ta : Token
  tb : Token
  tp : Token
deriving DecidableEq, Repr

/-- How a firing goes: it waits, it sends (first target's token, second target's, flags), or it meets a cause of discard. -/
inductive Shot where
  | wait
  | sent (out second : Token) (flags : Flags)
  | failed (cause : Cause) (addr : Nat)
deriving DecidableEq, Repr

/-- The token of iteration `j` that stands in a slot buffer at cycle `now`. -/
def Inv.slotToken (i : Inv) (now n c pos j : Nat) : Option Token :=
  (i.tokens.find? fun t => t.at_ == .slot n c pos && t.tok.tag == j && decide (t.due ≤ now)).map (·.tok)

/-- An operand: the null token when the node consumes none. -/
def Inv.operand (i : Inv) (used : Bool) (now n c pos j : Nat) : Option Token :=
  if used then i.slotToken now n c pos j else some (Token.null j)

/-- The operations of 12 cycles: FRCP, FRSQ, FSQRT, FEXP2, FLOG2, FSIN, FCOS and FTANH (R107). -/
def slowOp (op : Nat) : Bool := decide (0x09 ≤ op ∧ op ≤ 0x10)

/-- The element of a node's copy may fire at cycle `now`: it fires at most one slot per cycle (R107). -/
def Region.elementFree (r : Region) (el : Nat × Nat) (now : Nat) : Bool := decide (lookupD r.busy el 0 ≤ now)

/-- The firing at `at_`, when the node is word `w` of opcode `op`, its iteration has started and runs, its operands are there, and its
targets have room. -/
def State.firing (s : State) (at_ : FireAt) (op : Nat) (w : BlockWord) : Option Firing :=
  match s.regionOf at_.region with
  | none => none
  | some r =>
    match r.inv at_.inv with
    | none => none
    | some i =>
      match r.blockOf i with
      | none => none
      | some b =>
        let n := at_.node
        let j := at_.iter
        let c := b.copyOf r.w n j
        if !s.regionRuns r ∨ b.node n ≠ some (op, w) ∨ i.started ≤ j ∨ i.hasFired n j
            ∨ (i.failures.any fun f => f.node == n && f.iter == j)
            ∨ (match i.worst (some b) with | some f => decide (f.iter < j) | none => false) = true
            ∨ !r.hasRoom i (r.firstPlaces b n j w) ∨ !r.elementFree (copyXY r.w b.home n c) s.cycle.toNat then none
        else
          let now := s.cycle.toNat
          match i.operand (usesA op w (b.targeted n 0)) now n c 0 j, i.operand (usesB op w) now n c 1 j, i.operand (usesP op w) now n c 2 j with
          | some a, some x, some p => some ⟨r, i, b, at_, op, w, c, a, x, p⟩
          | _, _, _ => none

/-- Puts the flags of a firing into its iteration; an enabled one traps the invocation (R97). -/
def Inv.addFlags (i : Inv) (n j : Nat) (fl : Flags) : Inv :=
  let i := if fl = 0 then i else { i with flags := assign i.flags j (i.flagsOf j ||| fl) }
  if fl &&& i.vtrap = 0 ∨ (i.failures.any fun f => f.iter == j) then i
  else { i with failures := i.failures ++ [⟨j, n, .arithTrap, 0⟩] }

/-- Consumes the operands of a firing. -/
def Inv.consume (i : Inv) (n c j : Nat) : Inv :=
  { i with tokens := i.tokens.filter fun t => match t.at_ with
      | .slot n' c' _ => !(n' == n && c' == c && t.tok.tag == j)
      | .router _ _ _ _ _ _ => true }

/-- When a result of a firing stands in its first place: it leaves stage 6 after 6 or 12 cycles, and a hop to another element takes one
more (R107, R335). -/
def Place.dueFrom (p : Place) (now op : Nat) : Nat :=
  now + (if slowOp op then 12 else 6) + match p with | .slot _ _ _ => 0 | .router _ _ _ _ _ _ => 1

/-- The blink element of a fabric row shadows the element at coordinates (x, y) of the region in this cycle (R407). -/
def State.shadows (s : State) (r : Region) (x y : Nat) : Bool :=
  (4 * r.orig.1 + x) % 8 == (s.cycle.toNat >>> s.blinkiv r.die + (4 * r.orig.2 + y)) % 8

/-- A verdict on a result that leaves stage 6 at `at_` is outstanding until 8 cycles later (R407). -/
def Inv.shadow (i : Inv) (x y at_ : Nat) : Inv := { i with shadowed := i.shadowed ++ [(x, y, at_ + 8)] }

/-- The array works: each shadowed element of the region has its step compared (R407). -/
def State.shadowArray (s : State) (h id : Nat) : State :=
  match s.regionOf h with
  | none => s
  | some r =>
    let els := (List.range (16 * r.w * r.h)).map fun n => elemXY r.w (n / 16) (n % 16)
    s.modInv h id fun i => (els.filter fun e => s.shadows r e.1 e.2).foldl (fun i e => i.shadow e.1 e.2 s.cycle.toNat) i

/-- Sends the results of a firing on their way, and marks it done. -/
def State.sendTokens (s : State) (f : Firing) (out second : Token) (fl : Flags) : State :=
  let (q, s) := s.fresh
  let now := s.cycle.toNat
  let el := copyXY f.r.w f.b.home f.at_.node f.copy
  let outs := (f.r.firstPlaces f.b f.at_.node f.at_.iter f.w).zip
    ((targetOf f.w.t1).toList.map (fun _ => out) ++ (targetOf f.w.t2).toList.map fun _ => second)
  let s := s.modRegion f.at_.region fun r =>
    { r with fired := true, idle := 0, busy := assign r.busy el (now + if slowOp f.op then 3 else 1) }
  s.modInv f.at_.region f.at_.inv fun i =>
    let i := i.consume f.at_.node f.copy f.at_.iter
    let i := if s.shadows f.r el.1 el.2 then i.shadow el.1 el.2 (now + if slowOp f.op then 12 else 6) else i
    let sent := outs.map fun (p : Place × Token) => (⟨p.1, p.1.dueFrom now f.op, q, p.2⟩ : Flying)
    let i := { i with tokens := i.tokens ++ sent, fired := i.fired ++ [(f.at_.node, f.at_.iter)] }
    i.addFlags f.at_.node f.at_.iter fl

/-- A cause met at a firing. -/
def State.failNode (s : State) (at_ : FireAt) (c : Cause) (addr : Nat) : State :=
  s.modInv at_.region at_.inv fun i => { i with failures := i.failures ++ [⟨at_.iter, at_.node, c, addr⟩] }

/-- Fires a node whose effect reads and changes the state beside its tokens; nothing happens when it cannot fire. -/
def State.fireWith (s : State) (at_ : FireAt) (op : Nat) (w : BlockWord) (body : Firing → State → State × Shot) : State :=
  match s.firing at_ op w with
  | none => s
  | some f =>
    match body f s with
    | (s, .wait) => s
    | (s, .failed c a) => s.failNode at_ c a
    | (s, .sent out second fl) => s.sendTokens f out second fl

/-- Fires a node of pure data flow: its token and its flags. -/
def State.fireData (s : State) (at_ : FireAt) (op : Nat) (w : BlockWord) (g : Firing → Token × Token × Flags) : State :=
  s.fireWith at_ op w fun f s => let x := g f; (s, .sent x.1 x.2.1 x.2.2)

/-- Lane `l` is active (R102): every consumed operand is valid there and the predicate holds. -/
def Firing.active (f : Firing) (l : Nat) : Bool :=
  (!usesA f.op f.w (f.b.targeted f.at_.node 0) || (f.ta.lane l).isSome)
    && (!usesB f.op f.w || (f.tb.lane l).isSome)
    && (if f.op = 0x03 then (f.tp.lane l).isSome else predHolds f.w.pred f.tp l)

/-- Rounding of a code (R71). -/
def rndOf (c : Nat) : Rnd := match c with | 0 => .rne | 1 => .rtz | 2 => .up | 3 => .down | 4 => .ta | _ => .sr
def Firing.rnd (f : Firing) : Rnd := rndOf f.w.rnd.toNat

/-- Draw `k` of lane `l` (R89): the slot is the node's index. -/
def Firing.draw (f : Firing) (l k : Nat) : Nat :=
  if f.rnd = .sr then
    srDraw (f.i.srseed ^^^ BitVec.ofNat 32 (16 * f.copy + l) ^^^ BitVec.ofNat 32 f.at_.iter) f.at_.node k
  else 0

/-- FireLanes (R120): the lane operation on every active lane, with its lane number. -/
def Firing.lanes (f : Firing) (g : Nat → Lane → Lane → Lane → Lane × Flags) : Token × Token × Flags :=
  let at_ := fun (t : Token) (l : Nat) => (t.lane l).getD 0
  let rs := (List.range 16).map fun l => if f.active l then some (g l (at_ f.ta l) (at_ f.tb l) (at_ f.tp l)) else none
  let t := Token.of f.at_.iter fun l => ((rs.getD l none).map (·.1))
  (t, t, rs.foldl (fun fl r => match r with | some x => fl ||| x.2 | none => fl) 0)

end Sys2Proof.Machine
end

