-- ==== Sys2Proof/Machine/Trans.lean ====
section
/-! DEFINITION. The special functions of R122: a fixed-point value with 512 or more fraction bits, then RoundTo. None of these
results is a multiple of a rounding unit except at the listed exact points, so the tail is marked as sticky (log 9). -/

namespace Sys2Proof.Machine

/-- Fraction bits of the fixed-point values. -/
def fxP : Nat := 512

/-- Sum of x^k / k! from the term `t` on, with `n` further terms; all fixed point. -/
def expTerms : (n : Nat) → (k x t acc : Nat) → Nat
  | 0, _, _, _, acc => acc
  | n + 1, k, x, t, acc => let t' := (t * x) >>> fxP; expTerms n (k + 1) x (t' / k) (acc + t' / k)

/-- e^x for 0 ≤ x < 1. -/
def fxExp (x : Nat) : Nat := expTerms 110 1 x (2 ^ fxP) (2 ^ fxP)

/-- Sum of x^(2k+1) / (2k+1) for k below n: atanh x; x² = `x2`. -/
def atanhTerms : (n : Nat) → (k x2 pw acc : Nat) → Nat
  | 0, _, _, _, acc => acc
  | n + 1, k, x2, pw, acc => atanhTerms n (k + 2) x2 ((pw * x2) >>> fxP) (acc + pw / k)

def fxAtanh (x : Nat) : Nat := atanhTerms 180 1 ((x * x) >>> fxP) x 0

/-- ln 2 = 2 atanh (1/3). -/
def fxLn2 : Nat := 2 * fxAtanh (2 ^ fxP / 3)

/-- Alternating sum for atan (1/d), scaled by 2^b. -/
def atanInv : (n : Nat) → (k d2 pw : Nat) → (plus : Bool) → (acc : Int) → Int
  | 0, _, _, _, _, acc => acc
  | n + 1, k, d2, pw, plus, acc => atanInv n (k + 2) d2 (pw / d2) (!plus) (if plus then acc + pw / k else acc - (pw / k : Nat))

/-- π scaled by 2^720 (Machin). -/
def piBits : Nat := 720
def fxPi : Nat :=
  (4 * (4 * atanInv 160 1 25 (2 ^ (piBits + 16) / 5) true 0 - atanInv 60 1 57121 (2 ^ (piBits + 16) / 239) true 0)).toNat >>> 16

/-- Sum of (−1)^k x^(2k+s) / (2k+s)! with the term `t`. -/
def sinTerms : (n : Nat) → (k x2 t : Nat) → (plus : Bool) → (acc : Int) → Int
  | 0, _, _, _, _, acc => acc
  | n + 1, k, x2, t, plus, acc =>
    let t' := ((t * x2) >>> fxP) / (k * (k + 1))
    sinTerms n (k + 2) x2 t' (!plus) (if plus then acc + t' else acc - (t' : Int))

/-- sin x and cos x for 0 ≤ x < 2, fixed point. -/
def fxSin (x : Nat) : Nat := (sinTerms 60 2 ((x * x) >>> fxP) x false x).toNat
def fxCos (x : Nat) : Nat := (sinTerms 60 1 ((x * x) >>> fxP) (2 ^ fxP) false ((2 ^ fxP : Nat) : Int)).toNat

/-- m × 2^e as fixed point with `b` fraction bits, rounded down. -/
def toFx (b : Nat) (m : Nat) (e : Int) : Nat := let s := e + b; if 0 ≤ s then m <<< s.toNat else m >>> (-s).toNat

/-- FEXP2 (R122). -/
def fExp2 (x : Val) (mode : Rnd) (draw : Nat) : Nat × Flags :=
  match x with
  | .nan s => nanOf fp32 s
  | .inf n => (if n then 0 else fp32.infMag, 0)
  | .fin n m e =>
    if m = 0 then (0x3F800000, 0)
    else if n ∧ 10 ≤ flog2 m e then
      -- x ≤ -1024: far below the range, where an exact power rounds as any other
      fp32.roundFin false 1 (-1024) true mode draw
    else
      let f := toFx fxP m e
      -- a power past 2^1024 is beyond the range, and rounds as 2^1024 with its fraction does
      let whole : Int := (min (f / 2 ^ fxP) 1024 : Nat)
      let frac := f % 2 ^ fxP
      if frac = 0 ∧ 0 ≤ e + fxP then fp32.roundFin false 1 (if n then -whole else whole) false mode draw
      else
        let k : Int := if n then -whole - 1 else whole
        let r := if n then 2 ^ fxP - frac - (if 0 ≤ e + fxP then 0 else 1) else frac
        let y := fxExp ((r * fxLn2) >>> fxP)
        fp32.roundFin false y (k - fxP) true mode draw

/-- FLOG2 (R122). -/
def fLog2 (x : Val) (mode : Rnd) (draw : Nat) : Nat × Flags :=
  match x with
  | .nan s => nanOf fp32 s
  | .inf n => if n then invalid fp32 else (fp32.infMag, 0)
  | .fin n m e =>
    if m = 0 then (fp32.withSign true fp32.infMag, fDivzero)
    else if n then invalid fp32
    else
      let l := flog2 m e
      let mant := toFx fxP m (e - l)
      if mant = 2 ^ fxP then fp32.round (if l = 0 then .fin false 0 0 else valOfInt l) mode draw
      else
        let z := ((mant - 2 ^ fxP) <<< fxP) / (mant + 2 ^ fxP)
        let fr := ((2 * fxAtanh z) <<< fxP) / fxLn2
        let v : Int := l * (2 ^ fxP : Nat) + fr
        -- a negative value lies just above its floor: take the magnitude one unit lower
        if v < 0 then fp32.roundFin true (v.natAbs - 1) (-(fxP : Int)) true mode draw
        else fp32.roundFin false v.toNat (-(fxP : Int)) true mode draw

/-- Quadrant and remainder of |x| modulo π/2. -/
def fxReduce (m : Nat) (e : Int) : Nat × Nat :=
  let v := toFx piBits m e
  let h := fxPi / 2
  (v / h % 4, (v % h) >>> (piBits - fxP))

/-- FSIN and FCOS (R122). -/
def fSinCos (isCos : Bool) (x : Val) (mode : Rnd) (draw : Nat) : Nat × Flags :=
  match x with
  | .nan s => nanOf fp32 s
  | .inf _ => invalid fp32
  | .fin n m e =>
    if m = 0 then (if isCos then 0x3F800000 else fp32.withSign n 0, 0)
    else
      let (q, r) := fxReduce m e
      let q' := (if isCos then q + 1 else q) % 4
      -- one unit less keeps the value below the true one where the series rounds up
      let y := (if q' % 2 = 1 then fxCos r else fxSin r) - 1
      let neg := (decide (2 ≤ q')) != (n && !isCos)
      fp32.roundFin neg y (-(fxP : Int)) true mode draw

/-- FTANH (R122). -/
def fTanh (x : Val) (mode : Rnd) (draw : Nat) : Nat × Flags :=
  match x with
  | .nan s => nanOf fp32 s
  | .inf n => (fp32.withSign n 0x3F800000, 0)
  | .fin n m e =>
    if m = 0 then (fp32.withSign n 0, 0)
    else if 6 ≤ flog2 m e then fp32.roundFin n (2 ^ 100 - 1) (-100) true mode draw
    else
      let y := toFx fxP m (e + 1)
      let k := y / fxLn2
      let ex := fxExp (y % fxLn2) <<< k
      let t := ((ex - 2 ^ fxP) <<< fxP) / (ex + 2 ^ fxP)
      fp32.roundFin n (t - 1) (-(fxP : Int)) true mode draw

/-- FRCP, FRSQ (R122). -/
def fRcp (x : Val) (mode : Rnd) (draw : Nat) : Nat × Flags := fDivVal fp32 (.fin false 1 0) x mode draw

def fRsq (x : Val) (mode : Rnd) (draw : Nat) : Nat × Flags :=
  match x with
  | .nan s => nanOf fp32 s
  | .inf n => if n then invalid fp32 else (0, 0)
  | .fin n m e =>
    if m = 0 then (fp32.withSign n fp32.infMag, fDivzero)
    else if n then invalid fp32
    else
      let odd := e % 2 = 1
      let m' := if odd then 2 * m else m
      let e' := if odd then e - 1 else e
      let r := isqrt (2 ^ 240 / m')
      fp32.roundFin false r (-120 - e' / 2) (r * r * m' != 2 ^ 240) mode draw

end Sys2Proof.Machine
end

