-- ==== Sys2Proof/Machine/FabricFloat.lean ====
section
/-! DEFINITION. The floating-point, special-function and conversion nodes of a block (R121, R122, R125-R128). -/

namespace Sys2Proof.Machine

/-- A floating lane operation of the node's type on two operands (R121). -/
def Firing.float2 (f : Firing) (g : FloatFmt → Nat → Nat → Rnd → Nat → Nat × Flags) : Token × Token × Flags :=
  let T := f.w.ty.toNat
  f.lanes fun l a b _ => let r := g (fltOf T) (laneIn T a) (laneIn T b) f.rnd (f.draw l 0); (laneOf T r.1, r.2)

/-- A special function of FP32 (R122). -/
def Firing.special (f : Firing) (g : Val → Rnd → Nat → Nat × Flags) : Token × Token × Flags :=
  f.lanes fun l a _ _ => let r := g (fp32.decode a.toNat) f.rnd (f.draw l 0); (BitVec.ofNat 32 r.1, r.2)

/-- An operation on the sign bit alone (R81, R121). -/
def Firing.sign (f : Firing) (g : FloatFmt → Nat → Nat) : Token × Token × Flags :=
  let T := f.w.ty.toNat
  f.lanes fun _ a _ _ => (laneOf T (g (fltOf T) (laneIn T a)), 0)

def execNodeFadd (at_ : FireAt) (w : BlockWord) (s : State) : Out :=
  .next (s.fireData at_ 0x00 w fun f => f.float2 fun F a b m d => fAddVal F (F.decode a) (F.decode b) m d)
def execNodeFsub (at_ : FireAt) (w : BlockWord) (s : State) : Out :=
  .next (s.fireData at_ 0x01 w fun f => f.float2 fun F a b m d => fAddVal F (F.decode a) (F.decode b).flip m d)
def execNodeFmul (at_ : FireAt) (w : BlockWord) (s : State) : Out :=
  .next (s.fireData at_ 0x02 w fun f => f.float2 fun F a b m d => fMulVal F (F.decode a) (F.decode b) m d)
def execNodeFma (at_ : FireAt) (w : BlockWord) (s : State) : Out :=
  .next (s.fireData at_ 0x03 w fun f =>
    let T := f.w.ty.toNat
    let F := fltOf T
    f.lanes fun l a b p =>
      let r := fFmaVal F (F.decode (laneIn T a)) (F.decode (laneIn T b)) (F.decode (laneIn T p)) f.rnd (f.draw l 0)
      (laneOf T r.1, r.2))
def execNodeFmin (at_ : FireAt) (w : BlockWord) (s : State) : Out :=
  .next (s.fireData at_ 0x04 w fun f => f.float2 fun F a b _ _ => fMinMax F false a b)
def execNodeFmax (at_ : FireAt) (w : BlockWord) (s : State) : Out :=
  .next (s.fireData at_ 0x05 w fun f => f.float2 fun F a b _ _ => fMinMax F true a b)
def execNodeFabs (at_ : FireAt) (w : BlockWord) (s : State) : Out :=
  .next (s.fireData at_ 0x06 w fun f => f.sign fun F a => a % F.signBit)
def execNodeFneg (at_ : FireAt) (w : BlockWord) (s : State) : Out :=
  .next (s.fireData at_ 0x07 w fun f => f.sign fun F a => a ^^^ F.signBit)
/-- FCMP: its result lane is b32 whatever the type (R121). -/
def execNodeFcmp (at_ : FireAt) (w : BlockWord) (s : State) : Out :=
  .next (s.fireData at_ 0x08 w fun f =>
    let T := f.w.ty.toNat
    let c := f.w.cond.toNat
    f.lanes fun _ a b _ =>
      let x := (fltOf T).decode (laneIn T a)
      let y := (fltOf T).decode (laneIn T b)
      (if fCond c x y then 0xFFFFFFFF#32 else 0, fCondFlags c x y))

def execNodeFrcp (at_ : FireAt) (w : BlockWord) (s : State) : Out := .next (s.fireData at_ 0x09 w fun f => f.special fRcp)
def execNodeFrsq (at_ : FireAt) (w : BlockWord) (s : State) : Out := .next (s.fireData at_ 0x0A w fun f => f.special fRsq)
def execNodeFsqrt (at_ : FireAt) (w : BlockWord) (s : State) : Out := .next (s.fireData at_ 0x0B w fun f => f.special (fSqrtVal fp32))
def execNodeFexp2 (at_ : FireAt) (w : BlockWord) (s : State) : Out := .next (s.fireData at_ 0x0C w fun f => f.special fExp2)
def execNodeFlog2 (at_ : FireAt) (w : BlockWord) (s : State) : Out := .next (s.fireData at_ 0x0D w fun f => f.special fLog2)
def execNodeFsin (at_ : FireAt) (w : BlockWord) (s : State) : Out := .next (s.fireData at_ 0x0E w fun f => f.special (fSinCos false))
def execNodeFcos (at_ : FireAt) (w : BlockWord) (s : State) : Out := .next (s.fireData at_ 0x0F w fun f => f.special (fSinCos true))
def execNodeFtanh (at_ : FireAt) (w : BlockWord) (s : State) : Out := .next (s.fireData at_ 0x10 w fun f => f.special fTanh)

/-! ### Conversions -/

/-- CVT (R125). A word with its mx bit set, which R71 admits and R125 gives no meaning, delivers free lanes. -/
def execNodeCvt (at_ : FireAt) (w : BlockWord) (s : State) : Out :=
  let k := s.model.freeCount
  let s := if w.mx then { s with model := { s.model with freeCount := k + 16 } } else s
  .next (s.fireData at_ 0x40 w fun f =>
    f.lanes fun l a _ _ =>
      if f.w.mx then (Config.freeLane (k + l), 0)
      else
        let r := convert f.w.src.toNat f.w.ty.toNat f.rnd (f.draw l 0) a.toNat
        (laneOf f.w.ty.toNat r.1, r.2))

/-- RoundTo of any value into a type, as a pattern (R88, R90). -/
def roundTy (T : Nat) (v : Val) (mode : Rnd) (draw : Nat) : Nat × Flags :=
  match tyOf T with
  | .flt F => F.round v mode draw
  | .int I => let r := I.round v mode draw; (I.encode r.1, r.2)
  | .raw => (0, 0)

/-- The exact product x × y rounded once into a type (R126, R128). -/
def mulRound (T : Nat) (x y : Val) (mode : Rnd) (draw : Nat) : Nat × Flags :=
  if x.isNan || y.isNan then roundTy T (.nan (x.isSNan || y.isSNan)) mode draw
  else match mulVal x y with
    | some v => roundTy T v mode draw
    | none => let r := roundTy T (.nan true) mode draw; (r.1, r.2 ||| fInvalid)

/-- The value of a pattern of a type. -/
def valTy (S p : Nat) : Val :=
  match tyOf S with
  | .flt F => F.decode p
  | .int I => valOfInt (I.decode p)
  | .raw => .nan false

/-- QUANT without mx, and DEQUANT without mx: lane a scaled by the FP32 lane b. -/
def Firing.scaled (f : Firing) (mode : Rnd) : Token × Token × Flags :=
  let S := f.w.src.toNat
  let T := f.w.ty.toNat
  f.lanes fun l a b _ =>
    let r := mulRound T (valTy S (laneIn S a)) (fp32.decode b.toNat) mode (f.draw l 0)
    (laneOf T r.1, r.2)

def execNodeQuant (at_ : FireAt) (w : BlockWord) (s : State) : Out := .next (s.fireData at_ 0x41 w fun f => f.scaled f.rnd)
def execNodeDequant (at_ : FireAt) (w : BlockWord) (s : State) : Out := .next (s.fireData at_ 0x42 w fun f => f.scaled .rne)

/-- Every lane of a token is valid, and the predicate holds in every lane. -/
def Firing.whole (f : Firing) (t : Token) : Bool := t.valid == 0xFFFF#16 && (List.range 16).all fun l => predHolds f.w.pred f.tp l

/-- A token whose 512 bits are a number, all lanes valid. -/
def Token.ofNat (tag v : Nat) : Token := Token.of tag fun l => some (BitVec.ofNat 32 (v >>> (32 * l)))

/-- The 512 bits of a token; null lanes read as zero. -/
def Token.toNat (t : Token) : Nat := (List.range 16).foldl (fun a l => a ||| ((t.lane l).getD 0).toNat <<< (32 * l)) 0

def Firing.nulls (f : Firing) : Token × Token × Flags := (Token.null f.at_.iter, Token.null f.at_.iter, 0)

/-- QUANT with mx (R127). Under SR, element i of the block takes draw i / 16 of lane i MOD 16 whether or not an element before it needed
one (DESIGN CHOICE, log 27). -/
def execNodeQuantMx (at_ : FireAt) (w : BlockWord) (s : State) : Out :=
  .next (s.fireData at_ 0x41 w fun f =>
    if !f.w.mx || !f.whole f.ta || !f.whole f.tb then f.nulls
    else
      let S := f.w.src.toNat
      let T := f.w.ty.toNat
      let v := fun (t : Token) => (List.range 16).map fun l => (fltOf S).decode (laneIn S ((t.lane l).getD 0))
      let q := quantMx (fltOf T) f.rnd (v f.ta ++ v f.tb) fun i => f.draw (i % 16) (i / 16)
      let bits := q.1.reverse.foldl (fun acc p => acc <<< tyWidth f.w.ty ||| p) 0
      let t := Token.ofNat f.at_.iter (bits ||| q.2.1 <<< 480)
      (t, t, q.2.2))

/-- DEQUANT with mx (R128): elements 0 to 15 go to the first target, 16 to 31 to the second. -/
def execNodeDequantMx (at_ : FireAt) (w : BlockWord) (s : State) : Out :=
  .next (s.fireData at_ 0x42 w fun f =>
    if !f.w.mx || !f.whole f.ta then f.nulls
    else
      let S := f.w.src.toNat
      let T := f.w.ty.toNat
      let v := f.ta.toNat
      let n := tyWidth f.w.src
      let rs := (List.range 32).map fun i => mxOut (fltOf S) (fltOf T) (v >>> 480 % 256) (v >>> (n * i) % 2 ^ n)
      let half := fun (k : Nat) => Token.of f.at_.iter fun l => some (laneOf T (rs.getD (16 * k + l) (0, 0)).1)
      (half 0, half 1, rs.foldl (fun fl r => fl ||| r.2) 0))

end Sys2Proof.Machine
end

