-- ==== Sys2Proof/Machine/FabricInt.lean ====
section
/-! DEFINITION. The integer, bitwise, lane, control and frame nodes of a block (R123, R124, R129-R131). -/

namespace Sys2Proof.Machine

/-! ### Integer nodes (R123) -/

/-- An integer lane operation of the node's type, from exact values to a value and flags. -/
def Firing.int2 (f : Firing) (g : IntFmt → Int → Int → Int × Flags) : Token × Token × Flags :=
  let T := f.w.ty.toNat
  let I := intOf T
  f.lanes fun _ a b _ =>
    let r := g I (I.decode (laneIn T a)) (I.decode (laneIn T b))
    (laneOf T (I.encode r.1), r.2)

def execNodeIadd (at_ : FireAt) (w : BlockWord) (s : State) : Out :=
  .next (s.fireData at_ 0x20 w fun f => f.int2 fun I x y => I.fit (x + y) f.w.sat)
def execNodeIsub (at_ : FireAt) (w : BlockWord) (s : State) : Out :=
  .next (s.fireData at_ 0x21 w fun f => f.int2 fun I x y => I.fit (x - y) f.w.sat)
def execNodeImul (at_ : FireAt) (w : BlockWord) (s : State) : Out :=
  .next (s.fireData at_ 0x22 w fun f => f.int2 fun I x y => I.fit (x * y) f.w.sat)
/-- IMULH: the upper half of the product's 2n-bit pattern, read as the type. -/
def execNodeImulh (at_ : FireAt) (w : BlockWord) (s : State) : Out :=
  .next (s.fireData at_ 0x23 w fun f => f.int2 fun I x y => (I.decode (wrapOf (x * y) (2 * I.width) >>> I.width), 0))
def execNodeImin (at_ : FireAt) (w : BlockWord) (s : State) : Out :=
  .next (s.fireData at_ 0x24 w fun f => f.int2 fun _ x y => (if y < x then y else x, 0))
def execNodeImax (at_ : FireAt) (w : BlockWord) (s : State) : Out :=
  .next (s.fireData at_ 0x25 w fun f => f.int2 fun _ x y => (if x < y then y else x, 0))
def execNodeIabs (at_ : FireAt) (w : BlockWord) (s : State) : Out :=
  .next (s.fireData at_ 0x26 w fun f => f.int2 fun I x _ => I.fit x.natAbs false)
def execNodeIcmp (at_ : FireAt) (w : BlockWord) (s : State) : Out :=
  .next (s.fireData at_ 0x27 w fun f =>
    let T := f.w.ty.toNat
    let I := intOf T
    f.lanes fun _ a b _ => (if iCond f.w.cond.toNat (I.decode (laneIn T a)) (I.decode (laneIn T b)) then 0xFFFFFFFF#32 else 0, 0))

/-! ### Bitwise nodes (R124) -/

/-- A lane operation on 32-bit patterns. -/
def Firing.bits (f : Firing) (g : Lane → Lane → Lane) : Token × Token × Flags := f.lanes fun _ a b _ => (g a b, 0)

/-- Leading zeros of a lane, from bit `n` downward. -/
def lanesClz (x : Lane) : (n : Nat) → Nat
  | 0 => 0
  | n + 1 => if x.getLsbD n then 0 else 1 + lanesClz x n

def lanePopc (x : Lane) : Nat := ((List.range 32).filter fun i => x.getLsbD i).length

def execNodeAnd (at_ : FireAt) (w : BlockWord) (s : State) : Out := .next (s.fireData at_ 0x28 w fun f => f.bits fun a b => a &&& b)
def execNodeOr (at_ : FireAt) (w : BlockWord) (s : State) : Out := .next (s.fireData at_ 0x29 w fun f => f.bits fun a b => a ||| b)
def execNodeXor (at_ : FireAt) (w : BlockWord) (s : State) : Out := .next (s.fireData at_ 0x2A w fun f => f.bits fun a b => a ^^^ b)
def execNodeNot (at_ : FireAt) (w : BlockWord) (s : State) : Out := .next (s.fireData at_ 0x2B w fun f => f.bits fun a _ => ~~~ a)
def execNodeShl (at_ : FireAt) (w : BlockWord) (s : State) : Out :=
  .next (s.fireData at_ 0x2C w fun f => f.bits fun a b => if b.toNat < 32 then a <<< b.toNat else 0)
def execNodeShr (at_ : FireAt) (w : BlockWord) (s : State) : Out :=
  .next (s.fireData at_ 0x2D w fun f => f.bits fun a b => if b.toNat < 32 then a >>> b.toNat else 0)
def execNodeShra (at_ : FireAt) (w : BlockWord) (s : State) : Out :=
  .next (s.fireData at_ 0x2E w fun f => f.bits fun a b => a.sshiftRight (min b.toNat 31))
def execNodeClz (at_ : FireAt) (w : BlockWord) (s : State) : Out :=
  .next (s.fireData at_ 0x2F w fun f => f.bits fun a _ => BitVec.ofNat 32 (lanesClz a 32))
def execNodePopc (at_ : FireAt) (w : BlockWord) (s : State) : Out :=
  .next (s.fireData at_ 0x30 w fun f => f.bits fun a _ => BitVec.ofNat 32 (lanePopc a))

/-! ### Lane nodes (R129, R130) -/

/-- The node's a token is null, or its predicate fails in every lane. -/
def Firing.idle (f : Firing) : Bool := f.ta.isNull || (List.range 16).all fun l => !predHolds f.w.pred f.tp l

def Firing.same (f : Firing) (g : Nat → Option Lane) (fl : Flags) : Token × Token × Flags :=
  let t := Token.of f.at_.iter g
  (t, t, fl)

/-- A lane of a, null ones read as zero. -/
def Firing.laneA (f : Firing) (l : Nat) : Lane := (f.ta.lane l).getD 0

def execNodeShuf (at_ : FireAt) (w : BlockWord) (s : State) : Out :=
  .next (s.fireData at_ 0x48 w fun f =>
    if f.idle then f.nulls
    else f.same (fun l => if predHolds f.w.pred f.tp l then (f.tb.lane l).map fun x => f.laneA (x.toNat % 16) else none) 0)

def execNodeBcast (at_ : FireAt) (w : BlockWord) (s : State) : Out :=
  .next (s.fireData at_ 0x49 w fun f =>
    if f.idle || (f.ta.lane f.w.low4).isNone then f.nulls else f.same (fun _ => some (f.laneA f.w.low4)) 0)

/-- One step of a fold: 0 add, 1 min, 2 max, 3 and, 4 or, 5 xor. -/
def laneStep (T op : Nat) (x y : Lane) : Lane × Flags :=
  if T = 1 then
    let r := if op = 0 then fAddVal fp32 (fp32.decode x.toNat) (fp32.decode y.toNat) .rne 0
      else fMinMax fp32 (op == 2) x.toNat y.toNat
    (BitVec.ofNat 32 r.1, r.2)
  else
    let I := intOf T
    let less := decide (I.decode y.toNat < I.decode x.toNat)
    let more := decide (I.decode x.toNat < I.decode y.toNat)
    (match op with
      | 0 => x + y
      | 1 => if less then y else x
      | 2 => if more then y else x
      | 3 => x &&& y
      | 4 => x ||| y
      | _ => x ^^^ y, 0)

/-- What a null lane contributes. -/
def laneUnit (T op : Nat) : Lane :=
  let I := intOf T
  match op with
  | 0 => if T = 1 then 0x80000000#32 else 0
  | 1 => if T = 1 then 0x7F800000#32 else BitVec.ofInt 32 I.max
  | 2 => if T = 1 then 0xFF800000#32 else BitVec.ofInt 32 I.min
  | 3 => 0xFFFFFFFF#32
  | _ => 0

/-- One level of RED's tree: adjacent values combine, the left operand the lower-numbered. -/
def laneLevel (T op : Nat) : List Lane → List Lane × Flags
  | x :: y :: r =>
    let (v, a) := laneStep T op x y
    let (vs, b) := laneLevel T op r
    (v :: vs, a ||| b)
  | r => (r, 0)

/-- The tree of R129: four levels over sixteen lanes. -/
def laneTree (T op : Nat) : (levels : Nat) → List Lane → List Lane × Flags
  | 0, xs => (xs, 0)
  | n + 1, xs =>
    let (ys, a) := laneLevel T op xs
    let (zs, b) := laneTree T op n ys
    (zs, a ||| b)

def Firing.folded (f : Firing) : List Lane :=
  (List.range 16).map fun l => (f.ta.lane l).getD (laneUnit f.w.ty.toNat f.w.cond.toNat)

def execNodeRed (at_ : FireAt) (w : BlockWord) (s : State) : Out :=
  .next (s.fireData at_ 0x4A w fun f =>
    if f.idle then f.nulls
    else
      let r := laneTree f.w.ty.toNat f.w.cond.toNat 4 f.folded
      f.same (fun _ => some (r.1.headD 0)) r.2)

/-- Prefixes folded from lane 0 upward. -/
def scanList (T op : Nat) (acc : Lane) : List Lane → List Lane × Flags
  | [] => ([], 0)
  | x :: r =>
    let (v, a) := laneStep T op acc x
    let (vs, b) := scanList T op v r
    (v :: vs, a ||| b)

def execNodeScan (at_ : FireAt) (w : BlockWord) (s : State) : Out :=
  .next (s.fireData at_ 0x4B w fun f =>
    if f.idle then f.nulls
    else
      match f.folded with
      | [] => f.nulls
      | x :: r =>
        let p := scanList f.w.ty.toNat f.w.cond.toNat x r
        f.same (fun l => some ((x :: p.1).getD l 0)) p.2)

def execNodePack (at_ : FireAt) (w : BlockWord) (s : State) : Out :=
  .next (s.fireData at_ 0x4C w fun f =>
    if f.idle then f.nulls
    else
      let n := tyWidth f.w.src
      let vs := (List.range 16).map f.laneA ++ (List.range 16).map fun l => (f.tb.lane l).getD 0
      let t := Token.ofNat f.at_.iter (vs.reverse.foldl (fun acc v => acc <<< n ||| v.toNat % 2 ^ n) 0)
      (t, t, 0))

def execNodeUnpack (at_ : FireAt) (w : BlockWord) (s : State) : Out :=
  .next (s.fireData at_ 0x4D w fun f =>
    if f.idle then f.nulls
    else
      let n := tyWidth f.w.src
      let v := f.ta.toNat
      let half := fun (k : Nat) => Token.of f.at_.iter fun l => some (laneOf f.w.src.toNat (v >>> (n * (16 * k + l)) % 2 ^ n))
      (half 0, half 1, 0))

/-! ### Control and frame nodes (R131) -/

/-- READ waits for earlier writers of its frame register (R117). -/
def execNodeRead (at_ : FireAt) (w : BlockWord) (s : State) : Out :=
  .next (s.fireWith at_ 0x70 w fun f s =>
    if f.r.frameWait f.i.id f.w.frame then (s, .wait)
    else
      let v := f.r.frames.toArray.getD f.w.frame (Vector.replicate 16 0)
      let x := f.lanes fun l _ _ _ => (v.toArray.getD l 0, 0)
      (s, .sent x.1 x.2.1 x.2.2))

/-- WRITE supplies its active lanes (R118). -/
def execNodeWrite (at_ : FireAt) (w : BlockWord) (s : State) : Out :=
  .next (s.fireWith at_ 0x71 w fun f s =>
    let x := f.lanes fun _ a _ _ => (a, 0)
    let s := s.modInv at_.region at_.inv fun i => { i with frames := i.frames ++ [(f.w.frame, at_.iter, x.1.lanes, x.1.valid)] }
    (s, .sent x.1 x.2.1 0))

/-- BR reads lane 0 of its predicate alone. -/
def execNodeBr (at_ : FireAt) (w : BlockWord) (s : State) : Out :=
  .next (s.fireWith at_ 0x72 w fun f s =>
    let s := if predHolds f.w.pred f.tp 0 then
        s.modInv at_.region at_.inv fun i => { i with brs := i.brs ++ [(at_.iter, f.w.low4)] }
      else s
    (s, .sent (Token.null at_.iter) (Token.null at_.iter) 0))

def execNodeNull (at_ : FireAt) (w : BlockWord) (s : State) : Out := .next (s.fireData at_ 0x73 w fun f => f.nulls)

/-- The constant of a word (R71). -/
def constLane (w : BlockWord) : Lane :=
  match w.ty.toNat with
  | 1 => w.imm ++ 0#6
  | 2 | 3 => (w.imm.extractLsb' 0 16).setWidth 32
  | _ => w.imm.signExtend 32

def execNodeConst (at_ : FireAt) (w : BlockWord) (s : State) : Out :=
  .next (s.fireData at_ 0x74 w fun f => f.lanes fun _ _ _ _ => (constLane f.w, 0))

/-- The counter that CTR sends: one at or above the depth reads zero. -/
def Firing.counter (f : Firing) : Nat :=
  let v := f.i.vector f.at_.iter
  let k := f.w.low4 % 4
  if k = 3 then f.at_.iter
  else if f.b.depth ≤ k then 0
  else match k with | 0 => v.1 | 1 => v.2.1 | _ => v.2.2.1

def execNodeCtr (at_ : FireAt) (w : BlockWord) (s : State) : Out :=
  .next (s.fireData at_ 0x75 w fun f => f.lanes fun _ _ _ _ => (BitVec.ofNat 32 f.counter, 0))

def execNodeFan (at_ : FireAt) (w : BlockWord) (s : State) : Out := .next (s.fireData at_ 0x76 w fun f => f.bits fun a _ => a)

def execNodeMerge (at_ : FireAt) (w : BlockWord) (s : State) : Out :=
  .next (s.fireData at_ 0x77 w fun f =>
    f.same (fun l => if predHolds f.w.pred f.tp l then (f.ta.lane l).orElse fun _ => f.tb.lane l else none) 0)

end Sys2Proof.Machine
end

