-- ==== Sys2Proof/Machine/FabricMem.lean ====
section
/-! DEFINITION. The memory, tile, queue and stream nodes of a block (R219-R222, R244-R249, R259, R268, R272, R274). -/

namespace Sys2Proof.Machine

/-! ### LSIDs, chains and ranges (R60, R219, R222) -/

/-- The memory node with an LSID. -/
def Block.ofLsid (b : Block) (l : Nat) : Option (Nat × Nat × BlockWord) := b.nodes.find? fun n => isMemOp n.2.1 && n.2.2.lsid == l

/-- Predecessors of a node, nearest first (R219); LSIDs bound their number. -/
def Block.chain (b : Block) : (fuel : Nat) → BlockWord → List Nat
  | 0, _ => []
  | k + 1, w =>
    if w.lsid = w.pred_lsid then []
    else match b.ofLsid w.pred_lsid with
      | none => []
      | some (n, _, x) => n :: b.chain k x

/-- What a memory node addresses, for comparison (R60). -/
inductive NodeRange where
  | all
  | bytes (base len : Nat)
  | queue (h : Nat)
  | slot (k : Nat)
deriving DecidableEq, Repr

def Block.range (b : Block) (n op : Nat) (w : BlockWord) : NodeRange :=
  if op = 0x64 ∨ op = 0x65 then .queue w.queue
  else if op = 0x66 ∨ op = 0x67 then .slot w.slot
  else match b.spans.getD n none with
    | some (base, len) => .bytes base len
    | none => .all

def NodeRange.overlaps (x y : NodeRange) : Bool :=
  match x, y with
  | .all, _ | _, .all => true
  | .bytes a n, .bytes b m => decide (a < b + m) && decide (b < a + n)
  | .queue h, .queue k => h == k
  | .slot h, .slot k => h == k
  | _, _ => false

/-- An earlier invocation of the region whose block stores into the node's range (R222). -/
def Region.rangeWait (r : Region) (f : Firing) : Bool :=
  let mine := f.b.range f.at_.node f.op f.w
  (r.earlier f.i.id).any fun i => match r.blockOf i with
    | none => false
    | some b => b.nodes.any fun n => isStoreOp n.2.1 && mine.overlaps (b.range n.1 n.2.1 n.2.2)

/-- The predecessor has acted in every iteration up to this one (R219). -/
def Firing.predDone (f : Firing) : Bool :=
  match f.b.chain 1 f.w with
  | [] => true
  | p :: _ => (List.range (f.at_.iter + 1)).all fun j => f.i.hasFired p j

/-- The node has fired in every earlier iteration: QIN, and SIN, take in increasing j (R268, R272). -/
def Firing.inOrder (f : Firing) : Bool := (List.range f.at_.iter).all fun j => f.i.hasFired f.at_.node j

def Firing.depth (f : Firing) : Nat := (f.b.chain 32 f.w).length


/-- The region's owner. -/
def State.owner (s : State) (r : Region) : Option Ctx := s.ctxOf r.ctx

/-- Fires a memory node of the region's owner once the orders of R219 and R222 allow it. -/
def State.fireMem (s : State) (at_ : FireAt) (op : Nat) (w : BlockWord) (body : Firing → Ctx → State → State × Shot) : State :=
  s.fireWith at_ op w fun f s =>
    match s.owner f.r with
    | none => (s, .wait)
    | some c => if f.predDone && !f.r.rangeWait f then body f c s else (s, .wait)

/-! ### The commit buffer (R247) -/

def lineSet (ls : List Nat) (pa n : Nat) : List Nat := (granules pa n).foldl (fun ls g => if ls.contains g then ls else g :: ls) ls

/-- Bytes that the invocation holds: distinct lines, and items rounded up to 64 bytes. -/
def Inv.heldBytes (i : Inv) : Nat :=
  let ls := i.stores.foldl (fun ls h => lineSet ls h.pa h.bytes.length) []
  let ls := i.accs.foldl (fun ls a => lineSet ls a.1 1) ls
  64 * ls.length + (i.items.map fun h => (h.data.length + 63) / 64 * 64).foldl (· + ·) 0

/-- 64 KiB for each page of the region. -/
def Region.holdLimit (r : Region) : Nat := 65536 * (r.w * r.h)

/-! ### Addresses (R245, R246, R249) -/

/-- AgAddress (R249). -/
def AgRec.address (g : AgRec) (j l : Nat) : Option Int :=
  let q := 16 * j + l
  if g.e.foldl (· * ·) 1 ≤ q then none
  else
    let step := fun (p : Nat × Int) (x : Nat × Int) => (p.1 / x.1, p.2 + (p.1 % x.1 : Nat) * x.2)
    some ((g.e.zip g.st).foldl step (q, (g.base : Int))).2

/-- Bytes of a value of a type (R245). -/
def valueBytes (ty : BitVec 4) : Nat := let w := tyWidth ty; if w = 32 then 4 else if w = 16 then 2 else 1

/-- Where a lane's access goes, or how its check ends. -/
inductive LaneGo where
  | at_ (pa : Nat) (via : Option Via)
  | fail (c : Cause) (addr : Nat)
  | absent (va : Nat)
deriving DecidableEq, Repr

/-- Every byte from `a` upward lies in the declared span, if there is one. -/
def Firing.inSpan (f : Firing) (a : Int) (n : Nat) : Bool :=
  match f.b.spans.getD f.at_.node none with
  | none => true
  | some (base, len) => decide ((base : Int) ≤ a) && decide (a + n ≤ (base : Int) + len)

/-- The checks of a partition offset or virtual address (R246), in the order of its table. -/
def State.laneCheck (s : State) (f : Firing) (c : Ctx) (virtual : Bool) (a : Int) (n : Nat) (need : Need) : State × LaneGo :=
  let addr := a.toNat % 2 ^ 56
  if !f.inSpan a n then (s, .fail .illegalOperand 0)
  else if a < 0 ∨ (if virtual then (2 ^ 56 : Int) else c.partSize) ≤ a then (s, .fail .permission addr)
  else if a.toNat % n ≠ 0 then (s, .fail .alignment addr)
  else if !virtual then (s, .at_ (c.partAddr a.toNat) none)
  else
    let (s, x) := s.translate (.station c.station) c.asid a.toNat need c.service
    match x with
    | .permission => (s, .fail .permission addr)
    | .notPresent => (s, .absent a.toNat)
    | .ok pa via =>
      let h := s.home pa
      if h = .none then (s, .fail .permission addr)
      else if h.isCtl && n != 4 then (s, .fail .alignment addr)
      else (s, .at_ ((s.localOf pa).getD pa) (some via))

/-- Goes through the lanes in order until one does not pass. -/
def State.laneChecks (f : Firing) (c : Ctx) (virtual : Bool) (n : Nat) (need : Need) :
    List (Nat × Int) → State → State × List (Nat × Nat × Option Via) × Option LaneGo
  | [], s => (s, [], none)
  | (l, a) :: r, s =>
    match s.laneCheck f c virtual a n need with
    | (s, .at_ pa via) =>
      let (s, xs, e) := State.laneChecks f c virtual n need r s
      (s, (l, pa, via) :: xs, e)
    | (s, g) => (s, [], some g)

/-- The invocation has a reason to wait at this node: a page that is not present. -/
def Inv.waitsPage (i : Inv) (n j : Nat) : Bool := i.pageWaits.any fun w => w.1 == n && w.2.1 == j

/-- The node waits for a page (R246, R355). -/
def State.waitPage (s : State) (f : Firing) (c : Ctx) (va kind : Nat) : State :=
  let (tag, s) := s.pageAbsent (.station c.station) c.asid va kind (some c)
  s.modInv f.at_.region f.at_.inv fun i => { i with pageWaits := i.pageWaits ++ [(f.at_.node, f.at_.iter, tag, va)] }

/-! ### Loads (R220) -/

/-- The held stores that a load sees, in invocation order. -/
def Firing.seen (f : Firing) : List HeldStore :=
  let ch := f.b.chain 32 f.w
  storesInOrder (f.i.stores.filter fun h => ch.contains h.node && decide (h.iter ≤ f.at_.iter))

/-- `n` bytes of a local memory as the invocation sees them: its matrix work's held bytes stand over the home's (R140, R141). -/
def State.viewBytes (s : State) (i : Inv) (pa n : Nat) : List Byte :=
  (List.range n).map fun k => lookupD i.accs (pa + k) (memByte s.mem (pa + k))

/-- A granule from which such a read would consume poison: one with a byte that no held write covers. -/
def State.viewBad (s : State) (i : Inv) (pa n : Nat) : Option Nat :=
  ((List.range n).find? fun k => s.granulePoisoned ((pa + k) / 64) && (lookup i.accs (pa + k)).isNone).map fun k => (pa + k) / 64 * 64

/-- A byte under the held stores on top of it: its value, and whether any bit of it comes from the home. -/
def overlay (hs : List HeldStore) (pa : Nat) (home : Byte) : Byte × Bool :=
  let r := hs.foldl (fun (v : Byte × Byte) h =>
    if h.pa ≤ pa ∧ pa < h.pa + h.bytes.length then
      let m := h.mask.getD (pa - h.pa) 0xFF
      ((v.1 &&& ~~~ m) ||| (h.bytes.getD (pa - h.pa) 0 &&& m), v.2 ||| m)
    else v) (home, 0)
  (r.1, r.2 != 0xFF)

/-- A home whose answer comes later: a memory controller (R322), another package (R371) or a PCIe port (R381). -/
def laterHome (h : Home) : Bool := match h with | .hbm _ | .remote _ _ => true | _ => (outbound h).isSome

/-- The read that a lane of the firing has sent. -/
def Firing.sentRead (f : Firing) (l : Nat) : Option RemoteRead :=
  f.i.remote.find? fun r => r.node == f.at_.node && r.iter == f.at_.iter && r.lane == l

/-- `n` bytes of a lane: the value, or a granule that it would consume poisoned. Held stores that the load sees stand over the matrix
work's held bytes, and those over the home's, as both commit (DEDUCED, log 29). -/
def State.laneLoad (s : State) (f : Firing) (l pa n : Nat) : Nat × Option Nat :=
  let hs := f.seen
  let far := ((f.sentRead l).bind (·.answer)).getD (0, false)
  let home := match s.home pa with
    | .spad _ a => (leNat (s.viewBytes f.i a n), (s.viewBad f.i a n).isSome)
    | .none => (0, false)
    | h => if laterHome h then far else (s.ctlRead h n, false)
  let bs := (leBytes n home.1).zipIdx.map fun p => overlay hs (pa + p.2) p.1
  (leNat (bs.map (·.1)), if home.2 && bs.any (·.2) then some (pa / 64 * 64) else none)

/-- Lanes whose answer comes later. -/
def State.laterLanes (s : State) (ls : List (Nat × Nat × Option Via)) : List (Nat × Nat × Option Via) :=
  ls.filter fun p => laterHome (s.home p.2.1)

/-- Sends a lane's read to its home, and keeps it in the invocation. -/
def State.askLane (s : State) (f : Firing) (c : Ctx) (n : Nat) (p : Nat × Nat × Option Via) : State :=
  let me := Source.region f.r.handle
  let pa := p.2.1
  let die := c.station / 24
  let keep := fun (x : State × Nat) =>
    x.1.modInv f.at_.region f.at_.inv fun i => { i with remote := i.remote ++ [⟨x.2, f.at_.node, f.at_.iter, p.1, pa, none⟩] }
  match s.home pa with
  | .hbm a => keep (s.request me c.id a 0 p.2.2 (.load n) (.lane f.at_))
  | .remote k _ => keep (s.requestFar me (some c.id) k die pa 0 p.2.2 (.load n) (.lane f.at_))
  | h =>
    match outbound h with
    | some (d, off) =>
      match s.busAddr d off with
      | some b => keep (s.requestOut me c.id d b 0 p.2.2 (.load n) (.lane f.at_))
      | none => s
    | none => s

/-- An address in the outbound window whose entry is invalid: PERMISSION (R381). -/
def State.noWindow (s : State) (pa : Nat) : Bool :=
  match outbound (s.home pa) with
  | some (d, off) => (s.busAddr d off).isNone
  | none => false

/-- A package that cannot be reached behind an address, or an outbound window without an entry. -/
def State.cutOff (s : State) (pa : Nat) : Bool :=
  match s.home pa with
  | .remote p _ => s.link.unreachable.contains p
  | _ => s.noWindow pa

/-- Performs the loads of the lanes and sends their values, once all have been answered. What refuses a read is looked at when it is sent. -/
def State.finishLoad (s : State) (f : Firing) (c : Ctx) (n : Nat) (ls : List (Nat × Nat × Option Via)) : State × Shot :=
  let far := s.laterLanes ls
  match far.find? fun p => (f.sentRead p.1).isNone && s.cutOff p.2.1 with
  | some p => (s, .failed .permission (p.2.1 % 2 ^ 56))
  | none =>
    if far.any fun p => ((f.sentRead p.1).bind (·.answer)).isNone then
      ((far.filter fun p => (f.sentRead p.1).isNone).foldl (fun s p => s.askLane f c n p) s, .wait)
    else
      let vs := ls.map fun p => (p.1, s.laneLoad f p.1 p.2.1 n)
      match vs.find? fun v => v.2.2.isSome with
      | some v => (s, .failed .poison (v.2.2.getD 0))
      | none =>
        let t := Token.of f.at_.iter fun l => (lookup vs l).map fun v => laneOf f.w.ty.toNat v.1
        (s, .sent t t 0)

/-- Active lanes of a memory node with their addresses: from operand a, or from the latched generator (R245, R249). -/
def Firing.laneAddrs (f : Firing) : List (Nat × Int) :=
  (List.range 16).filterMap fun l =>
    if !f.active l then none
    else if f.w.useAg then ((f.i.ags.getD f.w.ag AgRec.zero).address f.at_.iter l).map fun a => (l, a)
    else (f.ta.lane l).map fun x => (l, (x.toNat : Int))

/-- Lanes whose read has not been sent: they are still to be translated. One that has been sent keeps its translation (R354). -/
def Firing.unsent (f : Firing) : List (Nat × Int) := f.laneAddrs.filter fun p => (f.sentRead p.1).isNone

/-- Where every lane's access goes, in the order of the lanes, from those just checked and those sent before. -/
def Firing.withSent (f : Firing) (ls : List (Nat × Nat × Option Via)) : List (Nat × Nat × Option Via) :=
  f.laneAddrs.filterMap fun p => match f.sentRead p.1 with
    | some r => some (p.1, r.pa, none)
    | none => ls.find? fun x => x.1 == p.1

/-- The node's generator has no record (R248). -/
def Firing.noAg (f : Firing) : Bool := f.w.useAg && (f.i.ags.getD f.w.ag AgRec.zero).rank == 0

def Firing.virtual (f : Firing) : Bool := f.w.useAg && !(f.i.ags.getD f.w.ag AgRec.zero).space

def execNodeLoad (at_ : FireAt) (w : BlockWord) (s : State) : Out :=
  .next (s.fireMem at_ 0x60 w fun f c s =>
    if f.i.waitsPage at_.node at_.iter then (s, .wait)
    else if f.noAg then (s, .failed .illegalOperand 0)
    else
      let n := valueBytes w.ty
      match State.laneChecks f c f.virtual n .r f.unsent s with
      | (s, _, some (.fail e a)) => (s, .failed e a)
      | (s, _, some (.absent va)) => (s.waitPage f c va 96, .wait)
      | (s, ls, _) => s.finishLoad f c n (f.withSent ls))

/-! ### Stores (R220, R247) -/

/-- Two lanes write a common byte. -/
def lanesMeet (hs : List HeldStore) : Bool :=
  match hs with
  | [] => false
  | h :: r => (r.any fun k => decide (h.pa < k.pa + k.bytes.length) && decide (k.pa < h.pa + h.bytes.length)
      && (h.bytes.length != 1 || (h.mask.getD 0 0 &&& k.mask.getD 0 0) != 0)) || lanesMeet r

/-- Enters held stores. The manual does not say which of two lanes of one node stands when they write a byte in common: their order is
free (DESIGN CHOICE, log 28). -/
def State.hold (s : State) (f : Firing) (hs : List HeldStore) : State × Shot :=
  let k := s.model.freeCount
  let meet := lanesMeet hs
  let s := if meet then { s with model := { s.model with freeCount := k + 16 } } else s
  let hs := if meet then
      (sortBy (fun x y => decide (Config.freeWord (k + x.2) < Config.freeWord (k + y.2))) hs.zipIdx).map (·.1)
    else hs
  let i := { f.i with stores := f.i.stores ++ hs }
  if f.r.holdLimit < i.heldBytes then (s, .failed .commitOverflow 0)
  else (s.modInv f.at_.region f.at_.inv fun i => { i with stores := i.stores ++ hs },
        .sent (Token.null f.at_.iter) (Token.null f.at_.iter) 0)

/-- The token that carries a store's data: b, or a when a generator gives the address. -/
def Firing.data (f : Firing) : Token := if f.op = 0x61 ∧ f.w.useAg then f.ta else f.tb

def Firing.held (f : Firing) (pa : Nat) (bs mask : List Byte) (via : Option Via) : HeldStore :=
  ⟨f.at_.iter, f.depth, f.w.lsid, f.at_.node, pa, bs, mask, via⟩

def execNodeStore (at_ : FireAt) (w : BlockWord) (s : State) : Out :=
  .next (s.fireMem at_ 0x61 w fun f c s =>
    if f.i.waitsPage at_.node at_.iter then (s, .wait)
    else if f.noAg then (s, .failed .illegalOperand 0)
    else
      let n := valueBytes w.ty
      match State.laneChecks f c f.virtual n .w f.laneAddrs s with
      | (s, _, some (.fail e a)) => (s, .failed e a)
      | (s, _, some (.absent va)) => (s.waitPage f c va 97, .wait)
      | (s, ls, _) =>
        match ls.find? fun p => s.noWindow p.2.1 with
        | some p => (s, .failed .permission (p.2.1 % 2 ^ 56))
        | none =>
        s.hold f (ls.map fun p =>
          f.held p.2.1 (leBytes n (laneIn w.ty.toNat ((f.data.lane p.1).getD 0))) (List.replicate n 0xFF) p.2.2))

/-! ### Tiles (R259) -/

/-- Bit offset of an element of a tile, counted from its base (R255, R83). -/
def Tile.bitOf (t : Tile) (x : Nat) : Nat :=
  let e0 := t.extents.headD 1
  8 * (x / e0 * t.rowBytes) + x % e0 * tyWidth t.fmt

/-- The bytes that hold element `x`: offset in the partition, number, and the element's lowest bit in them. -/
def Tile.place (t : Tile) (x : Nat) : Nat × Nat × Nat :=
  let b := t.bitOf x
  (t.base + b / 8, (b % 8 + tyWidth t.fmt + 7) / 8, b % 8)

/-- Elements that the active lanes name; none when some lane's element, or the tile's format, is wrong. -/
def Firing.elements (f : Firing) (t : Tile) : Option (List (Nat × Nat × Nat × Nat)) :=
  let ls := (List.range 16).filterMap fun l => if f.active l then (f.ta.lane l).map fun x => (l, x.toNat) else none
  if t.fmt ≠ f.w.ty ∨ (ls.any fun p => decide (t.count ≤ p.2)) = true then none
  else
    let ps := ls.map fun p => let q := t.place p.2; (p.1, q.1, q.2.1, q.2.2)
    if ps.all fun p => f.inSpan p.2.1 p.2.2.1 then some ps else none

def execNodeTload (at_ : FireAt) (w : BlockWord) (s : State) : Out :=
  .next (s.fireMem at_ 0x62 w fun f c s =>
    match (c.tileAt w.tile).bind f.elements with
    | none => (s, .failed .illegalOperand 0)
    | some ps =>
      let vs := ps.map fun p => (p.1, s.laneLoad f p.1 (c.partAddr p.2.1) p.2.2.1, p.2.2.2)
      match vs.find? fun v => v.2.1.2.isSome with
      | some v => (s, .failed .poison (v.2.1.2.getD 0))
      | none =>
        let t := Token.of at_.iter fun l =>
          (lookup vs l).map fun v => laneOf w.ty.toNat (v.1.1 >>> v.2 % 2 ^ tyWidth w.ty)
        (s, .sent t t 0))

def execNodeTstore (at_ : FireAt) (w : BlockWord) (s : State) : Out :=
  .next (s.fireMem at_ 0x63 w fun f c s =>
    match (c.tileAt w.tile).bind f.elements with
    | none => (s, .failed .illegalOperand 0)
    | some ps =>
      s.hold f (ps.map fun p =>
        let v := laneIn w.ty.toNat ((f.tb.lane p.1).getD 0)
        f.held (c.partAddr p.2.1) (leBytes p.2.2.1 (v <<< p.2.2.2)) (leBytes p.2.2.1 ((2 ^ tyWidth w.ty - 1) <<< p.2.2.2)) none))

/-! ### Queues (R268) -/

/-- Bytes of an item or of half a flit as lanes; lanes beyond them are null. -/
def bytesToken (tag : Nat) (bs : List Byte) : Token :=
  Token.of tag fun l => if 4 * l < bs.length then some (BitVec.ofNat 32 (leNat ((bs.drop (4 * l)).take 4))) else none

/-- The token with the lanes null in which its predicate fails, and whether any lane is left. -/
def Firing.masked (f : Firing) : Token := Token.of f.at_.iter fun l => if predHolds f.w.pred f.tp l then f.ta.lane l else none

/-- `n` bytes of a token, null lanes as zero. -/
def Token.bytes (t : Token) (n : Nat) : List Byte := leBytes n t.toNat

def Firing.nullShot (f : Firing) : Shot := .sent (Token.null f.at_.iter) (Token.null f.at_.iter) 0

/-- The binding behind a node's queue handle, with its queue. -/
def State.nodeQueue (s : State) (c : Ctx) (h : Nat) : Option (Binding × Queue) :=
  (lookup c.bindings h).bind fun b => (s.queueOf b.queue).map fun q => (b, q)

/-- Poison of a queue item or of half a flit: the storage of a queue has no addresses in the manual, and a flit that has gone through a graph
keeps none, so the granule that the record names (R392) is free (log 69). -/
def State.poisonSomewhere (s : State) : State × Shot :=
  let k := s.model.freeCount
  ({ s with model := { s.model with freeCount := k + 1 } }, .failed .poison ((Config.freeWord k).toNat % 2 ^ 50 * 64))

/-- A copy of a QIN node has reserved one more item (R396). -/
def Inv.reserve (k : Nat × Nat) (i : Inv) : Inv := { i with reserved := assign i.reserved k (lookupD i.reserved k 0 + 1) }

def execNodeQin (at_ : FireAt) (w : BlockWord) (s : State) : Out :=
  .next (s.fireMem at_ 0x64 w fun f c s =>
    if !f.inOrder then (s, .wait)
    else if !predHolds w.pred f.tp 0 then (s, f.nullShot)
    else
      match s.nodeQueue c w.queue with
      | none => (s, .failed .illegalOperand 0)
      | some (b, q) =>
        match b.consumer.bind q.home with
        | none => (s, .failed .illegalOperand 0)
        | some h =>
          match reserveNext (f.r.handle, f.i.id) h.entries with
          | none => (s, .wait)
          | some (_, none) => (s, f.nullShot)
          | some (es, some it) =>
            if it.poison then s.poisonSomewhere
            else
              let s := s.modQueue q.id fun x => x.modHome h.at_ fun y => { y with entries := es }
              let s := s.modInv at_.region at_.inv (Inv.reserve (at_.node, f.copy))
              let t := bytesToken at_.iter it.data
              (s, .sent t t 0))

def execNodeQout (at_ : FireAt) (w : BlockWord) (s : State) : Out :=
  .next (s.fireMem at_ 0x65 w fun f c s =>
    let t := f.masked
    if t.isNull then (s, f.nullShot)
    else
      match s.nodeQueue c w.queue with
      | none => (s, .failed .illegalOperand 0)
      | some (b, q) =>
        match b.window with
        | none => (s, .failed .illegalOperand 0)
        | some n =>
          if !s.windowFree q c.id n then (s, .wait)
          else
            let it : HeldItem := ⟨at_.iter, f.depth, w.lsid, w.queue, t.bytes q.size⟩
            let i := { f.i with items := f.i.items ++ [it] }
            if f.r.holdLimit < i.heldBytes then (s, .failed .commitOverflow 0)
            else ((s.takeWindow q.id c.id).modInv at_.region at_.inv fun i => { i with items := i.items ++ [it] }, f.nullShot))

/-! ### Streams (R184, R272) -/

/-- A SIN takes the first half that no invocation has taken. An invocation that holds 512 flits and would take one more raises
COMMIT-OVERFLOW. -/
def execNodeSin (at_ : FireAt) (w : BlockWord) (s : State) : Out :=
  .next (s.fireMem at_ 0x66 w fun f _ s =>
    if !f.inOrder then (s, .wait)
    else if !predHolds w.pred f.tp 0 then (s, f.nullShot)
    else
      match s.streamAt f.r.handle w.slot false with
      | none => if f.r.ended.contains w.slot then (s, f.nullShot) else (s, .failed .illegalOperand 0)
      | some x =>
        let full := decide (1024 ≤ x.halves.countP fun h => h.taker == some f.i.id)
        match x.halves.find? fun h => h.taker.isNone with
        | none =>
          if x.tailEnded then (s, f.nullShot)
          else if full && s.flitWaits x then (s, .failed .commitOverflow 0)
          else (s, .wait)
        | some h =>
          if full then (s, .failed .commitOverflow 0)
          else if h.bad then s.poisonSomewhere
          else
            let s := s.modStream x.ctl x.str fun x =>
              { x with halves := modifyFirst (fun h => h.taker.isNone) (fun h => { h with taker := some f.i.id }) x.halves }
            let t := bytesToken at_.iter h.bytes
            (s, .sent t t 0))

/-- Contributions of an invocation to a slot. -/
def Inv.soutCount (i : Inv) (k : Nat) : Nat := (i.souts.filter fun h => h.handle == k).length

/-- A SOUT waits while the stream's buffer has no place for it beside what is committed and what other invocations hold. -/
def execNodeSout (at_ : FireAt) (w : BlockWord) (s : State) : Out :=
  .next (s.fireMem at_ 0x67 w fun f _ s =>
    match s.streamAt f.r.handle w.slot true with
    | none => (s, .failed .illegalOperand 0)
    | some x =>
      let t := f.masked
      if t.isNull then (s, f.nullShot)
      else if 1024 ≤ f.i.soutCount w.slot then (s, .failed .commitOverflow 0)
      else if 1024 ≤ x.wbuf.length + (f.r.invs.map fun i => i.soutCount w.slot).foldl (· + ·) 0 then (s, .wait)
      else
        let it : HeldItem := ⟨at_.iter, f.depth, w.lsid, w.slot, t.bytes 64⟩
        (s.modInv at_.region at_.inv fun i => { i with souts := i.souts ++ [it] }, f.nullShot))

end Sys2Proof.Machine
end

