-- ==== Sys2Proof/Machine/MatrixArray.lean ====
section
/-! DEFINITION. The systolic array (R133-R141), the matrix nodes (R139), and the work of a matrix command (R146, R147). -/

namespace Sys2Proof.Machine

/-! ### Sums (R137) -/

/-- Exact sum of values that are no NaN and no infinity. -/
def sumFin (vs : List Val) : Val :=
  vs.foldl (fun a v => match a, v with
    | .fin n m e, .fin n' m' e' => addFin n m e n' m' e' false
    | x, _ => x) (.fin true 0 0)

/-- ElementStep (R137): p and the operands of the kc products. -/
def elementStep (isInt : Bool) (p : Nat) (xs : List (Val × Val)) : Nat × Flags :=
  let pv := fp32.decode p
  let zeroInf := xs.any fun x => (x.1.isZero && x.2.isInf) || (x.1.isInf && x.2.isZero)
  let nan := pv.isNan || xs.any fun x => x.1.isNan || x.2.isNan
  let snan := pv.isSNan || xs.any fun x => x.1.isSNan || x.2.isSNan
  let prods := xs.filterMap fun x => mulVal x.1 x.2
  let infs := (pv :: prods).filter Val.isInf
  let both := infs.any Val.neg && infs.any fun v => !v.neg
  if nan || zeroInf || both then (fp32.nan, flagIf (zeroInf || both || snan) fInvalid)
  else match infs with
    | v :: _ => (fp32.withSign v.neg fp32.infMag, 0)
    | [] =>
      -- a product of integers that is zero has no sign
      let prods := if isInt then prods.map fun v => match v with | .fin n m e => .fin (n && m != 0) m e | x => x else prods
      fp32.round (sumFin (pv :: prods)) .rne 0

/-! ### Counters of exceptions (R138) -/

/-- What an invocation's steps raised: flags, the three counters, and the lowest row and, within it, column with an enabled flag, with
the enabled flags raised there. -/
structure Raised where
  flags : Flags
  invalids : Nat
  overflows : Nat
  sats : Nat
  first : Option (Nat × Nat × Flags)
deriving DecidableEq, Repr

def Raised.zero : Raised := ⟨0, 0, 0, 0, none⟩

/-- Enabled flags raised at (m, n) enter the lowest place. -/
def Raised.note (r : Raised) (trap : BitVec 5) (m n : Nat) (fl : Flags) : Raised :=
  let g := fl &&& trap
  if g = 0 then r
  else
    { r with first := match r.first with
        | some (x, y, e) => if m < x ∨ m = x ∧ n < y then some (m, n, g) else if m = x ∧ n = y then some (m, n, e ||| g) else some (x, y, e)
        | none => some (m, n, g) }

/-- One step or operation at (m, n); `inf` says that its result is infinite, `sat` that it clamped. -/
def Raised.add (r : Raised) (trap : BitVec 5) (m n : Nat) (fl : Flags) (inf sat : Bool) : Raised :=
  { r.note trap m n fl with
    flags := r.flags ||| fl
    invalids := min 0xFFFF (r.invalids + boolNat (fl &&& fInvalid != 0))
    overflows := min 0xFFFF (r.overflows + boolNat (fl &&& fOverflow != 0 && inf))
    sats := min 0xFFFF (r.sats + boolNat sat) }

def isInf32 (p : Nat) : Bool := (fp32.decode p).isInf

/-! ### Tiles of the array (R134, R135) -/

def Region.columns (r : Region) : Nat := 64 * r.w
def Region.rowBytes (r : Region) : Nat := 192 * r.h
/-- Reduction depth K for a type. -/
def Region.depthK (r : Region) (T : Nat) : Nat := 8 * r.rowBytes / tyWidth (BitVec.ofNat 4 T)

/-- A dense rank-2 tile of a format and innermost extent with at least `rows` rows. -/
def Tile.fits (t : Tile) (fmt e0 rows : Nat) (mx : Bool) : Bool :=
  t.fmt.toNat == fmt && t.mx == mx && t.extents.length == 2 && t.extents.headD 0 == e0 && decide (rows ≤ t.extents.getD 1 0)

/-- A tile named by station and index from the region's gang (R135, R254). -/
def State.arrayTile (s : State) (r : Region) (st i : Nat) : Option (Ctx × Tile) :=
  (s.owner r).bind fun c => s.tileOf c.gang st i

/-- A tile on the owner station. -/
def State.ownTile (s : State) (r : Region) (i : Nat) : Option (Ctx × Tile) :=
  (s.owner r).bind fun c => (c.tileAt i).map fun t => (c, t)

/-- The values of a row of a type. -/
def rowVals (T : Nat) (bs : List Byte) : List Val :=
  let n := tyWidth (BitVec.ofNat 4 T)
  let v := leNat bs
  (List.range (8 * bs.length / n)).map fun i => valTy T (v >>> (n * i) % 2 ^ n)

/-! ### What an invocation sees and holds (R136, R140, R141) -/

/-- The accumulator value at an address as the invocation sees it, or a poisoned granule. -/
def State.accAt (s : State) (i : Inv) (pa : Nat) : Except Nat Nat :=
  match s.viewBad i pa 4 with
  | some g => .error g
  | none => .ok (leNat (s.viewBytes i pa 4))

/-- Holds bytes of the matrix work. -/
def Inv.holdBytes (i : Inv) (pa : Nat) (bs : List Byte) : Inv :=
  { i with accs := bs.zipIdx.foldl (fun a p => assign a (pa + p.2) p.1) i.accs }

def Inv.setAcc (i : Inv) (pa : Nat) (v : Nat) : Inv := i.holdBytes pa (leBytes 4 v)

/-- The weight view: rows and type (R136). -/
def Inv.view (i : Inv) (r : Region) : List (List Byte) × Option (BitVec 4) :=
  match i.staged with
  | some (rows, t) => (rows, some t)
  | none => (r.weights, r.wtype)

/-- How array work goes: it ends, or it has read one more row of its source tile and goes on. -/
inductive Work2 where
  | ok (i : Inv) (x : Raised)
  | more (i : Inv)
  | denied
  | failed (c : Cause) (addr m n : Nat)
deriving DecidableEq, Repr

/-- Rows of `n` bytes of a source tile are read in increasing row, each by a read of its own at the home, so that other accesses may come
between them (R150, R228); `body` has them all. -/
def State.withRows (s : State) (i : Inv) (pa n first count : Nat) (body : List (List Byte) → Inv → Work2) : Work2 :=
  let k := i.rows.length
  if k < count then
    let a := pa + (first + k) * n
    match s.viewBad i a n with
    | some g => .failed .poison g 0 0
    | none => .more { i with rows := i.rows ++ [s.viewBytes i a n] }
  else body i.rows { i with rows := [] }

/-- One output value: p down the element rows (R137). -/
def columnSteps (isInt : Bool) (kc : Nat) (trap : BitVec 5) (m n : Nat) :
    (rows : Nat) → (a w : List Val) → (p : Nat) → Raised → Nat × Raised
  | 0, _, _, p, x => (p, x)
  | k + 1, a, w, p, x =>
    let r := elementStep isInt p ((a.take kc).zip (w.take kc))
    columnSteps isInt kc trap m n k (a.drop kc) (w.drop kc) r.1 (x.add trap m n r.2 (isInf32 r.1) false)

/-- MaccRow over the columns `ns` of row m, whose accumulator row starts at `pa`. -/
def State.maccColumns (s : State) (r : Region) (T m pa : Nat) (zero : Bool) (a : List Val) (ws : List (List Val)) :
    (ns : List Nat) → Inv → Raised → Except Nat (Inv × Raised)
  | [], i, x => .ok (i, x)
  | n :: ns, i, x =>
    match if zero then .ok 0 else s.accAt i (pa + 4 * n) with
    | .error g => .error g
    | .ok p =>
      let isInt := !isFlt T
      let kc := r.depthK T / (4 * r.h)
      let q := columnSteps isInt kc i.vtrap m n (4 * r.h) a (ws.getD n []) p x
      s.maccColumns r T m pa zero a ws ns (i.setAcc (pa + 4 * n) q.1) q.2

/-- MaccRow for each activation row, in increasing m. -/
def State.maccRows (s : State) (r : Region) (T acc first : Nat) (zero : Bool) (ws : List (List Val)) :
    (rows : List (List Byte × Nat)) → Inv → Raised → Except Nat (Inv × Raised)
  | [], i, x => .ok (i, x)
  | (row, k) :: rest, i, x =>
    match s.maccColumns r T (first + k) (acc + (first + k) * 4 * r.columns) zero (rowVals T row) ws (List.range r.columns) i x with
    | .error g => .error g
    | .ok (i, x) => s.maccRows r T acc first zero ws rest i x

/-- MACC with its parameters checked (R139): activation tile and accumulator tile, rows, ZERO. -/
def State.macc (s : State) (r : Region) (i : Inv) (T : Nat) (act acc : Ctx × Tile) (first count : Nat) (zero : Bool) : Work2 :=
  let view := i.view r
  if view.2 ≠ some (BitVec.ofNat 4 T) then .failed .illegalOperand 0 0 0
  else if !act.2.fits T (r.depthK T) (first + count) false || !acc.2.fits 1 r.columns (first + count) false then
    .failed .illegalOperand 0 0 0
  else
    s.withRows i (act.1.partAddr act.2.base) r.rowBytes first count fun rows i =>
      match s.maccRows r T (acc.1.partAddr acc.2.base) first zero (view.1.map (rowVals T)) rows.zipIdx i Raised.zero with
      | .error g => .failed .poison g 0 0
      | .ok (i, x) => if r.holdLimit < i.heldBytes then .failed .commitOverflow 0 0 0 else .ok i x

/-- WLOAD with its tile found (R136, R139). -/
def State.wload (s : State) (r : Region) (i : Inv) (T : Nat) (w : Ctx × Tile) : Work2 :=
  if !w.2.fits T (r.depthK T) r.columns false then .failed .illegalOperand 0 0 0
  else
    s.withRows i (w.1.partAddr w.2.base) r.rowBytes 0 r.columns fun rows i =>
      .ok { i with staged := some (rows, BitVec.ofNat 4 T) } Raised.zero

/-! ### The matrix nodes (R139, R140) -/

/-- Matrix nodes before this one in matrix order have fired, and every earlier invocation has gone, so that its committed effects are
seen (R140; DEDUCED, log 29). -/
def Firing.matrixTurn (f : Firing) : Bool :=
  (f.r.earlier f.i.id).isEmpty &&
    (f.b.nodes.filter fun n => isMatrixOp n.2.1).all fun n =>
      (List.range f.at_.iter).all (fun j => f.i.hasFired n.1 j) && (decide (f.at_.node ≤ n.1) || f.i.hasFired n.1 f.at_.iter)

/-- Parameter lane `l`. -/
def Firing.param (f : Firing) (l : Nat) : Nat := ((f.ta.lane l).getD 0).toNat

/-- The node acts: its parameter lanes are valid and its predicate holds in lane 0. -/
def Firing.acts (f : Firing) (n : Nat) : Bool := ((List.range n).all fun l => (f.ta.lane l).isSome) && predHolds f.w.pred f.tp 0

/-- Lane 0 alone. -/
def laneZero (tag v : Nat) : Token := Token.of tag fun l => if l = 0 then some (BitVec.ofNat 32 v) else none

/-- Fires a matrix node in its turn. -/
def State.fireMatrix (s : State) (at_ : FireAt) (op : Nat) (w : BlockWord) (params : Nat)
    (body : Firing → State → State × Shot) : State :=
  s.fireWith at_ op w fun f s =>
    if !f.matrixTurn then (s, .wait) else if !f.acts params then (s, f.nullShot) else body f s

/-- Array work of a node: its effect and counters enter the invocation, and it sends its token. -/
def State.arrayShot (s : State) (f : Firing) (k : Work2) (t : Token) : State × Shot :=
  match k with
  | .ok i x =>
    let s := s.modInv f.at_.region f.at_.inv fun y =>
      { y with accs := i.accs, rows := i.rows, staged := i.staged, invalids := min 0xFFFF (y.invalids + x.invalids),
               overflows := min 0xFFFF (y.overflows + x.overflows), sats := min 0xFFFF (y.sats + x.sats) }
    (s, .sent t t x.flags)
  | .more i => (s.modInv f.at_.region f.at_.inv fun y => { y with rows := i.rows }, .wait)
  | .denied => (s, .failed .illegalOperand 0)
  | .failed c a _ _ => (s, .failed c a)

/-- A station without a context of the gang, and a tile that does not exist, raise ILLEGAL-OPERAND here as any parameter out of its range
does; the manual gives DENIED to commands only (DESIGN CHOICE, log 29). The same holds of MACC and ACCDRAIN. -/
def execNodeWload (at_ : FireAt) (w : BlockWord) (s : State) : Out :=
  .next (s.fireMatrix at_ 0x80 w 1 fun f s =>
    match if f.param 0 ≤ 95 then s.arrayTile f.r (f.param 0) w.tile else none with
    | none => (s, .failed .illegalOperand 0)
    | some t =>
      let k := s.wload f.r f.i w.ty.toNat t
      let s := match k with
        | .ok i _ => s.modRegion f.r.handle fun r => { r with staging := match i.staged with | some x => x.1 | none => r.staging }
        | _ => s
      s.arrayShot f k (laneZero at_.iter (256 * f.r.w * f.r.h)))

def execNodeMacc (at_ : FireAt) (w : BlockWord) (s : State) : Out :=
  .next (s.fireMatrix at_ 0x81 w 6 fun f s =>
    if 1 < f.param 5 ∨ 95 < f.param 1 then (s, .failed .illegalOperand 0)
    else
      match s.arrayTile f.r (f.param 1) (f.param 0), s.ownTile f.r (f.param 2) with
      | some a, some c =>
        let k := s.macc f.r f.i w.ty.toNat a c (f.param 3) (f.param 4) (f.param 5 == 1)
        let (s, x) := s.arrayShot f k (laneZero at_.iter (f.param 4))
        (match k with | .ok _ _ => s.shadowArray at_.region at_.inv | _ => s, x)
      | _, _ => (s, .failed .illegalOperand 0))

/-- Reads a run of accumulator values. -/
def State.accRun (s : State) (i : Inv) (pa : Nat) : (ns : List Nat) → Except Nat (List Nat)
  | [] => .ok []
  | n :: ns =>
    match s.accAt i (pa + 4 * n), s.accRun i pa ns with
    | .ok v, .ok vs => .ok (v :: vs)
    | .error g, _ => .error g
    | _, .error g => .error g

/-- A run of accumulator values becomes +0 (held). -/
def Inv.clearRun (i : Inv) (pa : Nat) (ns : List Nat) : Inv := ns.foldl (fun i n => i.setAcc (pa + 4 * n) 0) i

def execNodeAccdrain (at_ : FireAt) (w : BlockWord) (s : State) : Out :=
  .next (s.fireMatrix at_ 0x82 w 3 fun f s =>
    match s.ownTile f.r w.tile with
    | none => (s, .failed .illegalOperand 0)
    | some (c, t) =>
      if 1 < f.param 2 ∨ 4 * f.r.w ≤ f.param 1 ∨ !t.fits 1 f.r.columns (f.param 0 + 1) false then (s, .failed .illegalOperand 0)
      else
        let pa := c.partAddr t.base + f.param 0 * 4 * f.r.columns + 64 * f.param 1
        match s.accRun f.i pa (List.range 16) with
        | .error g => (s, .failed .poison g)
        | .ok vs =>
          let i := if f.param 2 = 1 then f.i.clearRun pa (List.range 16) else f.i
          if f.r.holdLimit < i.heldBytes then (s, .failed .commitOverflow 0)
          else s.arrayShot f (.ok i Raised.zero) (Token.of at_.iter fun l => some (BitVec.ofNat 32 (vs.getD l 0))))

/-! ### The fused epilogue (R147) -/

/-- Fields of an MDRAIN (R143). -/
structure DrainDesc where
  fmt : Nat
  clear : Bool
  first : Nat
  count : Nat
  mode : Rnd
  mx : Bool
  act : Nat
  lo : Nat
  hi : Nat
deriving DecidableEq, Repr

def Command.drain (c : Command) : DrainDesc where
  fmt := wbits c.desc[1] 27 24
  clear := wbit c.desc[2] 16
  first := wbits c.desc[3] 31 0
  count := wbits c.desc[3] 63 32
  mode := rndOf (wbits c.desc[4] 2 0)
  mx := wbit c.desc[4] 3
  act := wbits c.desc[4] 5 4
  lo := wbits c.desc[6] 31 0
  hi := wbits c.desc[6] 63 32

/-- The value of column n before its conversion, with what its operations raised. -/
def drainValue (d : DrainDesc) (sc bi : Option Nat) (trap : BitVec 5) (m n x : Nat) (r : Raised) : Nat × Raised :=
  let op := fun (p : Nat × Raised) (q : Nat × Flags) => (q.1, p.2.add trap m n q.2 (isInf32 q.1) false)
  let p := (x, r)
  let p := match sc with | some y => op p (fMulVal fp32 (fp32.decode p.1) (fp32.decode y) .rne 0) | none => p
  let p := match bi with | some y => op p (fAddVal fp32 (fp32.decode p.1) (fp32.decode y) .rne 0) | none => p
  if d.act = 1 then op p (fMinMax fp32 true p.1 0)
  else if d.act = 2 then
    let p := op p (fMinMax fp32 true p.1 d.lo)
    op p (fMinMax fp32 false p.1 d.hi)
  else p

/-- A conversion clamped to a largest finite or an integer bound (R90, R138). -/
def clamped (T : Nat) (v : Val) (p : Nat) (fl : Flags) : Bool :=
  match tyOf T with
  | .flt F => fl &&& fOverflow != 0 && !(F.decode p).isInf
  | .int _ => fl &&& fInvalid != 0 && !v.isNan
  | .raw => false

/-- The values of a row as bytes of the drain format, without mx. -/
def drainPlain (d : DrainDesc) (i : Inv) (m : Nat) : (vs : List (Nat × Nat)) → Raised → List Nat × Raised
  | [], r => ([], r)
  | (x, n) :: vs, r =>
    let v := fp32.decode x
    let q := roundTy d.fmt v d.mode (if d.mode = .sr then srDraw (i.srseed ^^^ BitVec.ofNat 32 n ^^^ BitVec.ofNat 32 m) 0 0 else 0)
    let inf := match tyOf d.fmt with | .flt F => (F.decode q.1).isInf | _ => false
    let (ps, r) := drainPlain d i m vs (r.add i.vtrap m n q.2 inf (clamped d.fmt v q.1 q.2))
    (q.1 :: ps, r)

/-- A row in blocks of 32 with mx: elements and scale bytes. -/
def drainBlocks (d : DrainDesc) (i : Inv) (m : Nat) : (fuel b : Nat) → (vs : List Nat) → Raised → List Nat × List Nat × Raised
  | 0, _, _, r => ([], [], r)
  | k + 1, b, vs, r =>
    let F := fltOf d.fmt
    let blk := (vs.take 32).map fp32.decode
    let draw := fun (e : Nat) =>
      if d.mode = .sr then srDraw (i.srseed ^^^ BitVec.ofNat 32 (32 * b + e) ^^^ BitVec.ofNat 32 m) 0 0 else 0
    let q := quantMx F d.mode blk draw
    let rs := blk.zipIdx.map fun p =>
      if q.2.1 = 0xFF then (flagIf p.1.isNan fInvalid ||| flagIf p.1.isInf fOverflow, false)
      else
        let fl := (F.round (p.1.scale ((q.2.1 : Int) - 127)) d.mode (draw p.2)).2
        if fl &&& fOverflow ≠ 0 then (fInexact, true) else (fl, false)
    -- the block counts as one operation, and each of its elements is raised at its own column
    let r := rs.zipIdx.foldl (fun r p => r.note i.vtrap m (32 * b + p.2) p.1.1) (r.add 0 m 0 q.2.2 false false)
    let r := { r with sats := min 0xFFFF (r.sats + rs.countP (·.2)) }
    let (es, ss, r) := drainBlocks d i m k (b + 1) (vs.drop 32) r
    (q.1 ++ es, q.2.1 :: ss, r)

/-- Values 0 to N - 1 at the address of a scale or bias tile, as the invocation sees them; nothing without one. -/
def State.vectorRun (s : State) (r : Region) (i : Inv) (pa : Option Nat) : Except Nat (List Nat) :=
  match pa with
  | some a => s.accRun i a (List.range r.columns)
  | none => .ok []

/-- One row of MDRAIN: accumulator row at `pa`; held writes enter the invocation. -/
def State.drainRow (s : State) (r : Region) (d : DrainDesc) (out : Ctx × Tile) (sc bi : Option Nat) (pa m : Nat) (i : Inv) (x : Raised) :
    Except Nat (Inv × Raised) :=
  match s.accRun i pa (List.range r.columns), s.vectorRun r i sc, s.vectorRun r i bi with
  | .error g, _, _ | _, .error g, _ | _, _, .error g => .error g
  | .ok vs, .ok sc, .ok bi =>
    let step := fun (a : List Nat × Raised) (p : Nat × Nat) =>
      let q := drainValue d (if sc.isEmpty then none else sc[p.2]?) (if bi.isEmpty then none else bi[p.2]?) i.vtrap m p.2 p.1 a.2
      (a.1 ++ [q.1], q.2)
    let (xs, x) := vs.zipIdx.foldl step ([], x)
    let n := tyWidth (BitVec.ofNat 4 d.fmt)
    let len := r.columns * n / 8
    let (es, ss, x) := if d.mx then drainBlocks d i m (2 * r.w) 0 xs x else let p := drainPlain d i m xs.zipIdx x; (p.1, [], p.2)
    let i := i.holdBytes (out.1.partAddr out.2.base + m * len) (packBits n len es)
    let i := if d.mx then i.holdBytes (out.1.partAddr out.2.scale + m * 2 * r.w) (packBits 8 (2 * r.w) ss) else i
    .ok (if d.clear then i.clearRun pa (List.range r.columns) else i, x)

def State.drainRows (s : State) (r : Region) (d : DrainDesc) (out : Ctx × Tile) (sc bi : Option Nat) (acc : Nat) :
    (ms : List Nat) → Inv → Raised → Except Nat (Inv × Raised)
  | [], i, x => .ok (i, x)
  | m :: ms, i, x =>
    match s.drainRow r d out sc bi (acc + m * 4 * r.columns) m i x with
    | .error g => .error g
    | .ok (i, x) => s.drainRows r d out sc bi acc ms i x

/-- A scale or bias tile has the shape of R135. -/
def Tile.isVector (t : Tile) (r : Region) : Bool := t.fmt.toNat == 1 && !t.mx && !t.extents.isEmpty && t.extents.headD 0 == r.columns

/-- MDRAIN with its tiles found. -/
def State.mdrain (s : State) (r : Region) (i : Inv) (d : DrainDesc) (acc out : Ctx × Tile) (sc bi : Option (Ctx × Tile)) : Work2 :=
  let lo := fp32.decode d.lo
  let hi := fp32.decode d.hi
  let wrong := fun (t : Option (Ctx × Tile)) => match t with | some t => !t.2.isVector r | none => false
  let at_ := fun (t : Option (Ctx × Tile)) => t.map fun t => t.1.partAddr t.2.base
  if (d.act = 2 ∧ (lo.isNan || hi.isNan || hi.lt lo)) ∨ !acc.2.fits 1 r.columns (d.first + d.count) false
      ∨ !out.2.fits d.fmt r.columns (d.first + d.count) d.mx ∨ (wrong sc || wrong bi) then .failed .illegalOperand 0 0 0
  else
    match s.drainRows r d out (at_ sc) (at_ bi) (acc.1.partAddr acc.2.base) ((List.range d.count).map (· + d.first)) i Raised.zero with
    | .error g => .failed .poison g 0 0
    | .ok (i, x) => if r.holdLimit < i.heldBytes then .failed .commitOverflow 0 0 0 else .ok i x

/-! ### Commands (R146) -/

/-- The tiles that a command names: those on stations by (station, index), then those of the owner station by index. -/
def Command.tiles (c : Command) : List (Nat × Nat) × List Nat :=
  let m := c.desc
  ([(wbits m[1] 22 16, wbits m[1] 8 0)],
   (if c.kind = 0 then [] else [wbits m[2] 8 0])
    ++ (if c.kind = 2 ∧ wbit m[4] 6 then [wbits m[5] 8 0] else []) ++ (if c.kind = 2 ∧ wbit m[4] 7 then [wbits m[5] 24 16] else []))

/-- Every tile that the command names, as far as it exists. -/
def State.commandTiles (s : State) (r : Region) (c : Command) : List (Option (Ctx × Nat × Tile)) :=
  (c.tiles.1.map fun p => (s.arrayTile r p.1 p.2).map fun t => (t.1, p.2, t.2))
    ++ c.tiles.2.map fun i => (s.ownTile r i).map fun t => (t.1, i, t.2)

/-- The whole work of a command. -/
def State.commandWork (s : State) (r : Region) (i : Inv) (c : Command) : Work2 :=
  let m := c.desc
  if (s.commandTiles r c).any (·.isNone) then .denied
  else
    let own := fun (k : Nat) => s.ownTile r k
    match s.arrayTile r (wbits m[1] 22 16) (wbits m[1] 8 0) with
    | none => .denied
    | some t =>
      let T := wbits m[1] 27 24
      match c.kind with
      | 0 => s.wload r i T t
      | 1 =>
        match own (wbits m[2] 8 0) with
        | none => .denied
        | some a => s.macc r i T t a (wbits m[3] 31 0) (wbits m[3] 63 32) (wbit m[2] 16)
      | _ =>
        match own (wbits m[2] 8 0) with
        | none => .denied
        | some a =>
          let opt := fun (b : Bool) (k : Nat) => if b then own k else none
          s.mdrain r i c.drain a t (opt (wbit m[4] 6) (wbits m[5] 8 0)) (opt (wbit m[4] 7) (wbits m[5] 24 16))

end Sys2Proof.Machine
end

