-- ==== Sys2Proof/Machine/FabricRun.lean ====
section
/-! DEFINITION. Dispatch (R312-R316), iterations (R111, R112), token hops (R335), commit and discard (R113-R118, R221, R390, R459), the
blink check (R407, R408), the hang monitor (R326, R327), and how a quiesce ends at a region (R324, R325). -/

namespace Sys2Proof.Machine

/-! ### Ready candidates (R314, R324) -/

/-- The queues that a region's `armed=` lists and QIN nodes name, by handle (R324). -/
def Region.inputQueues (r : Region) : List Nat :=
  r.blocks.flatMap fun b => b.armedQs ++ (b.nodes.filter fun n => n.2.1 == 0x64).map fun n => n.2.2.queue

/-- The home at which a context consumes through a handle. -/
def State.inputHome (s : State) (c : Ctx) (h : Nat) : Option QHome :=
  (lookup c.bindings h).bind fun b => (s.queueOf b.queue).bind fun q => b.consumer.bind q.home

/-- Every input of the region holds a marker: it dispatches nothing further (R324, step 1). A region without inputs stops as soon as a
quiesce is in progress. -/
def State.inputsMarked (s : State) (r : Region) : Bool :=
  match s.owner r with
  | none => false
  | some c =>
    match s.gangOf c.gang with
    | none => false
    | some g =>
      g.qstate == 1 && (r.inputQueues.all fun h => match s.inputHome c h with | some x => x.hasMarker | none => true)
        && (!r.matrix || r.cmds.any fun e => match e with | .marker _ => true | _ => false)

/-- The region dispatches at all: it runs, and neither a rollback of its owner (R395) nor a snapshot that waits for its invocations (R403)
holds it. -/
def State.dispatches (s : State) (r : Region) : Bool :=
  s.regionRuns r && !r.stopped && r.drain.isNone && !s.inputsMarked r && s.dome.phase == .idle
    && match s.owner r with | some c => !c.rolling && !s.snapHold c.id | none => false

/-- Tiles of a block's TLOAD and TSTORE nodes (R257). -/
def Block.tiles (b : Block) : List Nat := ((b.nodes.filter fun n => n.2.1 == 0x62 || n.2.1 == 0x63).map fun n => n.2.2.tile).eraseDups

/-- A block is a ready candidate. -/
def State.blockReady (s : State) (r : Region) (c : Ctx) (k : Nat) (b : Block) : Bool :=
  let queued := fun (h : Nat) => match s.inputHome c h with | some x => itemsAhead x.entries | none => 0
  s.dispatches r && (decide (0 < b.disp.pending) || (b.disp.armed && b.armedQs.all fun h => decide (b.disp.threshold ≤ queued h)))
    && (r.invs.all fun i => i.work != .block k)
    && b.tiles.all fun t => match c.tileAt t with | some x => x.state == .ready | none => true

/-- The command queue is a ready candidate. -/
def State.commandReady (s : State) (r : Region) : Bool :=
  s.dispatches r && !r.commandRuns &&
    match r.cmds with
    | .cmd c :: _ => (s.commandTiles r c).all fun t => match t with | some x => x.2.2.state == .ready | none => true
    | _ => false

/-- A candidate: region, block index (128 for the command queue), and what Decide compares. -/
structure Cand where
  region : Nat
  index : Nat
  eff : Nat
  since : Nat
deriving DecidableEq, Repr

/-- Eff (R316). -/
def effOf (base qprio cprio boost : Nat) : Nat := min 3 (min (max base qprio) cprio + boost)

def State.queuePrio (s : State) (c : Ctx) (b : Block) : Nat :=
  (b.armedQs.map fun h => ((lookup c.bindings h).bind fun x => s.queueOf x.queue).map (·.prio) |>.getD 0).foldl max 0

/-- The regions that a station's dispatcher serves. -/
def State.stationRegions (s : State) (st : Nat) : List Region :=
  s.regions.filter fun r => match s.owner r with | some c => c.station == st | none => false

/-- Notes since when each candidate of a region is ready without a break. -/
def Dispatch.mark (d : Dispatch) (ready : Bool) (now : Nat) : Dispatch :=
  { d with readySince := if ready then some (d.readySince.getD now) else none }

def State.markRegion (s : State) (r : Region) : Region :=
  match s.owner r with
  | none => r
  | some c =>
    { r with
      blocks := r.blocks.zipIdx.map fun p => { p.1 with disp := p.1.disp.mark (s.blockReady r c p.2 p.1) s.cycle.toNat }
      cmdDisp := r.cmdDisp.mark (s.commandReady r) s.cycle.toNat }

def State.candsOf (s : State) (r : Region) : List Cand :=
  match s.owner r with
  | none => []
  | some c =>
    (r.blocks.zipIdx.filterMap fun p => p.1.disp.readySince.map fun t =>
      (⟨r.handle, p.2, effOf p.1.disp.base (s.queuePrio c p.1) c.prio p.1.disp.boost, t⟩ : Cand))
    ++ (r.cmdDisp.readySince.map fun t => (⟨r.handle, 128, effOf c.prio 0 c.prio r.cmdDisp.boost, t⟩ : Cand)).toList

def Cand.before (x y : Cand) : Bool :=
  decide (y.eff < x.eff) || (x.eff == y.eff && (decide (x.since < y.since) || (x.since == y.since &&
    (decide (x.region < y.region) || (x.region == y.region && decide (x.index < y.index))))))

/-! ### Decide (R316) -/

def Dispatch.skip (d : Dispatch) : Dispatch :=
  if d.skips + 1 = 64 then { d with skips := 0, boost := min (d.boost + 1) 3 } else { d with skips := d.skips + 1 }

def Region.modCand (r : Region) (k : Nat) (f : Dispatch → Dispatch) : Region :=
  if k = 128 then { r with cmdDisp := f r.cmdDisp } else { r with blocks := r.blocks.modify k fun b => { b with disp := f b.disp } }

/-- An invocation as it is dispatched: latched seed, trap enables and AG records (R96, R146, R249). -/
def Inv.start (id : Nat) (w : Work) (c : Ctx) (r : Region) (pins : List (Nat × Nat)) : Inv :=
  { id := id, work := w, srseed := c.srseed, vtrap := c.vtrap, ags := r.ags.toList, trips := none, mismatches := 0, pins := pins }

/-- Dispatches a candidate: its tiles are pinned, and its invocation joins the region's order. -/
def State.dispatch (s : State) (h k : Nat) : State :=
  match s.regionOf h with
  | none => s
  | some r =>
    match s.owner r with
    | none => s
    | some c =>
      let go := fun (s : State) (w : Work) (pins : List (Nat × Nat)) (f : Region → Region) =>
        let s := pins.foldl (fun s p => s.modTile p.1 p.2 fun t => { t with pins := t.pins + 1 }) s
        (s.modRegion h fun r =>
          { f r with invs := r.invs ++ [Inv.start r.nextInv w c r pins], nextInv := r.nextInv + 1 }).count 0
      if k = 128 then
        match r.cmds with
        | .cmd x :: rest =>
          let pins := ((s.commandTiles r x).filterMap id).map fun t => (t.1.id, t.2.1)
          go s (.command x) pins fun r => { r with cmds := rest }
        | _ => s
      else
        match r.blocks[k]? with
        | none => s
        | some b =>
          let pins := (b.tiles.filter fun t => (c.tileAt t).isSome).map fun t => (c.id, t)
          go s (.block k) pins fun r => r.modCand k fun d => { d with pending := d.pending - 1 }

/-- DISPATCH_DECISION of the station in `arg`. -/
def execDispatchDecision (s : State) : Out :=
  match s.model.arg with
  | .n1 st =>
    let mine := fun (r : Region) => match s.owner r with | some c => c.station == st | none => false
    let s := { s with regions := modifyAll mine s.markRegion s.regions }
    let cs := (s.stationRegions st).flatMap s.candsOf
    match best Cand.before cs with
    | none => .next s
    | some p =>
      let skip := fun (s : State) (x : Cand) => if x = p then s else s.modRegion x.region fun r => r.modCand x.index Dispatch.skip
      let s := cs.foldl skip s
      let s := s.dispatch p.region p.index
      let s := s.modRegion p.region fun r => r.modCand p.index fun d => { d with skips := 0, boost := 0, readySince := none }
      .next (s.settleStats p.region)
  | _ => .next s

/-! ### Iterations (R111, R112, R117, R315) -/

/-- Trip counts of a block as f31 gives them. -/
def Region.tripsOf (r : Region) (b : Block) : List Nat :=
  let v := r.frames.toArray.getD 31 (Vector.replicate 16 0)
  (List.range b.depth).map fun k => (v.toArray.getD k 0).toNat

/-- The trip counts are taken once no earlier invocation can write f31; a product of 2^32 or more is a cause of discard. -/
def Inv.takeTrips (i : Inv) (r : Region) (b : Block) : Inv :=
  if i.trips.isSome ∨ (b.depth ≠ 0 ∧ r.frameWait i.id 31) then i
  else
    let ts := r.tripsOf b
    let i := { i with trips := some ts }
    if 2 ^ 32 ≤ ts.foldl (· * ·) 1 then { i with failures := i.failures ++ [⟨0, 0xFF, .illegalOperand, 0⟩] } else i

/-- Iterations started and not counted. -/
def Inv.openIters (i : Inv) (b : Block) : Nat := ((List.range i.started).filter fun j => !i.iterDone b j).length

/-- Every source copy of iteration `j` can take it: an earlier start of that copy has fired, and its targets have room. -/
def Region.sourcesFree (r : Region) (i : Inv) (b : Block) (j : Nat) : Bool :=
  (b.nodes.filter fun n => b.isSource n.1 n.2.1 n.2.2).all fun n =>
    let c := b.copyOf r.w n.1 j
    ((List.range i.started).all fun k => b.copyOf r.w n.1 k != c || i.hasFired n.1 k) && r.hasRoom i (r.firstPlaces b n.1 j n.2.2)

/-- The invocation starts its next iteration. -/
def State.startIteration (s : State) (r : Region) (i : Inv) (b : Block) : State :=
  let i' := i.takeTrips r b
  let go := match i'.total with
    | none => false
    | some n => decide (i'.started < n) && (i'.worst (some b)).isNone && decide (i'.openIters b < 64) && r.sourcesFree i' b i'.started
  s.modInv r.handle i.id fun _ => if go then { i' with started := i'.started + 1 } else i'

/-- The array runs a command's invocation, once every earlier invocation of the region has gone (R140, R146). Its accumulator and drain
writes are held. A command that names no tile ends DENIED (R148). -/
def State.startCommand (s : State) (r : Region) (i : Inv) (c : Command) : State :=
  if i.started ≠ 0 ∨ !(r.earlier i.id).isEmpty then s
  else
    let s := s.modRegion r.handle fun r => { r with fired := true, idle := 0 }
    match s.commandWork r i c with
    | .denied =>
      let s := (s.dropInv r i).mail c.sender.1 (commandEntry c c.number 0 0 0 stDenied)
      (s.modRegion r.handle fun r => { r with lastCmd := some c.number }).settleStats r.handle
    | .more i' => s.modInv r.handle i.id fun i => { i with rows := i'.rows }
    | .failed e a m n => s.modInv r.handle i.id fun i => { i with started := 1, failures := [⟨m, n, e, a⟩] }
    | .ok i' x =>
      let s := s.modRegion r.handle fun r => { r with staging := match i'.staged with | some w => w.1 | none => r.staging }
      let bad := match x.first with | some p => [⟨p.1, p.2.1, .arithTrap, p.2.2.toNat⟩] | none => []
      let s := s.modInv r.handle i.id fun _ =>
        { i' with started := 1, flags := [(0, x.flags)], invalids := x.invalids, overflows := x.overflows, sats := x.sats, failures := bad }
      if c.kind = 0 then s else s.shadowArray r.handle i.id

/-- ITERATION_START of the region and invocation in `arg`. -/
def execIterationStart (s : State) : Out :=
  match s.model.arg with
  | .n2 h id =>
    match s.regionOf h with
    | none => .next s
    | some r =>
      if !s.regionRuns r then .next s
      else match r.inv id with
        | none => .next s
        | some i =>
          match i.work, r.blockOf i with
          | .block _, some b => .next (s.startIteration r i b)
          | .command c, _ => .next (s.startCommand r i c)
          | _, _ => .next s
  | _ => .next s

/-! ### Token hops (R335) -/

/-- The token at the head of a router input buffer with its invocation: the first that entered. -/
def Region.routerHead (r : Region) (x y side : Nat) : Option (Inv × Flying) :=
  let here := fun (t : Flying) => match t.at_ with | .router a b d _ _ _ => a == x && b == y && d == side | .slot _ _ _ => false
  best (fun p q => p.2.before q.2) (r.invs.flatMap fun i => (i.tokens.filter here).map fun t => (i, t))

/-- Where it goes next, when that place has room. -/
def Region.hopTo (r : Region) (p : Inv × Flying) : Option Place :=
  match p.2.at_, r.blockOf p.1 with
  | .router x y _ n c pos, some b =>
    let q := nextPlace (x, y) (copyXY r.w b.home n c) n c pos
    if (r.inPlace p.1 q).length < q.cap then some q else none
  | _, _ => none

/-- TOKEN_HOP of the router buffer in `arg`: region, element column and row, side. -/
def execTokenHop (s : State) : Out :=
  match s.model.arg with
  | .n4 h x y side =>
    match s.regionOf h with
    | none => .next s
    | some r =>
      match if s.regionRuns r then r.routerHead x y side else none with
      | none => .next s
      | some p =>
        match if p.2.due ≤ s.cycle.toNat then r.hopTo p else none with
        | none => .next s
        | some q =>
          let (k, s) := s.fresh
          let go := fun (t : Flying) => { t with at_ := q, due := s.cycle.toNat + 1, seq := k }
          .next (s.modInv h p.1.id fun i => { i with tokens := modifyFirst (· == p.2) go i.tokens })
  | _ => .next s

/-! ### Commit (R113-R118, R221) -/

/-- A store of region `h` at its commit instant: performed in local memory then, or sent to another package or the bus (R371). -/
def State.regionStore (s : State) (c : Ctx) (h : Nat) (via : Option Via) (pa : Nat) (bs mask : List Byte) : State :=
  let me := Source.region h
  let die := c.station / 24
  match s.home pa with
  | .hbm a | .spad _ a =>
    s.write (some c.id) a (bs.zipIdx.map fun p =>
      let m := mask.getD p.2 0xFF
      (memByte s.mem (a + p.2) &&& ~~~ m) ||| (p.1 &&& m))
  | .none => s
  | .remote p _ =>
    if s.link.unreachable.contains p then s.countRefusal c.id pa stTimeout
    else (s.requestFar me (some c.id) p die pa 0 via (.store bs.length bs) .none).1
  | x =>
    match outbound x with
    | some (d, off) =>
      match s.busAddr d off with
      | some b => (s.requestOut me c.id d b 0 via (.store bs.length bs) .none).1
      | none => s.countRefusal c.id pa stPermission
    | none => s.ctlWrite x bs.length (leNat bs)

/-- The bits of each byte that tile rows write, by address (R207, R273); elements of 4 and 6 bits share bytes. -/
def Inv.rowMasks (i : Inv) (b : Option Block) : List (Nat × Byte) :=
  let row := fun (h : HeldStore) => match b with
    | none => true
    | some b => match b.node h.node with | some (op, _) => op == 0x63 | none => true
  let add := fun (t : List (Nat × Byte)) (p : Nat × Byte) => assign t p.1 (lookupD t p.1 0 ||| p.2)
  ((i.stores.filter row).flatMap fun h => h.bytes.zipIdx.map fun p => (h.pa + p.2, h.mask.getD p.2 0xFF)).foldl add
    (i.accs.map fun a => (a.1, (0xFF : Byte)))

/-- Bytes that tile rows write whole. -/
def Inv.rowBytesHeld (i : Inv) (b : Option Block) : List Nat := ((i.rowMasks b).filter fun p => p.2 == 0xFF).map (·.1)

/-- Granules whose 64 bytes are all in a list of addresses. -/
def wholeGranules (as : List Nat) : List Nat :=
  ((as.map (· / 64)).eraseDups).filter fun g => (List.range 64).all fun k => as.contains (64 * g + k)

/-- Performs what an invocation of region `rh` holds: its matrix writes, then its stores in invocation order (R140, R224). -/
def State.performHeld (s : State) (c : Ctx) (rh : Nat) (i : Inv) (b : Option Block) : State :=
  let s := i.accs.foldl (fun s a => s.regionStore c rh none a.1 [a.2] [0xFF]) s
  let s := (storesInOrder i.stores).foldl (fun s h => s.regionStore c rh h.via h.pa h.bytes h.mask) s
  (wholeGranules (i.rowBytesHeld b)).foldl (fun s g => s.cleanGranule g) s

/-- Pushes the held items of an invocation (R227); in a protected superstep those to outsiders are held (R405). -/
def State.pushHeld (s : State) (r : Region) (c : Ctx) (i : Inv) : State :=
  let src := s.regionId r
  (itemsInOrder i.items).foldl (fun s h =>
    match s.nodeQueue c h.handle with
    | none => s
    | some (_, q) =>
      if s.holdsPush c q then s.modCtx c.id fun c => { c with held := c.held ++ [⟨q.id, src, h.data⟩] }
      else s.placeItem q.id c.id src h.data false) s

/-- The streams of an invocation: contributions enter the write buffers, and consumed halves leave the replay windows (R184). -/
def State.commitStreams (s : State) (r : Region) (i : Inv) : State :=
  let s := (itemsInOrder i.souts).foldl (fun s h =>
    match s.streamAt r.handle h.handle true with
    | some x => s.modStream x.ctl x.str fun x => { x with wbuf := x.wbuf ++ [h.data] }
    | none => s) s
  s.modHalves r.handle (·.filter fun h => h.taker != some i.id)

/-- Frame registers after the commit (R118): each lane takes the highest iteration that wrote it. -/
def commitFrames (fs : Vector (Vector Lane 16) 32) (ws : List (Nat × Nat × Vector Lane 16 × BitVec 16)) : Vector (Vector Lane 16) 32 :=
  let put := fun (fs : Vector (Vector Lane 16) 32) (w : Nat × Nat × Vector Lane 16 × BitVec 16) =>
    if h : w.1 < 32 then
      fs.set w.1 (Vector.ofFn fun l => if w.2.2.2.getLsbD l.val then w.2.2.1[l] else fs[w.1][l])
    else fs
  (sortBy (fun x y => decide (x.2.1 < y.2.1)) ws).foldl put fs

/-- Flags of all iterations. -/
def Inv.allFlags (i : Inv) : Flags := i.flags.foldl (fun a p => a ||| p.2) 0

/-- The exit that the BR of the highest iteration took; 0 for an empty space (R111, R114). -/
def Inv.exit (i : Inv) : Nat :=
  match i.total with
  | some (n + 1) => ((i.brs.find? fun p => p.1 == n).map (·.2)).getD 0
  | _ => 0

/-- Counting has finished (R113), with no cause of discard. -/
def Inv.counted (i : Inv) (b : Option Block) : Bool :=
  (i.worst b).isNone &&
    match b with
    | none => i.started == 1
    | some b => match i.total with
      | none => false
      | some n => i.started == n && (List.range n).all fun j => i.iterDone b j

/-- Exit E raises a pending count (R313). -/
def Region.takeExit (r : Region) (e : Nat) : Region :=
  if e = 0 then r else r.modCand (e - 1) fun d => { d with pending := min 65535 (d.pending + 1) }

/-- What an invocation's end lets happen: a region answers MSTATs, and a snapshot that waited for it is taken (R149, R403). -/
def State.afterEnd (s : State) (h : Nat) : State := (s.settleStats h).settle

/-- Everything of a commit at its instant (R94, R118, R136, R221, R227, R313); installed weights end a protected superstep (R404). -/
def State.commitInv (s : State) (r : Region) (c : Ctx) (i : Inv) : State :=
  let b := r.blockOf i
  let s := s.performHeld c r.handle i b
  let s := s.pushHeld r c i
  let s := s.takeReserved (r.handle, i.id) (if c.isProt then some c.id else none)
  let s := s.commitStreams r i
  let s := s.modRegion r.handle fun r =>
    let r := { r with frames := commitFrames r.frames i.frames }
    let r := match i.staged with | some x => { r with weights := x.1, wtype := some x.2 } | none => r
    match i.work with | .block _ => r.takeExit i.exit | .command c => { r with lastCmd := some c.number }
  let s := s.modCtx c.id fun c => { c with vflags := c.vflags ||| i.allFlags }
  let s := (s.removeInv r.handle i).count 1
  let s := match i.work with
    | .command k => s.mail k.sender.1 (commandEntry k k.number i.invalids i.overflows i.sats stOK)
    | .block _ => s
  (if i.staged.isSome then s.unprotect c.id 3 else s).afterEnd r.handle

/-- INVOCATION_COMMIT of the region and invocation in `arg`. A stale one is discarded in its place and runs again (R363); one that holds
pushes to outsiders waits for places at its station (R405), and a held range of HBM is waited for (R441). -/
def execInvocationCommit (s : State) : Out :=
  match s.model.arg with
  | .n2 h id =>
    match s.regionOf h with
    | none => .next s
    | some r =>
      match r.invs, s.owner r with
      | i :: _, some c =>
        if i.id ≠ id ∨ !s.regionRuns r ∨ c.rolling ∨ !i.counted (r.blockOf i) ∨ i.unverified s.cycle.toNat then .next s
        else if i.stale then .next (s.rerunInv r i)
        else
          let outs := i.items.filter fun x => match s.nodeQueue c x.handle with | some (_, q) => s.holdsPush c q | none => false
          if (!outs.isEmpty ∧ 256 < c.held.length + outs.length) ∨ (i.stores.any fun x => s.rangeHeld x.pa x.bytes.length) then .next s
          else .next (s.commitInv r c i)
      | _, _ => .next s
  | _ => .next s

/-! ### Discard (R390, R459) -/

/-- A node of an iteration can still move: it fires when its turn comes, and waits for no queue item and no stream flit. -/
def State.nodeMoves (s : State) (r : Region) (i : Inv) (n op : Nat) (w : BlockWord) (j : Nat) : Bool :=
  match s.firing ⟨r.handle, i.id, n, j⟩ op w with
  | none => false
  | some f =>
    if isMatrixOp op then (f.b.nodes.filter fun m => isMatrixOp m.2.1).all fun m =>
      (List.range j).all (fun k => i.hasFired m.1 k) && (decide (n ≤ m.1) || i.hasFired m.1 j)
    else if !isMemOp op then true
    else if !f.predDone then false
    else if op = 0x64 then
      f.inOrder && (!predHolds w.pred f.tp 0 ||
        match (s.owner r).bind fun c => (s.nodeQueue c w.queue).bind fun p => p.1.consumer.bind p.2.home with
        | some h => (reserveNext (r.handle, i.id) h.entries).isSome
        | none => true)
    else if op = 0x66 then
      f.inOrder && (!predHolds w.pred f.tp 0 ||
        match s.streamAt r.handle w.slot false with
        | some x => x.tailEnded || x.halves.any fun h => h.taker.isNone
        | none => true)
    else true

/-- A node of an iteration waits for a queue item or a stream flit: it could fire, in its turn, if one were there. -/
def State.inputWait (s : State) (r : Region) (i : Inv) (n op : Nat) (w : BlockWord) (j : Nat) : Bool :=
  (op == 0x64 || op == 0x66) && match s.firing ⟨r.handle, i.id, n, j⟩ op w with
    | some f => f.predDone && f.inOrder && !s.nodeMoves r i n op w j
    | none => false

/-- An iteration can still move: a node, a token on its way, or an answer that it waits for. -/
def State.iterMoves (s : State) (r : Region) (i : Inv) (b : Block) (j : Nat) : Bool :=
  let rested := s.modRegion r.handle fun r => { r with busy := [] }
  (b.nodes.any fun n => rested.nodeMoves r i n.1 n.2.1 n.2.2 j)
    || (i.tokens.any fun t => t.tok.tag == j && (decide (s.cycle.toNat < t.due) || match t.at_ with
        | .router x y d _ _ _ => (match r.routerHead x y d with | some p => (r.hopTo p).isSome | none => false)
        | .slot _ _ _ => false))
    || (i.pageWaits.any fun w => w.2.1 == j) || i.remote.any fun q => q.iter == j && q.answer.isNone

def classOf (c : Cause) : Cls :=
  match c with
  | .illegalOperand => clIllegalOperand
  | .permission => clPermission
  | .alignment => clAlignment
  | .commitOverflow => clCommitOverflow
  | .arithTrap => clArithTrap
  | .capability => clCapability
  | .poison => clUncorrectable

/-- Detail of a region's record (R392): a block's iteration vector, or a command's row and column. The slot is the one of the node that met
the cause, as R89 and R140 number a block's slots; a command and the branch rule have none (DEDUCED, log 46). The flags are the enabled
ones that the reported iteration raised, by all its nodes and lanes: R97 speaks of that iteration's flags and also leaves out its other
lanes (DESIGN CHOICE, log 46); a command reports those of its lowest row and column (R138). R392 has no field for a command's sender,
which the record names beside its detail (`Record.sender`; DEDUCED, log 46). -/
def failDetail (r : Region) (i : Inv) (f : Failure) : List (Nat × Nat) :=
  let v := match i.work with
    | .block _ => i.vector f.iter
    | .command _ => (f.iter, f.node, 0, 0)
  let idx := match i.work with | .block k => k | .command _ => 0xFF
  let num := match i.work with | .block _ => 0 | .command c => c.number
  let slot := match i.work with | .block _ => f.node | .command _ => 0xFF
  let fl := if f.cause = .arithTrap then
      (match i.work with | .block _ => i.flagsOf f.iter &&& i.vtrap | .command _ => BitVec.ofNat 5 f.addr) else 0
  let addr := if f.cause = .permission ∨ f.cause = .alignment ∨ f.cause = .poison then f.addr else 0
  [(v.1, 0), (v.2.1, 32), (v.2.2.1, 64), (v.2.2.2, 96), (r.handle, 128), (idx, 144), (slot, 152), (num, 160), (fl.toNat, 192), (addr, 200)]

/-- The fault entry of a block's discard (R390); the record's number joins it when the root numbers the record. -/
def faultEntry (r : Region) (k : Nat) (f : Failure) : BitVec 128 :=
  entryOf [(f.iter, 96), (r.handle, 48), (stAborted.toNat, 40), (0x30, 32), ((classOf f.cause).toNat, 24), (k, 16)]

/-- A discard on a cause: the invocation gives up its place, its record is posted, and the block is not dispatched again until RARM; a
command answers instead (R148). Consumed poison leads to rollback or containment (R409). -/
def State.failInv (s : State) (r : Region) (c : Ctx) (i : Inv) (f : Failure) : State :=
  let s := s.dropInv r i
  let rolls := c.rollsBack
  let ms := s.members c
  let src := (s.regionId r).toNat
  let poisoned := f.cause = .poison
  let detail := failDetail r i f ++ if poisoned then consumeBits rolls else []
  let s := match i.work with
    | .command k =>
      let s := s.modRegion r.handle fun r => { r with lastCmd := some k.number }
      if poisoned && rolls && ms.contains k.sender.1 then s
      else s.mail k.sender.1 (commandEntry k k.number 0 0 0 (if poisoned then stPoison else stAborted))
    | .block _ => s
  let s := match i.work with
    | .block k =>
      if poisoned then s.post (classOf f.cause) 1 src (some c) (detailOf detail)
      else
        let s := s.modRegion r.handle fun r => r.modCand k fun d => { d with armed := false, pending := 0 }
        s.postNoted (classOf f.cause) 1 src (some c) (detailOf detail) (c.id, faultEntry r k f)
    | .command k => s.postWith (classOf f.cause) 1 src (some c) (detailOf detail) none (some k.source)
  let s := s.afterEnd r.handle
  if poisoned then s.afterConsume c.id rolls else s

/-- The cause for which an invocation is discarded now: the lowest iteration's, once each lower iteration has counted, or can move no
further because it or an iteration before it waits for a queue item or a stream flit. An iteration that is stuck on its tokens is none
of these, and the hang monitor acts on it. Data nodes of the reported iteration that
need no earlier invocation fire first, so that its flags are whole. -/
def State.discardCause (s : State) (r : Region) (i : Inv) : Option Failure :=
  match i.worst (r.blockOf i) with
  | none => none
  | some f =>
    match r.blockOf i with
    | none => some f
    | some b =>
      let rested := s.modRegion r.handle fun r => { r with busy := [] }
      let js := (List.range (min f.iter i.started)).filter fun j => !i.iterDone b j
      let waits := js.filter fun j => b.nodes.any fun n => rested.inputWait r i n.1 n.2.1 n.2.2 j
      let lower := js.any fun j => s.iterMoves r i b j || waits.all fun k => decide (j < k)
      let own := b.nodes.any fun n => !isMemOp n.2.1 && !isMatrixOp n.2.1 && !(n.2.1 == 0x70 && r.frameWait i.id n.2.2.frame)
        && s.nodeMoves r i n.1 n.2.1 n.2.2 f.iter
      if lower || (own && decide (f.iter < i.started)) then none else some f

/-- INVOCATION_DISCARD of the region and invocation in `arg`. -/
def execInvocationDiscard (s : State) : Out :=
  match s.model.arg with
  | .n2 h id =>
    match s.regionOf h with
    | none => .next s
    | some r =>
      match r.inv id, s.owner r with
      | some i, some c =>
        if !s.regionRuns r ∨ c.rolling then .next s
        else match s.discardCause r i with
          | some f => .next (s.failInv r c i f)
          | none => .next s
      | _, _ => .next s
  | _ => .next s

/-! ### The blink check (R407, R408) -/

/-- The station, page and element position of logical page `q`, element `e`. -/
def Region.elementAt (r : Region) (q e : Nat) : Nat × Nat × Nat × Nat :=
  let g := r.gridOf q
  let p := gridPage g.1 g.2
  (gridStation r.die g.1 g.2, p, 4 * (p / 2) + e / 4, 4 * (p % 2) + e % 4)

/-- Marks an element suspect. -/
def State.suspect (s : State) (r : Region) (q e : Nat) : State :=
  let g := r.gridOf q
  let k := (gridNumber r.die g.1 g.2, e)
  if s.health.suspects.contains k then s else { s with health := { s.health with suspects := s.health.suspects ++ [k] } }

/-- A mismatch: the invocation is discarded in its place, the element is suspect, and the region moves off it, if a rectangle is free. A
second mismatch of the invocation freezes the region. -/
def State.mismatch (s : State) (r : Region) (c : Ctx) (i : Inv) (q e j : Nat) : State :=
  let second := decide (0 < i.mismatches)
  let x := r.elementAt q e
  let s := (s.rerunInv r i).count 3
  let s := s.modInv r.handle i.id fun i => { i with mismatches := i.mismatches + 1 }
  let s := s.suspect r q e
  let s := s.post clBlinkMismatch 1 (s.regionId r).toNat (some c)
    (detailOf [(x.1, 0), (x.2.2.1, 8), (x.2.2.2, 12), (r.handle, 128), (j, 96), (boolNat second, 144)])
  if second then s.modRegion r.handle fun r => { r with freeze := .frozen, unmovable := true }
  else
    match s.findRect (s.regions.filter fun y => y.handle != r.handle) r.die r.w r.h with
    | some o => s.modRegion r.handle fun r => s.movedTo r o
    | none => s

/-- BLINK_VERDICT: the verdict on a shadowed result of an invocation arrives within its 8 cycles; verdicts come from the blink elements,
whose mismatches nothing in the machine foretells. A result whose time passes without a verdict here had no mismatch. -/
def execBlinkVerdict (s : State) : Out :=
  match s.model.arg with
  | .blink h id q e j ok =>
    match s.regionOf h with
    | none => .next s
    | some r =>
      match r.inv id, s.owner r with
      | some i, some c =>
        let xy := elemXY r.w q e
        let mine := fun (x : Nat × Nat × Nat) => x.1 == xy.1 && x.2.1 == xy.2 && decide (s.cycle.toNat ≤ x.2.2)
        if !r.placed ∨ r.w * r.h ≤ q ∨ 16 ≤ e ∨ !i.shadowed.any mine then .next s
        else if ok then .next (s.modInv h id fun i => { i with shadowed := i.shadowed.eraseP mine })
        else .next (s.mismatch r c i q e j)
      | _, _ => .next s
  | _ => .next s

/-! ### The hang monitor (R326, R327) -/

/-- Tokens of a region in some slot buffer or router buffer. -/
def Region.tokensAt (r : Region) (p : Flying → Bool) : Nat := ((r.invs.flatMap (·.tokens)).filter p).length

/-- The block whose footprint holds logical page `q`; 0xFF for none. -/
def Region.blockAt (r : Region) (q : Nat) : Nat := ((r.blockOn q).map (·.1)).getD 0xFF

/-- An element record of the map: links, and tokens by slot and position. -/
def Region.elementRecord (r : Region) (q e : Nat) : Nat :=
  let xy := elemXY r.w q e
  let k := r.blockAt q
  let inSlot := fun (sl pos : Nat) => match r.blocks[k]? with
    | none => 0
    | some b =>
      ((r.invs.filter fun i => i.work == .block k).flatMap (·.tokens)).countP fun t => match t.at_ with
        | .slot n c p => p == pos && n % 8 == sl && copyXY r.w b.home n c == xy
        | .router _ _ _ _ _ _ => false
  let slots := (List.range 24).foldl (fun a k => a ||| inSlot (k / 3) (k % 3) <<< (4 * k)) 0
  let links := (List.range 4).foldl (fun a d => a ||| (r.tokensAt fun t => match t.at_ with
    | .router x y d' _ _ _ => x == xy.1 && y == xy.2 && d' == d
    | .slot _ _ _ => false) <<< (4 * d)) 0
  slots ||| links <<< 96

/-- A page record: header and sixteen elements. -/
def Region.pageRecord (r : Region) (q : Nat) : List Byte :=
  let x := r.elementAt q 0
  let m := meshXY x.1
  let hd := x.1 ||| x.2.1 <<< 8 ||| m.1 <<< 16 ||| m.2 <<< 20 ||| r.blockAt q <<< 32
  leBytes 16 hd ++ (List.range 16).flatMap fun e => leBytes 16 (r.elementRecord q e)

/-- The occupancy map (R327). -/
def State.occupancyMap (s : State) (r : Region) (c : Ctx) : List Byte :=
  let tags := (r.invs.flatMap (·.tokens)).map fun t => t.tok.tag
  let hd := [(s.cycle.toNat, 0), (r.handle, 64), (r.w - 1, 80), (r.h - 1, 84), (r.w * r.h, 88),
    ((best (fun x y => decide (x < y)) tags).getD 0, 96), (tags.foldl max 0, 128), (c.hangiv.toNat, 160), (r.idle, 192)]
  leBytes 64 (hd.foldl (fun a p => a ||| p.1 <<< p.2) 0) ++ (List.range (r.w * r.h)).flatMap r.pageRecord

/-- The monitor fires: it freezes the region, writes the map if it fits, and raises HANG. -/
def State.hang (s : State) (r : Region) (c : Ctx) : State :=
  let off := c.hangmap.toNat
  let absent := c.partSize < off + 64 + 272 * r.w * r.h
  let map := s.occupancyMap r c
  let s := s.modRegion r.handle fun r => { r with freeze := .hung }
  let s := if absent then s else s.write none (c.partAddr off) map
  s.post clHang 1 (s.regionId r).toNat (some c) (detailOf [(off, 0), (boolNat absent, 32), (r.handle, 48)])

/-- An invocation waits on something else than a page: a queue item, a stream flit, or a read that has not been answered. -/
def State.waitsElsewhere (s : State) (r : Region) (i : Inv) : Bool :=
  (i.remote.any fun q => q.answer.isNone) || match r.blockOf i with
    | some b => (List.range i.started).any fun j => !i.iterDone b j && b.nodes.any fun n => s.inputWait r i n.1 n.2.1 n.2.2 j
    | none => false

/-- A region waits only on pages that are not present (R326): one of its invocations waits on one, and none waits on anything else; an
invocation that has finished waits for its turn behind it (DEDUCED, log 48). -/
def State.pageBound (s : State) (r : Region) : Bool :=
  (r.invs.any fun i => !i.pageWaits.isEmpty) && r.invs.all fun i => !s.waitsElsewhere r i

/-- HANG_DETECT of the region in `arg`: its idle count has reached its limit. -/
def execHangDetect (s : State) : Out :=
  match s.model.arg with
  | .n1 h =>
    match s.regionOf h with
    | none => .next s
    | some r =>
      match s.owner r with
      | none => .next s
      | some c =>
        if r.freeze ≠ .running ∨ c.hangiv = 0 ∨ r.idle < 1024 * c.hangiv.toNat then .next s else .next (s.hang r c)
  | _ => .next s

/-! ### Quiesce (R324, R325) -/

/-- REGION_QUIESCE_STOP of the region in `arg`: every input holds a marker and its invocations have ended. It places its own markers at
the gang's homes of the queues that its QOUT nodes name, and stops. -/
def execRegionQuiesceStop (s : State) : Out :=
  match s.model.arg with
  | .n1 h =>
    match s.regionOf h with
    | none => .next s
    | some r =>
      match s.owner r with
      | none => .next s
      | some c =>
        if r.stopped ∨ !s.regionRuns r ∨ !r.invs.isEmpty ∨ !s.inputsMarked r then .next s
        else
          let n := ((s.gangOf c.gang).map (·.qnumber)).getD 0
          let hs := (r.blocks.flatMap fun b => (b.nodes.filter fun x => x.2.1 == 0x65).map fun x => x.2.2.queue).eraseDups
          let qs := hs.filterMap fun k => (s.nodeQueue c k).map (·.2.id)
          let s := s.placeMarkers n fun q x => qs.contains q.id && s.homeInGang c.gang x.at_
          .next ((s.modRegion h fun r => { r with stopped := true }).settleQuiesce c.gang)
  | _ => .next s

/-- Every marker of a quiesce goes, and the gang's regions dispatch again (R325). -/
def State.resumeGang (s : State) (g : Gang) : State :=
  let clear := fun (h : QHome) =>
    if s.homeInGang g.id h.at_ then { h with entries := h.entries.filter fun e => e != .marker g.qnumber } else h
  let thaw := fun (r : Region) =>
    if s.inGang g.id r then { r with stopped := false, cmds := r.cmds.filter fun e => e != .marker g.qnumber } else r
  let s := { s with queues := s.queues.map fun (q : Queue) => { q with homes := q.homes.map clear }, regions := s.regions.map thaw }
  let s := s.modGang g.id fun g => { g with qstate := 0 }
  (s.gangRegions g.id).foldl (fun s r => s.settleStats r.handle) s

/-- QUIESCE_RESUME: service software resumes the resting gang in `arg`. -/
def execQuiesceResume (s : State) : Out :=
  match s.model.arg with
  | .n1 g =>
    match s.gangOf g with
    | some g => if g.qstate = 2 then .next (s.resumeGang g) else .next s
    | none => .next s
  | _ => .next s

end Sys2Proof.Machine
end

