-- ==== Sys2Proof/Machine/StreamNodes.lean ====
section
/-! DEFINITION. The operators of the memory-side arrays (R182-R184, R188-R201), one step of a node of an open stream at a time. -/

namespace Sys2Proof

open Machine

/-- Width of a node's format. -/
def NodeWord.width (w : NodeWord) : Nat := tyWidth w.fmt

/-- Bits [hi:lo] of the parameters. -/
def NodeWord.par (w : NodeWord) (hi lo : Nat) : Nat := bitsOf w.params.toNat hi lo

/-- The counts of MERGE for phase 0 (A) and 1 (B). -/
def NodeWord.mergeCount (w : NodeWord) (phase : Nat) : Nat := if phase = 0 then w.par 7 0 else w.par 15 8

def NodeWord.k (w : NodeWord) : Nat := w.par 31 0

def NodeWord.mode (w : NodeWord) : Rnd := rndOf (w.par 34 32)

def NodeWord.cond (w : NodeWord) : Nat := w.par 37 35

def NodeWord.sat (w : NodeWord) : Bool := w.par 38 38 == 1

/-- IntFit of an exact integer, as a pattern. -/
def NodeWord.fit (w : NodeWord) (v : Int) : Nat × Flags :=
  let T := intOf w.fmt.toNat
  let r := T.fit v w.sat
  (T.encode r.1, r.2)

/-- An operation with its floating and its integer form. -/
def NodeWord.arith (w : NodeWord) (f : FloatFmt → Val → Val → Rnd → Nat → Nat × Flags) (g : Int → Int → Int) (draw a b : Nat) :
    Nat × Flags :=
  if isFlt w.fmt.toNat then
    let F := fltOf w.fmt.toNat
    f F (F.decode a) (F.decode b) w.mode draw
  else
    let T := intOf w.fmt.toNat
    w.fit (g (T.decode a) (T.decode b))

/-- A × K + B, rounded once. -/
def NodeWord.fma (w : NodeWord) (draw a b : Nat) : Nat × Flags :=
  if isFlt w.fmt.toNat then
    let F := fltOf w.fmt.toNat
    fFmaVal F (F.decode a) (F.decode w.k) (F.decode b) w.mode draw
  else
    let T := intOf w.fmt.toNat
    w.fit (T.decode a * T.decode w.k + T.decode b)

/-- Min(Max(A, lo), hi); a bound that replaces the value is rounded into the format, which matters for FP16 alone (R190). A zero between
zeros of the other sign keeps its sign (DESIGN CHOICE, log 57). -/
def NodeWord.clamp (w : NodeWord) (a : Nat) : Nat × Flags :=
  let lo := w.par 15 0
  let hi := w.par 31 16
  if isFlt w.fmt.toNat then
    let F := fltOf w.fmt.toNat
    match F.decode a with
    | .nan sg => nanOf F sg
    | v =>
      if v.lt (bf16.decode lo) then F.round (bf16.decode lo) .rne 0
      else if (bf16.decode hi).lt v then F.round (bf16.decode hi) .rne 0
      else (a, 0)
  else
    let T := intOf w.fmt.toNat
    let v := T.decode a
    w.fit (if v < signedOf lo 16 then signedOf lo 16 else if signedOf hi 16 < v then signedOf hi 16 else v)

/-- A cond B, with the flags of the comparison. -/
def NodeWord.compare (w : NodeWord) (a b : Nat) : Bool × Flags :=
  if isFlt w.fmt.toNat then
    let F := fltOf w.fmt.toNat
    (fCond w.cond (F.decode a) (F.decode b), fCondFlags w.cond (F.decode a) (F.decode b))
  else
    let T := intOf w.fmt.toNat
    (iCond w.cond (T.decode a) (T.decode b), 0)

/-- A value that COMPACT leaves out (R200). -/
def NodeWord.isZero (w : NodeWord) (v : Nat) : Bool :=
  if isFlt w.fmt.toNat then (fltOf w.fmt.toNat).decode v |>.isZero else v == 0

/-- The bin of a value; none for a NaN. -/
def NodeWord.bin (w : NodeWord) (v : Nat) : Option Nat :=
  let clip := fun (b : Int) => (min (max b 0) 15).toNat
  if isFlt w.fmt.toNat then
    let F := fltOf w.fmt.toNat
    if (F.decode v).isNan then none else some (clip ((bitsOf (fp32.round (F.decode v) .rne 0).1 30 23 : Int) - w.par 7 0))
  else some (clip (((intOf w.fmt.toNat).decode v - signedOf (w.par 15 0) 16) >>> (w.par 20 16)))

end Sys2Proof

namespace Sys2Proof.Machine

/-! ### Routes (R74, R176) -/

/-- The logical neighbour of a word in a route's direction. -/
def snodeAt (i route : Nat) : Option Nat :=
  match route with
  | 2 => if 8 ≤ i then some (i - 8) else none
  | 3 => if i % 8 < 7 then some (i + 1) else none
  | 4 => some (i + 8)
  | 5 => if 0 < i % 8 then some (i - 1) else none
  | _ => none

/-- The route code of the opposite direction. -/
def snodeBack (route : Nat) : Nat := match route with | 2 => 4 | 3 => 5 | 4 => 2 | _ => 3

/-- The node of a stream context. -/
def State.openStream (s : State) (ctl str : Nat) : Option Stream := s.streams.find? fun x => x.ctl == ctl && x.str == str

def State.modNode (s : State) (x : Stream) (k : Nat) (f : SNode → SNode) : State :=
  s.modStream x.ctl x.str fun x => { x with nodes := x.nodes.modify k f }

/-- Input A of a neighbour takes from the route, else input B. -/
def takesAtA (w : NodeWord) (route : Nat) : Bool := w.inA.toNat == snodeBack route

/-! ### The requester side (R182-R184) -/

/-- Flits that a tile holds; the last may be part of one (DEDUCED, log 31). -/
def Tile.flits (t : Tile) : Nat := ceilDiv t.bytes 128

/-- Context and entry of the stream's tile. -/
def State.streamTile (s : State) (x : Stream) : Option (Ctx × Tile) :=
  match x.requester, s.ctxOf x.ctx with
  | .tile st i, some c => s.tileOf c.gang st i
  | _, _ => none

/-- A tile whose pins have ended becomes DRAINING (R257). One that has left READY by then refuses the transition (R256), and its stream ends
ABORTED (DEDUCED, log 31). -/
def State.settleMove (s : State) (x : Stream) : State :=
  match x.requester, s.streamTile x with
  | .tile _ i, some (d, t) =>
    if t.state ≠ .ready then s.modStream x.ctl x.str fun x => { x with aborted := true }
    else if x.moving && t.pins == 0 then
      (s.modTile d.id i fun t => { t with state := .draining }).modStream x.ctl x.str fun x => { x with moving := false }
    else s
  | _, _ => s

/-- The requester side is a tile. -/
def Stream.fromTile (x : Stream) : Bool := match x.requester with | .tile _ _ => true | .region _ _ => false

/-- A write stream's head takes the next flit of its tile, or of the SOUT flits committed to its buffer, also while a closed stream ends. A
region gives no end marker (DEDUCED, log 31). -/
def State.takeHead (s : State) (x : Stream) : State :=
  if x.moving then s.settleMove x
  else if !x.write || x.headDone || (x.aborted && x.fromTile) || !x.headRoom (s.graphWords x) then s
  else
    match x.requester with
    | .tile _ _ =>
      match s.streamTile x with
      | none => s.modStream x.ctl x.str fun x => { x with aborted := true }
      | some (d, t) =>
        if t.flits ≤ x.reqDone then (s.modHead x fun w n => n.endHead w).modStream x.ctl x.str fun x => { x with headDone := true }
        else
          let off := 128 * x.reqDone
          let bs := padS 1024 (s.readBits (d.partAddr (t.base + off)) (Nat.min 128 (t.bytes - off)))
          (s.modHead x fun w n => n.feedHead w bs).modStream x.ctl x.str fun x => { x with reqDone := x.reqDone + 1 }
    | .region _ _ =>
      match x.wbuf with
      | a :: b :: r =>
        let bs := (bitsOfBytes (a ++ b)).map fun v => (v, false)
        (s.modHead x fun w n => n.feedHead w bs).modStream x.ctl x.str fun x => { x with wbuf := r, reqDone := x.reqDone + 1 }
      | _ => s

/-- The tail can take a flit. -/
def Stream.tailRoom (x : Stream) : Bool :=
  if x.write then x.tail.isEmpty
  else match x.requester with
    | .tile _ _ => true
    | .region _ _ => decide (x.halves.length + 2 ≤ 1024)

/-- A flit leaves through the tail: toward DRAM, into the tile, or into the replay window of its slot. -/
def State.giveTail (s : State) (x : Stream) (bs : List SBit) : State :=
  if x.write then s.modStream x.ctl x.str fun x => { x with tail := x.tail ++ bs }
  else
    match x.requester with
    | .tile _ _ =>
      match s.streamTile x with
      | none => s.modStream x.ctl x.str fun x => { x with aborted := true }
      | some (d, t) =>
        if t.flits ≤ x.reqDone then s.modStream x.ctl x.str fun x => { x with trunc := true }
        else
          let off := 128 * x.reqDone
          let now := bs.take (8 * Nat.min 128 (t.bytes - off))
          (State.putBits (some x.ctx) 2 (d.partAddr (t.base + off)) now s).modStream x.ctl x.str fun x =>
            ({ x with reqDone := x.reqDone + 1 }).countBad now
    | .region _ _ =>
      let half := fun (h : List SBit) => (⟨badS h, bytesOfS h, none⟩ : Half)
      s.modStream x.ctl x.str fun x =>
        ({ x with halves := x.halves ++ [half (bs.take 512), half (bs.drop 512)], reqDone := x.reqDone + 1 }).countBad bs

/-! ### One step of a node -/

/-- What an operator's step makes: its node, bits that join its output, flags. -/
abbrev SStep := Option (SNode × List SBit × Flags)

/-- Sends the node's first output flit to every route of it, once all can take it; the neighbours' queues always can (log 31). -/
def State.sendFlit (s : State) (x : Stream) (k op : Nat) (w : NodeWord) : State :=
  let outs := snodeOuts op w
  match x.nodes[k]? with
  | none => s
  | some n =>
    if n.out.length < 1024 || (outs.contains 6 && !x.tailRoom) then s
    else
      let bs := n.out.take 1024
      let s := s.modNode x k fun n => { n with out := n.out.drop 1024 }
      let ws := s.graphWords x
      outs.foldl (fun s o =>
        if o = 6 then s.giveTail x bs
        else match snodeAt k o with
          | some j =>
            s.modNode x j fun m =>
              if takesAtA (nodeFields (ws.getD j 0)) o then { m with inA := m.inA ++ bs } else { m with inB := m.inB ++ bs }
          | none => s) s

/-- The end marker goes on through every route of a node that has ended. -/
def State.endNode (s : State) (x : Stream) (k op : Nat) (w : NodeWord) : State :=
  let ws := s.graphWords x
  let s := s.modNode x k fun n => { n with ended := true }
  (snodeOuts op w).foldl (fun s o =>
    if o = 6 then s.modStream x.ctl x.str fun x => { x with tailEnded := true }
    else match snodeAt k o with
      | some j => s.modNode x j fun m => if takesAtA (nodeFields (ws.getD j 0)) o then { m with endA := true } else { m with endB := true }
      | none => s) s

/-- Every input that the word takes has ended. -/
def SNode.allEnded (n : SNode) (w : NodeWord) : Bool := n.endA && (w.inB == 0#4 || n.endB)

/-- One step of node `k`: it takes input, works while it holds no whole output flit, sends a flit, and ends after its last one, which
is padded with zero bits (R183). -/
def State.snodeStep (s : State) (x : Stream) (k op : Nat) (w : NodeWord) (f : Stream → SNode → SStep) : State :=
  let s := if headNode (s.graphWords x) = k then s.takeHead x else s
  match s.openStream x.ctl x.str with
  | none => s
  | some x =>
    match x.nodes[k]? with
    | none => s
    | some n =>
      if x.aborted || n.ended then s
      else
        let r := if n.out.length < 1024 then f x n else none
        let s := match r with
          | some (n', o, fl) =>
            (s.modNode x k fun _ => { n' with out := n.out ++ o, hungry := false }).modStream x.ctl x.str
              fun x => { x with flags := orFlags x.flags fl }
          | none => if n.out.length < 1024 then s.modNode x k fun n => { n with hungry := true } else s
        let exceeds := r.isNone && n.out.length < 1024 && n.allEnded w
        let s := if exceeds && !n.out.isEmpty then s.modNode x k fun n => { n with out := padS 1024 n.out } else s
        if exceeds && n.out.isEmpty then s.endNode x k op w
        else
          match s.openStream x.ctl x.str with
          | some x => s.sendFlit x k op w
          | none => s

/-- A step of the node that the event names, when its graph's word is this one. -/
def State.snode (s : State) (at_ : SFireAt) (op : Nat) (w : NodeWord) (f : Stream → SNode → SStep) : Out :=
  match s.openStream at_.ctl at_.str with
  | none => .next s
  | some x =>
    match (s.graphWords x)[at_.word]? with
    | none => .next s
    | some v => if snodeOp v = op ∧ nodeFields v = w then .next (s.snodeStep x at_.word op w f) else .next s

/-! ### Values (R188) -/

/-- A value with its poison. -/
abbrev SVal := Nat × Bool

/-- The first `n` values of `w` bits. -/
def svals (w : Nat) : (n : Nat) → List SBit → List SVal
  | 0, _ => []
  | n + 1, bs => (natOfS (bs.take w), badS (bs.take w)) :: svals w n (bs.drop w)

/-- A value as bits. -/
def sbits (w : Nat) (v : SVal) : List SBit := (List.range w).map fun i => (v.1.testBit i, v.2)

def sbitsAll (w : Nat) (vs : List SVal) : List SBit := vs.flatMap (sbits w)

/-- The draw of the value at position `p` of a node's input (R188). -/
def Stream.drawAt (x : Stream) (k p : Nat) : Nat := srDraw (x.seed ^^^ BitVec.ofNat 32 p) k 0

/-- The next unit of `u` bits of input A; a short last one is completed with zero bits. -/
def SNode.unit (n : SNode) (u : Nat) : Option (List SBit × SNode) :=
  if u ≤ n.inA.length then some (n.inA.take u, { n with inA := n.inA.drop u })
  else if n.endA && !n.inA.isEmpty then some (padS u n.inA, { n with inA := [] })
  else none

/-- A step on one unit of input A. -/
def sUnit (u : Nat) (g : Stream → SNode → List SBit → SNode × List SBit × Flags) (x : Stream) (n : SNode) : SStep :=
  (n.unit u).map fun p => g x p.2 p.1

/-- One output value of each input value of a flit: `g` sees the value's position (R188). -/
def sMap (wi wo : Nat) (g : Stream → Nat → Nat → Nat × Flags) : Stream → SNode → SStep :=
  sUnit 1024 fun x n bs =>
    let vs := svals wi (1024 / wi) bs
    let rs := vs.zipIdx.map fun (v, i) => ((g x (n.count + i) v.1), v.2)
    ({ n with count := n.count + vs.length }, rs.flatMap fun r => sbits wo (r.1.1, r.2), rs.foldl (fun a r => a ||| r.1.2) 0)

/-- One output value of each pair of values of a flit of A and a flit of B. Once one input has ended, flits of the other are discarded
(R182). -/
def sMap2 (w : Nat) (g : Stream → Nat → Nat → Nat → Nat × Flags) (x : Stream) (n : SNode) : SStep :=
  if 1024 ≤ n.inA.length ∧ 1024 ≤ n.inB.length then
    let vs := (svals w (1024 / w) n.inA).zip (svals w (1024 / w) n.inB)
    let rs := vs.zipIdx.map fun (v, i) => ((g x (n.count + i) v.1.1 v.2.1), v.1.2 || v.2.2)
    some ({ n with inA := n.inA.drop 1024, inB := n.inB.drop 1024, count := n.count + vs.length },
      rs.flatMap fun r => sbits w (r.1.1, r.2), rs.foldl (fun a r => a ||| r.1.2) 0)
  else if n.endA ∧ n.inA.isEmpty ∧ !n.inB.isEmpty then some ({ n with inB := [] }, [], 0)
  else if n.endB ∧ n.inB.isEmpty ∧ !n.inA.isEmpty then some ({ n with inA := [] }, [], 0)
  else none

/-! ### Structural operators (R189) -/

/-- A flit unchanged. -/
def sCopy : Stream → SNode → SStep := sUnit 1024 fun _ n bs => (n, bs, 0)

def execSnodePass (at_ : SFireAt) (w : NodeWord) (s : State) : Out := s.snode at_ 0x00 w sCopy
def execSnodeSplit (at_ : SFireAt) (w : NodeWord) (s : State) : Out := s.snode at_ 0x01 w sCopy

/-- MERGE: `acc` is the phase, `acc2` the flits that it has taken. -/
def sMerge (w : NodeWord) (_ : Stream) (n : SNode) : SStep :=
  let doneA := n.endA && n.inA.isEmpty
  let doneB := n.endB && n.inB.isEmpty
  let fromA := if doneA then false else if doneB then true else n.acc == 0
  let q := if fromA then n.inA else n.inB
  if q.length < 1024 then none
  else
    let m := if fromA then { n with inA := n.inA.drop 1024 } else { n with inB := n.inB.drop 1024 }
    let m := if doneA || doneB then m
      else if n.acc2 + 1 = w.mergeCount n.acc then { m with acc := 1 - n.acc, acc2 := 0 } else { m with acc2 := n.acc2 + 1 }
    some (m, q.take 1024, 0)

def execSnodeMerge (at_ : SFireAt) (w : NodeWord) (s : State) : Out := s.snode at_ 0x02 w (sMerge w)

/-! ### Arithmetic (R190) -/

/-- A with B, or with K where B is absent. -/
def sBinary (w : NodeWord) (at_ : SFireAt) (g : Nat → Nat → Nat → Nat × Flags) : Stream → SNode → SStep :=
  if w.inB = 0#4 then sMap w.width w.width fun x p a => g (x.drawAt at_.word p) a w.k
  else sMap2 w.width fun x p a b => g (x.drawAt at_.word p) a b

def execSnodeScale (at_ : SFireAt) (w : NodeWord) (s : State) : Out :=
  s.snode at_ 0x08 w (sMap w.width w.width fun x p a => w.arith fMulVal (· * ·) (x.drawAt at_.word p) a w.k)
def execSnodeAdd (at_ : SFireAt) (w : NodeWord) (s : State) : Out := s.snode at_ 0x09 w (sBinary w at_ (w.arith fAddVal (· + ·)))
def execSnodeMul (at_ : SFireAt) (w : NodeWord) (s : State) : Out := s.snode at_ 0x0A w (sBinary w at_ (w.arith fMulVal (· * ·)))

def execSnodeFma (at_ : SFireAt) (w : NodeWord) (s : State) : Out :=
  s.snode at_ 0x0B w (sMap2 w.width fun x p a b => w.fma (x.drawAt at_.word p) a b)

def execSnodeClamp (at_ : SFireAt) (w : NodeWord) (s : State) : Out :=
  s.snode at_ 0x0C w (sMap w.width w.width fun _ _ a => w.clamp a)

def execSnodeCmpsel (at_ : SFireAt) (w : NodeWord) (s : State) : Out :=
  s.snode at_ 0x0D w (sBinary w at_ fun _ a b => let r := w.compare a b; (if r.1 then a else b, r.2))

/-! ### Conversion and packing (R191, R197) -/

def execSnodeCvt (at_ : SFireAt) (w : NodeWord) (s : State) : Out :=
  let S := w.par 3 0
  s.snode at_ 0x10 w (sMap (tyWidth (BitVec.ofNat 4 S)) w.width fun x p a =>
    convert S w.fmt.toNat (rndOf (w.par 6 4)) (x.drawAt at_.word p) a)

/-- A block of 32 values as elements and scale byte, with its poison and flags. -/
def mxBlock (F S : FloatFmt) (mode : Rnd) (vs : List SVal) (draws : Nat → Nat) : List SVal × SVal × Flags :=
  let bad := vs.any Prod.snd
  let r := quantMx F mode (vs.map fun v => S.decode v.1) draws
  (r.1.map fun e => (e, bad), (r.2.1, bad), r.2.2)

def execSnodeQmx (at_ : SFireAt) (w : NodeWord) (s : State) : Out :=
  let S := w.par 3 0
  let wi := tyWidth (BitVec.ofNat 4 S)
  s.snode at_ 0x11 w (sUnit (1024 * wi) fun x n bs =>
    let vs := svals wi 1024 bs
    let blocks := (List.range 32).map fun b =>
      mxBlock (fltOf w.fmt.toNat) (fltOf S) (rndOf (w.par 6 4)) ((vs.drop (32 * b)).take 32) fun i => x.drawAt at_.word (n.count + 32 * b + i)
    let out := (blocks.flatMap fun b => sbitsAll w.width b.1) ++ padS 1024 (blocks.flatMap fun b => sbits 8 b.2.1)
    ({ n with count := n.count + 1024 }, out, blocks.foldl (fun a b => a ||| b.2.2) 0))

def execSnodeDqmx (at_ : SFireAt) (w : NodeWord) (s : State) : Out :=
  let E := w.par 3 0
  let we := tyWidth (BitVec.ofNat 4 E)
  s.snode at_ 0x12 w (sUnit (1024 * we + 1024) fun _ n bs =>
    let es := svals we 1024 bs
    let sc := svals 8 32 (bs.drop (1024 * we))
    let rs := es.zipIdx.map fun (e, i) =>
      let b := sc.getD (i / 32) (0, false)
      (mxOut (fltOf E) (fltOf w.fmt.toNat) b.1 e.1, e.2 || b.2)
    (n, rs.flatMap fun r => sbits w.width (r.1.1, r.2), rs.foldl (fun a r => a ||| r.1.2) 0))

/-- PACKB: a value that b bits do not hold becomes the nearer bound. -/
def execSnodePackb (at_ : SFireAt) (w : NodeWord) (s : State) : Out :=
  let b := w.par 4 0
  let T := intOf w.fmt.toNat
  s.snode at_ 0x14 w (sMap w.width b fun _ _ a =>
    let r := (IntFmt.mk T.signed b).clamp (T.decode a)
    ((IntFmt.mk T.signed b).encode r.1, r.2))

/-- UNPACKB: the whole fields that are there; a part of a field at the stream's end is none (DEDUCED, log 31). -/
def execSnodeUnpackb (at_ : SFireAt) (w : NodeWord) (s : State) : Out :=
  let b := w.par 4 0
  let T := intOf w.fmt.toNat
  s.snode at_ 0x15 w fun _ n =>
    let k := n.inA.length / b
    if k = 0 then none
    else
      let vs := svals b k n.inA
      some ({ n with inA := n.inA.drop (k * b) },
        vs.flatMap fun v => sbits w.width (T.encode ((IntFmt.mk T.signed b).decode v.1), v.2), 0)

/-- Running differences or sums: `acc` is the value before, `bad` its poison (R191). -/
def sDelta (w : NodeWord) (back : Bool) : Stream → SNode → SStep :=
  sUnit 1024 fun _ n bs =>
    let e := w.par 15 0
    let m := 2 ^ w.width
    let r := (svals w.width (1024 / w.width) bs).foldl (fun (p : SNode × List SVal) v =>
      let reset := p.1.count == 0 || (e != 0 && p.1.count % e == 0)
      let prev := if reset then 0 else p.1.acc
      let bad := (!reset && p.1.bad) || v.2
      let y := if back then (prev + v.1) % m else (v.1 + m - prev) % m
      ({ p.1 with count := p.1.count + 1, acc := if back then y else v.1, bad := if back then bad else v.2 }, (y, bad) :: p.2)) (n, [])
    (r.1, sbitsAll w.width r.2.reverse, 0)

def execSnodeDelta (at_ : SFireAt) (w : NodeWord) (s : State) : Out := s.snode at_ 0x16 w (sDelta w false)
def execSnodeUndelta (at_ : SFireAt) (w : NodeWord) (s : State) : Out := s.snode at_ 0x17 w (sDelta w true)

/-! ### Compression and sparsity (R192, R198-R200) -/

/-- BfpBlock (R198): shared exponent, fields as integers, flags. -/
def bfpBlock (vs : List Val) (m : Nat) (mode : Rnd) (draws : Nat → Nat) : Nat × List Int × Flags :=
  let anyNan := vs.any Val.isNan
  let anyInf := vs.any Val.isInf
  if anyNan || anyInf then (255, vs.map fun _ => 0, flagIf anyNan fInvalid ||| flagIf anyInf fOverflow)
  else
    match maxLog2 vs with
    | none => (0, vs.map fun _ => 0, 0)
    | some l =>
      let e := max l (-126)
      let rs := vs.zipIdx.map fun (v, i) =>
        let t := v.scale (e - m + 1)
        match t with
        | .fin neg a x =>
          let r := roundMult neg a x false 0 mode (draws i)
          let big := decide (2 ^ m ≤ r.1)
          let q := if big then 2 ^ m - 1 else r.1
          ((if neg then -(q : Int) else (q : Int)), flagIf (r.2.1 || big) fInexact)
        | _ => (0, 0)
      ((e + 127).toNat, rs.map Prod.fst, rs.foldl (fun a r => a ||| r.2) 0)

def execSnodeBfpc (at_ : SFireAt) (w : NodeWord) (s : State) : Out :=
  let m := w.par 4 0
  let F := fltOf w.fmt.toNat
  s.snode at_ 0x18 w (sUnit (32 * w.width) fun x n bs =>
    let vs := svals w.width 32 bs
    let bad := vs.any Prod.snd
    let r := bfpBlock (vs.map fun v => F.decode v.1) m (rndOf (w.par 7 5)) fun i => x.drawAt at_.word (n.count + i)
    ({ n with count := n.count + 32 },
      sbits 8 (r.1, bad) ++ r.2.1.flatMap fun q => sbits (m + 1) (wrapOf q (m + 1), bad), r.2.2))

/-- A field of a BFP block as a value of the output format. -/
def bfpValue (F : FloatFmt) (X m q : Nat) : Nat × Flags :=
  if X = 0 then (0, 0)
  else if X = 255 then (F.nan, 0)
  else
    let i := signedOf q (m + 1)
    F.round (if i = 0 then .fin false 0 0 else .fin (decide (i < 0)) i.natAbs ((X : Int) - 127 - m + 1)) .rne 0

def execSnodeBfpd (at_ : SFireAt) (w : NodeWord) (s : State) : Out :=
  let m := w.par 4 0
  let F := fltOf w.fmt.toNat
  s.snode at_ 0x19 w (sUnit (40 + 32 * m) fun _ n bs =>
    let X := (svals 8 1 bs).headD (0, false)
    let rs := (svals (m + 1) 32 (bs.drop 8)).map fun q => (bfpValue F X.1 m q.1, q.2 || X.2)
    (n, rs.flatMap fun r => sbits w.width (r.1.1, r.2), rs.foldl (fun a r => a ||| r.1.2) 0))

/-- The four values of group `g` of a 2:4 chunk: the second kept value stands where both name one place. -/
def expandGroup (meta_ kept : List SVal) (g : Nat) : List SVal :=
  let i0 := meta_.getD (2 * g) (0, false)
  let i1 := meta_.getD (2 * g + 1) (0, false)
  let a := kept.getD (2 * g) (0, false)
  let b := kept.getD (2 * g + 1) (0, false)
  (List.range 4).map fun p =>
    let v := if i1.1 = p then b else if i0.1 = p then a else (0, false)
    (v.1, v.2 || i0.2 || i1.2)

def execSnodeExpand24 (at_ : SFireAt) (w : NodeWord) (s : State) : Out :=
  s.snode at_ 0x1C w (sUnit (1024 + 512 * w.width) fun _ n bs =>
    let ps := svals 2 512 bs
    let kept := svals w.width 512 (bs.drop 1024)
    (n, (List.range 256).flatMap fun g => sbitsAll w.width (expandGroup ps kept g), 0))

/-- Dense values of a bitmap chunk: a value is formed from the bits up to its own and from its kept value. -/
def expandBitmap : (bits : List SBit) → (kept : List SVal) → (bad : Bool) → List SVal
  | [], _, _ => []
  | b :: r, kept, bad =>
    let bad := bad || b.2
    if b.1 then (let v := kept.headD (0, false); (v.1, v.2 || bad) :: expandBitmap r kept.tail bad) else (0, bad) :: expandBitmap r kept bad

/-- Bits of a bitmap chunk whose bitmap flit stands first. -/
def chunkBits (w : Nat) (bs : List SBit) : Nat := 1024 + ceilDiv ((bs.take 1024).countP Prod.fst * w) 1024 * 1024

def execSnodeExpandbm (at_ : SFireAt) (w : NodeWord) (s : State) : Out :=
  s.snode at_ 0x1D w fun x n =>
    if n.inA.length < 1024 then none
    else
      sUnit (chunkBits w.width n.inA) (fun _ n bs =>
        let map := bs.take 1024
        let kept := svals w.width (map.countP Prod.fst) (bs.drop 1024)
        (n, sbitsAll w.width (expandBitmap map kept false), 0)) x n

def execSnodeCompact (at_ : SFireAt) (w : NodeWord) (s : State) : Out :=
  s.snode at_ 0x1E w (sUnit (1024 * w.width) fun _ n bs =>
    let vs := svals w.width 1024 bs
    let kept := sbitsAll w.width (vs.filter fun v => !w.isZero v.1)
    (n, (vs.map fun v => (!w.isZero v.1, v.2)) ++ padS (ceilDiv kept.length 1024 * 1024) kept, 0))

/-! ### PERM and LUT (R193) -/

/-- The byte of the input piece that goes to output byte `i`. -/
def permFrom (sz rows i : Nat) : Nat :=
  let cols := 4096 / (sz * rows)
  let e := i % sz
  let k := i / sz
  (k % rows * cols + k / rows) * sz + e

def execSnodePerm (at_ : SFireAt) (w : NodeWord) (s : State) : Out :=
  let sz := 2 ^ w.par 2 0
  let rows := 2 ^ w.par 6 3
  s.snode at_ 0x20 w (sUnit 32768 fun _ n bs =>
    let bytes := (svals 8 4096 bs).toArray
    (n, (List.range 4096).flatMap fun i => sbits 8 (bytes.getD (permFrom sz rows i) (0, false)), 0))

def execSnodeLut (at_ : SFireAt) (w : NodeWord) (s : State) : Out :=
  let at0 := w.par 7 0
  let wi := if w.par 8 8 = 1 then 4 else 8
  s.snode at_ 0x21 w (sUnit 1024 fun x n bs =>
    let out := (svals wi (1024 / wi) bs).flatMap fun v =>
      let i := (at0 + v.1) % 256
      sbits w.width (leNat ((x.table.drop (4 * i)).take 4), v.2 || x.tableBad.contains (i / 16))
    (n, out, 0))

/-! ### Reduction (R194) -/

/-- Folds the values of a flit into a reducer. -/
def sReduce (w : NodeWord) (g : SNode → Nat → SNode × Flags) : Stream → SNode → SStep :=
  sUnit 1024 fun _ n bs =>
    let r := (svals w.width (1024 / w.width) bs).foldl (fun (p : SNode × Flags) v =>
      let q := g p.1 v.1
      ({ q.1 with count := q.1.count + 1, bad := q.1.bad || v.2 }, p.2 ||| q.2)) (n, 0)
    (r.1, [], r.2)

def execSnodeSum (at_ : SFireAt) (w : NodeWord) (s : State) : Out :=
  s.snode at_ 0x28 w (sReduce w fun n v =>
    if isFlt w.fmt.toNat then
      let r := fAddVal fp32 (fp32.decode n.acc) ((fltOf w.fmt.toNat).decode v) .rne 0
      ({ n with acc := r.1 }, r.2)
    else ({ n with acc := wrapOf ((n.acc : Int) + (intOf w.fmt.toNat).decode v) 64 }, 0))

def execSnodeMinmax (at_ : SFireAt) (w : NodeWord) (s : State) : Out :=
  s.snode at_ 0x29 w (sReduce w fun n v =>
    if isFlt w.fmt.toNat then
      let F := fltOf w.fmt.toNat
      let a := fMinMax F false n.acc v
      let b := fMinMax F true n.acc2 v
      ({ n with acc := a.1, acc2 := b.1 }, a.2 ||| b.2)
    else
      let T := intOf w.fmt.toNat
      ({ n with acc := if T.decode v < T.decode n.acc then v else n.acc, acc2 := if T.decode n.acc2 < T.decode v then v else n.acc2 }, 0))

def execSnodeHist (at_ : SFireAt) (w : NodeWord) (s : State) : Out :=
  s.snode at_ 0x2A w (sReduce w fun n v =>
    match w.bin v with
    | none => (n, 0)
    | some b => ({ n with bins := n.bins.modify b fun c => Nat.min 0xFFFFFFFF (c + 1) }, 0))

def execSnodeCount (at_ : SFireAt) (w : NodeWord) (s : State) : Out :=
  s.snode at_ 0x2B w (sReduce w fun n v =>
    let r := w.compare v w.k
    (if r.1 then { n with acc := n.acc + 1 } else n, r.2))

def execSnodeCrc32c (at_ : SFireAt) (w : NodeWord) (s : State) : Out :=
  s.snode at_ 0x30 w (sUnit 1024 fun _ n bs =>
    ({ n with acc := (crcRun (BitVec.ofNat 32 n.acc) (bytesOfS bs)).toNat, count := n.count + 128, bad := n.bad || badS bs }, [], 0))

/-! ### UNDO (R195, R201) -/

/-- The journal takes no further entry (R195, R404). -/
def State.journalFull (s : State) (x : Stream) : State :=
  let s := s.modStream x.ctl x.str fun x => { x with jovf := true }
  if x.prot then s.unprotect x.ctx 5 else s

/-- The two flits of a journal entry (R201). -/
def journalEntry (old : List SBit) (e pa : Nat) : List Byte :=
  let bytes := bytesOfS old
  bytes ++ padTo 128 (bytesOf 7 pa ++ [if badS old then 2 else 1] ++ bytesOf 4 e ++ bytesOf 4 (crc32c bytes).toNat)

/-- Journals the flit that the tail writes next at `pa`. -/
def State.journalFlit (s : State) (x : Stream) (k pa : Nat) : State :=
  let taken := fun (s : State) => s.modNode x k fun n => { n with inA := n.inA.drop 1024, count := n.count + 1 }
  let (s, j, t) := s.seek x x.jour x.journal x.jgranules .w
  let s := s.modStream x.ctl x.str fun x => { x with jour := j }
  match t with
  | .later => s
  | .exceeds => taken (s.journalFull x)
  | .at_ ja =>
    if s.rangeHeld ja 256 || s.rangeHeld pa 128 then s
    else
      let s := s.writeWhole x.src ja (journalEntry (s.readBits pa 128) x.entries pa)
      let s := s.modStream x.ctl x.str fun x => { x with jour := j.next.next, entries := x.entries + 1, undo := x.undo.next }
      let s := if x.prot then s.modCtx x.ctx fun c => if c.isProt then { c with journals := c.journals ++ [(ja, ja + 128)] } else c else s
      taken s

/-- One step of UNDO. It looks only at streams that have not paused. -/
def State.undoStep (s : State) (x : Stream) (k : Nat) (w : NodeWord) : State :=
  match x.nodes[k]? with
  | none => s
  | some n =>
    if x.aborted || n.ended || x.page.isSome then s
    else if n.inA.length < 1024 then (if n.endA then s.endNode x k 0x38 w else s)
    else if x.jovf then s.modNode x k fun n => { n with inA := n.inA.drop 1024, count := n.count + 1 }
    else
      let (s, p, t) := s.seek x x.undo x.base x.granules .w
      let s := s.modStream x.ctl x.str fun x => { x with undo := p }
      match t with
      | .later => s
      | .exceeds => s.modNode x k fun n => { n with inA := n.inA.drop 1024, count := n.count + 1 }
      | .at_ pa => match s.openStream x.ctl x.str with | some x => s.journalFlit x k pa | none => s

def execSnodeUndo (at_ : SFireAt) (w : NodeWord) (s : State) : Out :=
  match s.openStream at_.ctl at_.str with
  | none => .next s
  | some x =>
    match (s.graphWords x)[at_.word]? with
    | none => .next s
    | some v => if snodeOp v = 0x38 ∧ nodeFields v = w then .next (s.undoStep x at_.word w) else .next s

end Sys2Proof.Machine
end

