-- ==== Sys2Proof/Machine/StreamRun.lean ====
section
/-! DEFINITION. Opening, closing and ending streams (R176, R180, R183, R186, R187, R269-R271). -/

namespace Sys2Proof.Machine

/-! ### SOPEN (R269, R270) -/

/-- The descriptor of SOPEN in m0 to m7. -/
structure OpenDesc where
  tag : BitVec 32
  graph : Nat
  write : Bool
  prot : Bool
  requester : Requester
  base : Nat
  granules : Nat
  result : Nat
  journal : Nat
  jgranules : Nat
  table : Nat
deriving DecidableEq, Repr

/-- The descriptor; none for a reserved bit, a misaligned base or offset, or a count outside 1 to 2^24. A journal of no granules is for
a graph without UNDO. -/
def openDescOf (m : Vector Word 8) : Option OpenDesc :=
  let reg := wbit m[0] 42
  let m3bad := if reg then wbits m[3] 63 19 != 0 else wbits m[3] 63 23 != 0 || wbits m[3] 15 9 != 0
  if wbits m[0] 63 43 ≠ 0 ∨ wbits m[1] 63 56 ≠ 0 ∨ wbits m[1] 11 0 ≠ 0 ∨ wbits m[2] 63 25 ≠ 0 ∨ wbits m[2] 24 0 = 0
      ∨ 2 ^ 24 < wbits m[2] 24 0 ∨ m3bad = true ∨ wbits m[4] 63 23 ≠ 0 ∨ wbits m[4] 5 0 ≠ 0 ∨ wbits m[5] 63 56 ≠ 0
      ∨ wbits m[5] 11 0 ≠ 0 ∨ wbits m[6] 63 25 ≠ 0 ∨ 2 ^ 24 < wbits m[6] 24 0 ∨ wbits m[7] 63 23 ≠ 0 ∨ wbits m[7] 9 0 ≠ 0 then none
  else
    some { tag := m[0].setWidth 32, graph := wbits m[0] 39 32, write := wbit m[0] 40, prot := wbit m[0] 41
           requester := if reg then .region (wbits m[3] 15 0) (wbits m[3] 18 16) else .tile (wbits m[3] 22 16) (wbits m[3] 8 0)
           base := (m[1]).toNat, granules := (m[2]).toNat, result := (m[4]).toNat, journal := (m[5]).toNat
           jgranules := (m[6]).toNat, table := (m[7]).toNat }

/-- The requester side can be opened; none for DENIED (R270, R256). A tile that already waits for another open is taken (log 31). -/
def State.requesterOk (s : State) (c : Ctx) (o : OpenDesc) : Bool :=
  match o.requester with
  | .tile st i =>
    match s.tileOf c.gang st i with
    | none => false
    | some (_, t) => t.state == (if o.write then TileState.ready else .empty) && !s.streams.any fun x =>
          x.moving && x.requester == .tile st i && (match s.ctxOf x.ctx with | some d => d.gang == c.gang | none => false)
  | .region h _ =>
    match s.regionOf h with
    | none => false
    | some r => r.ctx == c.id

/-- Rows of a graph of `n` words (R176). -/
def graphRows (n : Nat) : Nat := ceilDiv n 8

/-- The lowest free run of rows at a controller. -/
def State.freeRow (s : State) (ctl h : Nat) : Option Nat :=
  let taken := fun (r : Nat) => s.streams.any fun x => x.ctl == ctl && decide (x.row ≤ r) && decide (r < x.row + graphRows (s.graphWords x).length)
  (List.range (5 - h)).find? fun r => (List.range h).all fun k => !taken (r + k)

def State.freeStr (s : State) (ctl : Nat) : Option Nat :=
  (List.range 16).find? fun k => (s.openStream ctl k).isNone

/-- The requester is a region slot that is bound (R270). -/
def State.slotBound (s : State) (o : OpenDesc) : Bool :=
  match o.requester with
  | .region _ _ => s.streams.any fun x => x.requester == o.requester
  | .tile _ _ => false

/-- A node as a stream opens (R191, R194). -/
def snodeStart (v : BitVec 64) : SNode :=
  let w := nodeFields v
  let op := snodeOp v
  let f := w.fmt.toNat
  let F := fltOf f
  let T := intOf f
  { inA := [], inB := [], hungry := true, endA := false, endB := false, out := [], ended := false, count := 0
    acc := if op = 0x28 then (if isFlt f then fp32.signBit else 0)
      else if op = 0x29 then (if isFlt f then F.infMag else T.encode T.max)
      else if op = 0x30 then 0xFFFFFFFF else 0
    acc2 := if op = 0x29 then (if isFlt f then F.withSign true F.infMag else T.encode T.min) else 0
    bins := if op = 0x2A then List.replicate 16 0 else [], bad := false }

/-- A tile becomes FILLING, or DRAINING unless it is pinned (R256, R257). -/
def State.takeTile (s : State) (c : Ctx) (o : OpenDesc) : State × Bool :=
  match o.requester with
  | .region _ _ => (s, false)
  | .tile st i =>
    match s.tileOf c.gang st i with
    | none => (s, false)
    | some (d, t) =>
      if o.write ∧ 0 < t.pins then (s, true)
      else (s.modTile d.id i fun t => { t with state := if o.write then .draining else .filling }, false)

/-- Opens the stream in context `str` on the graph in a slot of controller `ctl`. -/
def State.openAt (s : State) (c : Ctx) (o : OpenDesc) (g : Graph) (str row : Nat) : State :=
  let (s, moving) := s.takeTile c o
  let lut := g.words.any fun v => snodeOp v == 0x21
  let ta := c.partAddr o.table
  -- a table past the partition ends the stream with PERMISSION (log 31)
  let out := lut && decide (c.partSize < o.table + 1024)
  let x : Stream :=
    { ctl := g.ctl, str := str, ctx := c.id, graphSlot := g.slot, row := row, write := o.write, prot := o.prot, requester := o.requester
      moving := moving, base := o.base, granules := o.granules, result := o.result, journal := o.journal, jgranules := o.jgranules
      table := if lut && !out then memBytes s.mem ta 1024 else []
      tableBad := if lut && !out then (List.range 16).filter fun k => s.granulePoisoned (ta / 64 + k) else []
      tag := o.tag, seed := c.srseed, nodes := g.words.map snodeStart, dram := SeqPos.zero, undo := SeqPos.zero, jour := SeqPos.zero
      done := 0, reqDone := 0, tailed := 0, entries := 0, asked := s.cycle.toNat, tail := [], headDone := false, tailEnded := false
      wbuf := [], halves := [], flags := 0, poisoned := 0, trunc := false, jovf := false, aborted := false, page := none }
  let s := { s with streams := s.streams ++ [x] }
  let s := match o.requester with
    | .region h k => s.modRegion h fun r => { r with ended := r.ended.filter (· != k) }
    | .tile _ _ => s
  if out then s.refuseStream x o.table else s

/-- SOPEN (R270): releases at `.pkg` (R216). -/
def execSopen (d : Reg) (s : State) : Out :=
  issue (.sopen d) ⟨.hbm, false, [d], []⟩ s fun s =>
    s.withCtx d (·.illegal (.sopen d)) fun c s =>
      match openDescOf s.cpu.m, (s.gangOf c.gang).map (·.graphs) with
      | some o, some gs =>
        match (gs[o.graph]?).bind fun p => s.graphs.find? fun g => g.ctl == p.1 && g.slot == p.2 with
        | none => s.illegal (.sopen d)
        | some g =>
          let undo := g.words.any fun v => snodeOp v == 0x38
          if (undo ∧ (!o.write ∨ o.jgranules = 0)) ∨ (o.prot ∧ o.write ∧ !undo) then s.illegal (.sopen d)
          else if !s.requesterOk c o then s.finishStatus d stDenied
          else
            let serving := s.streams.any fun x => x.ctl == g.ctl && x.graphSlot == g.slot
            match s.freeRow g.ctl (graphRows g.words.length), s.freeStr g.ctl with
            | some row, some str =>
              if serving || s.slotBound o then s.finishStatus d stBusy
              else if s.mustRelease .pkg (stationHome c.station) then s.waitAccess
              else (s.openAt c o g str row).finish d (w64 (g.ctl * 2 ^ 20 + str * 2 ^ 16))
            | _, _ => s.finishStatus d stBusy
      | _, _ => s.illegal (.sopen d)

/-! ### SCLOSE and SSTAT (R271, R203) -/

/-- Runs `body` on the loaded context's open stream that ga names; EMPTY without one, DENIED for another context's. -/
def State.withStream (s : State) (i : Instr) (d : Reg) (v : Word) (body : Stream → State → State) : State :=
  let answer := fun (s : State) (me : Option Nat) =>
    if wbits v 63 11 ≠ 0 ∨ 95 < wbits v 10 4 then s.illegal i
    else
      match s.openStream (wbits v 10 4) (wbits v 3 0) with
      | none => s.finishStatus d stEmpty
      | some x => if some x.ctx = me then body x s else s.finishStatus d stDenied
  s.withCtx d (fun s => answer s none) fun c s => answer s (some c.id)

/-- A stream that is closed before its end: a half flit in its write buffer has zero as its second half (R203, R272). -/
def Stream.close (x : Stream) : Stream :=
  if x.tailEnded then x
  else { x with aborted := true, wbuf := if x.wbuf.length % 2 = 1 then x.wbuf ++ [List.replicate 64 0] else x.wbuf }

/-- SCLOSE: before the end marker reaches the tail, the stream ends ABORTED. -/
def execSclose (d a : Reg) (s : State) : Out :=
  issue (.sclose d a) ⟨.hbm, false, [d, a], []⟩ s fun s =>
    s.withStream (.sclose d a) d (s.reg a) fun x s =>
      (s.modStream x.ctl x.str Stream.close).finishStatus d stOK

/-- SSTAT: also the DRAM flits performed so far. -/
def execSstat (d a : Reg) (s : State) : Out :=
  issue (.sstat d a) ⟨.hbm, false, [d, a], []⟩ s fun s =>
    s.withStream (.sstat d a) d (s.reg a) fun x s => s.finish d (w64 (x.done % 2 ^ 32 * 2 ^ 32))

/-! ### The end of a stream (R182, R183, R186, R187) -/

/-- The record of a reducing node (R194). -/
def reduceRecord (v : BitVec 64) (n : SNode) : List Byte :=
  let w := nodeFields v
  let f := w.fmt.toNat
  let bits := match snodeOp v with
    | 0x28 => n.acc + n.count * 2 ^ 64
    | 0x29 => (laneOf f n.acc).toNat + (laneOf f n.acc2).toNat * 2 ^ 32
    | 0x2A => (n.bins.zipIdx).foldl (fun a p => a + p.1 * 2 ^ (32 * p.2)) 0
    | 0x2B => n.acc
    | _ => (0xFFFFFFFF - n.acc) + n.count * 2 ^ 64
  bytesOf 64 bits

/-- The reducing nodes write their records, in word order. A record past the partition is refused (log 31). -/
def State.writeRecords (s : State) (x : Stream) (c : Ctx) : State :=
  let rs := ((s.graphWords x).zip x.nodes).filter fun p => isReducing (snodeOp p.1)
  (rs.zipIdx).foldl (fun s (p, k) =>
    let off := x.result + 64 * k
    if c.partSize < off + 64 then s.refuseStream x off
    else
      let pa := c.partAddr off
      if p.2.bad then (s.writePoisoned (some c.id) pa (reduceRecord p.1 p.2)).modStream x.ctl x.str fun x =>
          { x with poisoned := Nat.min 255 (x.poisoned + 1) }
      else s.writeWhole (some c.id) pa (reduceRecord p.1 p.2)) s

/-- The completion (R186). -/
def Stream.completion (x : Stream) : BitVec 128 :=
  let st := if x.aborted then stAborted else if x.trunc then stTrunc else if 0 < x.poisoned then stPartial else stOK
  entryOf [(x.done % 2 ^ 32, 96), (x.reqDone % 2 ^ 32, 64), (x.poisoned, 56), (boolNat x.jovf, 55), (x.flags.toNat, 48), (st.toNat, 40),
    (if x.write then 0x41 else 0x40, 32), (x.tag.toNat, 0)]

/-- The stream is over: closed or aborted; or its tail has delivered its last flit and every node has ended. A region's invocations have
consumed and committed what a read stream delivered. The end of a rollback's streams waits for no region (R406, log 31). -/
def Stream.exceeds (x : Stream) (rolling : Bool) : Bool :=
  x.aborted || (x.tailEnded && x.tail.isEmpty && x.halves.isEmpty && x.nodes.all (·.ended))
    || (rolling && (match x.requester with | .region _ _ => true | .tile _ _ => false))

/-- A context's mailbox, or its spill area, takes a hardware writer's entry now: nothing waits before it (R286). -/
def State.mailReady (s : State) (cid : Nat) : Bool := !(s.bus.mails.any fun m => m.1 == cid) && (s.postMail cid 0).isSome

/-- STREAM_END of the stream in `arg`: records, then the tile, then the completion, which a rollback of its context withholds (R406). Until
the mailbox takes the completion the stream stands (R271). -/
def execStreamEnd (s : State) : Out :=
  match s.model.arg with
  | .n2 ctl str =>
    match s.openStream ctl str with
    | none => .next s
    | some x =>
      match s.ctxOf x.ctx with
      | none => .next s
      | some c =>
        if !x.exceeds c.rolling ∨ (!c.rolling ∧ !s.mailReady c.id) then .next s
        else
          let s := s.writeRecords x c
          match s.openStream ctl str with
          | none => .next s
          | some x =>
            let s := s.dropStream x
            let s := match x.requester with
              | .region h k => if !x.write && x.tailEnded && !x.aborted then s.modRegion h fun r => { r with ended := k :: r.ended } else s
              | .tile _ _ => s
            .next (if c.rolling then s else s.mail c.id x.completion)
  | _ => .next s

end Sys2Proof.Machine
end

