-- ==== Sys2Proof/Machine/Engine.lean ====
section
/-! DEFINITION. Engine harts' line registers (R294, R295), and the shipped microcode: copies (R296, R297) and multicast copies (R374-R376). -/

namespace Sys2Proof.Machine

/-! ### LLD and LST (R294) -/

/-- Effective address: off10 counts lines. -/
def State.lineEa (s : State) (a : Reg) (o : BitVec 10) : Word := s.reg a + o.signExtend 64 * 256#64

/-- Sends the four accesses of a line in increasing address. A refusal meets the first of them, or none (R378): it is answered. -/
def State.sendLine (ea : Word) (pa : Nat) (via : Via) (op : Nat → MemOp) (ans : Nat → Answer) : (n q : Nat) → State → State × Option Going
  | 0, _, s => (s, none)
  | n + 1, q, s =>
    match s.send ea (pa + 64 * q) via (op q) (ans q) with
    | (s, .done r) => State.sendLine ea pa via op ans n (q + 1) { s with cpu := s.cpu.accept s.model.nextId (ans q) r }
    | (s, .sent id) => State.sendLine ea pa via op ans n (q + 1) (if ans q = .none then s else s.goOn id (ans q))
    | (s, e) => (s, some e)

/-- An outstanding LLD still writes line register `l`. -/
def Thr.linePending (t : Thr) (l : Nat) : Bool := t.pend.any fun p => p.line == some l

/-- LLD: the hart goes on while quarters are on their way. -/
def execLld (d a : Reg) (o : BitVec 10) (s : State) : Out :=
  issue (.lld d a o) ⟨.engine, false, [a], []⟩ s fun s =>
    let ea := s.lineEa a o
    if 4 ≤ d.toNat then s.illegal (.lld d a o)
    else if s.cpu.linePending d.toNat then s.waitFor (.loads [])
    else
      s.access ea 256 .r false false notHeld fun s pa via =>
        match State.sendLine ea pa via (fun _ => .load 64) (fun q => .line d.toNat q) 4 0 s with
        | (s, some _) => s.trap clPermission ea
        | (s, none) => s.retire 2

/-- Quarter `q` of a line register and its poison bit. -/
def Thr.quarter (t : Thr) (l q : Nat) : List Byte × Bool :=
  (bytesOf 64 (bitsOf (t.hart.lines.toArray.getD l 0).toNat (512 * q + 511) (512 * q)), (t.hart.poison.toArray.getD l 0).getLsbD q)

/-- LST. Quarters for an unreachable package are refused; a hart has no k.lnack (R378, log 14). -/
def execLst (d a : Reg) (o : BitVec 10) (s : State) : Out :=
  issue (.lst d a o) ⟨.engine, false, [a], []⟩ s fun s =>
    let ea := s.lineEa a o
    if 4 ≤ d.toNat then s.illegal (.lst d a o)
    else if s.cpu.linePending d.toNat then s.waitFor (.loads [])
    else
      s.access ea 256 .w false true notHeld fun s pa via =>
        let op := fun q => let p := s.cpu.quarter d.toNat q; MemOp.line p.1 p.2
        match State.sendLine ea pa via op (fun _ => .none) 4 0 s with
        | (s, some .refused) => s.trap clPermission ea
        | (s, _) => s.retire 2

/-! ### Work items of the shipped microcode (R296) -/

/-- Bits [hi:lo] of an item. -/
def itemBits (item : List Byte) (hi lo : Nat) : Nat := bitsOf (leNat item) hi lo

def State.jobOf (s : State) (d e : Nat) : Option Job := s.jobs.find? fun j => j.die == d && j.eng == e
def State.modJob (s : State) (d e : Nat) (f : Job → Job) : State :=
  { s with jobs := modifyFirst (fun j => j.die == d && j.eng == e) f s.jobs }
def State.dropJob (s : State) (d e : Nat) : State := { s with jobs := s.jobs.filter fun j => !(j.die == d && j.eng == e) }

def Job.op (j : Job) : Nat := itemBits j.item 39 32
def Job.tag (j : Job) : Nat := itemBits j.item 31 0
def Job.length (j : Job) : Nat := itemBits j.item 223 192

/-- A job as its item is popped. -/
def Job.start (d e producer : Nat) (item : List Byte) : Job :=
  { die := d, eng := e, producer := producer, item := item, srcTile := none, dstTile := none, moving := false, next := 0, pend := []
    pieces := 0, poisoned := 0, firstPoison := none, flags := 0, status := stOK, page := none, sentTo := 0, revoked := 0, others := 0
    left := [], reportAt := [], reported := false, peers := [], step := 0, since := 0, bytes := 0, held := none }

/-- A hart with shipped microcode goes on: power has not failed (R301), and no further record of its own waits (R394). -/
def State.engineRuns (s : State) (d e : Nat) : Bool := !s.closing && !s.recordStall 2 (identity s.pkgid d 2 e).toNat

/-- An access of a job has still to be performed. -/
def State.jobBusy (s : State) (j : Job) : Bool :=
  let me := Source.job j.die j.eng
  (s.bus.reqs.any fun r => r.who == me) || (s.bus.outs.any fun r => r.who == me)
    || s.health.ctls.any fun h => h.buffer.any fun r => r.who == me

/-- Writes a completion unless the producer has retired or rolls back (R297, R406); false while the mailbox is full (R286, R340). -/
def State.completeJob (s : State) (j : Job) (e : BitVec 128) : State × Bool :=
  match s.ctxOf j.producer with
  | none => (s, true)
  | some c =>
    if c.rolling then (s, true)
    else if s.bus.mails.any fun m => m.1 == c.id then (s, false)
    else match s.postMail c.id e with
      | some s => (s, true)
      | none => (s, false)

/-- Ends a job: its tiles move (R256), and its completion is written. -/
def State.endJob (s : State) (j : Job) (e : BitVec 128) : State :=
  match s.completeJob j e with
  | (_, false) => s
  | (s, true) =>
    let s := match j.dstTile with
      | some (c, i) => s.modTile c i fun t => { t with state := .ready }
      | none => s
    let s := match j.srcTile with
      | some (c, i) => if j.moving then s else s.modTile c i fun t => { t with state := .empty }
      | none => s
    s.dropJob j.die j.eng

/-! ### Accesses of a job -/

/-- How an access of a job goes. -/
inductive JobAcc where
  | ok (pa : Nat) (via : Option Via)
  /-- refused: the item ends DENIED -/
  | denied
  | wait
deriving DecidableEq, Repr

/-- Translates an address of a job under its producer's address space (R293, R297, R354); the control window is refused (R30). -/
def State.jobAccess (s : State) (j : Job) (va : Nat) (need : Need) : State × JobAcc :=
  match s.ctxOf j.producer with
  | none => (s, .denied)
  | some c =>
    if 2 ^ 56 ≤ va then (s, .denied)
    else
      let u := UnitId.engine j.die j.eng
      let (s, x) := s.translate u c.asid va need c.service
      match x with
      | .permission => (s, .denied)
      | .notPresent =>
        let (tag, s) := s.pageAbsent u c.asid va (needKind need false) (some c)
        (s.modJob j.die j.eng fun j => { j with page := some tag }, .wait)
      | .ok pa via =>
        match s.home pa with
        | .hbm _ | .spad _ _ => (s, .ok pa (some via))
        | .remote p _ => if s.link.unreachable.contains p then (s, .denied) else (s, .ok pa (some via))
        | _ => (s, .denied)

/-- Sends an access of a job to its home (R206); a scratchpad performs it at once. -/
def State.jobSend (s : State) (j : Job) (pa : Nat) (via : Option Via) (op : MemOp) (ans : Answer) : State × Going :=
  let me := Source.job j.die j.eng
  match s.home pa with
  | .hbm l => let (s, id) := s.request me j.producer l 0 via op ans; (s, .sent id)
  | .spad _ l => let (s, r) := s.perform (some j.producer) l op; (s, .done r)
  | .remote p _ =>
    if s.link.unreachable.contains p then (s, .unreachable)
    else let (s, id) := s.requestFar me (some j.producer) p j.die pa 0 via op ans; (s, .sent id)
  | _ => (s, .refused)

/-- Writes 64 bytes at a local address, poisoned or whole. -/
def State.putPiece (s : State) (src : Option Nat) (pa : Nat) (bs : List Byte) (bad : Bool) : State :=
  if bad then s.writePoisoned src pa bs else s.writeWhole src pa bs

/-! ### Sides of a copy -/

/-- A side of a copy: an address, or a tile of the producer's gang. -/
inductive Side where
  | va (a : Nat)
  | tile (c : Ctx) (i : Nat) (t : Tile)
  | malformed
  | noTile
deriving DecidableEq, Repr

/-- A side of an item. An address with bits [63:56] set makes the item malformed, not an access refused (DESIGN CHOICE, log 32). -/
def State.sideOf (s : State) (c : Ctx) (f : Nat) (tile : Bool) : Side :=
  if tile then
    if f % 2 ^ 9 + bitsOf f 22 16 * 2 ^ 16 ≠ f then .malformed
    else match s.tileOf c.gang (bitsOf f 22 16) (f % 2 ^ 9) with
      | some (d, t) => .tile d (f % 2 ^ 9) t
      | none => .noTile
  else if 2 ^ 56 ≤ f ∨ f % 64 ≠ 0 then .malformed else .va f

/-- Bytes of a tile, if the side is one. -/
def Side.short (x : Side) (n : Nat) : Bool := match x with | .tile _ _ t => decide (t.bytes < n) | _ => false

/-- Ranges of two sides of one kind overlap (R297). -/
def Side.overlaps (x y : Side) (n : Nat) : Bool :=
  match x, y with
  | .va a, .va b => decide (a < b + n) && decide (b < a + n)
  | .tile c _ t, .tile d _ u =>
    let a := c.partAddr t.base
    let b := d.partAddr u.base
    decide (a < b + n) && decide (b < a + n)
  | _, _ => false

def Side.inState (x : Side) (st : TileState) : Bool := match x with | .tile _ _ t => t.state == st | _ => true

/-- The local or virtual place of a byte of a job's side: a tile's is local. -/
def State.jobPlace (s : State) (j : Job) (f : Nat) (tile : Option (Nat × Nat)) (off : Nat) (need : Need) : State × JobAcc :=
  match tile with
  | none => s.jobAccess j (f + off) need
  | some (cid, i) =>
    match s.ctxOf cid with
    | none => (s, .denied)
    | some d => match d.tileAt i with
      | some t => (s, .ok (d.partAddr (t.base + off)) none)
      | none => (s, .denied)

/-! ### Taking an item -/

/-- Head of an engine's work queue. -/
def State.workHead (s : State) (d e : Nat) : Option (Queue × QItem) :=
  match s.engineQueue d e with
  | none => none
  | some q =>
    match (q.home (.engine d e)).bind fun h => headOf h.entries with
    | some (.item i) => some (q, i)
    | _ => none

/-- The completion of a poisoned item (R297). -/
def poisonCompletion : BitVec 128 := entryOf [(0xFFFFFFFF, 96), (stPoison.toNat, 40), (0x20, 32)]

/-- Completion of a copy (R299). -/
def copyCompletion (j : Job) (st : Status) : BitVec 128 :=
  entryOf [(j.firstPoison.getD 0xFFFFFFFF, 96), (Nat.min 0xFFFF j.poisoned, 80), (j.pieces % 2 ^ 32, 48), (st.toNat, 40), (0x20, 32), (j.tag, 0)]

/-- Number of bits set. -/
def popMask (m : BitVec 512) : Nat := (List.range 512).countP m.getLsbD

/-- Completion of a multicast copy (R299, R376): a member acknowledged if it performed every piece. -/
def mcastCompletion (j : Job) (st : Status) : BitVec 128 :=
  let bad := j.revoked ||| j.others
  let whole := if j.length ≤ j.next then j.sentTo else 0
  entryOf [(popMask (whole &&& ~~~ bad), 112), (popMask bad, 96), (st.toNat, 40), (0x21, 32), (j.tag, 0)]

/-- Completion of a collective (R299). -/
def collCompletion (j : Job) (st : Status) : BitVec 128 :=
  entryOf [(Nat.min 0xFFFFFFFF j.bytes, 96), (Nat.min 0xFFFF j.poisoned, 80), (j.flags.toNat, 48), (st.toNat, 40), (0x28, 32), (j.tag, 0)]

/-- Pops the work queue when its head is poisoned or its operation satisfies `mine`, and starts a job. A poisoned item gets its
completion alone. An engine that runs loaded microcode pops by itself. -/
def State.takeItem (s : State) (d e : Nat) (mine : Nat → Bool) : State :=
  match s.engineAt d e, s.workHead d e with
  | some x, some (q, i) =>
    if x.loaded || (s.jobOf d e).isSome then s
    else if i.poison then
      match s.completeJob (Job.start d e i.owner i.data) poisonCompletion with
      | (s, true) => (s.popHead q.id (.engine d e) none).modEngine d e fun x => { x with producer := some i.owner, asid := none }
      | (_, false) => s
    else if mine (itemBits i.data 39 32) then
      let s := s.popHead q.id (.engine d e) none
      let s := s.modEngine d e fun x => { x with producer := some i.owner, asid := (s.ctxOf i.owner).map fun c => (c.asid, c.service) }
      match s.ctxOf i.owner with
      | none => s
      | some _ => { s with jobs := s.jobs ++ [Job.start d e i.owner i.data] }
    else s
  | _, _ => s

/-! ### ENGINE_COPY (R297) -/

/-- Malformed fields of a copy item. -/
def copyBad (j : Job) : Bool :=
  itemBits j.item 511 320 != 0 || itemBits j.item 255 224 != 0 || itemBits j.item 63 42 != 0 || j.length % 64 != 0 || j.length == 0

/-- Acceptance of a copy (R296, R297): what is malformed first, then the tiles, which move together. -/
def State.acceptCopy (s : State) (j : Job) (c : Ctx) : Except Status State :=
  let sf := itemBits j.item 127 64
  let df := itemBits j.item 191 128
  let src := s.sideOf c sf (itemBits j.item 40 40 == 1)
  let dst := s.sideOf c df (itemBits j.item 41 41 == 1)
  if j.op ≠ 1 ∨ copyBad j ∨ itemBits j.item 319 256 ≠ 0 ∨ src = .malformed ∨ dst = .malformed then .error stAborted
  else if src = .noTile ∨ dst = .noTile then .error stDenied
  else if src.short j.length ∨ dst.short j.length ∨ src.overlaps dst j.length then .error stAborted
  else if !src.inState .ready ∨ !dst.inState .empty then .error stDenied
  else
    let (s, dt) := match dst with
      | .tile d i _ => (s.modTile d.id i fun t => { t with state := .filling }, some (d.id, i))
      | _ => (s, none)
    let (s, st, moving) := match src with
      | .tile d i t =>
        if 0 < t.pins then (s, some (d.id, i), true) else (s.modTile d.id i fun t => { t with state := .draining }, some (d.id, i), false)
      | _ => (s, none, false)
    .ok (s.modJob j.die j.eng fun j => { j with dstTile := dt, srcTile := st, moving := moving, step := 1 })

/-- Changes a piece of a job. -/
def State.modPiece (s : State) (j : Job) (off : Nat) (f : Piece → Piece) : State :=
  s.modJob j.die j.eng fun j => { j with pend := modifyFirst (fun p => p.off == off) f j.pend }

/-- Counts a piece that has been performed, and its poison. -/
def Job.count (j : Job) (p : Piece) : Job :=
  let first := match j.firstPoison with | some o => Nat.min o p.off | none => p.off
  { j with
    pieces := j.pieces + 1
    poisoned := j.poisoned + boolNat p.bad
    firstPoison := if p.bad then some first else j.firstPoison }

/-- A piece has been performed. -/
def State.pieceDone (s : State) (j : Job) (p : Piece) : State :=
  s.modJob j.die j.eng fun j => { j with pend := j.pend.filter fun q => q.off != p.off }.count p

/-- Counts the pieces whose writes have been performed. -/
def State.settlePieces (s : State) (j : Job) : Job :=
  let over_ := fun (p : Piece) => p.stage == 3 && !s.underWay p.out
  (j.pend.filter over_).foldl Job.count { j with pend := j.pend.filter fun p => !over_ p }

/-- The status of a job changes; the first cause stands. -/
def State.failJob (s : State) (j : Job) (st : Status) : State :=
  s.modJob j.die j.eng fun j => if j.status = stOK then { j with status := st } else j

/-- Homes within which pieces keep their order (R209): a controller, a station, a package. -/
def homeKey (s : State) (pa : Nat) : Nat × Nat :=
  match s.home pa with
  | .hbm l => (0, hbmCtl l)
  | .spad st _ => (1, st)
  | .remote p _ => (2, p)
  | _ => (3, 0)

/-- One access of a piece. -/
def State.movePiece (s : State) (j : Job) (p : Piece) : State :=
  match p.stage with
  | 0 =>
    match s.jobPlace j (itemBits j.item 127 64) j.srcTile p.off .r with
    | (s, .denied) => s.failJob j stDenied
    | (s, .wait) => s
    | (s, .ok pa via) =>
      match s.jobSend j pa via (.load 64) .piece with
      | (s, .done r) => s.modPiece j p.off fun p => { p with stage := 2, data := bytesOf 64 r.data, bad := r.poisoned }
      | (s, .sent id) => s.modPiece j p.off fun p => { p with stage := 1, out := id }
      | (s, _) => s.failJob j stDenied
  | 2 =>
    match s.jobPlace j (itemBits j.item 191 128) j.dstTile p.off .w with
    | (s, .denied) => s.failJob j stDenied
    | (s, .wait) => s
    | (s, .ok pa via) =>
      match s.jobSend j pa via (.line p.data p.bad) .none with
      | (s, .done _) => s.pieceDone j p
      | (s, .sent id) => s.modPiece j p.off fun p => { p with stage := 3, out := id }
      | (s, _) => s.failJob j stDenied
  | _ => s

/-- Pieces that may be moved now: the next to be read, and those at hand with no earlier piece still to be written at the same home. -/
def State.movable (s : State) (j : Job) : List Piece :=
  let key := fun (p : Piece) =>
    match (s.jobPlace j (itemBits j.item 191 128) j.dstTile p.off .w).2 with | .ok pa _ => homeKey s pa | _ => (4, 0)
  (j.pend.find? fun p => p.stage == 0).toList
    ++ j.pend.filter fun p => p.stage == 2 && (j.pend.find? fun q => q.stage != 3 && key q == key p) == some p

/-- Pieces that an engine may hold at once (DESIGN CHOICE, log 32). -/
def jobWindow : Nat := 64

/-- Issues the next 256 bytes in increasing offset (R297). -/
def Job.issue (j : Job) : Job :=
  if j.status ≠ stOK ∨ j.length ≤ j.next ∨ jobWindow ≤ j.pend.length then j
  else
    let n := Nat.min 256 (j.length - j.next)
    { j with next := j.next + n, pend := j.pend ++ (List.range (n / 64)).map fun k => ⟨j.next + 64 * k, 0, [], false, 0⟩ }

/-- The status of a copy that has ended. -/
def Job.final (j : Job) : Status := if j.status ≠ stOK then j.status else if 0 < j.poisoned then stPartial else stOK

/-- A pinned source tile becomes DRAINING once its pins end (R257). -/
def State.settleSource (s : State) (j : Job) : State :=
  match j.srcTile with
  | none => s
  | some (cid, i) =>
    match (s.ctxOf cid).bind fun c => c.tileAt i with
    | some t =>
      if t.state ≠ .ready then s.failJob j stDenied
      else if t.pins = 0 then (s.modTile cid i fun t => { t with state := .draining }).modJob j.die j.eng fun j => { j with moving := false }
      else s
    | none => s.failJob j stDenied

/-- One step of a copy that has been accepted. After a failure what has not left is dropped, and what has left is waited for. -/
def State.copyStep (s : State) (j : Job) : State :=
  let j := s.settlePieces j
  let s := s.modJob j.die j.eng fun _ => j
  if j.page.isSome then s
  else if j.status ≠ stOK then
    let keep := j.pend.filter fun p => s.underWay p.out
    if keep.isEmpty then s.endJob { j with pend := [] } (copyCompletion j j.status) else s.modJob j.die j.eng fun j => { j with pend := keep }
  else if j.moving then s.settleSource j
  else
    let j := j.issue
    let s := s.modJob j.die j.eng fun _ => j
    if j.pend.isEmpty then s.endJob j (copyCompletion j j.final)
    else
      let (w, s) := s.freeWord
      let ms := s.movable j
      match ms[w.toNat % ms.length]? with
      | some p => s.movePiece j p
      | none => s

/-- ENGINE_COPY of the engine in `arg`: takes an item, accepts it, or goes on with it. A copy engine answers every item that is no
multicast with a copy's completion; the collective engine takes collectives by itself. -/
def execEngineCopy (s : State) : Out :=
  match s.model.arg with
  | .n2 d e =>
    if e = 8 ∨ !s.engineRuns d e then .next s
    else
      match s.jobOf d e with
      | none => .next (s.takeItem d e fun op => op != 2)
      | some j =>
        if j.op = 2 then .next s
        else if j.step = 1 then .next (s.copyStep j)
        else
          match s.ctxOf j.producer with
          | none => .next (s.dropJob d e)
          | some c =>
            match s.acceptCopy j c with
            | .ok s => .next s
            | .error st => .next (s.endJob j (copyCompletion j st))
  | _ => .next s

/-! ### ENGINE_MULTICAST_COPY (R374-R376) -/

def Job.group (j : Job) : Nat := itemBits j.item 143 128
def Job.window (j : Job) : Nat := itemBits j.item 175 144
def Job.report (j : Job) : Nat := itemBits j.item 319 256

/-- Fields of a group entry (R373). -/
def groupMembers (g : BitVec 1024) : BitVec 512 := g.extractLsb' 0 512
def groupBase (g : BitVec 1024) : Nat := bitsOf g.toNat 557 512
def groupWindow (g : BitVec 1024) : Nat := bitsOf g.toNat 607 576

/-- The producer holds a capability for the group at its current epoch, with right w (R374, R360). -/
def State.mayMulticast (s : State) (c : Ctx) (g : Nat) : Bool :=
  (List.range 256).any fun i =>
    match s.useCap c i with
    | some (x, .group n) => n == g && capW x
    | _ => false

/-- Where the two lines of the refusal report lie (R374, R376). -/
def State.reportPlaces (s : State) (j : Job) : State × Option (List (Nat × Option Via)) × JobAcc :=
  match s.jobAccess j j.report .w with
  | (s, .ok p v) =>
    if j.report % 0x10000 ≠ 0xFFC0 then (s, some [(p, v), (p + 64, v)], .ok p v)
    else
      match s.jobAccess j (j.report + 64) .w with
      | (s, .ok q w) => (s, some [(p, v), (q, w)], .ok p v)
      | (s, x) => (s, none, x)
  | (s, x) => (s, none, x)

/-- The source of a multicast copy is local (R374): one whose first page maps to another package makes the item malformed. -/
def State.farSource (s : State) (j : Job) (c : Ctx) (src : Side) : Bool :=
  match src with
  | .va a => match (s.translate (.engine j.die j.eng) c.asid a .r c.service).2 with
    | .ok pa _ => (match s.home pa with | .remote _ _ => true | _ => false)
    | _ => false
  | _ => false

/-- Acceptance of a multicast copy; none while the page of the report is not present. -/
def State.acceptMcast (s : State) (j : Job) (c : Ctx) : State × Option Status :=
  let g := (s.groupOf j.group).cur
  let src := s.sideOf c (itemBits j.item 127 64) (itemBits j.item 40 40 == 1)
  if !s.mayMulticast c j.group then (s, some stDenied)
  else if copyBad j ∨ itemBits j.item 41 41 = 1 ∨ itemBits j.item 191 176 ≠ 0
      ∨ j.window % 64 ≠ 0 ∨ j.report % 64 ≠ 0 ∨ 2 ^ 56 ≤ j.report
      ∨ groupMembers g = 0 ∨ (groupMembers g).getLsbD s.pkgid
      ∨ groupWindow g < j.window + j.length ∨ src = .malformed then (s, some stAborted)
  else if src = .noTile then (s, some stDenied)
  else if src.short j.length ∨ s.farSource j c src then (s, some stAborted)
  else
    match s.reportPlaces j with
    | (s, none, .denied) => (s, some stDenied)
    | (s, none, _) => (s, none)
    | (s, some at_, _) =>
      match src with
      | .tile d i t =>
        if t.state ≠ .ready then (s, some stDenied)
        else
          let wait := decide (0 < t.pins)
          let s := if wait then s else s.modTile d.id i fun t => { t with state := .draining }
          (s.modJob j.die j.eng fun j => { j with srcTile := some (d.id, i), moving := wait, reportAt := at_, step := 1 }, some stOK)
      | _ => (s.modJob j.die j.eng fun j => { j with reportAt := at_, step := 1 }, some stOK)

/-- Sends one piece to every member of the group as its entry stands now, in increasing number (R375, R385). A member that cannot be
reached counts as refused (R378), and so does every member while the part has no package number (R33). `sentTo` keeps the members to which
every piece has gone. -/
def State.sendMembers (s : State) (j : Job) (bs : List Byte) (bad : Bool) : State :=
  let g := (s.groupOf j.group).cur
  let ms := if g.getLsbD 575 then groupMembers g else 0
  let s := s.modJob j.die j.eng fun k => { k with sentTo := if j.next = 0 then ms else k.sentTo &&& ms }
  (List.range 512).foldl (fun s p =>
    if ms.getLsbD p then
      let bit := BitVec.ofNat 512 (2 ^ p)
      if s.link.unreachable.contains p ∨ !s.pkgValid then s.modJob j.die j.eng fun j => { j with others := j.others ||| bit }
      else
        let pa := 2 ^ 55 + p * 2 ^ 46 + groupBase g + j.window + j.next
        let (s, id) := s.requestFar (.job j.die j.eng) (some j.producer) p j.die pa 0 none (.line bs bad) .none
        s.modJob j.die j.eng fun j => { j with left := j.left ++ [(id, p, s.cycle.toNat)] }
    else s) s

/-- Writes the refusal report: its two lines of masks (R376). -/
def State.writeReport (s : State) (j : Job) : State :=
  let s := (j.reportAt.zip [j.revoked, j.others]).foldl (fun s x => (s.jobSend j x.1.1 x.1.2 (.line (bytesOf 64 x.2.toNat) false) .none).1) s
  s.modJob j.die j.eng fun j => { j with reported := true }

/-- A piece of the source is at hand: it goes to the members. -/
def State.castPiece (s : State) (j : Job) (bs : List Byte) (bad : Bool) : State :=
  (s.sendMembers j bs bad).modJob j.die j.eng fun j => { j with pend := [], next := j.next + 64 }

/-- One step of a multicast copy: a piece is read or leaves; or all have been answered, and the report and then the completion are written.
A later page of the source that maps to another package is refused: DENIED (DESIGN CHOICE, log 32). -/
def State.mcastStep (s : State) (j : Job) : State :=
  if j.page.isSome then s
  else if j.status = stOK ∧ j.moving = true then s.settleSource j
  else if j.status = stOK ∧ j.next < j.length then
    match j.pend with
    | p :: _ => if p.stage = 2 then s.castPiece j p.data p.bad else s
    | [] =>
      match s.jobPlace j (itemBits j.item 127 64) j.srcTile j.next .r with
      | (s, .denied) => s.failJob j stDenied
      | (s, .wait) => s
      | (s, .ok pa via) =>
        if (homeKey s pa).1 = 2 then s.failJob j stDenied
        else
          match s.jobSend j pa via (.load 64) .piece with
          | (s, .done r) => s.castPiece j (bytesOf 64 r.data) r.poisoned
          | (s, .sent id) => s.modJob j.die j.eng fun j => { j with pend := [⟨j.next, 1, [], false, id⟩] }
          | (s, _) => s.failJob j stDenied
  else if s.jobBusy j then s
  else if !j.reported then s.writeReport j
  else
    let bad := j.revoked ||| j.others
    s.endJob j (mcastCompletion j (if j.status ≠ stOK then j.status else if bad = 0 then stOK else stNackRevoked))

/-- ENGINE_MULTICAST_COPY of the engine in `arg`. -/
def execEngineMulticastCopy (s : State) : Out :=
  match s.model.arg with
  | .n2 d e =>
    if e = 8 ∨ !s.engineRuns d e then .next s
    else
      match s.jobOf d e with
      | none => .next (s.takeItem d e fun op => op == 2)
      | some j =>
        if j.op ≠ 2 then .next s
        else if j.step = 1 then .next (s.mcastStep j)
        else if j.page.isSome then .next s
        else
          match s.ctxOf j.producer with
          | none => .next (s.dropJob d e)
          | some c =>
            if j.status ≠ stOK then .next (s.endJob j (mcastCompletion j stDenied))
            else
              match s.acceptMcast j c with
              | (s, some st) => if st = stOK then .next s else .next (s.endJob j (mcastCompletion j st))
              | (s, none) => .next s
  | _ => .next s

/-- MEMBER_ANSWER_TIMEOUT: the member in `arg` has not answered a piece within 2^20 cycles: refused, other, and its later answers to
that piece are ignored (R375). -/
def execMemberAnswerTimeout (s : State) : Out :=
  match s.model.arg with
  | .n3 d e p =>
    match s.jobOf d e with
    | none => .next s
    | some j =>
      let late := j.left.filter fun x => x.2.1 == p && decide (x.2.2 + 2 ^ 20 ≤ s.cycle.toNat) && s.bus.outs.any fun r => r.id == x.1
      if late.isEmpty then .next s
      else
        let s := late.foldl (fun s x => s.dropOut x.1) s
        .next (s.modJob d e fun j => { j with others := j.others ||| BitVec.ofNat 512 (2 ^ p) })
  | _ => .next s

end Sys2Proof.Machine
end

