-- ==== Sys2Proof/Machine/Collective.lean ====
section
/-! DEFINITION. The shipped collective microcode (R298, R340, R410, R460), and the end of a microcode verification (R300). -/

namespace Sys2Proof.Machine

/-! ### Items and steps -/

def Job.blockBytes (j : Job) : Nat := itemBits j.item 223 192
def Job.ranks (j : Job) : Nat := itemBits j.item 232 224 + 1
def Job.rank (j : Job) : Nat := itemBits j.item 248 240
def Job.buffer (j : Job) : Nat := itemBits j.item 127 64
def Job.exchange (j : Job) : Nat := itemBits j.item 319 256
def Job.table (j : Job) : Nat := itemBits j.item 191 128
def Job.comb (j : Job) : Nat := itemBits j.item 42 40
def Job.type (j : Job) : Nat := itemBits j.item 46 44
/-- The timeout in cycles (R298). -/
def Job.limit (j : Job) : Nat := 1024 * (let t := itemBits j.item 351 320; if t = 0 then 2 ^ 20 else t)

/-- Malformed fields of a collective item (R298). -/
def collBad (j : Job) : Bool :=
  itemBits j.item 511 352 != 0 || itemBits j.item 255 249 != 0 || itemBits j.item 239 233 != 0 || itemBits j.item 63 47 != 0
    || itemBits j.item 43 43 != 0 || itemBits j.item 232 224 == 0 || decide (j.ranks ≤ j.rank) || j.blockBytes % 64 != 0 || j.blockBytes == 0
    || decide (2 ^ 31 < j.blockBytes) || decide (3 < j.comb) || decide (4 < j.type) || (j.comb == 0 && decide (j.op < 0x12))
    || j.buffer % 64 != 0 || j.exchange % 64 != 0 || j.table % 8 != 0 || decide (2 ^ 56 ≤ j.buffer) || decide (2 ^ 56 ≤ j.exchange)
    || decide (2 ^ 56 ≤ j.table)

/-- One step of a collective. A transfer of block `c` lands in exchange block `c`, and in an all-to-all in the block of its sender
(DEDUCED, log 33). -/
inductive CStep where
  /-- sends a block of the own buffer, or of the own exchange area, to a rank as transfer `num` -/
  | send (fromBuffer : Bool) (block toward landing num : Nat)
  /-- waits for transfer `num` of a rank -/
  | recv (source num : Nat)
  /-- Comb(exchange block, buffer block), kept in the exchange block, or written to the buffer at the last step -/
  | combine (block : Nat) (last : Bool)
  /-- direct placement: buffer block := exchange block -/
  | place (block : Nat)
  /-- all-to-all: own exchange block := own buffer block -/
  | own
  /-- counts the poisoned granules of an exchange block that has arrived -/
  | scan (block : Nat)
  /-- zeroes an exchange block -/
  | zero (block : Nat)
deriving DecidableEq, Repr

/-- Reduce step `i` of rank `r` (R340). -/
def reduceStep (n r i : Nat) : List CStep :=
  let c := (r + n - i) % n
  let c' := (r + n + n - i - 1) % n
  [.send (i == 1) c ((r + 1) % n) c i, .recv ((r + n - 1) % n) i, .combine c' (i + 1 == n)]

/-- Gather step `i`; `base` transfers went before. -/
def gatherStep (n r base i : Nat) : List CStep :=
  let c := (r + n - i + 1) % n
  let c' := (r + n - i) % n
  [.send true c ((r + 1) % n) c (base + i), .recv ((r + n - 1) % n) (base + i), .place c']

/-- Broadcast of block `c` at rank `r`: from the parent, then to each child below n (R298, R460). -/
def broadcastStep (n r c : Nat) : List CStep :=
  (if r = 0 then [] else [.recv ((r - 1) / 2) (c + 1), .place c])
    ++ ([2 * r + 1, 2 * r + 2].filter (· < n)).map fun k => .send true c k c (c + 1)

/-- The steps of an item, and what it zeroes at its end. -/
def collSteps (op n r : Nat) : List CStep × List CStep :=
  let from1 := (List.range (n - 1)).map (· + 1)
  let all := List.range n
  match op with
  | 0x10 => (from1.flatMap (reduceStep n r) ++ from1.flatMap (gatherStep n r (n - 1)), all.map .zero)
  | 0x11 => (from1.flatMap (reduceStep n r), (all.filter (· ≠ (r + n - 1) % n)).map .zero)
  | 0x12 => (from1.flatMap (gatherStep n r 0), (all.filter (· ≠ r)).map .zero)
  | 0x13 => (all.flatMap (broadcastStep n r), if r = 0 then [] else all.map .zero)
  | _ =>
    ((all.filter (· ≠ r)).map (fun c => .send true c c r 1) ++ [.own] ++ (all.filter (· ≠ r)).flatMap (fun c => [.recv c 1, .scan c]), [])

def Job.steps (j : Job) : List CStep × List CStep := collSteps j.op j.ranks j.rank

/-- The signature of transfer `num` (R460). -/
def Job.signature (j : Job) (num : Nat) : Nat :=
  2 ^ 63 + (j.blockBytes / 64 - 1) * 2 ^ 35 + num % 2 ^ 10 * 2 ^ 25 + (j.ranks - 1) * 2 ^ 16 + j.type * 2 ^ 12 + j.comb * 2 ^ 8 + j.op

/-- The next step begins. -/
def State.nextStep (s : State) (j : Job) : State :=
  s.modJob j.die j.eng fun j => { j with step := j.step + 1, next := 0, pend := [], since := s.cycle.toNat }

/-- The next 64 bytes of a step, or the next step after its last. -/
def State.nextPiece (s : State) (j : Job) : State :=
  if j.blockBytes ≤ j.next + 64 then s.nextStep j else s.modJob j.die j.eng fun j => { j with next := j.next + 64, pend := [] }

/-- Counts a poisoned granule. -/
def State.countBad (s : State) (j : Job) (bad : Bool) : State := s.modJob j.die j.eng fun j => { j with poisoned := j.poisoned + boolNat bad }

/-- How a read or a write of a job goes. -/
inductive Got where
  | got (v : Nat) (bad : Bool)
  | denied
  | wait
deriving DecidableEq, Repr

/-- Operand `k` of a step: `n` bytes at a virtual address, which may lie in another package (R367). It is read once. -/
def State.jobFetch (s : State) (j : Job) (k va n : Nat) : State × Got :=
  match j.pend.find? fun p => p.off == k with
  | some p => (s, if p.stage = 2 then .got (leNat p.data) p.bad else .wait)
  | none =>
    match s.jobAccess j va .r with
    | (s, .denied) => (s, .denied)
    | (s, .wait) => (s, .wait)
    | (s, .ok pa via) =>
      match s.jobSend j pa via (.load n) .piece with
      | (s, .done r) => (s, .got r.data r.poisoned)
      | (s, .sent id) => (s.modJob j.die j.eng fun j => { j with pend := j.pend ++ [⟨k, 1, [], false, id⟩] }, .wait)
      | (s, _) => (s, .denied)

/-- Writes at a virtual address; it does not wait until that has been performed. -/
def State.jobStore (s : State) (j : Job) (va : Nat) (op : MemOp) : State × Got :=
  match s.jobAccess j va .w with
  | (s, .denied) => (s, .denied)
  | (s, .wait) => (s, .wait)
  | (s, .ok pa via) =>
    match s.jobSend j pa via op .none with
    | (s, .refused) | (s, .unreachable) => (s, .denied)
    | (s, _) => (s, .got 0 false)

/-- Goes on with an operand: a refused access ends the item DENIED. -/
def State.ifGot (r : State × Got) (j : Job) (k : State → Nat → Bool → State) : State :=
  match r with
  | (s, .denied) => s.failJob j stDenied
  | (s, .wait) => s
  | (s, .got v bad) => k s v bad

/-- 64 bytes as they are written. -/
def lineOf (v : Nat) (bad : Bool) : MemOp := .line (bytesOf 64 v) bad

/-- Flag line `k` of an exchange area. -/
def Job.flagLine (j : Job) (area k : Nat) : Nat := area + j.ranks * j.blockBytes + 64 * k

/-! ### Sending (R460, R410) -/

/-- Virtual address to the local address that it maps to for a job; none while it cannot be read. -/
def State.jobLocal (s : State) (j : Job) (va : Nat) : Option Nat :=
  match s.ctxOf j.producer with
  | none => none
  | some c => match (s.translate (.engine j.die j.eng) c.asid va .r c.service).2 with
    | .ok pa _ => some ((s.localOf pa).getD pa)
    | _ => none

/-- Blocks of a rank's exchange area that have arrived and are not yet placed: a step that takes one is to come, and its transfer has been
received, or its flag line says that it has come (R460). -/
def State.stagedBlocks (s : State) (j : Job) : List Nat :=
  let st := (j.steps).1
  let arrived := fun (p : Nat) => match st[p - 1]? with
    | some (.recv source num) =>
      decide (p ≤ j.step) || match s.jobLocal j (j.flagLine j.exchange source) with
        | some a => let v := memNat s.mem a 8; v.testBit 63 && decide (num % 2 ^ 10 ≤ bitsOf v 34 25)
        | none => false
    | _ => false
  st.zipIdx.filterMap fun x => match x.1 with
    | .combine c _ | .place c => if j.step ≤ x.2 ∧ arrived x.2 = true then some c else none
    | _ => none

/-- The address lies in a staged block of a local rank that is not yet placed (R410). -/
def State.stagingFull (s : State) (pa : Nat) : Bool :=
  let at_ := (s.localOf pa).getD pa
  s.jobs.any fun j => j.eng == 8 && decide (j.peers.length = j.ranks) && (s.stagedBlocks j).any fun c =>
    (List.range (j.blockBytes / 64)).any fun k => s.jobLocal j (j.exchange + c * j.blockBytes + 64 * k) == some (at_ / 64 * 64)

/-- The block of the receiver's exchange area that a sender's step is filling. -/
def Job.landing (j : Job) : Nat := match (j.steps).1[j.step]? with | some (.send _ _ _ l _) => l | _ => 0

/-- The sender is refused for full staging: a record that names the exchange-area offset (R392), and a retry of the whole transfer after
1,024 cycles. What it had sent of it is not counted twice (R460). A transfer that is already held gives no second record. -/
def State.refuseStaging (s : State) (j : Job) (pkg : Nat) : State :=
  if j.held.isSome then s
  else
    let off := j.landing * j.blockBytes
    let s := s.post clStagingFull 2 (identity s.pkgid j.die 2 j.eng).toNat (s.ctxOf j.producer) (detailOf [(pkg, 0), (off % 2 ^ 40, 16)])
    s.modJob j.die j.eng fun j => { j with held := some s.cycle.toNat, bytes := j.bytes - j.next, next := 0, pend := [] }

/-- One step of a send: a 64-byte piece, or after the last the SFLAG, once every piece has been performed. -/
def State.collSend (s : State) (j : Job) (fromBuffer : Bool) (block toward landing num : Nat) : State :=
  let area := j.peers.getD toward 0
  if j.next < j.blockBytes then
    State.ifGot (s.jobFetch j 0 ((if fromBuffer then j.buffer else j.exchange) + block * j.blockBytes + j.next) 64) j fun s v bad =>
      match s.jobAccess j (area + landing * j.blockBytes + j.next) .w with
      | (s, .denied) => s.failJob j stDenied
      | (s, .wait) => s
      | (s, .ok pa via) =>
        if s.stagingFull pa then s.refuseStaging j s.pkgid
        else
          match s.jobSend j pa via (lineOf v bad) .none with
          | (s, .refused) | (s, .unreachable) => s.failJob j stDenied
          | (s, _) => s.modJob j.die j.eng fun j => { j with next := j.next + 64, pend := [], bytes := j.bytes + 64 }
  else if s.jobBusy j then s
  else State.ifGot (s.jobStore j (j.flagLine area j.rank) (.store 8 (bytesOf 8 (j.signature num)))) j fun s _ _ => s.nextStep j

/-! ### Receiving, combining and placing -/

/-- Reads the sender's flag line: nothing yet, a difference, or a match (R460). -/
def State.collRecv (s : State) (j : Job) (source num : Nat) : State :=
  State.ifGot (s.jobFetch j 0 (j.flagLine j.exchange source) 8) j fun s v _ =>
    if !(v.testBit 63) || bitsOf v 34 25 != num % 2 ^ 10 then s.modJob j.die j.eng fun j => { j with pend := [] }
    else if v = j.signature num then s.nextStep j
    else s.failJob j stAborted

/-- A buffer page that is not present defers the placement: PLACEMENT-DEFERRED instead of PAGE-NOT-PRESENT (R410). Status 0x05 DEFERRED
(R13) is written nowhere: no field is named for it, and the class of the record stands for it (DESIGN CHOICE, log 33). -/
def State.deferPlacement (s : State) (j : Job) (c : Ctx) (va : Nat) : State :=
  let u := UnitId.engine j.die j.eng
  let page := va / 0x10000
  let tag := BitVec.ofNat 32 s.mmu.nextTag
  let s := { s with mmu := { s.mmu with nextTag := s.mmu.nextTag + 1, faults := s.mmu.faults ++ [(⟨u, c.asid, page, tag⟩ : PageFault)] } }
  let s := s.post clPlacementDeferred 2 (identity s.pkgid j.die 2 j.eng).toNat (some c) (detailOf [(va, 0), (tag.toNat, 64)])
  s.modJob j.die j.eng fun j => { j with page := some tag }

/-- Virtual address of the next 64 bytes of a block of the own exchange area, or of the buffer. -/
def Job.stagedAt (j : Job) (block : Nat) : Nat := j.exchange + block * j.blockBytes + j.next
def Job.bufferAt (j : Job) (block : Nat) : Nat := j.buffer + block * j.blockBytes + j.next

/-- Writes 64 bytes of a staged block to the buffer, or defers it. -/
def State.placePiece (s : State) (j : Job) (block v : Nat) (bad : Bool) : State :=
  let va := j.bufferAt block
  match s.ctxOf j.producer with
  | none => s.failJob j stDenied
  | some c =>
    let u := UnitId.engine j.die j.eng
    match s.translate u c.asid va .w c.service with
    | (s, .notPresent) => s.deferPlacement j c va
    | (s, .permission) => s.failJob j stDenied
    | (s, .ok _ _) => State.ifGot (s.jobStore j va (lineOf v bad)) j fun s _ _ => (s.countBad j bad).nextPiece j

/-- Comb over 64 bytes (R298). -/
def combBytes (op ty a b : Nat) : Nat × Flags := combAll op ty (combWidth ty) (512 / combWidth ty) a b

/-- One 64-byte piece of a combination: into the exchange block, or at the last step into the buffer. -/
def State.collCombine (s : State) (j : Job) (block : Nat) (last : Bool) : State :=
  State.ifGot (s.jobFetch j 0 (j.stagedAt block) 64) j fun s x xbad =>
    let j := (s.jobOf j.die j.eng).getD j
    State.ifGot (s.jobFetch j 1 (j.bufferAt block) 64) j fun s y ybad =>
      let r := combBytes j.comb j.type x y
      let bad := xbad || ybad
      let raise := fun (s : State) => s.modJob j.die j.eng fun j => { j with flags := orFlags j.flags r.2 }
      if last then (raise s).placePiece j block r.1 bad
      else State.ifGot (s.jobStore j (j.stagedAt block) (lineOf r.1 bad)) j fun s _ _ => ((raise s).countBad j bad).nextPiece j

/-- One 64-byte piece of a direct placement. -/
def State.collPlace (s : State) (j : Job) (block : Nat) : State :=
  State.ifGot (s.jobFetch j 0 (j.stagedAt block) 64) j fun s x bad => s.placePiece j block x bad

/-- One 64-byte piece of the own block of an all-to-all. -/
def State.collOwn (s : State) (j : Job) : State :=
  State.ifGot (s.jobFetch j 0 (j.bufferAt j.rank) 64) j fun s y bad =>
    State.ifGot (s.jobStore j (j.stagedAt j.rank) (lineOf y bad)) j fun s _ _ => (s.countBad j bad).nextPiece j

/-- One 64-byte piece of an exchange block that is scanned for poison. -/
def State.collScan (s : State) (j : Job) (block : Nat) : State :=
  State.ifGot (s.jobFetch j 0 (j.stagedAt block) 64) j fun s _ bad => (s.countBad j bad).nextPiece j

/-- One 64-byte piece of an exchange block that is zeroed; one that cannot be reached is passed over. -/
def State.collZero (s : State) (j : Job) (block : Nat) : State :=
  match s.jobStore j (j.stagedAt block) (lineOf 0 false) with
  | (s, .denied) => s.nextStep j
  | (s, .wait) => s
  | (s, .got _ _) => s.nextPiece j

/-! ### The item (R298) -/

/-- Reads the rank table, one entry in a step, and checks the alignment of every exchange area. A poisoned entry ends the item ABORTED
(DESIGN CHOICE, log 33). -/
def State.readPeer (s : State) (j : Job) : State :=
  State.ifGot (s.jobFetch j 0 (j.table + 8 * j.peers.length) 8) j fun s v bad =>
    let v := v % 2 ^ 64
    if bad ∨ v % 64 ≠ 0 then s.failJob j stAborted
    else s.modJob j.die j.eng fun j => { j with peers := j.peers ++ [v], pend := [], since := s.cycle.toNat }

/-- A status has ended the item: `step` moves to the blocks to be zeroed, but after a difference nothing is zeroed (R460). -/
def Job.abandon (j : Job) : Job := { j with step := (j.steps).1.length, next := 0, pend := [], reported := true, held := none }

/-- One step of a collective. -/
def State.collStep (s : State) (j : Job) : State :=
  if j.page.isSome then s
  else if j.status ≠ stOK ∧ !j.reported then
    if s.jobBusy j then s
    else if j.status = stAborted ∨ j.peers.length < j.ranks then s.endJob j (collCompletion j j.status)
    else s.modJob j.die j.eng Job.abandon
  else if collBad j then s.failJob j stAborted
  else if j.peers.length < j.ranks then s.readPeer j
  else if j.held.isSome then s
  else
    let st := j.steps
    match (st.1 ++ st.2)[j.step]? with
    | none => if s.jobBusy j then s else s.endJob j (collCompletion j j.final)
    | some (.send b c toward l k) => s.collSend j b c toward l k
    | some (.recv r k) => s.collRecv j r k
    | some (.combine c l) => s.collCombine j c l
    | some (.place c) => s.collPlace j c
    | some .own => s.collOwn j
    | some (.scan c) => s.collScan j c
    | some (.zero c) => s.collZero j c

/-- The collective engine of a die goes on with an item of operation `op`, or takes one that `mine` accepts. -/
def opCollective (op : Nat) (mine : Nat → Bool) (s : State) : Out :=
  match s.model.arg with
  | .n2 d e =>
    if e ≠ 8 ∨ !s.engineRuns d e then .next s
    else
      match s.jobOf d e with
      | none => .next (s.takeItem d e mine)
      | some j =>
        if mine j.op then
          if j.op = op then .next (s.collStep j) else .next (s.endJob j (collCompletion j stAborted))
        else .next s
  | _ => .next s

/-- ALL_REDUCE. It also answers items of an operation that the collective engine does not know: ABORTED (R296). -/
def execAllReduce (s : State) : Out := opCollective 0x10 (fun o => o == 0x10 || o < 0x10 || 0x14 < o) s
def execReduceScatter (s : State) : Out := opCollective 0x11 (· == 0x11) s
def execAllGather (s : State) : Out := opCollective 0x12 (· == 0x12) s
def execBroadcast (s : State) : Out := opCollective 0x13 (· == 0x13) s
def execAllToAll (s : State) : Out := opCollective 0x14 (· == 0x14) s

/-- The rank waits for a transfer, or for staging. -/
def Job.awaits (j : Job) : Bool :=
  j.held.isSome || (match (j.steps).1[j.step]? with | some (.recv _ _) => true | _ => false)

/-- COLLECTIVE_TIMEOUT of the engine in `arg`: the transfer has not come within the timeout, counted from the start of its wait
(DEDUCED, log 33). -/
def execCollectiveTimeout (s : State) : Out :=
  match s.model.arg with
  | .n2 d e =>
    match s.jobOf d e with
    | none => .next s
    | some j =>
      if e = 8 ∧ s.engineRuns d e ∧ j.peers.length = j.ranks ∧ j.status = stOK ∧ j.awaits ∧ j.since + j.limit ≤ s.cycle.toNat then
        .next (s.failJob j stTimeout)
      else .next s
  | _ => .next s

/-- STAGING_RETRY of the engine in `arg`, 1,024 cycles after the refusal. -/
def execStagingRetry (s : State) : Out :=
  match s.model.arg with
  | .n2 d e =>
    .next (s.modJob d e fun j =>
      match j.held with
      | some t => if t + 1024 ≤ s.cycle.toNat ∧ s.engineRuns d e then { j with held := none } else j
      | none => j)
  | _ => .next s

/-! ### MICROCODE_VERIFY_DONE (R300) -/

/-- A refused image leaves microcode and state as they are. -/
def State.refuseMicrocode (s : State) (d e cause : Nat) : State := s.modEngine d e fun x => { x with mcstat := 3, mccause := cause }

/-- The image is loaded: instruction store, registers, measurement entry of kind 2, restart at offset 0. -/
def State.loadMicrocode (s : State) (d e base n : Nat) (digest : BitVec 256) : State :=
  let code := memWrite [] 0 (memBytes s.mem base n)
  let s := s.modEngine d e fun x => { x with istore := code, loaded := true, mcstat := 2, mccause := 0, producer := none, asid := none }
  (s.modThr (.engine d e) fun _ => Thr.zero .running 0 0).measure digest 2

/-- MICROCODE_VERIFY_DONE of the engine in `arg`, with the result of the signature check and the digest of the code. An image outside local
HBM has no good signature (DESIGN CHOICE, log 34). -/
def execMicrocodeVerifyDone (s : State) : Out :=
  match s.model.arg with
  | .micro d e sigOk digest =>
    match s.engineAt d e with
    | none => .next s
    | some x =>
      let base := x.mcbase.toNat
      let n := wbits x.mclen 16 0
      if x.mcstat ≠ 1 then .next s
      else if !s.engineIdle d e then .next (s.refuseMicrocode d e 1)
      else if n < 66 ∨ 65600 < n ∨ n % 2 ≠ 0 then .next (s.refuseMicrocode d e 2)
      else if !sigOk ∨ !s.inHbm base n then .next (s.refuseMicrocode d e 3)
      else if s.poisoned base n then .next (s.refuseMicrocode d e 4)
      else .next (s.loadMicrocode d e base (n - 64) digest)
  | _ => .next s

end Sys2Proof.Machine
end

