-- ==== Sys2Proof/Machine/Hold.lean ====
section
/-! DEFINITION. Dome-close outside its sequence: charges and room (R412-R417), declarations and open ranges (R419, R420), the plate store
and its directory (R424-R431). -/

namespace Sys2Proof.Machine

/-! ### Charges (R413) and plate room (R424) -/

def segCharge (spad : Bool) (cls len : Nat) : Nat := if 3 ≤ cls then 0 else ceilDiv len 1024 * (if spad then 24 else 40)
def allowanceCharge (allowance : Nat) : Nat := ceilDiv allowance 1000 * 20
def keepAliveCharge : Nat := 350000
/-- The budget open to declarations at boot (R412). -/
def openBudget : Nat := 1950000

/-- 4 KiB granules of a body, and the units of its plate: a check table padded to 4 KiB, and the body. -/
def plateGranules (len : Nat) : Nat := ceilDiv len 4096
def plateUnits (len : Nat) : Nat := ceilDiv (4 * plateGranules len) 4096 + plateGranules len

/-- The lowest free run of `n` units beside runs that are taken. -/
def placePlate (taken : List (Nat × Nat)) (n : Nat) : Option Nat :=
  let free := fun (c : Nat) => decide (c + n ≤ 0x10000) && taken.all fun t => decide (c + n ≤ t.1) || decide (t.1 + t.2 ≤ c)
  best (fun a b => decide (a < b)) ((0x800 :: taken.map fun t => t.1 + t.2).filter free)

/-- Plates of these sizes all find a place, one after the other. -/
def fitPlates : List (Nat × Nat) → List Nat → Bool
  | _, [] => true
  | taken, n :: r => match placePlate taken n with | some c => fitPlates ((c, n) :: taken) r | none => false

/-! ### The directory (R427) -/

def Directory.blank : Directory := ⟨false, 0, 0, false, false, [], []⟩
def State.dirCopy (s : State) (k : Nat) : Directory := s.dome.dirs.getD k Directory.blank

/-- The copy that holds the newest valid generation. -/
def State.newest (s : State) : Option Nat :=
  let a := s.dirCopy 0
  let b := s.dirCopy 1
  if a.valid && (!b.valid || decide (b.generation ≤ a.generation)) then some 0 else if b.valid then some 1 else none

/-- The directory; none for a blank store. -/
def State.directory (s : State) : Option Directory := s.newest.map s.dirCopy

/-- Writes the copy that does not hold the newest valid generation. -/
def State.putDirectory (s : State) (d : Directory) : State :=
  let k := match s.newest with | some 0 => 1 | _ => 0
  { s with dome := { s.dome with dirs := setAt s.dome.dirs k Directory.blank d } }

/-- Entries that are not released. -/
def State.oldPlates (s : State) : List Plate := match s.directory with | some d => d.plates | none => []

def Plate.run (p : Plate) : Option (Nat × Nat) := if p.loc = 0 then none else some (p.loc, plateUnits p.len)

/-! ### The order of R423 and the room of R417 -/

def lexLt : List Nat → List Nat → Bool
  | [], _ => false
  | _ :: _, [] => false
  | a :: r, b :: t => decide (a < b) || (a == b && lexLt r t)

def closeKey (p : Ctx × Segment) : List Nat := [p.2.cls, 3 - p.1.prio, p.1.station, p.1.slot, p.2.order, p.2.index]

/-- Every segment of every context in the order of R423. -/
def State.closeOrder (s : State) : List (Ctx × Segment) :=
  sortBy (fun a b => lexLt (closeKey a) (closeKey b)) (s.ctxs.flatMap fun c => c.segments.map fun x => (c, x))

/-- Room for the guaranteed segments and entries for all (R417). -/
def State.roomFor (s : State) : Bool :=
  let all := s.closeOrder
  fitPlates (s.oldPlates.filterMap Plate.run) ((all.filter fun p => p.2.guaranteed).map fun p => plateUnits p.2.len)
    && decide (s.oldPlates.length + all.length ≤ 16384)

/-- Some guaranteed segment has its source in DRAM. -/
def State.needsKeepAlive (s : State) : Bool := s.ctxs.any fun c => c.segments.any fun x => x.guaranteed && !x.spad

/-- Puts a segment in the place of one with its index, or removes that; answers what the budget pays, what it gets back, and the state
(R413). The budget may be too small: the caller compares. -/
def State.swapSegment (s : State) (cid index : Nat) (new : Option Segment) : Nat × Nat × State :=
  let old := match s.ctxOf cid with | some c => (c.segments.filter fun x => x.index == index).foldl (fun a x => a + x.charge) 0 | none => 0
  let add := match new with | some x => x.charge | none => 0
  let had := s.dome.keepAlive
  let s := s.modCtx cid fun c =>
    { c with segments := c.segments.filter (fun x => x.index != index) ++ new.toList, charge := c.charge - old + add }
  let has := s.needsKeepAlive
  let pay := add + (if has && !had then keepAliveCharge else 0)
  let back := old + (if had && !has then keepAliveCharge else 0)
  (pay, back, { s with dome := { s.dome with keepAlive := has, hbudget := s.dome.hbudget + back - pay } })

/-! ### HDECL (R419) -/

/-- Operands of HDECL that raise ILLEGAL-OPERAND. With remove set the base has no meaning, and ga is not looked at (log 35). -/
def hdeclBad (c : Ctx) (ga gb : Word) : Bool :=
  let len := wbits gb 31 0
  if wbit gb 63 then wbits gb 62 40 != 0 || wbits gb 35 0 != 0
  else
    wbit gb 35 || wbits gb 62 48 != 0 || ga.toNat % 64 != 0 || len % 64 != 0 || len == 0
      || (if wbit gb 34 then wbits ga 63 23 != 0 || decide (c.partSize < ga.toNat + len)
          else wbits ga 63 56 != 0 || decide (2 ^ 56 < ga.toNat + len))

def Segment.overlaps (x y : Segment) : Bool :=
  x.spad == y.spad && decide (x.base < y.base + y.len) && decide (y.base < x.base + x.len)

/-- gd of HDECL: OK and HU in [63:32]. -/
def State.finishHu (s : State) (d : Reg) (hu : Nat) : State := s.finish d (w64 (stOK.toNat + hu % 2 ^ 32 * 2 ^ 32))

/-- The outcomes of HDECL, once its operands and pages have passed. -/
def State.declare (s : State) (d : Reg) (c : Ctx) (index : Nat) (new : Option Segment) : State :=
  if (match new with | some x => c.segments.any fun y => y.index != index && x.overlaps y | none => false) then s.finishStatus d stDenied
  else if c.opens.any fun o => o.index == index then s.finishStatus d stBusy
  else
    match new, s.swapSegment c.id index new with
    | none, (_, back, t) => t.finishHu d back
    | some _, (pay, back, t) =>
      if s.dome.hbudget + back < pay ∨ !t.roomFor then s.finishStatus d stDenied else t.finishHu d pay

/-- Pages of a virtual range: translated with need R; another home than local HBM is DENIED. -/
def State.declarePages (s : State) (d : Reg) (c : Ctx) (x : Segment) : State :=
  match s.space s.who with
  | none => s.trap clPermission (w64 x.base)
  | some (asid, svc, u) =>
    match xlatePages u asid .r svc (pagesOf x.base x.len) (x.base / 0x10000 * 0x10000) s with
    | (s, .permission) => s.trap clPermission (w64 x.base)
    | (s, .notPresent p) =>
      let (tag, s) := s.pageAbsent u asid p (needKind .r false) (some c)
      s.waitFor (.page tag (w64 x.base))
    | (s, .ok fs) =>
      if fs.all fun f => match s.home f with | .hbm _ => true | _ => false then s.declare d c x.index (some x) else s.finishStatus d stDenied

/-- Form of the five instructions of R418. -/
def holdForm (regs : List Reg) : Form := ⟨.holdup, false, regs, []⟩

/-- HDECL. -/
def execHdecl (d a b : Reg) (s : State) : Out :=
  issue (.hdecl d a b) (holdForm [d, a, b]) s fun s =>
    match s.myCtx with
    | none => s.finishStatus d stDenied
    | some c =>
      let ga := s.reg a
      let gb := s.reg b
      let spad := wbit gb 34
      let cls := wbits gb 33 32
      let index := wbits gb 39 36
      let len := wbits gb 31 0
      let x : Segment := ⟨index, spad, ga.toNat, len, cls, wbits gb 47 40, segCharge spad cls len⟩
      if hdeclBad c ga gb then s.illegal (.hdecl d a b)
      else if s.closing then s.finishStatus d stDenied
      else if wbit gb 63 then s.declare d c index none
      else if spad then s.declare d c index (some x)
      else s.declarePages d c x

/-! ### HOPEN and HCLOSE (R420) -/

/-- The range that HOPEN names: none beyond its segment. A length of 0 at the segment's end names no byte and is beyond it (log 35). -/
def openLen (x : Segment) (off len : Nat) : Option Nat :=
  let n := if len = 0 then x.len - off else len
  if n = 0 ∨ x.len < off + n then none else some n

/-- HOPEN. -/
def execHopen (d a b : Reg) (s : State) : Out :=
  issue (.hopen d a b) (holdForm [d, a, b]) s fun s =>
    match s.myCtx with
    | none => s.finishStatus d stDenied
    | some c =>
      let ga := s.reg a
      let off := wbits (s.reg b) 31 0
      let len := wbits (s.reg b) 63 32
      if wbits ga 63 4 ≠ 0 ∨ off % 64 ≠ 0 ∨ len % 64 ≠ 0 then s.illegal (.hopen d a b)
      else
        match (c.segments.find? fun x => x.index == ga.toNat).bind fun x => openLen x off len with
        | none => s.finishStatus d stDenied
        | some n =>
          match (List.range 4).find? fun t => c.opens.all fun o => o.token != t with
          | none => s.finishStatus d stBusy
          | some t =>
            (s.modCtx c.id fun c => { c with opens := c.opens ++ [⟨t, ga.toNat, off, n⟩] }).finish d (w64 (stOK.toNat + t * 2 ^ 8))

/-- HCLOSE. -/
def execHclose (d a : Reg) (s : State) : Out :=
  issue (.hclose d a) (holdForm [d, a]) s fun s =>
    match s.myCtx with
    | none => s.finishStatus d stDenied
    | some c =>
      let ga := s.reg a
      if wbits ga 63 2 ≠ 0 then s.illegal (.hclose d a)
      else if c.opens.any fun o => o.token == ga.toNat then
        (s.modCtx c.id fun c => { c with opens := c.opens.filter fun o => o.token != ga.toNat }).finishStatus d stOK
      else s.finishStatus d stDenied

/-! ### Plates and entries (R424, R425, R428) -/

/-- The check table of a body: a CRC for each granule, padded to whole units. -/
def checkTable (body : List Byte) : List Byte :=
  let cs := (chunks 4096 (plateGranules body.length) body).flatMap fun g => bytesOf 4 (crc32c g).toNat
  padTo (ceilDiv cs.length 4096 * 4096) cs

/-- Restart state (R428): 0 WHOLE, 1 TORN, 2 ABSENT. A class 3 plate whose seal fails is not sealed (DEDUCED, log 35). -/
def Plate.state (p : Plate) : Nat :=
  if !p.sealed ∨ (p.sealBad ∧ p.cls = 3) then 2 else if p.sealBad ∨ !p.torn.isEmpty ∨ !p.failed.isEmpty then 1 else 0

/-- Torn ranges as reported: a guaranteed segment whose seal fails is torn over its whole length with cause 3. -/
def Plate.tornOut (p : Plate) : List (Nat × Nat × Nat) := if p.sealBad ∧ p.cls ≠ 3 then [(0, p.len / 64, 3)] else p.torn

/-- Bytes 0 to 123 of an entry. -/
def Plate.entryHead (p : Plate) : List Byte :=
  let ts := p.tornOut.take 4
  padTo 124
    (words [
        w64 (p.event % 2 ^ 32 * 2 ^ 32 + p.loc * 2 ^ 16 + boolNat p.sealed * 2 ^ 15 + ts.length * 2 ^ 12 + p.cls * 2 ^ 10 + boolNat p.spad * 2 ^ 9
          + boolNat p.handler * 2 ^ 8 + p.index * 2 ^ 4),
        w64 (p.order * 2 ^ 56 + p.base),
        w64 (p.version % 2 ^ 16 * 2 ^ 48 + p.slot * 2 ^ 40 + p.station * 2 ^ 32 + p.len)]
      ++ padTo 12 (p.name.take 12) ++ [BitVec.ofNat 8 p.logical, BitVec.ofNat 8 p.sub, 0, 0]
      ++ ts.flatMap fun t => bytesOf 8 (t.1 + t.2.1 * 2 ^ 26 + t.2.2 * 2 ^ 52))

/-- The 128 bytes of an entry, its seal last. -/
def Plate.entry (p : Plate) : List Byte :=
  let h := p.entryHead
  h ++ (if p.sealed then bytesOf 4 (crc32c (h ++ checkTable p.body)).toNat else List.replicate 4 0)

/-- What PLATERD op 1 writes: bytes 72 to 79 hold state, failed granules and the first of them (R430). -/
def Plate.report (p : Plate) : List Byte :=
  let e := p.entry
  let first := match best (fun a b => decide (a < b)) p.failed with | some g => g | none => 0xFFFFFFFF
  e.take 72 ++ bytesOf 8 (p.state + p.failed.length % 2 ^ 24 * 2 ^ 8 + first * 2 ^ 32) ++ e.drop 80

/-! ### PLATERD (R430) -/

/-- Entries as an index counts them. -/
def Directory.counted (x : Directory) (cid : Nat) (all : Bool) : List Plate := if all then x.plates else x.plates.filter fun p => p.owner == some cid

/-- Package sequence of the latest POWER-FAIL record: it ends the records. -/
def Directory.failSeq (x : Directory) : Nat := match x.records.getLast? with | some r => bitsOf r.toNat 511 464 | none => 0

/-- What op 0 writes. -/
def Directory.header (x : Directory) (n : Nat) : List Byte :=
  padTo 64 (words [w64 (x.event % 2 ^ 32 + x.plates.length * 2 ^ 32), w64 (n + boolNat x.kept * 2 ^ 32 + boolNat x.returned * 2 ^ 33),
    w64 (x.failSeq % 2 ^ 32)])

/-- Op 3: the records of the directory, in 4 KiB. -/
def Directory.recordBytes (x : Directory) : List Byte := padTo 4096 (x.records.flatMap fun r => bytesOf 64 r.toNat)

/-- Ops 0, 1 and 3: stores of the thread, performed before its next instruction, after its earlier ones (R208). -/
def State.plateStore (s : State) (d : Reg) (va : Nat) (bs : List Byte) (v : Word) : State :=
  s.withArea va bs.length .w fun frames s =>
    let held := (List.range (bs.length / 64)).any fun k =>
      s.rangeHeld (frames.getD ((va % 0x10000 + 64 * k) / 0x10000) 0 + (va + 64 * k) % 0x10000) 64
    if !(s.pendingOf s.who).isEmpty then s.waitAccess
    else if held then s.waitFor (.system s.cycle.toNat)
    else (State.writePaged (s.myCtx.map (·.id)) frames 64 (va % 0x10000) bs s).finish d v

/-- The translations of the pages of a range that a context writes through its station. -/
def State.pageVias (s : State) (c : Ctx) (va n : Nat) : List Via :=
  (List.range (pagesOf va n)).filterMap fun k =>
    match (s.translate (.station c.station) c.asid (va / 0x10000 * 0x10000 + 0x10000 * k) .w c.service).2 with
    | .ok _ v => some v
    | _ => none

/-- Op 2: every page is translated, then the body goes out in pieces. -/
def State.plateBody (s : State) (d : Reg) (c : Ctx) (va : Nat) (p : Plate) (entry : Nat) (tag : BitVec 32) : State :=
  s.withArea va p.len .w fun frames s =>
    (s.modCtx c.id fun c =>
      { c with bodyWrite := some ⟨p, frames, va % 0x10000, entry, tag, 0, [], s.pageVias c va p.len⟩ }).finishStatus d stOK

/-- PLATERD's operands that raise ILLEGAL-OPERAND. -/
def platerdBad (ga gb : Word) : Bool :=
  wbits ga 15 3 != 0 || wbits ga 31 30 != 0 || gb.toNat % 64 != 0 || (wbits ga 1 0 == 3 && !wbit ga 2)

/-- PLATERD: the op stands in ga [1:0]; `i` gives the word, which is one for all four rows. An index beyond the count gives EMPTY with every
op; ops 0 and 3 read no entry, and index 0 is never beyond the count for them (DEDUCED, log 35). -/
def opPlaterd (i : Instr) (d a b : Reg) (s : State) : Out :=
  issue i (holdForm [d, a, b]) s fun s =>
    match s.myCtx with
    | none => s.finishStatus d stDenied
    | some c =>
      let ga := s.reg a
      let va := (s.reg b).toNat
      let all := wbit ga 2
      let op := wbits ga 1 0
      let k := wbits ga 29 16
      if platerdBad ga (s.reg b) then s.illegal i
      else if s.closing then s.finishStatus d stDenied
      else if s.dome.checking then s.finishStatus d stBusy
      else if all && !c.service then s.finishStatus d stDenied
      else
        match s.directory with
        | none => s.finishStatus d stEmpty
        | some x =>
          let es := x.counted c.id all
          if es.length ≤ k ∧ (k ≠ 0 ∨ op = 1 ∨ op = 2) then s.finishStatus d stEmpty
          else if 2 ^ 56 ≤ va then s.trap clPermission (s.reg b)
          else if op = 0 then s.plateStore d va (x.header es.length) (w64 (stOK.toNat + x.event % 2 ^ 32 * 2 ^ 32))
          else if op = 3 then s.plateStore d va x.recordBytes (statusWord stOK)
          else
            match es[k]? with
            | none => s.finishStatus d stEmpty
            | some p =>
              if op = 1 then s.plateStore d va p.report (statusWord stOK)
              else if p.state = 2 then s.finishStatus d stDenied
              else if c.bodyWrite.isSome then s.finishStatus d stBusy
              else s.plateBody d c va p k ((ga >>> 32).setWidth 32)

def execPlaterdHeader (d a b : Reg) (s : State) : Out := opPlaterd (.platerdHeader d a b) d a b s
def execPlaterdEntry (d a b : Reg) (s : State) : Out := opPlaterd (.platerdEntry d a b) d a b s
def execPlaterdBody (d a b : Reg) (s : State) : Out := opPlaterd (.platerdHeader d a b) d a b s
def execPlaterdRecords (d a b : Reg) (s : State) : Out := opPlaterd (.platerdHeader d a b) d a b s

/-- The completion of a body. -/
def BodyWrite.completion (w : BodyWrite) : BitVec 128 :=
  let n := w.plate.failed.length
  entryOf [(w.plate.len, 96), (n % 2 ^ 32, 64), (w.entry, 48), ((if n = 0 then stOK else stPartial).toNat, 40), (0x48, 32), (w.tag.toNat, 0)]

/-- Begins the next pieces, up to 64 at once (DESIGN CHOICE, log 32). -/
def BodyWrite.begin (w : BodyWrite) : BodyWrite :=
  let n := Nat.min (jobWindow - w.pend.length) ((w.plate.len - w.next) / 64)
  { w with next := w.next + 64 * n, pend := w.pend ++ (List.range n).map fun k => w.next + 64 * k }

/-- Writes one piece of a body: a piece of a failed granule is written poisoned. -/
def State.bodyPiece (s : State) (cid : Nat) (w : BodyWrite) (o : Nat) : State :=
  let at_ := w.off + o
  let pa := w.frames.getD (at_ / 0x10000) 0 + at_ % 0x10000
  if s.rangeHeld pa 64 then s
  else
    let s := s.putPiece (some cid) pa ((w.plate.body.drop o).take 64) (w.plate.failed.contains (o / 4096))
    s.modCtx cid fun c => { c with bodyWrite := some { w with pend := w.pend.filter fun x => x != o } }

/-- PLATERD_BODY_COMPLETE of the context in `arg`: one piece of its body after another, in an order left free (R228), then the completion
in its mailbox; a full mailbox refuses it, and the write is in flight until it is written (R286, R423). -/
def execPlaterdBodyComplete (s : State) : Out :=
  match s.model.arg with
  | .n1 cid =>
    match s.ctxOf cid with
    | none => .next s
    | some c =>
      match c.bodyWrite with
      | none => .next s
      | some w =>
        let w := w.begin
        let (r, s) := s.freeWord
        match w.pend[r.toNat % w.pend.length]? with
        | some o => .next (s.bodyPiece cid w o)
        | none => if s.mailReady cid then .next ((s.modCtx cid fun c => { c with bodyWrite := none }).mail cid w.completion) else .next s
  | _ => .next s

/-! ### HCLEAR (R431) -/

/-- The next generation of a directory, without the entries released. -/
def Directory.release (x : Directory) (gone : List Plate) : Directory :=
  { x with generation := x.generation + 1, plates := x.plates.filter fun p => !gone.contains p }

/-- HCLEAR. BUSY and DENIED come in the cases of R430: while the check runs, and while a body write of this context is in flight. -/
def execHclear (d a : Reg) (s : State) : Out :=
  issue (.hclear d a) (holdForm [d, a]) s fun s =>
    match s.myCtx with
    | none => s.finishStatus d stDenied
    | some c =>
      let ga := s.reg a
      let all := wbit ga 2
      if wbit ga 1 ∨ wbits ga 15 3 ≠ 0 ∨ wbits ga 63 30 ≠ 0 then s.illegal (.hclear d a)
      else if s.closing then s.finishStatus d stDenied
      else if s.dome.checking || c.bodyWrite.isSome then s.finishStatus d stBusy
      else if all && !c.service then s.finishStatus d stDenied
      else
        match s.directory with
        | none => s.finishStatus d stEmpty
        | some x =>
          let es := x.counted c.id all
          let gone := if wbit ga 0 then es else (es[wbits ga 29 16]?).toList
          if gone.isEmpty then s.finishStatus d stEmpty else (s.putDirectory (x.release gone)).finishStatus d stOK

end Sys2Proof.Machine
end

