-- ==== Sys2Proof/Machine/LoadStore.lean ====
section
/-! DEFINITION. Loads, stores, fences and flags of the sequencer set (R235-R239), the atomics (R240, R241), and the outbound PCIe window (R381). -/

namespace Sys2Proof.Machine

/-- Register positions of a load: gd is a pair for 128 bits (R155). -/
def ldForm (d a : Reg) (w : LdW) : Form := match w with | .q128 => ⟨.all, false, [a], [d]⟩ | _ => .plain [d, a]
/-- Register positions of a store with its data in `d`. -/
def stForm (d a : Reg) (w : StW) : Form := match w with | .b128 => ⟨.all, false, [a], [d]⟩ | _ => .plain [d, a]

/-- The bytes that a store of `gd` writes (R235). -/
def State.stBytes (s : State) (d : Reg) (w : StW) : List Byte :=
  match w with
  | .b128 => bytesOf 16 (s.pair d).toNat
  | _ => bytesOf (stSize w) (s.reg d).toNat

/-- Effective address of the M format (R63): SignExtend(off10) × size. -/
def State.ea (s : State) (a : Reg) (o : BitVec 10) (size : Nat) : Word := s.reg a + o.signExtend 64 * w64 size

def execLd (d a : Reg) (w : LdW) (o : BitVec 10) (s : State) : Out :=
  issue (.ld d a w o) (ldForm d a w) s fun s => s.doLoad (s.ea a o (ldSize w)) (ldSize w) (.load d w) 2 .thr

def execSt (d a : Reg) (w : StW) (o : BitVec 10) (s : State) : Out :=
  issue (.st d a w o) (stForm d a w) s fun s => s.doStore (s.ea a o (stSize w)) (s.stBytes d w) 2 fun _ _ => false

/-- LD64_COMPACT (R64): imm4 counts 8 bytes, without sign. -/
def execLd64Compact (d a : CReg) (i : BitVec 4) (s : State) : Out :=
  issue (.ld64Compact d a i) (.plain [creg d, creg a]) s fun s =>
    s.doLoad (s.ea (creg a) (i.setWidth 10) 8) 8 (.load (creg d) .d64) 1 .thr

def execSt64Compact (d a : CReg) (i : BitVec 4) (s : State) : Out :=
  issue (.st64Compact d a i) (.plain [creg d, creg a]) s fun s =>
    s.doStore (s.ea (creg a) (i.setWidth 10) 8) (s.stBytes (creg d) .b64) 1 fun _ _ => false

/-- LDAQ (R211, R237): every later access with its home in the scope is performed after it. -/
def execLdaq (d a : Reg) (w : LdW) (sc : Scope) (s : State) : Out :=
  issue (.ldaq d a w sc) (ldForm d a w) s fun s => s.doLoad (s.reg a) (ldSize w) (.load d w) 2 sc

/-- STRL (R211, R237): performed after every earlier access with its home in the scope. -/
def execStrl (a b : Reg) (w : StW) (sc : Scope) (s : State) : Out :=
  issue (.strl a b w sc) (stForm b a w) s fun s => s.doStore (s.reg a) (s.stBytes b w) 2 fun s _ => s.pendingIn sc

/-- FENCE (R212, R238). -/
def execFence (sc : Scope) (k : FenceKind) (s : State) : Out :=
  issue (.fence sc k) (.plain []) s fun s => (s.fence sc k).retire 2

/-- SFLAG (R213, R239). -/
def execSflag (a b : Reg) (w : FlagW) (sc : Scope) (s : State) : Out :=
  issue (.sflag a b w sc) (.plain [a, b]) s fun s =>
    s.doStore (s.reg a) (s.stBytes b (match w with | .w32 => .b32 | .w64 => .b64)) 2
      fun s pa => s.pendingIn sc || s.pendingToPackage pa

def ASize.bytes : ASize → Nat | .s32 => 4 | .s64 => 8

/-- An atomic (R240): operation by its sub-op number. -/
def opAtomic (i : Instr) (op size : Nat) (t : Bool) (d a b : Reg) (s : State) : Out :=
  issue i (.plain [d, a, b]) s fun s => s.doAtomic (s.reg a) size (.atomic op size (s.reg b)) (.atomic d t)

def execAadd (z : ASize) (t : Bool) (d a b : Reg) (s : State) : Out := opAtomic (.aadd z t d a b) 0 (ASize.bytes z) t d a b s
def execAand (z : ASize) (t : Bool) (d a b : Reg) (s : State) : Out := opAtomic (.aand z t d a b) 1 (ASize.bytes z) t d a b s
def execAor (z : ASize) (t : Bool) (d a b : Reg) (s : State) : Out := opAtomic (.aor z t d a b) 2 (ASize.bytes z) t d a b s
def execAxor (z : ASize) (t : Bool) (d a b : Reg) (s : State) : Out := opAtomic (.axor z t d a b) 3 (ASize.bytes z) t d a b s
def execAmin (z : ASize) (t : Bool) (d a b : Reg) (s : State) : Out := opAtomic (.amin z t d a b) 4 (ASize.bytes z) t d a b s
def execAmax (z : ASize) (t : Bool) (d a b : Reg) (s : State) : Out := opAtomic (.amax z t d a b) 5 (ASize.bytes z) t d a b s
def execAswap (z : ASize) (t : Bool) (d a b : Reg) (s : State) : Out := opAtomic (.aswap z t d a b) 6 (ASize.bytes z) t d a b s
def execAfaddF32 (t : Bool) (d a b : Reg) (s : State) : Out := opAtomic (.afaddF32 t d a b) 7 4 t d a b s
def execAfaddBf16 (t : Bool) (d a b : Reg) (s : State) : Out := opAtomic (.afaddBf16 t d a b) 8 4 t d a b s

/-- CAS (R241): gd holds the expected value, gb the new one; pairs in the 128-bit form. -/
def execCas (z : CSize) (t : Bool) (d a b : Reg) (s : State) : Out :=
  match z with
  | .s64 => issue (.cas z t d a b) (.plain [d, a, b]) s fun s =>
      s.doAtomic (s.reg a) 8 (.cas 8 ((s.reg d).setWidth 128) ((s.reg b).setWidth 128)) (.cas d t false)
  | .s128 => issue (.cas z t d a b) ⟨.all, false, [a], [d, b]⟩ s fun s =>
      s.doAtomic (s.reg a) 16 (.cas 16 (s.pair d) (s.pair b)) (.cas d t true)

/-! ### The outbound window (R381): accesses leave in the issue order of their thread and port -/

/-- A request has left the part. -/
def State.hasLeft (s : State) (r : OutReq) : Bool := s.bus.sent.any fun x => x.id == r.id

/-- The oldest access of a source and port that has not left. -/
def State.nextOut (s : State) (who : Source) (die : Nat) : Option OutReq :=
  s.bus.outs.find? fun r => r.who == who && r.die == die && r.pkg == none && !s.hasLeft r

def State.leave (s : State) (r : OutReq) : State := { s with bus := { s.bus with sent := r :: s.bus.sent } }

/-- The source and the port's die that an outbound event names: a thread by station, slot and index, an engine hart by die and number, or
a region by its handle. -/
def outSource : Arg → Option (Source × Nat)
  | .n4 st slot i die => some (.actor (.thread st slot i), die)
  | .n3 d e die => some (.actor (.engine d e), die)
  | .n2 h die => some (.region h, die)
  | _ => none

/-- How such an event names a source and die. -/
def outPlace (x : Source) (die : Nat) : Option Arg :=
  match x with
  | .actor (.thread st slot i) => some (.n4 st slot i die)
  | .actor (.engine d e) => some (.n3 d e die)
  | .region h => some (.n2 h die)
  | _ => none

/-- OUTBOUND_STORE: a store leaves the port, which performs it. -/
def execOutboundStore (s : State) : Out :=
  match outSource s.model.arg with
  | some (who, die) =>
    match s.nextOut who die with
    | some r => if r.ans = .none then .next ((s.leave r).dropOut r.id) else .next s
    | none => .next s
  | none => .next s

/-- OUTBOUND_LOAD: a load leaves the port as a PCIe read. -/
def execOutboundLoad (s : State) : Out :=
  match outSource s.model.arg with
  | some (who, die) =>
    match s.nextOut who die with
    | some r => if r.ans = .none then .next s else .next (s.leave r)
    | none => .next s
  | none => .next s

/-- OUTBOUND_COMPLETION: the read's data, or none for Unsupported Request, Completer Abort or a timeout: PERMISSION precisely, and for a
lane of a LOAD node a cause of discard. -/
def execOutboundCompletion (s : State) : Out :=
  match s.model.arg with
  | .outbound id data =>
    match s.bus.outs.find? fun r => r.id == id && r.pkg == none && r.ans != .none && s.hasLeft r with
    | some r =>
      let x : Result := match data with | some v => ⟨v.toNat, stOK, 0, false⟩ | none => ⟨0, stPermission, 0, false⟩
      let s := s.dropOut r.id
      match r.ans with
      | .lane at_ => .next (s.laneAnswered at_ r.id (data.map fun v => (v.toNat, false)))
      | ans => .next (s.answerTo r.who r.id ans r.ea r.pa x)
    | none => .next s
  | _ => .next s

end Sys2Proof.Machine
end

