-- ==== Sys2Proof/Machine/Dome.lean ====
section
/-! DEFINITION. The dome-close sequence (R421-R427, R432, R433). -/

namespace Sys2Proof.Machine

/-! ### Step 1 and 2: the trigger and the freeze -/

/-- The detail of POWER-FAIL (R432). -/
def State.powerDetail (s : State) (event : Nat) : BitVec 352 :=
  let n := s.ctxs.foldl (fun a c => a + (c.segments.filter Segment.guaranteed).length) 0
  let h := (s.ctxs.filter fun c => c.handler.isSome).length
  detailOf [(event % 2 ^ 32, 0), (s.dome.hbudget % 2 ^ 32, 32), (boolNat s.dome.keepAlive, 64), (n % 2 ^ 16, 96), (h % 2 ^ 16, 112)]

/-- POWER-FAIL is numbered ahead of every record that the tree holds, and written into entry 256 of lane F, full or not (R394). -/
def State.postPowerFail (s : State) (event : Nat) : State :=
  let n := lookupD s.tree.srcSeqs (7, 0) 0
  let r : Record := ⟨false, clPowerFail, 7, 0, n, 0, 0, 0x7F, s.powerDetail event, none, none, none⟩
  let bits := r.bits s.tree.rootSeq
  let s := if s.tree.lfbase = 0 then s else s.write none (s.tree.lfbase.toNat + 64 * 256) (bytesOf 64 bits.toNat)
  { s with tree := { s.tree with
      srcSeqs := assign s.tree.srcSeqs (7, 0) (n + 1)
      rootSeq := s.tree.rootSeq + 1
      laneF := (s.tree.laneF ++ [bits]).drop (s.tree.laneF.length - 63) } }

/-- Every region freezes; its invocations are discarded, commands among them without a completion (R433). -/
def State.freezeRegions (s : State) : State :=
  let s := s.regions.foldl (fun s r => s.dropAll r none) s
  let stop := fun (r : Region) => match r.freeze with | .running | .moving => { r with freeze := Freeze.frozen } | _ => r
  { s with regions := s.regions.map stop }

/-- Outbound requests that have not left are dropped; requests to other packages have left when they were issued. -/
def State.dropUnsent (s : State) : State :=
  { s with bus := { s.bus with outs := s.bus.outs.filter fun r => r.pkg.isSome || s.hasLeft r } }

/-- DOME_CLOSE_TRIGGER: the input rail falls. Without the accepted feature the part has no dome-close (R77, R412). -/
def execDomeCloseTrigger (s : State) : Out :=
  if s.boot.acc0.getLsbD 1 && s.dome.phase == .idle && s.part != 2 then
    let event := (match s.directory with | some x => x.event | none => 0) + 1
    let s := (s.postPowerFail event).freezeRegions.dropUnsent
    .next { s with dome := { s.dome with event := event, phase := .frozen, returned := false, plates := [], stop3 := false } }
  else .next s

/-! ### Step 3: handlers -/

/-- The freeze has ended: issued accesses are performed and answered, and so is every message that its place does not refuse (R278, R286);
SFU results are written. -/
def State.frozen (s : State) : Bool :=
  s.bus.reqs.isEmpty && s.bus.answers.isEmpty && (s.health.ctls.all fun h => h.buffer.isEmpty) && (s.sfus.all fun p => p.2.isEmpty)
    && s.bus.msgs.all fun m => !s.firstOfPair m || (s.messageAt m).isNone

/-- The handler thread of a context that starts one, and its thread. -/
def Ctx.handlerActor (c : Ctx) : Option Actor :=
  if c.resident && c.hentry.getLsbD 0 then c.handler.map fun i => .thread c.station c.slot i else none

/-- The handler thread starts with g1 the event number and g2 its allowance. An answer that another package owes comes no more, and a trap of
its program that is still due is not taken. -/
def State.startDome (s : State) (c : Ctx) (a : Actor) : State :=
  s.modThr a fun t =>
    ({ (t.setReg 1 (w64 (s.dome.event % 2 ^ 32))).setReg 2 (w64 c.allowance) with
      run := .running, wait := .none, pend := [], trapDue := none }).jump (c.hentry &&& ~~~ 1#64)

/-- DOME_HANDLER_START: answers that other packages still owe come no more. -/
def execDomeHandlerStart (s : State) : Out :=
  if s.dome.phase == .frozen && s.frozen then
    let hs := s.ctxs.filterMap fun c => c.handlerActor.map fun a => (c, a)
    let s := { s with bus := { s.bus with outs := [] } }
    let s := hs.foldl (fun s p => s.startDome p.1 p.2) s
    .next { s with dome := { s.dome with phase := .handlers (hs.map fun p => (p.2, s.cycle.toNat)) } }
  else .next s

/-- ALLOWANCE_EXPIRY of the handler thread in `arg`: its allowance counts in cycles from its start. -/
def execAllowanceExpiry (s : State) : Out :=
  match s.model.arg, s.dome.phase with
  | .actor a, .handlers rs =>
    match rs.find? fun r => r.1 == a, s.actorCtx a with
    | some r, some c =>
      if r.2 + c.allowance ≤ s.cycle.toNat then .next (s.modThr a fun t => { t with run := .halted, wait := .none }) else .next s
    | _, _ => .next s
  | _, _ => .next s

/-- Every handler has ended, and what they issued is performed. -/
def State.handlersDone (s : State) : Bool :=
  match s.dome.phase with
  | .handlers rs => s.frozen && rs.all fun r => match s.thrOf r.1 with | some t => t.run != .running | none => true
  | _ => false

/-! ### Step 4: torn ranges (R423, R426) -/

/-- Joins a torn range with those after it, sorted by offset, that overlap or touch it: 15 for parts of different causes. -/
def joinFrom (t : Nat × Nat × Nat) : List (Nat × Nat × Nat) → List (Nat × Nat × Nat)
  | [] => [t]
  | u :: r =>
    if u.1 ≤ t.1 + t.2.1 then joinFrom (t.1, Nat.max (t.1 + t.2.1) (u.1 + u.2.1) - t.1, if t.2.2 = u.2.2 then t.2.2 else 15) r
    else t :: joinFrom u r

/-- Joins sorted torn ranges (R426). -/
def joinTorn : List (Nat × Nat × Nat) → List (Nat × Nat × Nat)
  | [] => []
  | t :: r => joinFrom t r

/-- Where the smallest gap stands, the first of equals: position and gap. -/
def smallestGap : List (Nat × Nat × Nat) → (i : Nat) → Option (Nat × Nat)
  | a :: b :: r, i =>
    let g := b.1 - (a.1 + a.2.1)
    match smallestGap (b :: r) (i + 1) with
    | some (j, h) => if h < g then some (j, h) else some (i, g)
    | none => some (i, g)
  | _, _ => none

/-- Merges the pair at a position into one range of cause 15. -/
def mergeAt : List (Nat × Nat × Nat) → Nat → List (Nat × Nat × Nat)
  | a :: b :: r, 0 => (a.1, b.1 + b.2.1 - a.1, 15) :: r
  | a :: r, i + 1 => a :: mergeAt r i
  | l, _ => l

/-- Merges until four ranges are left. `fuel` bounds the merges. -/
def limitTorn : (fuel : Nat) → List (Nat × Nat × Nat) → List (Nat × Nat × Nat)
  | 0, l => l
  | n + 1, l => if l.length ≤ 4 then l else match smallestGap l 0 with | some (i, _) => limitTorn n (mergeAt l i) | none => l

/-- Torn ranges of an entry (R426): offset, length in 64-byte units, cause. -/
def tornRanges (ts : List (Nat × Nat × Nat)) : List (Nat × Nat × Nat) :=
  let l := joinTorn (sortBy (fun a b => decide (a.1 < b.1)) ts)
  limitTorn l.length l

/-! What had not ended at the freeze (R423) -/

/-- Local addresses of the 64-byte lines of a virtual range of a context. -/
def State.linesOf (s : State) (u : UnitId) (c : Ctx) (va n : Nat) (need : Need) : List Nat :=
  match xlateEach u c.asid need c.service (pagesOf va n) (va / 0x10000 * 0x10000) s with
  | (s, fs) =>
    (List.range (ceilDiv n 64)).filterMap fun k =>
      match fs.getD ((va % 0x10000 + 64 * k) / 0x10000) none with
      | some f => (match s.home f with | .hbm l | .spad _ l => some ((l + (va + 64 * k) % 0x10000) / 64) | _ => none)
      | none => none
where
  /-- Frames of pages, each by itself. -/
  xlateEach (u : UnitId) (asid : Nat) (need : Need) (svc : Bool) : (n : Nat) → (va : Nat) → State → State × List (Option Nat)
    | 0, _, s => (s, [])
    | n + 1, va, s =>
      let (s, x) := s.translate u asid va need svc
      let (s, r) := xlateEach u asid need svc n (va + 0x10000) s
      (s, (match x with | .ok pa _ => some pa | _ => none) :: r)

/-- Lines that a work item writes; a multicast copy writes in other packages. -/
def State.jobLines (s : State) (j : Job) : List Nat :=
  match s.ctxOf j.producer with
  | none => []
  | some c =>
    let u := UnitId.engine j.die j.eng
    if j.eng = 8 then
      let n := j.ranks * j.blockBytes
      let buffer := if j.op = 0x14 ∨ (j.op = 0x13 ∧ j.rank = 0) then [] else s.linesOf u c j.buffer n .w
      buffer ++ (j.exchange :: j.peers).flatMap fun a => s.linesOf u c a (n + 64 * j.ranks) .w
    else if j.op = 2 ∨ j.step = 0 then []
    else
      match j.dstTile with
      | none => s.linesOf u c (itemBits j.item 191 128) j.length .w
      | some (cid, i) =>
        match (s.ctxOf cid).bind fun d => (d.tileAt i).map fun t => d.partAddr t.base with
        | some a => (List.range (ceilDiv j.length 64)).map fun k => a / 64 + k
        | none => []

/-- Lines of a write stream's range: those homed at its controller. -/
def State.streamLines (s : State) (x : Stream) : List Nat :=
  match s.ctxOf x.ctx with
  | none => []
  | some c =>
    if x.write then (s.linesOf (s.streamUnit x) c x.base (4096 * x.granules) .w).filter fun l => hbmCtl (64 * l) == x.ctl else []

/-- Lines of a body write. -/
def Ctx.bodyLines (c : Ctx) : List Nat :=
  match c.bodyWrite with
  | none => []
  | some w => (List.range (w.plate.len / 64)).map fun k => (w.frames.getD ((w.off + 64 * k) / 0x10000) 0 + (w.off + 64 * k) % 0x10000) / 64

/-- Lines that a context's rollback, not ended at the freeze, still restores. -/
def State.rollLines (s : State) (c : Ctx) : List Nat :=
  if c.rolling then (c.undoLog.map (·.line)) ++ c.journals.flatMap fun e => let pa := s.read (e.2) 7; [pa / 64, pa / 64 + 1] else []

def State.flightLines (s : State) : List Nat := s.jobs.flatMap s.jobLines ++ s.streams.flatMap s.streamLines ++ s.ctxs.flatMap Ctx.bodyLines

/-! ### Step 4: one segment -/

/-- Local line of each 64-byte unit of a segment: none where its page fails to translate. -/
def State.segmentLines (s : State) (c : Ctx) (x : Segment) : State × List (Option Nat) :=
  if x.spad then (s, (List.range (x.len / 64)).map fun k => some (c.partAddr x.base / 64 + k))
  else
    let (s, fs) := State.linesOf.xlateEach (.station c.station) c.asid .r c.service (pagesOf x.base x.len) (x.base / 0x10000 * 0x10000) s
    (s, (List.range (x.len / 64)).map fun k =>
      match fs.getD ((x.base % 0x10000 + 64 * k) / 0x10000) none with
      | some f => (match s.home f with | .hbm l => some ((l + (x.base + 64 * k) % 0x10000) / 64) | _ => none)
      | none => none)

/-- Torn ranges of a segment that is copied. -/
def State.segmentTorn (s : State) (c : Ctx) (x : Segment) (ls : List (Option Nat)) : List (Nat × Nat × Nat) :=
  let units := x.len / 64
  let open_ := (c.opens.filter fun o => o.index == x.index).map fun o => (o.off / 64, o.len / 64, 2)
  let flight := s.flightLines
  let hit := fun (ms : List Nat) (p : Option Nat) => match p with | some l => ms.contains l | none => false
  let moving := if ls.any (hit (s.ctxs.flatMap s.rollLines)) then [(0, units, 1)] else
    ls.zipIdx.filterMap fun p => if hit flight p.1 then some (p.2, 1, 1) else none
  let bad := (List.range (plateGranules x.len)).filterMap fun g =>
    let part := (ls.drop (64 * g)).take 64
    if part.any fun p => match p with | some l => s.granulePoisoned l | none => true then some (64 * g, part.length, 3) else none
  tornRanges (open_ ++ moving ++ bad)

/-- The entry of a segment that is not copied. -/
def State.absentPlate (s : State) (c : Ctx) (x : Segment) : Plate :=
  let g := s.gangs.find? fun g => g.id == c.gang
  { event := s.dome.event, loc := 0, sealed := false, torn := [], cls := x.cls, spad := x.spad, handler := c.handler.isSome, index := x.index,
    order := x.order, base := x.base, version := (g.map (·.version)).getD 0, slot := c.slot, station := c.station, len := x.len,
    name := (g.map (·.name)).getD [], logical := c.logical, sub := c.sub, body := [], failed := [], sealBad := false, owner := none }

def State.addPlate (s : State) (p : Plate) : State := { s with dome := { s.dome with plates := s.dome.plates ++ [p] } }

/-- The lowest free run for a plate beside those of the directory and of this event. -/
def State.placeOf (s : State) (len : Nat) : Option Nat :=
  placePlate ((s.oldPlates ++ s.dome.plates).filterMap Plate.run) (plateUnits len)

/-- Copies a segment into its plate and seals it. -/
def State.copySegment (s : State) (c : Ctx) (x : Segment) (loc : Nat) : State :=
  let (s, ls) := s.segmentLines c x
  let body := ls.flatMap fun p => match p with | some l => memBytes s.mem (64 * l) 64 | none => List.replicate 64 0
  s.addPlate { s.absentPlate c x with loc := loc, sealed := true, torn := s.segmentTorn c x ls, body := body }

/-- One segment has its outcome (R423). Whether the bank's energy finishes a class 3 plate is free. -/
def State.closeSegment (s : State) (c : Ctx) (x : Segment) : State :=
  let absent := s.addPlate (s.absentPlate c x)
  let opened := c.opens.any fun o => o.index == x.index
  if opened && c.handler.isNone then absent
  else
    match s.placeOf x.len with
    | none => if x.cls = 3 then { absent with dome := { absent.dome with stop3 := true } } else absent
    | some loc =>
      if x.cls = 3 then
        if s.dome.stop3 then absent
        else
          let (enough, s) := s.freeBit
          if !enough then
            let s := s.addPlate (s.absentPlate c x)
            { s with dome := { s.dome with stop3 := true } }
          else if !x.spad && !s.dome.keepAlive then s.addPlate (s.absentPlate c x)
          else s.copySegment c x loc
      else s.copySegment c x loc

/-- DOME_COPY: the next segment in the order of R423, one at a time; after the last the directory follows. -/
def execDomeCopy (s : State) : Out :=
  if s.handlersDone || s.dome.phase == .copying then
    match s.closeOrder[s.dome.plates.length]? with
    | some (c, x) =>
      let s := s.closeSegment c x
      .next { s with dome := { s.dome with phase := .copying } }
    | none => .next { s with dome := { s.dome with phase := .directory } }
  else .next s

/-! ### Step 6 -/

/-- The directory of this event (R427). -/
def State.newDirectory (s : State) : Directory :=
  { valid := true, generation := (match s.directory with | some x => x.generation | none => 0) + 1, event := s.dome.event,
    returned := s.dome.returned, kept := s.dome.keepAlive, plates := s.oldPlates ++ s.dome.plates, records := s.tree.laneF }

/-- DOME_DIRECTORY_WRITE: `arg` says false when the write cannot complete; the previous copy then stands (R433). The part stops. -/
def execDomeDirectoryWrite (s : State) : Out :=
  if s.dome.phase == .directory then
    let s := if s.model.arg == .flag false then s else s.putDirectory s.newDirectory
    .next { s with dome := { s.dome with phase := .stopped } }
  else .next s

/-- POWER_RETURN: the sequence runs on; the part resets and boots after it. -/
def execPowerReturn (s : State) : Out :=
  if s.dome.phase == .idle then .next s else .next { s with dome := { s.dome with returned := true } }

end Sys2Proof.Machine
end

