-- ==== Sys2Proof/Machine/Faults.lean ====
section
/-! DEFINITION. The root of the fault tree (R391-R394), and the detection of poison (R409). -/

namespace Sys2Proof.Machine

/-- A lane has no base or no free entry (R394). -/
def State.laneFull (s : State) (laneR : Bool) : Bool :=
  if laneR then s.tree.lrbase == 0 || (s.tree.lrhead + 2 ^ 32 - s.tree.lrtail) % 2 ^ 32 == 4096
  else s.tree.lfbase == 0 || (s.tree.lfhead + 2 ^ 32 - s.tree.lftail) % 2 ^ 32 == 256

/-- Writes a record at its lane's next entry, then HEAD (R394). -/
def State.writeLane (s : State) (r : Record) (seq : Nat) : State :=
  let bs := bytesOf 64 (r.bits seq).toNat
  if r.laneR then
    let s := s.writeWhole none (s.tree.lrbase.toNat + 64 * (s.tree.lrhead % 4096)) bs
    { s with tree := { s.tree with lrhead := (s.tree.lrhead + 1) % 2 ^ 32 } }
  else
    let s := s.writeWhole none (s.tree.lfbase.toNat + 64 * (s.tree.lfhead % 256)) bs
    { s with tree := { s.tree with lfhead := (s.tree.lfhead + 1) % 2 ^ 32 } }

/-- A record that the root has numbered and its lane has not taken. -/
def State.heldRecord (s : State) (laneR : Bool) : Option Record := s.tree.recs.find? fun r => r.laneR == laneR && r.seq.isSome

def State.dropRecord (s : State) (r : Record) : State := { s with tree := { s.tree with recs := dropFirst (· == r) s.tree.recs } }

/-- The next record of a lane that may reach the root: none while one of its lane is held, and none before an earlier record of its
source (R393). -/
def State.nextRecord (s : State) (laneR : Bool) : Option Record :=
  if (s.heldRecord laneR).isSome then none
  else
    let waiting := s.tree.recs.filter fun r => r.seq.isNone
    waiting.find? fun r =>
      r.laneR == laneR && (waiting.find? fun x => x.kind == r.kind && x.source == r.source) == some r

/-- A mailbox entry that waits for its record's number gets it (R390). -/
def State.sendNote (s : State) (r : Record) (seq : Nat) : State :=
  match r.note with
  | some (cid, e) => s.mail cid (e ||| BitVec.ofNat 128 (seq % 2 ^ 32 * 2 ^ 64))
  | none => s

/-- The root accepts a record: it numbers it, and writes it or holds it. Lane F records up to POWER-FAIL are kept for the directory (R427). -/
def State.acceptRecord (s : State) (r : Record) : State :=
  let seq := s.tree.rootSeq
  let s := { s with tree := { s.tree with rootSeq := seq + 1 } }
  let s := if r.laneR || s.closing then s else
    { s with tree := { s.tree with laneF := (s.tree.laneF ++ [r.bits seq]).drop (s.tree.laneF.length - 63) } }
  let s := if s.laneFull r.laneR then
      { s with tree := { s.tree with recs := modifyFirst (· == r) (fun x => { x with seq := some seq }) s.tree.recs } }
    else (s.dropRecord r).writeLane r seq
  s.sendNote r seq

/-- A held record is written once its lane has room. -/
def State.writeHeld (s : State) (laneR : Bool) : Option State :=
  match s.heldRecord laneR with
  | some r => match r.seq with
    | some n => if s.laneFull laneR then none else some ((s.dropRecord r).writeLane r n)
    | none => none
  | none => none

/-- FAULT_ROOT_ACCEPT: held records first, then the oldest record, lane F ahead of lane R. -/
def execFaultRootAccept (s : State) : Out :=
  match s.writeHeld false, s.writeHeld true, s.nextRecord false, s.nextRecord true with
  | some s, _, _, _ => .next s
  | none, some s, _, _ => .next s
  | none, none, some r, _ => .next (s.acceptRecord r)
  | none, none, none, some r => .next (s.acceptRecord r)
  | _, _, _, _ => .next s

/-- POISON_DETECT: a 64-byte granule of DRAM or scratchpad by its number, or the item at a position of a queue home. -/
def execPoisonDetect (s : State) : Out :=
  match s.model.arg with
  | .n1 g => if (s.localHome (64 * g)).isMem then .next (s.poisonGranule g) else .next s
  | .n3 q h k =>
    let bad := fun (e : QEntry) => match e with | .item i => QEntry.item { i with poison := true } | m => m
    .next (s.modQueue q fun q => { q with homes := q.homes.modify h fun x => { x with entries := x.entries.modify k bad } })
  | _ => .next s

end Sys2Proof.Machine
end

