-- ==== Sys2Proof/Machine/Link.lean ====
section
/-! DEFINITION. The link and the host's ports: inbound accesses (R369), refusals that return (R371, R372), link failures (R378), PCIe
(R380), and BAR0 (R455). -/

namespace Sys2Proof.Machine

/-! ### Inbound accesses -/

/-- Rights that an access needs: read, write (R369). -/
def remoteNeed : RemoteOp → Bool × Bool
  | .load _ => (true, false)
  | .store _ _ | .line _ _ => (false, true)
  | .atomic _ _ _ | .cas _ _ _ => (true, true)

def remoteMem : RemoteOp → MemOp
  | .load n => .load n
  | .store n bs => .store n bs
  | .atomic op n b => .atomic op n b
  | .cas n e v => .cas n e v
  | .line bs bad => .line bs bad

/-- Entry fields of the peer and bus-window tables (R368). -/
def winSource (e : BitVec 128) : Nat := bitsOf e.toNat 127 112
def winBase (e : BitVec 128) : Nat := bitsOf e.toNat 45 16 * 65536
def winLength (e : BitVec 128) : Nat := bitsOf e.toNat 95 64

/-- InboundCheck of R369 against the entries of a table, by their numbers. -/
def inboundCheck (es : List (Nat × Staged 128)) (src off : Nat) (need : Bool × Bool) : Status :=
  let hit := es.filter fun p =>
    let e := p.2.cur
    peerState e != 0 && winSource e == src && decide (winBase e ≤ off) && decide (off < winBase e + 65536 * winLength e)
  match best (fun (a b : Nat × Staged 128) => decide (a.1 < b.1)) hit with
  | none => stPermission
  | some (_, e) =>
    if peerState e.cur = 2 then stNackRevoked
    else if (need.1 && !e.cur.getLsbD 109) || (need.2 && !e.cur.getLsbD 108) then stPermission
    else stOK

/-- Sends an admitted access to its home: to a memory controller as a request of class 4 (R318), which answers when it has performed it.
A scratchpad performs it at once. -/
def State.takeIn (s : State) (who : Source) (src : Nat) (pcie : Bool) (off : Nat) (op : MemOp) : State :=
  match s.localHome off with
  | .hbm l => (s.request who 0 l 0 none op (.reply src pcie)).1
  | _ =>
    let (s, x) := s.perform none off op
    s.reply src pcie x

/-- What an engine sends as a piece, and so a piece of a collective's transfer: 64 bytes written whole (R410; DEDUCED, log 58). -/
def transferOp : RemoteOp → Bool
  | .line _ _ => true
  | _ => false

/-- An access that another package sends here: the entry is checked (R369), then the home, which has to be memory. -/
def State.inbound (s : State) (src off : Nat) (op : RemoteOp) : State :=
  let refuse := fun (st : Status) => s.reply src false ⟨0, st, 0, false⟩
  if inCtlWindow off then refuse stPermission
  else
    match inboundCheck s.link.peers src off (remoteNeed op) with
    | 0x00#8 =>
      if !(s.localHome off).isMem then refuse stPermission
      else if transferOp op ∧ s.stagingFull off then refuse stBusy
      else s.takeIn (.link src) src false off (remoteMem op)
    | st => refuse st

/-- What a member of a domain in another package does reaches this one (R288, R292, R404, R406; log 71). -/
def State.farSync (s : State) (d : Domain) (rank : Nat) (what : FarSync) : State :=
  let mine := s.ctxs.find? fun c => d.has c && (match c.snap with | some sn => sn.level == d.level | none => false)
  match (d.members[rank]?).bind fun m => d.far.find? fun f => f.id == m with
  | none => s
  | some m =>
    match what with
    | .join t sub ga v =>
      let form : JoinForm := match sub with | 0 => .bar | 1 => .barsnap | 2 => .reduce | _ => .done
      if t < 8 ∧ m.mask.getLsbD t then ((s.join d ⟨m.id, t, form, ga, v, 0⟩).2).settle else s
    | .retire =>
      let same := fun (x : Domain) => x.level == d.level && x.number == d.number
      ({ s with domains := modifyFirst same (fun d => { d with broken := true }) s.domains }).settle
    | .unprotect reason => (match mine with | some c => s.unprotect c.id reason | none => s)
    | .roll => (match mine with | some c => if c.rollsBack then s.startRollback c.id else s | none => s)

/-- INBOUND_ACCESS. The ports perform nothing once power has failed (R421), and nothing comes by a port whose link is down (R452). -/
def execInboundAccess (s : State) : Out :=
  match s.model.arg with
  | .inbound port src off op => if s.closing ∨ s.linkUp port = false then .next s else .next (s.inbound src off op)
  | .far port level number rank what =>
    match s.domainAt level number with
    | some d => if s.closing ∨ s.linkUp port = false then .next s else .next (s.farSync d rank what)
    | none => .next s
  | _ => .next s

/-! ### Refusals -/

/-- The status that a work item takes from a refusal (R297, R371). -/
def refusedItem (st : Status) : Status := if st = stNackRevoked then stNackRevoked else stDenied

/-- A refused request of an engine: a piece, a member's copy, or an access of a collective. -/
def State.refuseJob (s : State) (j : Job) (r : OutReq) (st : Status) : State :=
  match j.left.find? fun x => x.1 == r.id with
  | some (_, p, _) =>
    let bit := BitVec.ofNat 512 (2 ^ p)
    s.modJob j.die j.eng fun j =>
      if st = stNackRevoked then { j with revoked := j.revoked ||| bit } else { j with others := j.others ||| bit }
  | none =>
    if j.eng = 8 ∧ st = stBusy then s.refuseStaging j (bitsOf r.pa 54 46)
    else if j.reported then s
    else
      let s := s.modJob j.die j.eng fun j => { j with pend := j.pend.filter fun p => p.out != r.id }
      s.failJob j (refusedItem st)

/-- A refusal of a request that left the part returns (R371, R372). A hart that runs loaded microcode has no k.lnack (log 14). -/
def State.refuseOut (s : State) (r : OutReq) (st : Status) : State :=
  let s := s.dropOut r.id
  let job := match r.who with | .job d e => s.jobOf d e | _ => none
  match job with
  | some j => s.refuseJob j r st
  | none =>
    match r.ans with
    | .none => s.countRefusal r.ctx r.pa st
    | .lane at_ => s.laneAnswered at_ r.id none
    | ans =>
      if ans.isLoad then s.answerTo r.who r.id ans r.ea r.pa ⟨0, stPermission, 0, false⟩
      else
        let s := s.countRefusal r.ctx r.pa st
        s.answerTo r.who r.id ans r.ea r.pa ⟨0, if st = stTimeout then stPermission else st, 0, false⟩

/-- REFUSAL_RETURN. -/
def execRefusalReturn (s : State) : Out :=
  match s.model.arg with
  | .refusal id st =>
    match s.bus.outs.find? fun r => r.id == id && r.pkg.isSome with
    | some r => if s.linked then .next (s.refuseOut r st) else .next s
    | none => .next s
  | _ => .next s

/-! ### Link failures (R378) -/

/-- LINK_PORT_FAILURE: the port is fenced and a record goes to lane F. A port that is not accepted is absent (R452). -/
def execLinkPortFailure (s : State) : Out :=
  match s.model.arg with
  | .port p far =>
    if s.link.portsDown.contains p || !s.boot.acc1.getLsbD p then .next s
    else
      let s := { s with link := { s.link with portsDown := p :: s.link.portsDown } }
      .next (s.post clLinkFailure 4 p none (detailOf [(p, 0), (match far with | some q => q % 512 | none => 0, 32)]))
  | _ => .next s

/-- PACKAGE_UNREACHABLE: no port has reached the package for 2^20 cycles. -/
def State.losePackage (s : State) (p : Nat) : State :=
  let s := { s with link := { s.link with unreachable := if s.link.unreachable.contains p then s.link.unreachable else p :: s.link.unreachable } }
  (s.bus.outs.filter fun r => r.pkg == some p).foldl (fun s r => s.refuseOut r stTimeout) s

def execPackageUnreachable (s : State) : Out :=
  match s.model.arg with
  | .n1 p => .next (s.losePackage p)
  | _ => .next s

/-- PACKAGE_REACHABLE by some port: refusals already given stand. -/
def execPackageReachable (s : State) : Out :=
  match s.model.arg with
  | .n1 p => if s.linked then .next { s with link := { s.link with unreachable := s.link.unreachable.filter (· != p) } } else .next s
  | _ => .next s

/-! ### PCIe (R379, R380) -/

/-- The forms that a PCIe requester has: reads and writes. An atomic is an option that R379 does not list (log 59). -/
def pcieOp : RemoteOp → Bool
  | .load _ | .store _ _ => true
  | _ => false

def pcieStore : RemoteOp → Bool
  | .store _ _ => true
  | _ => false

/-- PCIE_INBOUND_REQUEST through BAR2: a refused write is dropped whole and reported as an AER non-fatal error of its port; any other
refused request completes with Unsupported Request, which its reply carries as PERMISSION. -/
def execPcieInboundRequest (s : State) : Out :=
  match s.model.arg with
  | .pcie port rq off relaxed op =>
    if s.closing then .next s
    else
      let st := if s.part = 2 ∨ 0x8000000000 ≤ off ∨ pcieOp op = false then stPermission
        else inboundCheck s.link.buses rq off (remoteNeed op)
      if st = stOK then .next (s.takeIn (.pcie port (relaxed && pcieStore op)) rq true off (remoteMem op))
      else if pcieStore op then
        .next { s with link := { s.link with aer := assign s.link.aer port (lookupD s.link.aer port 0 + 1) } }
      else .next (s.reply rq true ⟨0, stPermission, 0, false⟩)
  | _ => .next s

/-! ### BAR0 (R455) -/

/-- What a BAR0 offset reaches. -/
inductive Bar0 where
  | ctl (off : Nat)
  | log (off : Nat)
  | boot (off : Nat)
  | msix (off : Nat)
  | none
deriving DecidableEq, Repr

def bar0At (off : Nat) : Bar0 :=
  if off < 0x100 ∨ (0x800 ≤ off ∧ off < 0x900) then .ctl off
  else if 0x10000 ≤ off ∧ off < 0x20000 then .log off
  else if 0x100000 ≤ off ∧ off < 0x200000 then .boot (off - 0x100000)
  else if 0x3FF0000 ≤ off ∧ off < 0x4000000 then .msix (off - 0x3FF0000)
  else .none

/-- A host access to BAR0 of 4 or 8 bytes, naturally aligned (R30). -/
def State.bar0 (s : State) (off size : Nat) (write : Option Word) : State :=
  let answer := fun (v : Nat) => s.reply 0 true ⟨v % 2 ^ (8 * size), stOK, 0, false⟩
  match bar0At off, write with
  | .ctl o, none => answer (s.ctlRead (.pkgCtl o) size)
  | .ctl o, some v => s.ctlWrite (.pkgCtl o) size v.toNat
  | .log o, none => answer (s.ctlRead (.pkgCtl o) size)
  | .log _, some _ => s
  | .boot o, none => answer (memNat s.boot.window o size)
  | .boot o, some v => if s.boot.stage = 1 then { s with boot := { s.boot with window := memWrite s.boot.window o (bytesOf size v.toNat) } } else s
  | .msix o, none => answer ((s.msixWord (o / 8)).toNat >>> (8 * (o % 8)))
  | .msix o, some v => s.msixWrite o size v
  | .none, none => answer 0
  | .none, some _ => s

/-- HOST_BAR0_ACCESS: from the freeze of dome-close on, writes are dropped and reads are not answered (R385). An access of another size or
alignment than R30 gives reads as zero and writes nothing (log 59). -/
def execHostBar0Access (s : State) : Out :=
  match s.model.arg with
  | .bar0 off size write =>
    if s.closing then .next s
    else if (size = 4 ∨ size = 8) ∧ off % size = 0 then .next (s.bar0 off size write)
    else .next (if write.isSome then s else s.reply 0 true ⟨0, stOK, 0, false⟩)
  | _ => .next s

end Sys2Proof.Machine
end

