-- ==== Sys2Proof/Machine/Health.lean ====
section
/-! DEFINITION. Memory health (R436-R441) and in-field test (R442). -/

namespace Sys2Proof.Machine

/-! ### Refresh, retraining and temperature (R437, R438) -/

/-- REFRESH: one refresh command to a pseudo-channel: controller, pseudo-channel. -/
def execRefresh (s : State) : Out :=
  match s.model.arg with
  | .n2 c p =>
    if s.part = 2 ∨ 96 ≤ c ∨ 32 ≤ p then .next s
    else .next (s.modHealth c fun h => { h with refresh := assign h.refresh p (lookupD h.refresh p 0 + 1) })
  | _ => .next s

/-- RETRAIN_BURST: due after every HTRAIN refresh commands; three failures in a row retire the pseudo-channel with reason 1, once
no other retirement of its controller is in progress. -/
def State.retrain (s : State) (c p : Nat) (ok : Bool) : State :=
  let h := s.healthOf c
  if lookupD h.refresh p 0 < h.htrain.toNat then s
  else
    let before := lookupD h.failed p 0
    let n := if ok ∧ before < 3 then 0 else before + 1
    let go := decide (3 ≤ n) && h.retiring.isNone && !s.health.deadPch.contains (c, p)
    let s := s.modHealth c fun h => { h with refresh := assign h.refresh p 0, failed := assign h.failed p (if go then 0 else n) }
    if go then s.pchRetireStart c p 1 else s

def execRetrainBurst (s : State) : Out :=
  match s.model.arg with
  | .burst c p ok => if s.part = 2 then .next s else .next (s.retrain c p ok)
  | _ => .next s

/-- TEMPERATURE_BAND_CHANGE: stack, layer, band; every controller of the stack reads it. -/
def execTemperatureBandChange (s : State) : Out :=
  match s.model.arg with
  | .n3 stack layer band =>
    if s.part = 2 ∨ 8 ≤ stack ∨ 16 ≤ layer ∨ 4 ≤ band then .next s
    else
      let put := fun (t : Word) => (t &&& ~~~ (0xF#64 <<< (4 * layer))) ||| w64 (band * 2 ^ (4 * layer))
      .next ((List.range 12).foldl (fun s k => s.modHealth (12 * stack + k) fun h => { h with htemp := put h.htemp }) s)
  | _ => .next s

/-! ### Spares (R439, R440) -/

def State.putBank (s : State) (b : Bank) : State :=
  let same := fun (x : Bank) => x.ctl == b.ctl && x.pch == b.pch && x.bank == b.bank
  { s with health := { s.health with banks := b :: s.health.banks.filter fun x => !same x } }

/-- The 128-byte piece, by address / 128, that granule slot `q` keeps on a pseudo-channel of a controller (R31, R32). -/
def pieceOf (c pch q : Nat) : Nat := hbmGranule c q / 128 + pch

/-- ROW-SPARES-EXHAUSTED records for distinct pages. -/
def State.postRows (s : State) (pages : List Nat) (c pch bank row : Nat) : State :=
  pages.foldl (fun s p => s.post clRowSpares 3 c none (detailOf [(p * 0x10000, 0), (c, 64), (pch, 71), (bank, 76), (row, 81)])) s

/-- A row has no spare left: its pieces read as poisoned and take no write (R440). -/
def State.exhaustRow (s : State) (c pch bank row : Nat) (slots : List Nat) : State :=
  let ps := slots.map (pieceOf c pch)
  let s := { s with health := { s.health with dead := ps ++ s.health.dead } }
  s.postRows ((ps.map (· / 512)).eraseDups) c pch bank row

/-- Every bank of a pseudo-channel has an exhausted row: it is retired with reason 3 (R441). -/
def State.allExhausted (s : State) (c pch : Nat) : Bool :=
  (List.range 32).all fun b => !(s.bankOf c pch b).exhausted.isEmpty

/-- Weak granules of a bank's rows, once this one is among them unless it is uncorrectable (R439). -/
def Bank.weakWith (b : Bank) (row g : Nat) (uncorrectable : Bool) : List (Nat × Nat) :=
  if uncorrectable ∨ b.weak.contains (row, g) then b.weak else b.weak ++ [(row, g)]

/-- A row has fewer than 3 weak granules. -/
def fewWeak (ws : List (Nat × Nat)) (row : Nat) : Bool := decide ((ws.filter fun w => w.1 == row).length < 3)

/-- SpareEvent of R439. A row moved to a spare row has no weak granule any more. A row that is exhausted is spared no more. -/
def State.spareEvent (s : State) (c pch bank row g : Nat) (slots : List Nat) (uncorrectable : Bool) : State :=
  let b := s.bankOf c pch bank
  let ws := b.weakWith row g uncorrectable
  if b.exhausted.contains row || s.health.deadPch.contains (c, pch) then s
  else if !uncorrectable && fewWeak ws row && decide (0 < b.remaps) && decide (0 < b.granules) then
    s.putBank { b with remaps := b.remaps - 1, granules := b.granules - 1, weak := ws }
  else if 0 < b.rows then s.putBank { b with rows := b.rows - 1, weak := ws.filter fun w => w.1 != row }
  else
    let s := (s.putBank { b with weak := ws, exhausted := row :: b.exhausted }).exhaustRow c pch bank row slots
    if s.allExhausted c pch then s.pchRetireStart c pch 3 else s

def execSpareEvent (s : State) : Out :=
  match s.model.arg with
  | .spare c pch bank row g slots unc => if s.part = 2 then .next s else .next (s.spareEvent c pch bank row g slots unc)
  | _ => .next s

/-! ### The switch of a retirement (R441) -/

/-- A spare pseudo-channel of a stack that no logical one uses. -/
def State.freeSpare (s : State) (stack : Nat) : Option Nat := (List.range 4).find? fun i => (lookup s.health.hpmap (stack, i)).isNone

/-- The buffered accesses are performed in arrival order. -/
def State.replay (s : State) (c : Nat) : State :=
  let rs := (s.healthOf c).buffer
  let s := s.modHealth c fun h => { h with buffer := [], retiring := none }
  rs.foldl (fun s r => s.performReq r) s

/-- The record of a retirement. -/
def State.postRetired (s : State) (c pch : Nat) (spare : Option Nat) (reason poisoned : Nat) : State :=
  s.post clChannelRetired 3 c none
    (detailOf [(c, 0), (pch, 7), (spare.getD 0, 12), (boolNat spare.isNone, 14), (reason, 15), (poisoned, 32)])

/-- Granule slots of a controller (R16, R31, R32). -/
def slotsOf (c : Nat) : Nat := (0x8000000 + 95 - c) / 96

/-- Pages of 64 KiB that have a granule at a controller. -/
def pagesAt (c : Nat) : List Nat :=
  ((List.range (slotsOf c + 1)).filter fun q => decide (hbmGranule c q < 0x8000000000)).map (fun q => hbmGranule c q / 0x10000) |>.eraseDups

/-- A granule, by address / 64, lies on a pseudo-channel. -/
def onPch (c pch g : Nat) : Bool := decide (64 * g < 0x8000000000) && hbmCtl (64 * g) == c && hbmPch (64 * g) == pch

/-- The copy of step 3 at its switch: granules of exhausted rows arrive poisoned, and the spare's own banks are fresh; failures of training
counted at the old location are no failures here. -/
def State.copied (s : State) (c pch : Nat) : State :=
  let gs := (s.health.dead.flatMap fun p => [2 * p, 2 * p + 1]).filter (onPch c pch)
  let s := gs.foldl (fun s g => s.poisonGranule g) s
  let s := { s with health := { s.health with
    dead := s.health.dead.filter fun p => !onPch c pch (2 * p)
    banks := s.health.banks.filter fun b => b.ctl != c || b.pch != pch } }
  s.modHealth c fun h => { h with failed := erase h.failed pch }

/-- A pseudo-channel of the controller whose banks are all exhausted, and which waits for its own retirement. -/
def State.nextRetire (s : State) (c : Nat) : State :=
  match (List.range 32).find? fun p => s.allExhausted c p && !s.health.deadPch.contains (c, p) with
  | some p => s.pchRetireStart c p 3
  | none => s

/-- Steps 4 and 5, or the end of a retirement for which no spare is free. -/
def State.pchSwitch (s : State) (c pch reason : Nat) : State :=
  match s.freeSpare (c / 12) with
  | some i =>
    let s := s.copied c pch
    let bad := (s.poison.filter (onPch c pch)).length
    let s := { s with health := { s.health with hpmap := assign s.health.hpmap (c / 12, i) (32 * (c % 12) + pch) } }
    ((s.replay c).modHealth c fun h => { h with hretire := 2 }).postRetired c pch (some i) reason bad
  | none =>
    let s := (s.replay c).modHealth c fun h => { h with hretire := 3, failed := erase h.failed pch }
    let s := s.postRetired c pch none reason 0
    let s := { s with health := { s.health with deadPch := (c, pch) :: s.health.deadPch } }
    s.postRows (pagesAt c) c pch 0 0

/-- PCH_RETIRE_SWITCH of the controller in `arg`: the copy has ended. -/
def execPchRetireSwitch (s : State) : Out :=
  match s.model.arg with
  | .n1 c =>
    match (s.healthOf c).retiring with
    | some (pch, reason) => .next ((s.pchSwitch c pch reason).nextRetire c)
    | none => .next s
  | _ => .next s

/-! ### In-field test (R442) -/

/-- CALIBRATION_DONE: the scan controller of a die reports. A package with a good signature is measured; failing elements of the station
under test become suspects, and a pass clears the station's suspect marks (R443). -/
def State.calibrationDone (s : State) (die result vectors : Nat) (digest : BitVec 256) (suspects : List (Nat × Nat)) : State :=
  match lookup s.health.calctl die with
  | none => s
  | some v =>
    if wbits v 1 0 ≠ 0 ∨ result = 0 then s
    else
      let st := 24 * die + wbits v 12 8
      let v := w64 (result + (if result = 3 then 0 else vectors) * 2 ^ 32)
      let s := { s with health := { s.health with calctl := assign s.health.calctl die v } }
      if result = 3 then s
      else
        let s := s.measure digest 3
        let new := suspects.filter fun p => p.1 / 4 == st && !s.health.suspects.contains p
        let old := if result = 1 then s.health.suspects.filter fun p => p.1 / 4 != st else s.health.suspects
        { s with health := { s.health with suspects := if result = 2 then old ++ new else old } }

/-- A power failure ends a running test (R442). -/
def execCalibrationDone (s : State) : Out :=
  match s.model.arg with
  | .calib d r v x l => if s.part = 2 ∨ s.closing then .next s else .next (s.calibrationDone d r.toNat v.toNat x l)
  | _ => .next s

end Sys2Proof.Machine
end

