-- ==== Sys2Proof/Machine/Boot.lean ====
section
/-! DEFINITION. Power-on and signed boot (R449-R453), and the plate check (R429). -/

namespace Sys2Proof.Machine

/-- The features of a part (R452): FEAT0, FEAT1, FEAT2; 0 ZS9-P, 1 ZS9-M, 2 ZS9-D. A hold-up bank that fails its test takes [1] away (R412). -/
def partFeatures (part : Nat) (bankOk : Bool) : Word × Word × Word :=
  if part = 2 then (0x18, 0xFF, 0x100) else (if bankOk then 0x1F else 0x1D, 0xFFFFFFFF, 0x5FF)

/-- What survives a reset: which part it is, the plate store, the repair store (R439) and spare map, exhausted rows, a station whose test
was cut short (R442), and the model's counters. Contents of DRAM after a reset are not given: they read as after the first one (log 4). -/
def State.afterReset (s : State) : State :=
  let z := State.reset
  let fences := (List.range 4).map fun d =>
    match lookup s.health.calctl d with
    | some v => (d, if wbits v 1 0 = 0 then lookupD s.health.stfence d 0 % 2 ^ 24 &&& 2 ^ wbits v 12 8 else 0)
    | none => (d, 0)
  let plain := fun (p : Plate) => { p with owner := none }
  { z with
    part := s.part
    dome := { z.dome with dirs := s.dome.dirs.map fun (d : Directory) => { d with plates := d.plates.map plain } }
    health := { z.health with banks := s.health.banks, hpmap := s.health.hpmap, dead := s.health.dead, deadPch := s.health.deadPch,
                              stfence := fences.filter fun p => p.2 != 0 }
    model := { z.model with freeCount := s.model.freeCount, nextId := s.model.nextId, agenda := s.model.agenda } }

/-- A boot that fails ends in stage 15: the failing die shows it, and die 0 as BOOTSTAT; the other dies stand where they were (R450, R451). -/
def State.bootFail (s : State) (die code : Nat) : State :=
  let at_ := fun (d : Nat) => (d, if d = die then 15 else s.boot.stage)
  { s with boot := { s.boot with stage := 15, fail := code, dies := [1, 2, 3].map at_ } }

/-- The work queues of the engines (R296): of 64-byte items, defined at boot with the largest capacity (log 38). -/
def State.engineQueues (s : State) : List Queue :=
  s.engines.zipIdx.map fun p =>
    { id := s.model.nextId + p.2, ty := 0, size := 64, cap := 65536, prio := 0, gang := none,
      homes := [⟨.engine p.1.die p.1.eng, [], [], [], []⟩], seqs := [], epoch := 0 }

/-- The failure that an image and the tests give: the key's digest has to be the one fused into the die, and the version at least the fused
minimum (R450). -/
def bootCode (x : BootInput) : Nat :=
  if x.failure = 1 ∨ x.failure = 2 then x.failure
  else if x.keyDigest ≠ Config.fusedKey then 3
  else if x.version < Config.fusedVersion then 4
  else x.failure

/-- Stage 1 with a verified image: measurement entry 0. -/
def State.imageVerified (s : State) (x : BootInput) : State :=
  let s := s.measure x.digest 1
  { s with boot := { s.boot with stage := 2, version := x.version } }

/-- Stage 3: the hold-up account, and the plate check of stage 4 begins (R412, R429). -/
def State.bankTested (s : State) (x : BootInput) : State :=
  { s with
    boot := { s.boot with stage := 4 }
    dome := { s.dome with hbudget := if s.part != 2 && x.bankOk then openBudget else 0, checking := s.part != 2 } }

/-- Stage 5: the features, the service stations and the engines with their queues. -/
def State.featuresSet (s : State) (x : BootInput) : State :=
  let f := partFeatures s.part x.bankOk
  let s := { s with engines := s.engines.filter fun (e : Engine) => decide (e.die < s.dies) }
  { s with
    boot := { s.boot with stage := 6, services := x.services, feat0 := f.1, feat1 := f.2.1, feat2 := f.2.2, acc0 := f.1, acc1 := f.2.1 }
    queues := s.engineQueues
    model := { s.model with nextId := s.model.nextId + 36 } }

/-- One stage of boot (R450). An image that die 0 finds absent or does not verify makes it wait in stage 1 for the host. Stage 4 lasts until
the plate check ends. -/
def State.bootTick (s : State) : State :=
  match s.boot.input with
  | none => s
  | some x =>
    let c := bootCode x
    match s.boot.stage with
    | 0 => { s with boot := { s.boot with stage := 1 } }
    | 1 =>
      if c = 7 ∨ (1 ≤ c ∧ c ≤ 4 ∧ x.die ≠ 0) then s.bootFail x.die c
      else if 1 ≤ c ∧ c ≤ 4 then s
      else s.imageVerified x
    | 2 => if c = 5 then s.bootFail x.die 5 else { s with boot := { s.boot with stage := 3 } }
    | 3 => if c = 6 then s.bootFail x.die 6 else s.bankTested x
    | 4 => if s.dome.checking then s else { s with boot := { s.boot with stage := 5 } }
    | 5 => s.featuresSet x
    | _ => s

/-- All stages at once, for a machine on which an instruction is placed (log 40). -/
def State.bootRun (s : State) (x : BootInput) : State :=
  let s := (s.imageVerified x).bankTested x
  { s with boot := { s.boot with input := some x }, dome := { s.dome with checking := false } }.featuresSet x

/-- POWER_ON_RESET: `arg` gives what the boot's checks and tests find; the stages follow, one a cycle (R450). -/
def execPowerOnReset (s : State) : Out :=
  match s.model.arg with
  | .boot x => let s := s.afterReset; .next { s with boot := { s.boot with input := some x } }
  | _ => .next s

/-- HOST_IMAGE_READY: the host has set BOOTSTAT [31] in stage 1, and boot goes on with its image, or fails. -/
def execHostImageReady (s : State) : Out :=
  match s.model.arg with
  | .boot x =>
    if s.boot.stage ≠ 1 then .next s
    else
      let s := { s with boot := { s.boot with hostReady := true, input := some x } }
      .next (if bootCode x = 7 ∨ (1 ≤ bootCode x ∧ bootCode x ≤ 4) then s.bootFail x.die (bootCode x) else s.imageVerified x)
  | _ => .next s

/-- What the check of R429 finds of plate number `k`. -/
def Plate.check (bad : List (Nat × Nat)) (k : Nat) (p : Plate) : Plate :=
  let mine := (bad.filter fun b => b.1 == k).map Prod.snd
  let n := plateGranules p.len
  { p with failed := (mine.filter fun g => decide (g < n)).eraseDups, sealBad := mine.any fun g => decide (n ≤ g) }

/-- PLATE_CHECK_DONE: `arg` gives the granules that fail, by entry; a number past an entry's granules stands for its seal. -/
def execPlateCheckDone (s : State) : Out :=
  match s.model.arg, s.newest with
  | .plates bad, some k =>
    if s.dome.checking then
      let check := fun (d : Directory) => { d with plates := d.plates.zipIdx.map fun p => p.1.check bad p.2 }
      .next { s with dome := { s.dome with checking := false, dirs := s.dome.dirs.modify k check } }
    else .next s
  | .plates _, none => .next { s with dome := { s.dome with checking := false } }
  | _, _ => .next s

end Sys2Proof.Machine
end

