-- ==== Sys2Proof/Machine/ImageCheck.lean ====
section
/-! DEFINITION. What the loader checks of an image (R37 step 1): relocations (R58), blocks (R61, R68, R106, R109, R118, R133, R313), overlaps
(R225), queues (R59, R268), graphs (R178), and declarations (R36, R59). -/

namespace Sys2Proof

open Machine

/-- The first failure of a list of checks. -/
def firstBad (cs : List (Bool × LoadObj)) : Option LoadObj := (cs.find? fun c => !c.1).map (·.2)

/-- The sum of a number over a list. -/
def sumOf (f : α → Nat) (l : List α) : Nat := l.foldl (fun a x => a + f x) 0

/-- All distinct. -/
def distinct [DecidableEq α] (l : List α) : Bool := l.eraseDups.length == l.length

/-! ### Header and section table (R56, R57) -/

def Image.field (img : Image) (hi lo : Nat) : Nat := bitsOf img.header.toNat hi lo
def Image.version (img : Image) : Nat := img.field 159 144
/-- The name: 12 bytes, zero-padded. -/
def Image.name (img : Image) : List Byte := bytesOf 12 (img.field 127 32)

/-- Header fields that are as they must be: magic, reserved bits, a count of the table, the logical stations, an ASCII name, a size that holds
header and table. -/
def Image.headerOk (img : Image) : Bool :=
  let name := img.name
  let text := name.takeWhile (· != 0)
  img.field 31 0 == 0x57535A4E && img.field 511 256 == 0 && img.field 191 160 == img.table.length
    && decide (1 ≤ img.table.length ∧ img.table.length ≤ 4096) && img.field 143 128 == img.stations.length
    && decide (1 ≤ img.stations.length ∧ img.stations.length ≤ 92) && text.all (fun b => decide (b.toNat < 128))
    && (name.drop text.length).all (· == 0) && decide (64 + 32 * img.table.length ≤ img.field 255 192)

def sectField (e : BitVec 256) (hi lo : Nat) : Nat := bitsOf e.toNat hi lo
def sectKind (e : BitVec 256) : Nat := sectField e 31 0
def sectSize (e : BitVec 256) : Nat := sectField e 95 64
def sectOffset (e : BitVec 256) : Nat := sectField e 159 96
/-- Owner: logical station and context. R57 gives the low 16 bits of the field no meaning, and they are not looked at (DESIGN CHOICE,
log 37). -/
def sectOwner (e : BitVec 256) : Nat × Nat := (sectField e 63 56, sectField e 55 48)

/-- Contexts by logical station and place in it. -/
def Image.ownerOf (img : Image) (i : Nat) : Nat × Nat :=
  match img.ctxs[i]? with
  | some c => (c.station, ((img.ctxs.take i).filter fun x => x.station == c.station).length)
  | none => (0xFF, 0xFF)

/-- Numbers of the sections of a kind, of one owner. -/
def Image.sections (img : Image) (kind : Nat) (owner : Nat × Nat) : List Nat :=
  (img.table.zipIdx.filter fun p => sectKind p.1 == kind && sectOwner p.1 == owner).map (·.2)

def imageWide : Nat × Nat := (0xFF, 0xFF)

/-- The section that holds the blocks of a context, and a graph's. -/
def Image.blockSect (img : Image) (ctx : Nat) : Nat := (img.sections 2 (img.ownerOf ctx)).headD 0
def Image.graphSect (img : Image) (k : Nat) : Nat := let l := img.sections 3 imageWide; l.getD k (l.headD 0)

/-- An entry of the table: a kind that is listed, reserved bits zero, a body inside the image, its owner a context or the image. A stream graph
section needs HBM (R77). -/
def Image.sectionOk (img : Image) (hbm : Bool) (e : BitVec 256) : Bool :=
  let k := sectKind e
  let whole := k == 3 || k == 4 || k == 9
  decide (1 ≤ k ∧ k ≤ 10) && sectField e 255 160 == 0 && decide (64 + 32 * img.table.length ≤ sectOffset e)
    && decide (sectOffset e + sectSize e ≤ img.field 255 192) && (k != 3 || hbm)
    && (if whole then sectOwner e == imageWide else (List.range img.ctxs.length).any fun i => img.ownerOf i == sectOwner e)

/-- The table declares what the image holds: a context's own section, the code of each thread and each data object with their bytes, and a
section for whatever else there is. -/
def Image.tableOk (img : Image) (i : Nat) (c : CtxDecl) : Bool :=
  let o := img.ownerOf i
  let has := fun (k : Nat) (some_ : Bool) => !some_ || !(img.sections k o).isEmpty
  let sizes := fun (k : Nat) => (img.sections k o).map fun n => sectSize (img.table.getD n 0)
  has 10 true && sizes 1 == c.code.map (·.bytes.length) && sizes 8 == c.datas.map (·.bytes.length) && has 2 (!c.blocks.isEmpty)
    && has 5 (!c.tiles.isEmpty) && has 6 (!c.caps.isEmpty) && has 7 (!c.holds.isEmpty || c.handler.isSome)

def Image.wideOk (img : Image) : Bool :=
  let sizes := (img.sections 9 imageWide).map fun n => sectSize (img.table.getD n 0)
  (img.graphs.isEmpty || !(img.sections 3 imageWide).isEmpty) && (img.queues.isEmpty || !(img.sections 4 imageWide).isEmpty)
    && sumOf id sizes == 16 * img.relocs.length

/-! ### Relocations (R58) -/

def Reloc.field (r : Reloc) (hi lo : Nat) : Nat := bitsOf r.raw.toNat hi lo
/-- Byte offset; in a block word, whose section's layout the manual does not give, the byte of the word (log 36). -/
def Reloc.off (r : Reloc) : Nat := match r.sect with | .block _ _ _ => r.field 95 64 % 8 | _ => r.field 95 64
def Reloc.kind (r : Reloc) : Nat := r.field 63 56
def Reloc.bit (r : Reloc) : Nat := r.field 55 48
def Reloc.width (r : Reloc) : Nat := r.field 47 40

/-- The entry names the section of what it patches, and its reserved bits are zero. -/
def Reloc.sectOk (r : Reloc) (img : Image) : Bool :=
  let n := r.field 127 96
  r.field 39 32 == 0 && (match r.sect with
    | .code c t => (img.sections 1 (img.ownerOf c))[t]? == some n
    | .block c _ _ => (img.sections 2 (img.ownerOf c)).contains n
    | .data c o => (img.sections 8 (img.ownerOf c))[o]? == some n)

/-- Absolute bit positions of a field, lowest first. In code the bit position counts in the 32-bit word that starts at the byte offset, whose
first parcel holds its upper half (R62), even where a compact parcel stands there, whose own bits are then 16 to 31; elsewhere it counts from
the byte at the offset (DEDUCED, log 36). -/
def Reloc.places (r : Reloc) : List Nat :=
  (List.range r.width).map fun k =>
    let b := r.bit + k
    match r.sect with
    | .code _ _ => 8 * (r.off + (if b < 16 then 2 else 0) + b % 16 / 8) + b % 8
    | _ => 8 * r.off + b

/-- Two relocations share a bit. -/
def Reloc.clash (x y : Reloc) : Bool := x.sect == y.sect && x.places.any fun p => y.places.contains p

/-- Puts a value into bit positions of bytes. -/
def putField (bs : List Byte) (places : List Nat) (v : Nat) : List Byte :=
  places.zipIdx.foldl (fun bs p =>
    bs.modify (p.1 / 8) fun b => if v.testBit p.2 then b ||| (1#8 <<< (p.1 % 8)) else b &&& ~~~ (1#8 <<< (p.1 % 8))) bs

/-- Writes a resolved value into an image; the section must hold the field. -/
def Image.patch (img : Image) (r : Reloc) (v : Nat) : Option Image :=
  let fits := fun (bs : List Byte) => r.places.all fun p => decide (p / 8 < bs.length)
  match r.sect with
  | .code c t =>
    match (img.ctxs[c]?).bind fun x => x.code[t]? with
    | some k =>
      if fits k.bytes && decide (r.bit + r.width ≤ 32) then
        some { img with ctxs := img.ctxs.modify c fun x =>
          { x with code := x.code.modify t fun k => { k with bytes := putField k.bytes r.places v } } }
      else none
    | none => none
  | .data c o =>
    match (img.ctxs[c]?).bind fun x => x.datas[o]? with
    | some k =>
      if fits k.bytes then
        some { img with ctxs := img.ctxs.modify c fun x =>
          { x with datas := x.datas.modify o fun k => { k with bytes := putField k.bytes r.places v } } }
      else none
    | none => none
  | .block c b w =>
    match ((img.ctxs[c]?).bind fun x => x.blocks[b]?).bind fun x => x.words[w]? with
    | some k =>
      let bs := bytesOf 8 k.toNat
      if fits bs then
        let put := fun (x : BlockDecl) => { x with words := x.words.set w (BitVec.ofNat 64 (leNat (putField bs r.places v))) }
        some { img with ctxs := img.ctxs.modify c fun x => { x with blocks := x.blocks.modify b put } }
      else none
    | none => none

/-- Regions of an image in declaration order: context and index. -/
def Image.regions (img : Image) : List (Nat × Nat) :=
  img.ctxs.zipIdx.flatMap fun p => (List.range p.1.regions.length).map fun k => (p.2, k)

/-- The value that a relocation writes for the object that its symbol index names; `handles` are the region handles of the image in declaration
order, and a page lies within its region (R48). -/
def Reloc.value (r : Reloc) (img : Image) (place handles : List Nat) : Option Nat :=
  match r.kind, img.syms[r.field 31 0]? with
  | 1, some (.station k) => place[k]?
  | 2, some (.queue k) => if k < img.queues.length then some k else none
  | 3, some (.page c i n) =>
    match (img.regions.findIdx? (· == (c, i))).bind fun k => handles[k]?, (img.ctxs[c]?).bind fun x => x.regions[i]? with
    | some h, some wh => if n < wh.1 * wh.2 ∧ n < 128 then some (h + n * 65536) else none
    | _, _ => none
  | _, _ => none

/-- Applies relocations; answers the number of the first that the loader refuses. `k` counts those done, which are `old`. -/
def applyRelocs (place handles : List Nat) : (old : List Reloc) → List Reloc → Image → Except Nat Image
  | _, [], img => .ok img
  | old, r :: rs, img =>
    match r.value img place handles with
    | none => .error old.length
    | some v =>
      if 2 ^ r.width ≤ v ∨ old.any r.clash ∨ !r.sectOk img then .error old.length
      else match img.patch r v with
        | some img => applyRelocs place handles (old ++ [r]) rs img
        | none => .error old.length

/-! ### Blocks -/

/-- A declared block as a region would hold it. -/
def BlockDecl.block (b : BlockDecl) (home : Nat) (disp : Dispatch) : Block :=
  { header := b.header, words := b.words, spans := b.spans, armedQs := b.armed, queueArmed := !b.armed.isEmpty, home := home, disp := disp }

def Machine.Dispatch.zero : Dispatch := ⟨false, 1, 0, 0, 0, 0, none⟩

/-- Bits set for each member. -/
def maskOf (l : List Nat) : Nat := l.foldl (fun a n => a ||| 2 ^ n) 0

/-- The header of R55, recomputed. -/
def BlockDecl.derived (b : BlockDecl) : BitVec 128 :=
  let ns := (b.block 0 Dispatch.zero).nodes
  let exits := ((ns.filter fun n => n.2.1 == 0x72).map fun n => n.2.2.low4).eraseDups
  BitVec.ofNat 128 (2 ^ 120 + (b.words.length - 1) * 2 ^ 113 + b.depth % 8 * 2 ^ 110 + boolNat b.systolic * 2 ^ 109
    + boolNat (!b.armed.isEmpty) * 2 ^ 108 + exits.length % 16 * 2 ^ 104
    + maskOf ((ns.filter fun n => isStoreOp n.2.1).map fun n => n.2.2.lsid) * 2 ^ 72
    + maskOf ((ns.filter fun n => n.2.1 == 0x71).map fun n => n.2.2.frame) * 2 ^ 40
    + maskOf ((ns.filter fun n => n.2.1 == 0x70).map fun n => n.2.2.frame) * 2 ^ 8)

/-- Removes, in each round, the nodes that no remaining node points to; `fuel` bounds the rounds. -/
def peel (edges : List (Nat × Nat)) : (fuel : Nat) → List Nat → List Nat
  | 0, l => l
  | n + 1, l => peel edges n (l.filter fun v => edges.any fun e => e.2 == v && l.contains e.1)

def acyclic (n : Nat) (edges : List (Nat × Nat)) : Bool := (peel edges n (List.range n)).isEmpty

/-- Target positions that a node consumes; the flag says whether a target must name it. -/
def consumed (op : Nat) (w : BlockWord) : List (Nat × Bool) :=
  (if usesA op w true then [(0, usesA op w false)] else []) ++ (if usesB op w then [(1, true)] else []) ++ (if usesP op w then [(2, true)] else [])

/-- R106 for node `i`: every target names a position that is consumed, and each consumed position has its one target. -/
def Machine.Block.targetsOk (b : Block) (i op : Nat) (w : BlockWord) : Bool :=
  let all := b.nodes.flatMap fun n => n.2.2.targets
  (w.targets.all fun t => match b.node t.1 with
    | some (op, w) => (consumed op w).any fun p => p.1 == t.2
    | none => false)
  && (consumed op w).all fun p =>
    let n := all.countP (· == (i, p.1))
    n == 1 || (n == 0 && !p.2)

/-- LSIDs (R59): unique, the predecessor of the block, no cycle. -/
def Machine.Block.lsidOk (b : Block) (w : BlockWord) : Bool :=
  b.nodes.countP (fun n => isMemOp n.2.1 && n.2.2.lsid == w.lsid) == 1
    && (w.lsid == w.pred_lsid || (b.ofLsid w.pred_lsid).isSome) && decide ((b.chain 33 w).length ≤ 32)

/-- Footprint positions and slots of the copies of a node (R109). -/
def copyPlaces (i : Nat) (w : BlockWord) : List (Nat × Nat) := (List.range w.copies).map fun k => (i % 8, i / 8 + k)

/-- Pages of a block's footprint. -/
def Machine.Block.pages (b : Block) : Nat := ceilDiv (b.nodes.foldl (fun a n => Nat.max a (n.1 / 8 + n.2.2.copies)) 0) 16

/-- Features that a block word needs (R77). -/
def Machine.State.opAccepted (s : State) (op : Nat) : Bool :=
  (!isMatrixOp op || s.boot.acc0.getLsbD 3) && (!(op == 0x66 || op == 0x67) || s.boot.acc0.getLsbD 0)

/-- Contexts that consume and produce a declared queue. -/
def QueueDecl.consumers (q : QueueDecl) : List Nat := (q.toward :: q.mcast).eraseDups
def QueueDecl.producers (q : QueueDecl) : List Nat := q.from_.map (·.1)

/-- QIN and QOUT name queues of the context's bindings with items of at most 64 bytes (R260, R268). -/
def Image.queueNodeOk (img : Image) (ctx op : Nat) (w : BlockWord) : Bool :=
  if op = 0x64 ∨ op = 0x65 then
    match img.queues[w.queue]? with
    | some q => decide (q.size ≤ 64) && (if op = 0x64 then q.consumers.contains ctx else q.producers.contains ctx)
    | none => false
  else true

/-- Checks of one word; `blocks` is the number of blocks of its region. -/
def Machine.State.wordOk (s : State) (img : Image) (ctx : Nat) (b : Block) (systolic : Bool) (blocks : Nat) (i op : Nat) (w : BlockWord) : Bool :=
  (blockWordErr op w).isNone && s.opAccepted op && b.targetsOk i op w && (!isMemOp op || b.lsidOk w) && (!isMatrixOp op || systolic)
    && img.queueNodeOk ctx op w && (op != 0x72 || decide (w.low4 ≤ blocks))
    && (op != 0x71 || b.nodes.countP (fun n => n.2.1 == 0x71 && n.2.2.frame == w.frame) == 1)
    && (op != 0x64 || b.nodes.countP (fun n => n.2.1 == 0x64 && n.2.2.queue == w.queue) == 1)
    && (copyPlaces i w).all fun p => b.nodes.all fun n => n.1 == i || !(copyPlaces n.1 n.2.2).contains p

/-- What can be reached from a list of nodes in `fuel` steps. -/
def reach (edges : List (Nat × Nat)) : (fuel : Nat) → List Nat → List Nat
  | 0, l => l
  | n + 1, l => reach edges n (l ++ (edges.filter fun e => l.contains e.1).map (·.2)).eraseDups

/-- A node of a cycle, if the edges have one. -/
def cycleNode (n : Nat) (edges : List (Nat × Nat)) : Option Nat :=
  if acyclic n edges then none
  else (List.range n).find? fun v => (reach edges n ((edges.filter fun e => e.1 == v).map (·.2))).contains v

/-- Pages of the blocks of a block's region that are declared up to it (R109). -/
def CtxDecl.pagesTo (c : CtxDecl) (k : Nat) (d : BlockDecl) : Nat :=
  sumOf (fun b => (b.block 0 Dispatch.zero).pages) ((c.blocks.take (k + 1)).filter fun b => b.region == d.region)

/-- Checks of a block: its words, and its header as word 128 (R76). It must be alone in its region when it is systolic (R133), and its
footprint must fit behind those before it (R109). -/
def Machine.State.badBlock (s : State) (img : Image) (ctx k : Nat) (c : CtxDecl) (d : BlockDecl) : Option LoadObj :=
  let b := d.block 0 Dispatch.zero
  let blocks := (c.blocks.filter fun x => x.region == d.region).length
  let edges := b.nodes.flatMap fun n => n.2.2.targets.map fun t => (n.1, t.1)
  let room := match c.regions[d.region]? with | some wh => decide (c.pagesTo k d ≤ wh.1 * wh.2) | none => false
  let head := decide (1 ≤ d.words.length) && decide (d.words.length ≤ 128) && decide (d.depth ≤ 3) && d.header == d.derived
    && (!d.systolic || (s.boot.acc0.getLsbD 3 && decide (b.pages ≤ 1) && blocks == 1)) && b.nodes.any (fun n => n.2.1 == 0x72) && room
    && d.armed.all fun q => match img.queues[q]? with | some x => x.consumers.contains ctx | none => false
  let at_ := LoadObj.block (img.blockSect ctx) ctx k
  let turn := cycleNode b.words.length edges
  firstBad ((head, at_ 128) :: (turn.isNone, at_ (turn.getD 128))
    :: b.nodes.map fun n => (s.wordOk img ctx b d.systolic blocks n.1 n.2.1 n.2.2, at_ n.1))

/-- Overlaps of a block (R225): lower and higher LSID, ascending. -/
def Machine.Block.overlaps (b : Block) : List (Nat × Nat) :=
  let ns := sortBy (fun x y => decide (x.2.2.lsid < y.2.2.lsid)) (b.nodes.filter fun n => isMemOp n.2.1)
  ns.flatMap fun x => (ns.filter fun y =>
      decide (x.2.2.lsid < y.2.2.lsid) && (isStoreOp x.2.1 || isStoreOp y.2.1) && !(b.chain 32 x.2.2).contains y.1 && !(b.chain 32 y.2.2).contains x.1
        && (b.range x.1 x.2.1 x.2.2).overlaps (b.range y.1 y.2.1 y.2.2)).map fun y => (x.2.2.lsid, y.2.2.lsid)

/-! ### Contexts -/

/-- Home pages of the blocks of a region in declaration order, and the pages they need (R109). -/
def homePages : (home : Nat) → List BlockDecl → List Nat × Nat
  | n, [] => ([], n)
  | n, b :: r => let (l, m) := homePages (n + (b.block 0 Dispatch.zero).pages) r; (n :: l, m)

def CtxDecl.blocksOf (c : CtxDecl) (r : Nat) : List BlockDecl := c.blocks.filter fun b => b.region == r

def regionOk (wh : Nat × Nat) : Bool := decide (1 ≤ wh.1 ∧ wh.1 ≤ 12 ∧ 1 ≤ wh.2 ∧ wh.2 ≤ 8)

/-- A tile as declared (R54, R254, R255): the scale array of an MX tile follows its elements. -/
def TileDecl.tile (t : TileDecl) : Tile :=
  let x : Tile := ⟨.empty, t.base, t.fmt, t.mx, t.shape, 0, 0⟩
  if t.mx then { x with scale := ceilDiv (t.base + x.bytes) 64 * 64 } else x

def CtxDecl.tileOk (c : CtxDecl) (t : TileDecl) : Bool :=
  let x := t.tile
  decide (1 ≤ t.shape.length ∧ t.shape.length ≤ 4) && t.shape.all (0 < ·) && t.base % 64 == 0 && (!t.mx || isEFormat t.fmt.toNat)
    && decide (x.base + x.bytes ≤ c.spad * 0x40000) && decide (x.scale + x.scaleBytes ≤ c.spad * 0x40000)

def HoldDecl.segment (h : HoldDecl) (k : Nat) : Segment := ⟨k, h.spadSpace, h.base, h.len, h.cls, h.order, segCharge h.spadSpace h.cls h.len⟩

/-- A must-save declaration (R59, R416): inside the partition, or inside an HBM object that any context of the image declares. -/
def CtxDecl.holdOk (img : Image) (c : CtxDecl) (k : Nat) (h : HoldDecl) : Bool :=
  h.base % 64 == 0 && h.len % 64 == 0 && decide (64 ≤ h.len) && decide (h.cls ≤ 3) && decide (h.order ≤ 255) && decide (k < 16)
    && (if h.spadSpace then decide (h.base + h.len ≤ c.spad * 0x40000)
        else img.ctxs.any fun x => x.datas.any fun d => d.hbm && decide (d.va ≤ h.base) && decide (h.base + h.len ≤ d.va + d.bytes.length))
    && (c.holds.zipIdx.all fun p => p.2 == k || !(h.segment k).overlaps (p.1.segment p.2))

def CtxDecl.dataOk (s : State) (c : CtxDecl) (d : DataDecl) : Bool :=
  (List.range 13).any (fun k => d.align == 2 ^ k) && (if d.hbm then d.va else d.place) % d.align == 0
    && (if d.hbm then s.inHbm d.place d.bytes.length else decide (d.place + d.bytes.length ≤ c.spad * 0x40000))

/-- Limits of a context (R54, R59). Every thread that it declares has its code (DESIGN CHOICE, log 37). No layout says how an image stores that `allowance=` is absent: 0 stands for it, and a handler may have
an allowance of 0 (DESIGN CHOICE, log 37). Code starts at an even address (R62). -/
def CtxDecl.limitsOk (c : CtxDecl) : Bool :=
  decide (1 ≤ c.threads ∧ c.threads ≤ 8) && c.code.length == c.threads && (c.regs == 16 || c.regs == 32)
  && decide (1 ≤ c.spad ∧ c.spad ≤ 32)
    && decide (c.prio ≤ 3) && decide (c.allowance ≤ 200000)
    && (match c.handler with | some h => decide (h < c.threads) | none => c.allowance == 0)
    && decide (c.tiles.length ≤ 16 * c.spad) && decide (c.caps.length ≤ 256) && c.code.all fun k => k.va % 2 == 0

/-- Everything of a context but its blocks, in the order of the sections. -/
def Machine.State.badCtx (s : State) (img : Image) (i : Nat) (c : CtxDecl) : Option LoadObj :=
  firstBad ((c.limitsOk, LoadObj.context i)
    :: (c.regions.zipIdx.map fun p => (regionOk p.1, LoadObj.region i p.2))
    ++ (c.tiles.zipIdx.map fun p => (c.tileOk p.1, LoadObj.tile i p.2))
    ++ (c.holds.zipIdx.map fun p => (s.boot.acc0.getLsbD 1 && s.boot.acc0.getLsbD 2 && c.holdOk img p.2 p.1, LoadObj.hold i p.2))
    ++ (c.datas.zipIdx.map fun p => (c.dataOk s p.1, LoadObj.data i p.2)))

/-! ### Queues and graphs -/

/-- A queue declaration (R54, R59). -/
def Image.queueOk (img : Image) (q : QueueDecl) : Bool :=
  let n := img.ctxs.length
  [16, 32, 64, 128, 256].contains q.size && decide (1 ≤ q.cap ∧ q.cap ≤ 65536) && decide (q.prio ≤ 3) && decide (q.mcast.length ≤ 16)
    && q.consumers.all (· < n) && (q.from_.all fun p => decide (p.1 < n ∧ 1 ≤ p.2 ∧ p.2 ≤ 4096)) && distinct q.producers
    && decide (sumOf (·.2) q.from_ ≤ q.cap)

/-- The word that a neighbour route of word `i` reaches (R74, R176). -/
def neighbour (n i route : Nat) : Option Nat :=
  let j := match route with
    | 2 => if 8 ≤ i then some (i - 8) else none
    | 3 => if i % 8 < 7 then some (i + 1) else none
    | 4 => some (i + 8)
    | 5 => if 0 < i % 8 then some (i - 1) else none
    | _ => none
  j.filter (· < n)

def isNeighbour (r : Nat) : Bool := decide (2 ≤ r) && decide (r ≤ 5)

/-- The route that leads back: north and south, east and west. -/
def routeBack (r : Nat) : Nat := if r < 4 then r + 2 else r - 2

/-- Where a word sends: its output, and SPLIT's second destination. -/
def sendsTo (v : BitVec 64) : List Nat :=
  let w := nodeFields v
  w.out.toNat :: if snodeOp v = 1 then [w.params.toNat] else []

def takesFrom (v : BitVec 64) : List Nat :=
  let w := nodeFields v
  w.inA.toNat :: if w.inB = 0 then [] else [w.inB.toNat]

/-- The checks of R178 on word `i`. -/
def graphWordOk (ws : List (BitVec 64)) (i : Nat) (v : BitVec 64) : Bool :=
  let n := ws.length
  let at_ := fun (j : Nat) => ws.getD j 0
  let sends := (sendsTo v).all fun r => !isNeighbour r || match neighbour n i r with
    | some j => (takesFrom (at_ j)).count (routeBack r) == 1
    | none => false
  let takes := (takesFrom v).all fun r => !isNeighbour r || match neighbour n i r with
    | some j => (sendsTo (at_ j)).contains (routeBack r)
    | none => false
  let undo := snodeOp v != 0x38 || match neighbour n i (nodeFields v).inA.toNat with
    | some j => snodeOp (at_ j) == 1 && (sendsTo (at_ j)).contains 6
    | none => false
  (mkSNode (snodeOp v) ⟨0, 0, 0⟩ (nodeFields v)).isSome && (nodeWordErr (snodeOp v) (nodeFields v)).isNone && sends && takes && undo

/-- One node of a graph takes the stream head, or feeds the tail: a word too many is named, and word 0 where there is none. -/
def onlyOne (l : List Nat) : Option Nat := match l with | [_] => none | _ :: n :: _ => some n | [] => some 0

/-- A graph (R177, R178). -/
def Machine.State.badGraph (s : State) (img : Image) (k : Nat) (g : GraphDecl) : Option LoadObj :=
  let ws := g.words
  let n := ws.length
  let edges := ws.zipIdx.flatMap fun p => (sendsTo p.1).filterMap fun r => (neighbour n p.2 r).map fun j => (p.2, j)
  let whole := s.boot.acc0.getLsbD 0 && s.part != 2 && decide (1 ≤ n) && decide (n ≤ 32) && decide (g.ctl < 96)
  let at_ := LoadObj.graph (img.graphSect k) k
  let named := fun (x : Option Nat) => (x.isNone, at_ (x.getD 0))
  let users := fun (f : BitVec 64 → List Nat) (r : Nat) => (ws.zipIdx.filter fun p => (f p.1).contains r).map (·.2)
  firstBad ((whole, at_ 0) :: (ws.zipIdx.map fun p => (graphWordOk ws p.2 p.1, at_ p.2))
    ++ [named (onlyOne (users takesFrom 1)), named (onlyOne (users sendsTo 6)), named (cycleNode n edges)])

/-! ### The image on its stations (R36, R40, R59) -/

/-- Contexts of the image with their physical station. -/
def Image.placed (img : Image) (place : List Nat) : List (CtxDecl × Nat) := img.ctxs.map fun c => (c, place.getD c.station 96)

/-- Limits of a physical station with what it already carries. A context that is switched out of its slot counts with it: it comes back to
the station (DESIGN CHOICE, log 72). -/
def Machine.State.stationOk (s : State) (img : Image) (req : ActReq) (st : Nat) : Bool :=
  let mine := (img.placed req.place).filter fun p => p.2 == st
  let old := s.ctxs.filter fun c => c.station == st
  decide (st < 24 * s.dies) && s.isServiceStation st == req.service && !s.fencedStation st
    && decide (mine.length + old.length ≤ 4)
    && decide (sumOf (fun p => p.1.spad) mine + sumOf (·.partUnits) old ≤ 32)
    && decide (sumOf (fun p => p.1.threads) mine + sumOf (fun c => c.threads.length) old ≤ 8)

/-- Pages of a die that no service station holds. -/
def Machine.State.userPages (s : State) (die : Nat) : Nat := 96 - 4 * ((List.range 24).filter fun k => s.isServiceStation (24 * die + k)).length

/-- Pages of all regions of a die, with those of the image (R59). -/
def Machine.State.diePages (s : State) (img : Image) (req : ActReq) (die : Nat) : Nat :=
  sumOf (fun r => r.w * r.h) (s.regions.filter fun r => r.die == die)
    + sumOf (fun p => sumOf (fun wh => wh.1 * wh.2) p.1.regions) ((img.placed req.place).filter fun p => p.2 / 24 == die)

/-- Stations: number, place, die, limits. The first one that fails is named by its physical number; a die whose regions have too many pages
is named by its first station (DESIGN CHOICE, log 73). -/
def Machine.State.badStation (s : State) (img : Image) (req : ActReq) : Option LoadObj :=
  firstBad (((req.place.length == img.stations.length && (img.ctxs.all fun c => decide (c.station < img.stations.length))
        && decide (img.queues.length ≤ 1024), LoadObj.image)
    :: (img.stations.zip req.place).map fun p =>
      ((match p.1 with | some d => p.2 / 24 == d | none => true) && s.stationOk img req p.2, LoadObj.station p.2))
    ++ (List.range 4).map fun d => (decide (s.diePages img req d ≤ s.userPages d), LoadObj.station (24 * d)))

/-- Header and section table: an entry that fails is named. -/
def Machine.State.badSection (s : State) (img : Image) : Option LoadObj :=
  firstBad ((img.headerOk, LoadObj.image)
    :: (img.table.zipIdx.map fun p => (img.sectionOk (s.boot.acc0.getLsbD 0 && s.part != 2) p.1, LoadObj.sect p.2))
    ++ (img.wideOk, LoadObj.image) :: img.ctxs.zipIdx.map fun p => (img.tableOk p.2 p.1, LoadObj.context p.2))

/-- What a relocation that fails names: a kind that R58 does not list names its section (R76). -/
def Image.badReloc (img : Image) (n : Nat) : LoadObj :=
  match img.relocs[n]? with
  | some r => if 1 ≤ r.kind ∧ r.kind ≤ 3 then .reloc n else .sect ((img.sections 9 imageWide).headD 0)
  | none => .reloc n

/-- Step 1 of R37 on the patched image. The manual gives the checks no order: the first that fails here is named (DESIGN CHOICE, log 73). -/
def Machine.State.badImage (s : State) (img : Image) (req : ActReq) : Option LoadObj :=
  let ctxs := img.ctxs.zipIdx
  let exceeds := ctxs.flatMap fun p => p.1.blocks.zipIdx.flatMap fun b =>
    ((b.1.block 0 Dispatch.zero).overlaps.map fun o => LoadObj.overlap p.2 b.2 o.1 o.2)
  (s.badSection img)
    |>.or (s.badStation img req)
    |>.or (ctxs.findSome? fun p => s.badCtx img p.2 p.1)
    |>.or (firstBad (img.queues.zipIdx.map fun p => (img.queueOk p.1, LoadObj.queue p.2)))
    |>.or (ctxs.findSome? fun p => p.1.blocks.zipIdx.findSome? fun b => s.badBlock img p.2 b.2 p.1 b.1)
    |>.or (img.graphs.zipIdx.findSome? fun p => s.badGraph img p.2 p.1)
    |>.or (firstBad ((List.range 96).map fun c =>
        (decide ((s.graphs.countP fun g => g.ctl == c) + (img.graphs.countP fun g => g.ctl == c) ≤ 8), LoadObj.controller c)))
    |>.or (if req.permissive then none else exceeds.head?)

end Sys2Proof
end

