-- ==== Sys2Proof/Machine/Activation.lean ====
section
/-! DEFINITION. Image activation (R37): its seven steps for a whole gang, and the replacement of a resting gang (R325). -/

namespace Sys2Proof.Machine

/-- A step of activation ends with a state, or with the object that the load status names. -/
abbrev Loading := Except LoadObj State

/-- Runs a step for each object in order. -/
def loadEach (f : α → State → Loading) : List α → State → Loading
  | [], s => .ok s
  | a :: r, s => match f a s with | .ok s => loadEach f r s | .error e => .error e

/-- The `n` lowest numbers that are not used. -/
def lowestFree (used : List Nat) (n : Nat) : List Nat := ((List.range (used.length + n)).filter fun k => !used.contains k).take n

/-! ### Step 2: contexts -/

/-- The lowest run of free partition units on a station. -/
def State.freeUnits (s : State) (st n : Nat) : Option Nat :=
  (List.range 33).find? fun b => decide (b + n ≤ 32) &&
    s.ctxs.all fun c => c.station != st || decide (b + n ≤ c.partBase) || decide (c.partBase + c.partUnits ≤ b)

/-- k.dom at activation (R287): the mask of the `start` threads, the die's domain and the package's. -/
def domAtStart (req : ActReq) (c : CtxDecl) (die : Nat) : Word :=
  w64 (maskOf ((c.code.zipIdx.filter fun p => p.1.start).map (·.2)) + req.dieDomains.getD die 0 % 256 * 256 + req.pkgDomain % 256 * 65536)

/-- A context at activation; its threads do not run before step 7. -/
def newCtx (c : CtxDecl) (req : ActReq) (id gang index sub st slot base : Nat) (hw : List Nat) : Ctx where
  id := id
  gang := gang
  index := index
  logical := c.station
  sub := sub
  station := st
  slot := slot
  resident := true
  service := req.service
  asid := req.asid
  regs := c.regs
  prio := c.prio
  partBase := base
  partUnits := c.spad
  threads := c.code.map fun k => Thr.zero .never (w64 k.va) c.prio
  hw := hw
  code := c.code.map fun k => (k.va, k.bytes.length)
  vflags := 0
  vtrap := 0
  srseed := 0
  dom := domAtStart req c (st / 24)
  mcls := 0x30
  hangiv := 1024
  hangmap := 0
  lnack := 0
  lnaddr := 0
  tvec := 0
  prot := 0
  undo := 0
  hentry := match c.handler.bind fun h => c.code[h]? with | some k => w64 (k.va + 1) | none => 0
  charge := 0
  counters := List.replicate 64 Counter.zero
  mailbox := []
  spill := []
  spilled := false
  saveFrames := []
  swapping := none
  bindings := []
  caps := []
  tiles := []
  tags := []
  recency := []
  segments := []
  opens := []
  handler := c.handler
  allowance := c.allowance
  held := []
  snap := none
  undoLog := []
  undoPas := []
  journals := []
  bodyWrite := none
  hold := false
  rolling := false

/-- All of a range of physical addresses has memory for its home. -/
def State.holdsBytes (s : State) (pa n : Nat) : Bool := (s.home pa).isMem && (s.home (pa + n - 1)).isMem

/-- Creates context `i` of the image. -/
def State.createCtx (img : Image) (req : ActReq) (gang : Nat) (p : CtxDecl × Nat) (s : State) : Loading :=
  let c := p.1
  let st := req.place.getD c.station 96
  let taken := (s.ctxs.filter fun x => x.station == st).map (·.slot)
  let hw := (s.freeHw st).take c.threads
  match (List.range 4).find? (fun k => !taken.contains k), s.freeUnits st c.spad with
  | some slot, some base =>
    if hw.length < c.threads ∨ !(c.code.all fun k => s.holdsBytes k.pa k.bytes.length) then .error (.context p.2)
    else
      let sub := ((img.ctxs.take p.2).filter fun x => x.station == c.station).length
      let (id, s) := s.fresh
      let s := { s with ctxs := s.ctxs ++ [newCtx c req id gang p.2 sub st slot base hw] }
      .ok (c.code.foldl (fun s k => s.write none k.pa k.bytes) s)
  | _, _ => .error (.context p.2)

/-- Contexts of a gang in image order. -/
def State.imageCtxs (s : State) (g : Nat) : List Ctx := sortBy (fun a b => decide (a.index < b.index)) (s.ctxs.filter fun c => c.gang == g)

/-- The identity of context `i` of a gang. -/
def State.ctxNo (s : State) (g i : Nat) : Nat := ((s.ctxs.find? fun c => c.gang == g && c.index == i).map (·.id)).getD 0

/-- The synchronisation domains of a new gang (R287): each context alone, each die's contexts, and all; ranks in the order of the stations. -/
def State.defineDomains (req : ActReq) (g : Nat) (s : State) : State :=
  let cs := sortBy (fun a b => decide (a.logical < b.logical)) (s.imageCtxs g)
  let die := (List.range 4).filterMap fun d =>
    let n := req.dieDomains.getD d 0 % 256
    let ms := cs.filter fun c => c.station / 24 == d
    if n = 0 ∨ ms.isEmpty then none else some (freshDomain 1 (d * 256 + n) (ms.map (·.id)))
  let pkg := if req.pkgDomain % 256 = 0 then [] else [freshDomain 2 (req.pkgDomain % 256) (cs.map (·.id))]
  let new := (cs.map fun c => freshDomain 0 c.id [c.id]) ++ die ++ pkg
  { s with domains := (s.domains.filter fun d => new.all fun n => n.level != d.level || n.number != d.number) ++ new }

/-! ### Step 3: queues -/

/-- Queues of a gang in the order of its image. -/
def State.gangQueues (s : State) (g : Nat) : List Queue := s.queues.filter fun q => q.gang == some g

def QEntry.isItem : QEntry → Bool | .item _ => true | .marker _ => false

/-- Items held at a queue's homes. -/
def Queue.held (q : Queue) : Nat := q.homes.foldl (fun n h => Nat.max n (h.entries.countP QEntry.isItem)) 0

/-- The new identity of a context of a replaced gang: the new context with its index. -/
def State.heir (s : State) (old new cid : Nat) : Nat :=
  match s.ctxs.find? fun c => c.id == cid && c.gang == old with
  | some c => let n := s.ctxNo new c.index; if n = 0 then cid else n
  | none => cid

def QEntry.rename (f : Nat → Nat) : QEntry → QEntry
  | .item i => .item { i with owner := f i.owner }
  | .marker n => .marker n

/-- A home that a queue of a new image takes over: items in order with their numbers, markers removed (R325). -/
def QHome.pass (f : Nat → Nat) (at_ : HomeAt) (h : QHome) : QHome where
  at_ := at_
  entries := (h.entries.filter QEntry.isItem).map (QEntry.rename f)
  used := h.used.map fun u => (f u.1, u.2)
  credits := h.credits.map f
  popped := []

/-- Windows of a queue that contexts of other gangs hold (R323). -/
def State.windowSumBut (s : State) (q gang : Nat) : Nat := State.windowSum { s with ctxs := s.ctxs.filter fun c => c.gang != gang } q

/-- Queue `k` of the image: a new one, or the resting gang's. Windows that QBIND gave to other gangs still fit (R323). -/
def State.loadQueue (req : ActReq) (g : Nat) (old : List Queue) (p : QueueDecl × Nat) (s : State) : Loading :=
  let d := p.1
  let homes := d.consumers.map fun i => HomeAt.ctx (s.ctxNo g i)
  let cs := (d.consumers ++ d.producers).eraseDups
  let bound := fun (id : Nat) (s : State) => cs.foldl (fun s i =>
    let c := s.ctxNo g i
    s.bind c p.2 { queue := id, window := lookup d.from_ i, consumer := if d.consumers.contains i then some (.ctx c) else none, byCap := none }) s
  match old[p.2]?, req.replace with
  | some q, some o =>
    let others := s.windowSumBut q.id o
    if q.size ≠ d.size ∨ q.ty ≠ d.fmt ∨ d.cap < q.held ∨ d.cap < others + sumOf (·.2) d.from_ then .error (.queue p.2)
    else
      let f := s.heir o g
      let take := fun (x : HomeAt × Nat) => match q.homes[x.2]? with | some h => h.pass f x.1 | none => ⟨x.1, [], [], [], []⟩
      let new : Queue := { q with
        cap := d.cap, prio := d.prio, gang := some g
        homes := homes.zipIdx.map take
        seqs := q.seqs.map fun e => ((f e.1.1, e.1.2), e.2) }
      .ok (bound q.id { s with queues := s.queues.filter (fun x => x.id != q.id) ++ [new] })
  | _, _ =>
    let (id, s) := s.fresh
    let new : Queue := { id := id, ty := d.fmt, size := d.size, cap := d.cap, prio := d.prio, gang := some g,
                         homes := homes.map fun h => ⟨h, [], [], [], []⟩, seqs := [], epoch := 0 }
    .ok (bound id { s with queues := s.queues ++ [new] })

/-! ### Step 4: regions -/

/-- A region that the allocator has not placed yet; commands of the region that it follows pass to it (R325), and its numbers go on from that
region's, so that no number of a queued command comes twice (DESIGN CHOICE, log 62). -/
def newRegion (c : CtxDecl) (cid index handle die : Nat) (wh : Nat × Nat) (after : Option Region) : Region where
  handle := handle
  ctx := cid
  index := index
  die := die
  w := wh.1
  h := wh.2
  orig := (0, 0)
  matrix := (c.blocksOf index).any (·.systolic)
  blocks := []
  frames := Vector.replicate 32 (Vector.replicate 16 0)
  ags := Vector.replicate 8 AgRec.zero
  invs := []
  nextInv := 0
  idle := 0
  freeze := .running
  drain := none
  unmovable := false
  stopped := false
  cmds := match after with
    | some r => r.cmds.filter fun e => match e with | .marker _ => false | _ => true
    | none => []
  cmdDisp := Dispatch.zero
  nextCmd := (after.map (·.nextCmd)).getD 0
  lastCmd := none
  weights := []
  staging := []
  wtype := none
  ended := []
  recSeq := 0
  epoch := 0
  fired := false
  busy := []

/-- Places regions one after the other where each fits first (R310). -/
def State.placeFirst (s : State) : (standing : List Region) → List Region → Except Region (List Region)
  | rs, [] => .ok rs
  | rs, r :: t =>
    match s.findRect rs r.die r.w r.h with
    | some o => s.placeFirst (rs ++ [{ r with orig := o }]) t
    | none => .error r

/-- Any arrangement of these regions beside those that stand (R311). -/
def State.arrange (s : State) : List Region → (standing : List Region) → Option (List Region)
  | [], rs => some rs
  | r :: t, rs => origins.findSome? fun o =>
      if s.rectFree rs r.die r.w r.h o then s.arrange t (rs ++ [{ r with orig := o }]) else none

/-- Whether the allocator may move a region (R310, R396). -/
def Region.movable (r : Region) : Bool := r.placed && !r.unmovable

/-- The origins of an arrangement: a region that stood elsewhere moves (R311, R366). -/
def State.takeOrigins (s : State) (rs : List Region) (r : Region) : Region :=
  match rs.find? fun x => x.handle == r.handle with
  | some x => if x.orig = r.orig then r else s.movedTo r x.orig
  | none => r

/-- Places the new regions of one die behind those that stand; when no origin fits, regions of that die that may move are placed anew with
them. Regions stay in the order of their list. -/
def State.placeOnDie (s : State) (new : List Region) (standing : List Region) (die : Nat) : Except Region (List Region) :=
  let mine := new.filter fun r => r.die == die
  match s.placeFirst standing mine with
  | .ok rs => .ok rs
  | .error bad =>
    let free := fun (r : Region) => r.movable && r.die == die
    match s.arrange (standing.filter free ++ mine) (standing.filter fun r => !free r) with
    | some rs => .ok ((standing ++ mine).map (s.takeOrigins rs))
    | none => .error bad

/-- Places new regions die by die; the first that finds no place fails the activation. -/
def State.placeRegions (s : State) (new : List Region) : Except LoadObj (List Region) :=
  match [0, 1, 2, 3].foldlM (s.placeOnDie new) s.regions with
  | .ok rs => .ok rs
  | .error bad => .error (.region (s.ctxs.find? (fun c => c.id == bad.ctx) |>.map (·.index) |>.getD 0) bad.index)

/-- The matrix region of the replaced gang whose commands pass to a new one. -/
def State.formerRegion (s : State) (old i k : Nat) (wh : Nat × Nat) : Option Region :=
  s.regions.find? fun r => r.ctx == s.ctxNo old i && r.index == k && r.matrix && r.w == wh.1 && r.h == wh.2

/-- The image's regions in declaration order with their handles. -/
def State.newRegions (s : State) (img : Image) (req : ActReq) (g : Nat) (handles : List Nat) : List Region :=
  (img.regions.zip handles).filterMap fun p =>
    match img.ctxs[p.1.1]? with
    | none => none
    | some c =>
      (c.regions[p.1.2]?).map fun wh =>
        let after := if (c.blocksOf p.1.2).any (·.systolic) then req.replace.bind fun o => s.formerRegion o p.1.1 p.1.2 wh else none
        newRegion c (s.ctxNo g p.1.1) p.1.2 p.2 (req.place.getD c.station 96 / 24) wh after

/-- The commands of a region that have passed on are no longer queued there. -/
def State.passCommands (s : State) (img : Image) (g old : Nat) : State :=
  let gone := img.regions.filterMap fun p =>
    match s.regions.find? fun r => r.ctx == s.ctxNo g p.1 && r.index == p.2 && r.matrix with
    | some r => (s.formerRegion old p.1 p.2 (r.w, r.h)).map (·.handle)
    | none => none
  { s with regions := s.regions.map fun r => if gone.contains r.handle then { r with cmds := [] } else r }

/-! ### Steps 5 to 7 -/

/-- The dispatch state of a block at activation (R312): an entry block is armed on its queues, or has one pending invocation. -/
def dispatchAtStart (b : BlockDecl) : Dispatch :=
  if !b.entry then Dispatch.zero
  else if b.armed.isEmpty then { Dispatch.zero with pending := 1 } else { Dispatch.zero with armed := true }

/-- A block as loaded: OVERLAP, header bit 0, stands when permissive mode loads it with overlaps (R225). -/
def loadBlock (b : BlockDecl) (home : Nat) : Block :=
  let x := b.block home (dispatchAtStart b)
  if x.overlaps.isEmpty then x else { x with header := x.header ||| 1 }

def loadBlocks (c : CtxDecl) (k : Nat) : List Block :=
  let bs := c.blocksOf k
  (bs.zip (homePages 0 bs).1).map fun p => loadBlock p.1 p.2

/-- Graphs take the lowest free slots of their controllers; the gang names them in image order (R177). -/
def State.loadGraph (g : Nat) (d : GraphDecl) (s : State) : State :=
  let used := (s.graphs.filter fun x => x.ctl == d.ctl).map (·.slot)
  let slot := ((lowestFree used 1).head?).getD 0
  let x : Graph := ⟨d.ctl, slot, g, d.words⟩
  let s := { s with graphs := s.graphs ++ [x] }
  s.modGang g fun x => { x with graphs := x.graphs ++ [(d.ctl, slot)] }

/-- A context's segments and allowance: charged and given room, or refused with the context's name (R413, R417). -/
def State.loadHolds (i : Nat) (c : CtxDecl) (cid : Nat) (s : State) : Loading :=
  let segs := c.holds.zipIdx.map fun p => p.1.segment p.2
  let charge := (if c.handler.isSome then allowanceCharge c.allowance else 0) + segs.foldl (fun n x => n + x.charge) 0
  let t := s.modCtx cid fun x => { x with segments := segs, charge := charge }
  let keep := t.needsKeepAlive
  let pay := charge + if keep && !s.dome.keepAlive then keepAliveCharge else 0
  if s.dome.hbudget < pay ∨ (!segs.isEmpty ∧ !t.roomFor) then .error (.context i)
  else .ok { t with dome := { t.dome with hbudget := t.dome.hbudget - pay, keepAlive := t.dome.keepAlive || keep } }

/-- The capability that the service level mints for a `.cap` (R54, R358, R359): the object's naming fields, the rights, the object's epoch, and
for a queue with s the window. None when there is no such object, or the rights or the window do not suit it. -/
def State.mintCap (s : State) (g cid : Nat) (d : CapDecl) : Option (BitVec 128) :=
  let name := fun (kind c index : Nat) => (s.ctxOf c).map fun x => entryOf [(kind, 120), (s.pkgid, 55), (x.station, 48), (x.slot, 46), (index, 0)]
  let fields : Option (BitVec 128) := match d.object with
    | .region i k => (s.regions.find? fun r => r.ctx == s.ctxNo g i && r.index == k).bind fun r => name 1 r.ctx r.handle
    | .queue k => ((s.gangQueues g)[k]?).bind fun q => q.homes.head?.bind fun h => match h.at_ with | .ctx c => name 2 c k | .engine _ _ => none
    | .gang => name 3 cid 0
    | .named x => some (x &&& entryOf [(0xFF, 120), (2 ^ 18 - 1, 46), (2 ^ 32 - 1, 0)])
  let window : Option Nat :=
    if (fields.map capKind) = some 2 ∧ d.rights.getLsbD 0 then some (d.window - 1) else if d.window = 1 then some 0 else none
  match fields, window, fields.bind s.capObj with
  | some x, some w, some o =>
    let c := x ||| entryOf [(d.rights.toNat, 115), ((s.epochOf o).toNat, 96), (w, 64)]
    if capWellFormed c && decide (1 ≤ d.window) then some c else none
  | _, _, _ => none

/-- Blocks, tiles, capabilities, must-save segments and data objects of context `i`; then its armed blocks stand and its `start` threads run. -/
def State.loadCtx (req : ActReq) (g : Nat) (p : CtxDecl × Nat) (s : State) : Loading :=
  let c := p.1
  let cid := s.ctxNo g p.2
  let caps := c.caps.map (s.mintCap g cid)
  if (!c.caps.isEmpty && !req.capsGranted) || caps.any Option.isNone then .error (.capability p.2)
  else
    let put := fun (x : Ctx) => { x with
      tiles := c.tiles.zipIdx.map fun t => (t.2, t.1.tile)
      caps := (caps.filterMap id).zipIdx.map fun k => (k.2, k.1)
      threads := (x.threads.zip c.code).map fun t => { t.1 with run := if t.2.start then .running else .never } }
    let s := s.modCtx cid put
    let blocks := fun (r : Region) => if r.ctx = cid then { r with blocks := loadBlocks c r.index } else r
    let s := { s with regions := s.regions.map blocks }
    let base := match s.ctxOf cid with | some x => x.partAddr 0 | none => 0
    let s := c.datas.foldl (fun s d => s.write none (if d.hbm then d.place else base + d.place) d.bytes) s
    s.loadHolds p.2 c cid

/-- The new contexts become owners of the unowned entries of an event with their keys (R429). -/
def State.claimPlates (img : Image) (g : Nat) (event : Nat) (s : State) : State :=
  let claim := fun (p : Plate) =>
    if p.event = event ∧ p.owner.isNone ∧ padTo 12 p.name = padTo 12 img.name ∧ p.version = img.version then
      { p with owner := (s.ctxs.find? fun c => c.gang == g && c.logical == p.logical && c.sub == p.sub).map (·.id) }
    else p
  match s.newest with
  | some k => { s with dome := { s.dome with dirs := s.dome.dirs.modify k fun d => { d with plates := d.plates.map claim } } }
  | none => s

/-- Ascending order of the entries of a load report. -/
def reportBefore (x y : Nat × Nat × Nat) : Bool :=
  decide (x.1 < y.1) || x.1 == y.1 && (decide (x.2.1 < y.2.1) || x.2.1 == y.2.1 && decide (x.2.2 < y.2.2))

/-- The overlaps of the blocks of a context's region, by block index (R312). -/
def regionOverlaps (c : CtxDecl) (k : Nat) : List (Nat × Nat × Nat) :=
  (c.blocksOf k).zipIdx.flatMap fun b => ((b.1.block 0 Dispatch.zero).overlaps).map fun o => (b.2, o.1, o.2)

/-- The load report of permissive mode (R225): every overlap of every block of the patched image, ascending. An entry names no region, so
those of several regions stand together (DESIGN CHOICE, log 73). -/
def overlapReport (img : Image) : List (Nat × Nat × Nat) :=
  sortBy reportBefore (img.ctxs.flatMap fun c => (List.range c.regions.length).flatMap fun k => regionOverlaps c k)

/-- The load status of an activation that succeeded: in permissive mode with the first 256 overlaps and their number. -/
def loadStatus (img : Image) (req : ActReq) : LoadStatus :=
  let found := if req.permissive then overlapReport img else []
  ⟨0, none, found.take 256, found.length⟩

/-! ### The whole -/

/-- The resting gang that a replacement names, or none when nothing is replaced; a gang that is not at rest cannot be replaced. -/
def State.replaced (s : State) (req : ActReq) : Option (List Queue) :=
  match req.replace with
  | none => some []
  | some o => match s.gangOf o with
    | some x => if x.qstate = 2 then some (s.gangQueues o) else none
    | none => none

def newGang (img : Image) (req : ActReq) (id : Nat) : Gang where
  id := id
  name := img.name
  version := img.version
  asid := req.asid
  service := req.service
  qstate := 0
  qnumber := 0
  graphs := []
  queues := img.queues.length
  epoch := 0

/-- A failing step. -/
def stepFails (n : Nat) (x : Loading) : Except (Nat × LoadObj) State := x.mapError fun o => (n, o)

/-- The threads and regions of a new activation number their records from 0 (R391). -/
def State.freshSources (s : State) (g : Nat) : State :=
  let threads := (s.imageCtxs g).flatMap fun c =>
    (List.range c.threads.length).map fun i => (0, (s.actorId (.thread c.station c.slot i)).toNat)
  let ids := threads ++ (s.gangRegions g).map fun r => (1, (s.regionId r).toNat)
  { s with tree := { s.tree with srcSeqs := s.tree.srcSeqs.filter fun p => !ids.contains p.1 } }

/-- Steps 2 to 7 of R37 on a checked image. -/
def State.loadImage (s : State) (img : Image) (req : ActReq) (handles : List Nat) (old : List Queue) : Except (Nat × LoadObj) State :=
  let (g, s) := s.fresh
  let s := { s with gangs := s.gangs ++ [newGang img req g], mmu := { s.mmu with tlb := s.mmu.tlb.filter fun e => e.asid != req.asid } }
  match stepFails 2 (loadEach (State.createCtx img req g) img.ctxs.zipIdx s) with
  | .error e => .error e
  | .ok s =>
    let s := s.defineDomains req g
    match stepFails 3 (loadEach (State.loadQueue req g old) img.queues.zipIdx s) with
    | .error e => .error e
    | .ok s =>
      match s.placeRegions (s.newRegions img req g handles) with
      | .error o => .error (4, o)
      | .ok rs =>
        let s := img.graphs.foldl (fun s d => s.loadGraph g d) { s with regions := rs }
        match stepFails 5 (loadEach (State.loadCtx req g) img.ctxs.zipIdx s) with
        | .error e => .error e
        | .ok s =>
          let s : State := match req.replace with
            | some o => (s.imageCtxs o).foldl (fun s c => s.retireCtx c.id) (s.passCommands img g o)
            | none => s
          let s : State := match req.claim with | some e => s.claimPlates img g e | none => s
          .ok (s.freshSources g)

/-- Step 1 and the rest, on the patched image; the load status is that of success. An ASID that a gang has is not given to another (R345). -/
def State.activate (s : State) (img : Image) (req : ActReq) : Except (Nat × LoadObj) State :=
  let handles := lowestFree (s.regions.map (·.handle)) img.regions.length
  match applyRelocs req.place handles [] img.relocs img with
  | .error n => .error (1, img.badReloc n)
  | .ok img =>
    match s.badImage img req with
    | some o => .error (1, o)
    | none =>
      if s.ctxs.any fun c => c.asid == req.asid then .error (1, .image)
      else
        match s.replaced req with
        | none => .error (1, .image)
        | some old => (s.loadImage img req handles old).map fun t => { t with loaded := some (loadStatus img req) }

/-- An access of an address space is still to be performed: the loader's TLBINV waits for it before it gives the ASID anew (R345, R362). -/
def State.asidBusy (s : State) (a : Nat) : Bool :=
  let mine := fun (v : Option Via) => match v with | some v => v.asid == a | none => false
  (s.bus.reqs.any fun r => mine r.via) || (s.bus.outs.any fun r => mine r.via) || s.health.ctls.any fun h => h.buffer.any fun r => mine r.via

/-- IMAGE_ACTIVATION: all or nothing. A failed activation leaves everything as it was but the load status. -/
def execImageActivation (s : State) : Out :=
  match s.model.arg with
  | .activate img req =>
    if s.boot.stage ≠ 6 ∨ s.closing ∨ s.dome.checking ∨ s.asidBusy req.asid then .next s
    else
      match s.flush.activate img req with
      | .error (n, o) => .next { s with loaded := some ⟨n, some o, [], 0⟩ }
      | .ok t => .next t
  | _ => .next s

end Sys2Proof.Machine
end

