-- ==== Sys2Proof/Machine/Float.lean ====
section
/-! DEFINITION. Scalar floating point on the special-function unit (R164-R171) and the writing of its results. -/

namespace Sys2Proof.Machine

/-- The format of a suffix. -/
def ffmt : FFmt → FloatFmt
  | .f32 => fp32
  | .f64 => fp64

/-- The rounding mode of a sequencer form (R88). -/
def srnd : SRnd → Rnd
  | .rne => .rne | .rtz => .rtz | .up => .up | .down => .down | .ta => .ta

/-- An operand of the format: FP32 in bits [31:0], FP64 whole (R168). -/
def fval (f : FFmt) (x : Word) : Val := (ffmt f).decode (x.toNat % 2 ^ (ffmt f).width)

/-- The pattern of the operand. -/
def fpat (f : FFmt) (x : Word) : Nat := x.toNat % 2 ^ (ffmt f).width

/-- A result and its flags as the SFU writes them. -/
abbrev FRes := Word × Flags

def fres (p : Nat × Flags) : FRes := (w64 p.1, p.2)

/-- The forms of R169 on register values; `c` is gd before the instruction. -/
def faddR (f : FFmt) (r : SRnd) (a b : Word) : FRes := fres (fAddVal (ffmt f) (fval f a) (fval f b) (srnd r) 0)
def fsubR (f : FFmt) (r : SRnd) (a b : Word) : FRes := fres (fAddVal (ffmt f) (fval f a) (fval f b).flip (srnd r) 0)
def fmulR (f : FFmt) (r : SRnd) (a b : Word) : FRes := fres (fMulVal (ffmt f) (fval f a) (fval f b) (srnd r) 0)
def fdivR (f : FFmt) (r : SRnd) (a b : Word) : FRes := fres (fDivVal (ffmt f) (fval f a) (fval f b) (srnd r) 0)
def fsqrtR (f : FFmt) (r : SRnd) (a : Word) : FRes := fres (fSqrtVal (ffmt f) (fval f a) (srnd r) 0)
def fmaR (f : FFmt) (r : SRnd) (a b c : Word) : FRes := fres (fFmaVal (ffmt f) (fval f a) (fval f b) (fval f c) (srnd r) 0)
def fminR (f : FFmt) (a b : Word) : FRes := fres (fMinMax (ffmt f) false (fpat f a) (fpat f b))
def fmaxR (f : FFmt) (a b : Word) : FRes := fres (fMinMax (ffmt f) true (fpat f a) (fpat f b))

/-- FCMP (R170): one bit of the relation mask. -/
def fcmpR (f : FFmt) (a b : Word) : FRes :=
  let x := fval f a
  let y := fval f b
  let mask : Word := if x.isNan || y.isNan then 8 else if x.lt y then 1 else if y.lt x then 4 else 2
  (mask, flagIf (x.isSNan || y.isSNan) fInvalid)

/-- FCVTI (R171): to S64. -/
def fcvtiR (f : FFmt) (r : SRnd) (a : Word) : FRes :=
  let T : IntFmt := ⟨true, 64⟩
  let x := T.round (fval f a) (srnd r) 0
  (BitVec.ofInt 64 x.1, x.2)

/-- FCVTF (R171): from S64. -/
def fcvtfR (f : FFmt) (r : SRnd) (a : Word) : FRes := fres ((ffmt f).round (valOfInt a.toInt) (srnd r) 0)

/-- FCVTW (R171): from the other format. -/
def fcvtwR (f : FFmt) (r : SRnd) (a : Word) : FRes :=
  match f with
  | .f64 => fres (fp64.round (fval .f32 a) .rne 0)
  | .f32 => fres (fp32.round (fval .f64 a) (srnd r) 0)

/-- Entries of the SFU queue, and those of the loaded thread, leave room (R164). -/
def State.sfuRoom (s : State) : Bool :=
  decide ((s.sfuOf s.who.unit).length < Config.sfuQueue) && decide ((s.pendingSfu s.who).length < Config.sfuPerThread)

/-- Sends a request to the SFU (R164); without room the thread waits (R166). -/
def State.sfuIssue (s : State) (d : Reg) (r : FRes) : State :=
  if s.sfuRoom then
    let q : SfuReq :=
      { who := s.who, gd := d, value := r.1, flags := r.2, ctx := match s.myCtx with | some c => c.id | none => 0 }
    ((s.setSfu s.who.unit (s.sfuOf s.who.unit ++ [q])).count 5).retire 2
  else s.waitFor .sfu

/-- A two-operand SFU form. -/
def opF2 (i : Instr) (d a b : Reg) (f : Word → Word → FRes) (s : State) : Out :=
  issue i (.plain [d, a, b]) s fun s => s.sfuIssue d (f (s.reg a) (s.reg b))

/-- A one-operand SFU form. -/
def opF1 (i : Instr) (d a : Reg) (f : Word → FRes) (s : State) : Out :=
  issue i (.plain [d, a]) s fun s => s.sfuIssue d (f (s.reg a))

def execFadd (f : FFmt) (r : SRnd) (d a b : Reg) (s : State) : Out := opF2 (.fadd f r d a b) d a b (faddR f r) s
def execFsub (f : FFmt) (r : SRnd) (d a b : Reg) (s : State) : Out := opF2 (.fsub f r d a b) d a b (fsubR f r) s
def execFmul (f : FFmt) (r : SRnd) (d a b : Reg) (s : State) : Out := opF2 (.fmul f r d a b) d a b (fmulR f r) s
def execFdiv (f : FFmt) (r : SRnd) (d a b : Reg) (s : State) : Out := opF2 (.fdiv f r d a b) d a b (fdivR f r) s
def execFsqrt (f : FFmt) (r : SRnd) (d a : Reg) (s : State) : Out := opF1 (.fsqrt f r d a) d a (fsqrtR f r) s
def execFma (f : FFmt) (r : SRnd) (d a b : Reg) (s : State) : Out :=
  issue (.fma f r d a b) (.plain [d, a, b]) s fun s => s.sfuIssue d (fmaR f r (s.reg a) (s.reg b) (s.reg d))
def execFmin (f : FFmt) (d a b : Reg) (s : State) : Out := opF2 (.fmin f d a b) d a b (fminR f) s
def execFmax (f : FFmt) (d a b : Reg) (s : State) : Out := opF2 (.fmax f d a b) d a b (fmaxR f) s
def execFcmp (f : FFmt) (d a b : Reg) (s : State) : Out := opF2 (.fcmp f d a b) d a b (fcmpR f) s
def execFcvti (f : FFmt) (r : SRnd) (d a : Reg) (s : State) : Out := opF1 (.fcvti f r d a) d a (fcvtiR f r) s
def execFcvtf (f : FFmt) (r : SRnd) (d a : Reg) (s : State) : Out := opF1 (.fcvtf f r d a) d a (fcvtfR f r) s
def execFcvtw (f : FFmt) (r : SRnd) (d a : Reg) (s : State) : Out := opF1 (.fcvtw f r d a) d a (fcvtwR f r) s

/-! ### Results (R93, R164, R167) -/

/-- A result and its flags are written together (R93). -/
def Thr.sfuWrite (t : Thr) (r : SfuReq) : Thr :=
  { t.setReg r.gd r.value with fflags := orFlags t.fflags r.flags }

/-- Writes a completed result: to its thread; to a late-result slot when its context is switched out; nowhere when the context
has been killed (R167). -/
def State.sfuDeliver (s : State) (r : SfuReq) : State :=
  match r.who with
  | .engine _ _ => s.modThr r.who (Thr.sfuWrite · r)
  | .thread _ _ i =>
    match s.ctxOf r.ctx with
    | none => s
    | some c =>
      if c.resident then s.modThr r.who (Thr.sfuWrite · r)
      else s.modCtx c.id fun c =>
        { c with threads := c.threads.modify i fun t => { t with late := t.late ++ [(r.value, r.flags, r.gd)] } }

/-- A thread of a unit that waits for SFU results looks again at what it waits for. -/
def State.wakeSfu (s : State) (a : Actor) : State :=
  s.modThr a fun t => if t.wait = .sfu then { t with wait := .none } else t

/-- The actors that a unit's SFU serves. -/
def State.sfuUsers (s : State) (u : UnitId) : List Actor :=
  match u with
  | .engine d e => [.engine d e]
  | .station st =>
    (s.ctxs.filter fun c => c.resident && c.station == st).flatMap fun c =>
      (List.range c.threads.length).map fun i => .thread st c.slot i

/-- SFU_RESULT: the unit's oldest request completes (R164). -/
def execSfuResult (s : State) : Out :=
  match s.model.arg with
  | .unit u =>
    match s.sfuOf u with
    | [] => .next s
    | r :: q => .next ((s.sfuUsers u).foldl (fun s a => s.wakeSfu a) ((s.setSfu u q).sfuDeliver r))
  | _ => .next s

end Sys2Proof.Machine
end

