-- ==== Sys2Proof/Machine/IntArith.lean ====
section
/-! DEFINITION. Integer, immediate and constant instructions, their compact forms, and packed SIMD (R160-R163). -/

namespace Sys2Proof.Machine

/-! ### Values -/

/-- Signed quotient, truncated toward zero, with the corners of R160. -/
def divS (a b : Word) : Word :=
  if b = 0 then BitVec.allOnes 64 else BitVec.ofInt 64 (a.toInt.tdiv b.toInt)

def divN (a b : Word) : Word := if b = 0 then BitVec.allOnes 64 else a / b

def mulHighS (a b : Word) : Word := BitVec.ofInt 64 ((a.toInt * b.toInt) / 2 ^ 64)
def mulHighN (a b : Word) : Word := BitVec.ofNat 64 ((a.toNat * b.toNat) / 2 ^ 64)

def shl (a b : Word) : Word := if b.toNat < 64 then a <<< b.toNat else 0
def shr (a b : Word) : Word := if b.toNat < 64 then a >>> b.toNat else 0
def sar (a b : Word) : Word := if b.toNat < 64 then a.sshiftRight b.toNat else if a.msb then BitVec.allOnes 64 else 0

def ofBool (b : Bool) : Word := if b then 1 else 0

/-- Leading zeros of the low `n` bits. -/
def leadingZeros : (n : Nat) → Nat → Nat
  | 0, _ => 0
  | n + 1, v => if v.testBit n then 0 else 1 + leadingZeros n v

/-- One bits among the low `n`. -/
def popCount : (n : Nat) → Nat → Nat
  | 0, _ => 0
  | n + 1, v => boolNat (v.testBit n) + popCount n v

/-! ### Shapes -/

/-- gd := f (ga, gb). -/
def opRRR (i : Instr) (d a b : Reg) (f : Word → Word → Word) (s : State) : Out :=
  issue i (.plain [d, a, b]) s fun s => s.finish d (f (s.reg a) (s.reg b))

/-- gd := f (ga). -/
def opRR (i : Instr) (d a : Reg) (f : Word → Word) (s : State) : Out :=
  issue i (.plain [d, a]) s fun s => s.finish d (f (s.reg a))

/-- A compact form gd := f (ga, gb). -/
def opC (i : Instr) (d a b : CReg) (f : Word → Word → Word) (s : State) : Out :=
  issue i (.plain [creg d, creg a, creg b]) s fun s => (s.setReg (creg d) (f (s.reg (creg a)) (s.reg (creg b)))).retire 1

/-- A compact form gd := f (ga). -/
def opCI (i : Instr) (d a : CReg) (f : Word → Word) (s : State) : Out :=
  issue i (.plain [creg d, creg a]) s fun s => (s.setReg (creg d) (f (s.reg (creg a)))).retire 1

/-! ### R160 -/

def execAdd (d a b : Reg) (s : State) : Out := opRRR (.add d a b) d a b (· + ·) s
def execSub (d a b : Reg) (s : State) : Out := opRRR (.sub d a b) d a b (· - ·) s
def execMul (d a b : Reg) (s : State) : Out := opRRR (.mul d a b) d a b (· * ·) s
def execMulh (d a b : Reg) (s : State) : Out := opRRR (.mulh d a b) d a b mulHighS s
def execMulhn (d a b : Reg) (s : State) : Out := opRRR (.mulhn d a b) d a b mulHighN s
def execDiv (d a b : Reg) (s : State) : Out := opRRR (.div d a b) d a b divS s
def execDivn (d a b : Reg) (s : State) : Out := opRRR (.divn d a b) d a b divN s
def execAnd (d a b : Reg) (s : State) : Out := opRRR (.and_ d a b) d a b (· &&& ·) s
def execOr (d a b : Reg) (s : State) : Out := opRRR (.or_ d a b) d a b (· ||| ·) s
def execXor (d a b : Reg) (s : State) : Out := opRRR (.xor_ d a b) d a b (· ^^^ ·) s
def execAndn (d a b : Reg) (s : State) : Out := opRRR (.andn d a b) d a b (fun x y => x &&& ~~~ y) s
def execSll (d a b : Reg) (s : State) : Out := opRRR (.sll d a b) d a b shl s
def execSrl (d a b : Reg) (s : State) : Out := opRRR (.srl d a b) d a b shr s
def execSra (d a b : Reg) (s : State) : Out := opRRR (.sra d a b) d a b sar s
def execSlt (d a b : Reg) (s : State) : Out := opRRR (.slt d a b) d a b (fun x y => ofBool (x.slt y)) s
def execSltn (d a b : Reg) (s : State) : Out := opRRR (.sltn d a b) d a b (fun x y => ofBool (x.ult y)) s
def execMin (d a b : Reg) (s : State) : Out := opRRR (.min_ d a b) d a b (fun x y => if x.slt y then x else y) s
def execMax (d a b : Reg) (s : State) : Out := opRRR (.max_ d a b) d a b (fun x y => if x.slt y then y else x) s
def execClz (d a : Reg) (s : State) : Out := opRR (.clz d a) d a (fun x => w64 (leadingZeros 64 x.toNat)) s
def execPopc (d a : Reg) (s : State) : Out := opRR (.popc d a) d a (fun x => w64 (popCount 64 x.toNat)) s

/-! ### R161, R162 -/

def execAddi (d a : Reg) (imm : BitVec 13) (s : State) : Out := opRR (.addi d a imm) d a (· + imm.signExtend 64) s
def execAndi (d a : Reg) (imm : BitVec 13) (s : State) : Out := opRR (.andi d a imm) d a (· &&& imm.signExtend 64) s
def execSlli (d a : Reg) (n : BitVec 6) (s : State) : Out := opRR (.slli d a n) d a (· <<< n.toNat) s
def execSrli (d a : Reg) (n : BitVec 6) (s : State) : Out := opRR (.srli d a n) d a (· >>> n.toNat) s
def execSrai (d a : Reg) (n : BitVec 6) (s : State) : Out := opRR (.srai d a n) d a (fun x => x.sshiftRight n.toNat) s

def execLi (d : Reg) (imm : BitVec 18) (s : State) : Out :=
  issue (.li d imm) (.plain [d]) s fun s => s.finish d (imm.signExtend 64)

def execLic (d : Reg) (imm : BitVec 18) (s : State) : Out :=
  issue (.lic d imm) (.plain [d]) s fun s => s.finish d ((s.reg d <<< 18) ||| imm.setWidth 64)

def execAddpc (d : Reg) (imm : BitVec 18) (s : State) : Out :=
  issue (.addpc d imm) (.plain [d]) s fun s => s.finish d (s.cpu.pc + (imm.signExtend 64 <<< 1))

/-! ### Compact forms (R64): the effects of R160 to R162 -/

def execAddCompact (d a b : CReg) (s : State) : Out := opC (.addCompact d a b) d a b (· + ·) s
def execSubCompact (d a b : CReg) (s : State) : Out := opC (.subCompact d a b) d a b (· - ·) s
def execAndCompact (d a b : CReg) (s : State) : Out := opC (.andCompact d a b) d a b (· &&& ·) s
def execOrCompact (d a b : CReg) (s : State) : Out := opC (.orCompact d a b) d a b (· ||| ·) s
def execXorCompact (d a b : CReg) (s : State) : Out := opC (.xorCompact d a b) d a b (· ^^^ ·) s
def execAddiCompact (d a : CReg) (i : BitVec 4) (s : State) : Out := opCI (.addiCompact d a i) d a (· + i.signExtend 64) s
def execSlliCompact (d a : CReg) (i : BitVec 4) (s : State) : Out := opCI (.slliCompact d a i) d a (· <<< i.toNat) s
def execSrliCompact (d a : CReg) (i : BitVec 4) (s : State) : Out := opCI (.srliCompact d a i) d a (· >>> i.toNat) s
def execLiCompact (d : CReg) (i : BitVec 8) (s : State) : Out :=
  issue (.liCompact d i) (.plain [creg d]) s fun s => (s.setReg (creg d) (i.signExtend 64)).retire 1

/-! ### Packed SIMD (R163) -/

def PLane.width : PLane → Nat
  | .b => 8
  | .h => 16
  | .w => 32

/-- The result of one lane of width w. -/
def clampS (v : Int) (w : Nat) : Int := max (min v ((2 ^ (w - 1) : Nat) - 1)) (-((2 ^ (w - 1) : Nat) : Int))

/-- Packed: lane i of the result from lane i of a and b. -/
def packedLanes (w n : Nat) (f : Nat → Nat → Nat) (a b : Nat) : Nat :=
  match n with
  | 0 => 0
  | n + 1 => f (a % 2 ^ w) (b % 2 ^ w) % 2 ^ w + 2 ^ w * packedLanes w n f (a / 2 ^ w) (b / 2 ^ w)

def packed (w : Nat) (f : Nat → Nat → Nat) (a b : Word) : Word := w64 (packedLanes w (64 / w) f a.toNat b.toNat)

/-- A packed form with lane width `l`. -/
def opPacked (i : Instr) (l : PLane) (d a b : Reg) (f : Nat → Nat → Nat → Nat) (s : State) : Out :=
  opRRR i d a b (packed (PLane.width l) (f (PLane.width l))) s

def lanePadd (w x y : Nat) : Nat := wrapOf (x + y) w
def lanePsub (w x y : Nat) : Nat := wrapOf ((x : Int) - y) w
def lanePadds (w x y : Nat) : Nat := wrapOf (clampS (signedOf x w + signedOf y w) w) w
def lanePaddsn (w x y : Nat) : Nat := min (x + y) (2 ^ w - 1)
def lanePsubs (w x y : Nat) : Nat := wrapOf (clampS (signedOf x w - signedOf y w) w) w
def lanePsubsn (_w x y : Nat) : Nat := x - y
def lanePmul (w x y : Nat) : Nat := wrapOf (x * y) w
def lanePmin (w x y : Nat) : Nat := wrapOf (min (signedOf x w) (signedOf y w)) w
def lanePmax (w x y : Nat) : Nat := wrapOf (max (signedOf x w) (signedOf y w)) w

def execPadd (l : PLane) (d a b : Reg) (s : State) : Out := opPacked (.padd l d a b) l d a b lanePadd s
def execPsub (l : PLane) (d a b : Reg) (s : State) : Out := opPacked (.psub l d a b) l d a b lanePsub s
def execPadds (l : PLane) (d a b : Reg) (s : State) : Out := opPacked (.padds l d a b) l d a b lanePadds s
def execPaddsn (l : PLane) (d a b : Reg) (s : State) : Out := opPacked (.paddsn l d a b) l d a b lanePaddsn s
def execPsubs (l : PLane) (d a b : Reg) (s : State) : Out := opPacked (.psubs l d a b) l d a b lanePsubs s
def execPsubsn (l : PLane) (d a b : Reg) (s : State) : Out := opPacked (.psubsn l d a b) l d a b lanePsubsn s
def execPmul (l : PLane) (d a b : Reg) (s : State) : Out := opPacked (.pmul l d a b) l d a b lanePmul s
def execPmin (l : PLane) (d a b : Reg) (s : State) : Out := opPacked (.pmin l d a b) l d a b lanePmin s
def execPmax (l : PLane) (d a b : Reg) (s : State) : Out := opPacked (.pmax l d a b) l d a b lanePmax s

end Sys2Proof.Machine
end

