-- ==== Sys2Proof/Machine/Dispatch.lean ====
section
/-! DEFINITION. One arm for each operation: its meaning. -/

namespace Sys2Proof.Machine

def exec (i : Instr) (s : State) : Host.Outcome State Fault Refusal :=
  match i with
  | .add d a b => Sys2Proof.Machine.execAdd d a b s
  | .sub d a b => Sys2Proof.Machine.execSub d a b s
  | .mul d a b => Sys2Proof.Machine.execMul d a b s
  | .mulh d a b => Sys2Proof.Machine.execMulh d a b s
  | .mulhn d a b => Sys2Proof.Machine.execMulhn d a b s
  | .div d a b => Sys2Proof.Machine.execDiv d a b s
  | .divn d a b => Sys2Proof.Machine.execDivn d a b s
  | .and_ d a b => Sys2Proof.Machine.execAnd d a b s
  | .or_ d a b => Sys2Proof.Machine.execOr d a b s
  | .xor_ d a b => Sys2Proof.Machine.execXor d a b s
  | .andn d a b => Sys2Proof.Machine.execAndn d a b s
  | .sll d a b => Sys2Proof.Machine.execSll d a b s
  | .srl d a b => Sys2Proof.Machine.execSrl d a b s
  | .sra d a b => Sys2Proof.Machine.execSra d a b s
  | .slt d a b => Sys2Proof.Machine.execSlt d a b s
  | .sltn d a b => Sys2Proof.Machine.execSltn d a b s
  | .min_ d a b => Sys2Proof.Machine.execMin d a b s
  | .max_ d a b => Sys2Proof.Machine.execMax d a b s
  | .clz d a => Sys2Proof.Machine.execClz d a s
  | .popc d a => Sys2Proof.Machine.execPopc d a s
  | .addi d a imm => Sys2Proof.Machine.execAddi d a imm s
  | .andi d a imm => Sys2Proof.Machine.execAndi d a imm s
  | .slli d a n => Sys2Proof.Machine.execSlli d a n s
  | .srli d a n => Sys2Proof.Machine.execSrli d a n s
  | .srai d a n => Sys2Proof.Machine.execSrai d a n s
  | .li d imm => Sys2Proof.Machine.execLi d imm s
  | .lic d imm => Sys2Proof.Machine.execLic d imm s
  | .addpc d imm => Sys2Proof.Machine.execAddpc d imm s
  | .padd l d a b => Sys2Proof.Machine.execPadd l d a b s
  | .psub l d a b => Sys2Proof.Machine.execPsub l d a b s
  | .padds l d a b => Sys2Proof.Machine.execPadds l d a b s
  | .paddsn l d a b => Sys2Proof.Machine.execPaddsn l d a b s
  | .psubs l d a b => Sys2Proof.Machine.execPsubs l d a b s
  | .psubsn l d a b => Sys2Proof.Machine.execPsubsn l d a b s
  | .pmul l d a b => Sys2Proof.Machine.execPmul l d a b s
  | .pmin l d a b => Sys2Proof.Machine.execPmin l d a b s
  | .pmax l d a b => Sys2Proof.Machine.execPmax l d a b s
  | .fadd f r d a b => Sys2Proof.Machine.execFadd f r d a b s
  | .fsub f r d a b => Sys2Proof.Machine.execFsub f r d a b s
  | .fmul f r d a b => Sys2Proof.Machine.execFmul f r d a b s
  | .fdiv f r d a b => Sys2Proof.Machine.execFdiv f r d a b s
  | .fsqrt f r d a => Sys2Proof.Machine.execFsqrt f r d a s
  | .fma f r d a b => Sys2Proof.Machine.execFma f r d a b s
  | .fmin f d a b => Sys2Proof.Machine.execFmin f d a b s
  | .fmax f d a b => Sys2Proof.Machine.execFmax f d a b s
  | .fcmp f d a b => Sys2Proof.Machine.execFcmp f d a b s
  | .fcvti f r d a => Sys2Proof.Machine.execFcvti f r d a s
  | .fcvtf f r d a => Sys2Proof.Machine.execFcvtf f r d a s
  | .fcvtw f r d a => Sys2Proof.Machine.execFcvtw f r d a s
  | .beq a b o => Sys2Proof.Machine.execBeq a b o s
  | .bne a b o => Sys2Proof.Machine.execBne a b o s
  | .blt a b o => Sys2Proof.Machine.execBlt a b o s
  | .bge a b o => Sys2Proof.Machine.execBge a b o s
  | .bltn a b o => Sys2Proof.Machine.execBltn a b o s
  | .bgen a b o => Sys2Proof.Machine.execBgen a b o s
  | .jal d o => Sys2Proof.Machine.execJal d o s
  | .jalr d a imm => Sys2Proof.Machine.execJalr d a imm s
  | .ld d a w o => Sys2Proof.Machine.execLd d a w o s
  | .st d a w o => Sys2Proof.Machine.execSt d a w o s
  | .ldaq d a w sc => Sys2Proof.Machine.execLdaq d a w sc s
  | .strl a b w sc => Sys2Proof.Machine.execStrl a b w sc s
  | .fence sc k => Sys2Proof.Machine.execFence sc k s
  | .sflag a b w sc => Sys2Proof.Machine.execSflag a b w sc s
  | .aadd z t d a b => Sys2Proof.Machine.execAadd z t d a b s
  | .aand z t d a b => Sys2Proof.Machine.execAand z t d a b s
  | .aor z t d a b => Sys2Proof.Machine.execAor z t d a b s
  | .axor z t d a b => Sys2Proof.Machine.execAxor z t d a b s
  | .amin z t d a b => Sys2Proof.Machine.execAmin z t d a b s
  | .amax z t d a b => Sys2Proof.Machine.execAmax z t d a b s
  | .aswap z t d a b => Sys2Proof.Machine.execAswap z t d a b s
  | .afaddF32 t d a b => Sys2Proof.Machine.execAfaddF32 t d a b s
  | .afaddBf16 t d a b => Sys2Proof.Machine.execAfaddBf16 t d a b s
  | .cas z t d a b => Sys2Proof.Machine.execCas z t d a b s
  | .send d a => Sys2Proof.Machine.execSend d a s
  | .cset d a b => Sys2Proof.Machine.execCset d a b s
  | .cget d a => Sys2Proof.Machine.execCget d a s
  | .cbind d a b => Sys2Proof.Machine.execCbind d a b s
  | .cwait d a b => Sys2Proof.Machine.execCwait d a b s
  | .mbwait d b => Sys2Proof.Machine.execMbwait d b s
  | .mbpop d b => Sys2Proof.Machine.execMbpop d b s
  | .mbpeek d b => Sys2Proof.Machine.execMbpeek d b s
  | .qdef d a => Sys2Proof.Machine.execQdef d a s
  | .qpush rel d a b => Sys2Proof.Machine.execQpush rel d a b s
  | .qpop d a b => Sys2Proof.Machine.execQpop d a b s
  | .qpeek d a b => Sys2Proof.Machine.execQpeek d a b s
  | .qstat d a => Sys2Proof.Machine.execQstat d a s
  | .qbind d a => Sys2Proof.Machine.execQbind d a s
  | .qmark d a => Sys2Proof.Machine.execQmark d a s
  | .tlook d a => Sys2Proof.Machine.execTlook d a s
  | .tins d a b => Sys2Proof.Machine.execTins d a b s
  | .tinv d a => Sys2Proof.Machine.execTinv d a s
  | .tdef d a => Sys2Proof.Machine.execTdef d a s
  | .tstat d a b => Sys2Proof.Machine.execTstat d a b s
  | .twait d a => Sys2Proof.Machine.execTwait d a s
  | .agset d a => Sys2Proof.Machine.execAgset d a s
  | .agparm d a b => Sys2Proof.Machine.execAgparm d a b s
  | .sopen d => Sys2Proof.Machine.execSopen d s
  | .sclose d a => Sys2Proof.Machine.execSclose d a s
  | .sstat d a => Sys2Proof.Machine.execSstat d a s
  | .mload d a b => Sys2Proof.Machine.execMload d a b s
  | .mrun d a b => Sys2Proof.Machine.execMrun d a b s
  | .mdrain d a b => Sys2Proof.Machine.execMdrain d a b s
  | .mstat d a => Sys2Proof.Machine.execMstat d a s
  | .rarm d a b => Sys2Proof.Machine.execRarm d a b s
  | .rdisarm d a => Sys2Proof.Machine.execRdisarm d a s
  | .cancelBlock d a b => Sys2Proof.Machine.execCancelBlock d a b s
  | .cancelCommand d a b => Sys2Proof.Machine.execCancelCommand d a b s
  | .cancelHungRegion d a b => Sys2Proof.Machine.execCancelHungRegion d a b s
  | .rprio d a b => Sys2Proof.Machine.execRprio d a b s
  | .thprio d a => Sys2Proof.Machine.execThprio d a s
  | .bar d a => Sys2Proof.Machine.execBar d a s
  | .barsnap d a => Sys2Proof.Machine.execBarsnap d a s
  | .reduce d a b => Sys2Proof.Machine.execReduce d a b s
  | .done_ d a => Sys2Proof.Machine.execDone d a s
  | .trap a => Sys2Proof.Machine.execTrap a s
  | .ctxswOut d a b => Sys2Proof.Machine.execCtxswOut d a b s
  | .ctxswIn d a b => Sys2Proof.Machine.execCtxswIn d a b s
  | .ctxswKill d a b => Sys2Proof.Machine.execCtxswKill d a b s
  | .frzsave d a b => Sys2Proof.Machine.execFrzsave d a b s
  | .drnsave d a b => Sys2Proof.Machine.execDrnsave d a b s
  | .restore d a b => Sys2Proof.Machine.execRestore d a b s
  | .rdstate d a => Sys2Proof.Machine.execRdstate d a s
  | .tlbinv d a b => Sys2Proof.Machine.execTlbinv d a b s
  | .capmintInstall d a b => Sys2Proof.Machine.execCapmintInstall d a b s
  | .capmintAdvance d a b => Sys2Proof.Machine.execCapmintAdvance d a b s
  | .hdecl d a b => Sys2Proof.Machine.execHdecl d a b s
  | .hopen d a b => Sys2Proof.Machine.execHopen d a b s
  | .hclose d a => Sys2Proof.Machine.execHclose d a s
  | .platerdHeader d a b => Sys2Proof.Machine.execPlaterdHeader d a b s
  | .platerdEntry d a b => Sys2Proof.Machine.execPlaterdEntry d a b s
  | .hclear d a => Sys2Proof.Machine.execHclear d a s
  | .getk d n => Sys2Proof.Machine.execGetk d n s
  | .putk a n => Sys2Proof.Machine.execPutk a n s
  | .putkEcomph a => Sys2Proof.Machine.execPutkEcomph a s
  | .putkDom a => Sys2Proof.Machine.execPutkDom a s
  | .putkLnack a => Sys2Proof.Machine.execPutkLnack a s
  | .lld d a o => Sys2Proof.Machine.execLld d a o s
  | .lst d a o => Sys2Proof.Machine.execLst d a o s
  | .addCompact d a b => Sys2Proof.Machine.execAddCompact d a b s
  | .subCompact d a b => Sys2Proof.Machine.execSubCompact d a b s
  | .andCompact d a b => Sys2Proof.Machine.execAndCompact d a b s
  | .orCompact d a b => Sys2Proof.Machine.execOrCompact d a b s
  | .xorCompact d a b => Sys2Proof.Machine.execXorCompact d a b s
  | .addiCompact d a imm => Sys2Proof.Machine.execAddiCompact d a imm s
  | .slliCompact d a imm => Sys2Proof.Machine.execSlliCompact d a imm s
  | .srliCompact d a imm => Sys2Proof.Machine.execSrliCompact d a imm s
  | .liCompact d imm => Sys2Proof.Machine.execLiCompact d imm s
  | .ld64Compact d a imm => Sys2Proof.Machine.execLd64Compact d a imm s
  | .st64Compact d a imm => Sys2Proof.Machine.execSt64Compact d a imm s
  | .beqCompact a o => Sys2Proof.Machine.execBeqCompact a o s
  | .bneCompact a o => Sys2Proof.Machine.execBneCompact a o s
  | .nodeFadd at_ w => Sys2Proof.Machine.execNodeFadd at_ w s
  | .nodeFsub at_ w => Sys2Proof.Machine.execNodeFsub at_ w s
  | .nodeFmul at_ w => Sys2Proof.Machine.execNodeFmul at_ w s
  | .nodeFma at_ w => Sys2Proof.Machine.execNodeFma at_ w s
  | .nodeFmin at_ w => Sys2Proof.Machine.execNodeFmin at_ w s
  | .nodeFmax at_ w => Sys2Proof.Machine.execNodeFmax at_ w s
  | .nodeFabs at_ w => Sys2Proof.Machine.execNodeFabs at_ w s
  | .nodeFneg at_ w => Sys2Proof.Machine.execNodeFneg at_ w s
  | .nodeFcmp at_ w => Sys2Proof.Machine.execNodeFcmp at_ w s
  | .nodeFrcp at_ w => Sys2Proof.Machine.execNodeFrcp at_ w s
  | .nodeFrsq at_ w => Sys2Proof.Machine.execNodeFrsq at_ w s
  | .nodeFsqrt at_ w => Sys2Proof.Machine.execNodeFsqrt at_ w s
  | .nodeFexp2 at_ w => Sys2Proof.Machine.execNodeFexp2 at_ w s
  | .nodeFlog2 at_ w => Sys2Proof.Machine.execNodeFlog2 at_ w s
  | .nodeFsin at_ w => Sys2Proof.Machine.execNodeFsin at_ w s
  | .nodeFcos at_ w => Sys2Proof.Machine.execNodeFcos at_ w s
  | .nodeFtanh at_ w => Sys2Proof.Machine.execNodeFtanh at_ w s
  | .nodeIadd at_ w => Sys2Proof.Machine.execNodeIadd at_ w s
  | .nodeIsub at_ w => Sys2Proof.Machine.execNodeIsub at_ w s
  | .nodeImul at_ w => Sys2Proof.Machine.execNodeImul at_ w s
  | .nodeImulh at_ w => Sys2Proof.Machine.execNodeImulh at_ w s
  | .nodeImin at_ w => Sys2Proof.Machine.execNodeImin at_ w s
  | .nodeImax at_ w => Sys2Proof.Machine.execNodeImax at_ w s
  | .nodeIabs at_ w => Sys2Proof.Machine.execNodeIabs at_ w s
  | .nodeIcmp at_ w => Sys2Proof.Machine.execNodeIcmp at_ w s
  | .nodeAnd at_ w => Sys2Proof.Machine.execNodeAnd at_ w s
  | .nodeOr at_ w => Sys2Proof.Machine.execNodeOr at_ w s
  | .nodeXor at_ w => Sys2Proof.Machine.execNodeXor at_ w s
  | .nodeNot at_ w => Sys2Proof.Machine.execNodeNot at_ w s
  | .nodeShl at_ w => Sys2Proof.Machine.execNodeShl at_ w s
  | .nodeShr at_ w => Sys2Proof.Machine.execNodeShr at_ w s
  | .nodeShra at_ w => Sys2Proof.Machine.execNodeShra at_ w s
  | .nodeClz at_ w => Sys2Proof.Machine.execNodeClz at_ w s
  | .nodePopc at_ w => Sys2Proof.Machine.execNodePopc at_ w s
  | .nodeCvt at_ w => Sys2Proof.Machine.execNodeCvt at_ w s
  | .nodeQuant at_ w => Sys2Proof.Machine.execNodeQuant at_ w s
  | .nodeQuantMx at_ w => Sys2Proof.Machine.execNodeQuantMx at_ w s
  | .nodeDequant at_ w => Sys2Proof.Machine.execNodeDequant at_ w s
  | .nodeDequantMx at_ w => Sys2Proof.Machine.execNodeDequantMx at_ w s
  | .nodeShuf at_ w => Sys2Proof.Machine.execNodeShuf at_ w s
  | .nodeBcast at_ w => Sys2Proof.Machine.execNodeBcast at_ w s
  | .nodeRed at_ w => Sys2Proof.Machine.execNodeRed at_ w s
  | .nodeScan at_ w => Sys2Proof.Machine.execNodeScan at_ w s
  | .nodePack at_ w => Sys2Proof.Machine.execNodePack at_ w s
  | .nodeUnpack at_ w => Sys2Proof.Machine.execNodeUnpack at_ w s
  | .nodeLoad at_ w => Sys2Proof.Machine.execNodeLoad at_ w s
  | .nodeStore at_ w => Sys2Proof.Machine.execNodeStore at_ w s
  | .nodeTload at_ w => Sys2Proof.Machine.execNodeTload at_ w s
  | .nodeTstore at_ w => Sys2Proof.Machine.execNodeTstore at_ w s
  | .nodeQin at_ w => Sys2Proof.Machine.execNodeQin at_ w s
  | .nodeQout at_ w => Sys2Proof.Machine.execNodeQout at_ w s
  | .nodeSin at_ w => Sys2Proof.Machine.execNodeSin at_ w s
  | .nodeSout at_ w => Sys2Proof.Machine.execNodeSout at_ w s
  | .nodeRead at_ w => Sys2Proof.Machine.execNodeRead at_ w s
  | .nodeWrite at_ w => Sys2Proof.Machine.execNodeWrite at_ w s
  | .nodeBr at_ w => Sys2Proof.Machine.execNodeBr at_ w s
  | .nodeNull at_ w => Sys2Proof.Machine.execNodeNull at_ w s
  | .nodeConst at_ w => Sys2Proof.Machine.execNodeConst at_ w s
  | .nodeCtr at_ w => Sys2Proof.Machine.execNodeCtr at_ w s
  | .nodeFan at_ w => Sys2Proof.Machine.execNodeFan at_ w s
  | .nodeMerge at_ w => Sys2Proof.Machine.execNodeMerge at_ w s
  | .nodeWload at_ w => Sys2Proof.Machine.execNodeWload at_ w s
  | .nodeMacc at_ w => Sys2Proof.Machine.execNodeMacc at_ w s
  | .nodeAccdrain at_ w => Sys2Proof.Machine.execNodeAccdrain at_ w s
  | .snodePass at_ w => Sys2Proof.Machine.execSnodePass at_ w s
  | .snodeSplit at_ w => Sys2Proof.Machine.execSnodeSplit at_ w s
  | .snodeMerge at_ w => Sys2Proof.Machine.execSnodeMerge at_ w s
  | .snodeScale at_ w => Sys2Proof.Machine.execSnodeScale at_ w s
  | .snodeAdd at_ w => Sys2Proof.Machine.execSnodeAdd at_ w s
  | .snodeMul at_ w => Sys2Proof.Machine.execSnodeMul at_ w s
  | .snodeFma at_ w => Sys2Proof.Machine.execSnodeFma at_ w s
  | .snodeClamp at_ w => Sys2Proof.Machine.execSnodeClamp at_ w s
  | .snodeCmpsel at_ w => Sys2Proof.Machine.execSnodeCmpsel at_ w s
  | .snodeCvt at_ w => Sys2Proof.Machine.execSnodeCvt at_ w s
  | .snodeQmx at_ w => Sys2Proof.Machine.execSnodeQmx at_ w s
  | .snodeDqmx at_ w => Sys2Proof.Machine.execSnodeDqmx at_ w s
  | .snodePackb at_ w => Sys2Proof.Machine.execSnodePackb at_ w s
  | .snodeUnpackb at_ w => Sys2Proof.Machine.execSnodeUnpackb at_ w s
  | .snodeDelta at_ w => Sys2Proof.Machine.execSnodeDelta at_ w s
  | .snodeUndelta at_ w => Sys2Proof.Machine.execSnodeUndelta at_ w s
  | .snodeBfpc at_ w => Sys2Proof.Machine.execSnodeBfpc at_ w s
  | .snodeBfpd at_ w => Sys2Proof.Machine.execSnodeBfpd at_ w s
  | .snodeExpand24 at_ w => Sys2Proof.Machine.execSnodeExpand24 at_ w s
  | .snodeExpandbm at_ w => Sys2Proof.Machine.execSnodeExpandbm at_ w s
  | .snodeCompact at_ w => Sys2Proof.Machine.execSnodeCompact at_ w s
  | .snodePerm at_ w => Sys2Proof.Machine.execSnodePerm at_ w s
  | .snodeLut at_ w => Sys2Proof.Machine.execSnodeLut at_ w s
  | .snodeSum at_ w => Sys2Proof.Machine.execSnodeSum at_ w s
  | .snodeMinmax at_ w => Sys2Proof.Machine.execSnodeMinmax at_ w s
  | .snodeHist at_ w => Sys2Proof.Machine.execSnodeHist at_ w s
  | .snodeCount at_ w => Sys2Proof.Machine.execSnodeCount at_ w s
  | .snodeCrc32c at_ w => Sys2Proof.Machine.execSnodeCrc32c at_ w s
  | .snodeUndo at_ w => Sys2Proof.Machine.execSnodeUndo at_ w s
  | .platerdBody d a b => Sys2Proof.Machine.execPlaterdBody d a b s
  | .platerdRecords d a b => Sys2Proof.Machine.execPlaterdRecords d a b s
  | .yield => Sys2Proof.Machine.execYield s
  | .halt => Sys2Proof.Machine.execHalt s
  | .tret => Sys2Proof.Machine.execTret s
  | .haltCompact => Sys2Proof.Machine.execHaltCompact s
  | .yieldCompact => Sys2Proof.Machine.execYieldCompact s
  | .sfuResult => Sys2Proof.Machine.execSfuResult s
  | .atomicAnswer => Sys2Proof.Machine.execAtomicAnswer s
  | .messageArrive => Sys2Proof.Machine.execMessageArrive s
  | .mailboxWriteRetry => Sys2Proof.Machine.execMailboxWriteRetry s
  | .windowCreditReturn => Sys2Proof.Machine.execWindowCreditReturn s
  | .regionQuiesceStop => Sys2Proof.Machine.execRegionQuiesceStop s
  | .quiesceResume => Sys2Proof.Machine.execQuiesceResume s
  | .streamEnd => Sys2Proof.Machine.execStreamEnd s
  | .matrixCommandArrival => Sys2Proof.Machine.execMatrixCommandArrival s
  | .commandRetry => Sys2Proof.Machine.execCommandRetry s
  | .rollback => Sys2Proof.Machine.execRollback s
  | .ctxswSfuWaitExpiry => Sys2Proof.Machine.execCtxswSfuWaitExpiry s
  | .drainSaveTimeout => Sys2Proof.Machine.execDrainSaveTimeout s
  | .platerdBodyComplete => Sys2Proof.Machine.execPlaterdBodyComplete s
  | .issueSlot => Sys2Proof.Machine.execIssueSlot s
  | .dispatchDecision => Sys2Proof.Machine.execDispatchDecision s
  | .iterationStart => Sys2Proof.Machine.execIterationStart s
  | .tokenHop => Sys2Proof.Machine.execTokenHop s
  | .invocationCommit => Sys2Proof.Machine.execInvocationCommit s
  | .invocationDiscard => Sys2Proof.Machine.execInvocationDiscard s
  | .blinkVerdict => Sys2Proof.Machine.execBlinkVerdict s
  | .hangDetect => Sys2Proof.Machine.execHangDetect s
  | .dramRequestSelect => Sys2Proof.Machine.execDramRequestSelect s
  | .slotTableWrite => Sys2Proof.Machine.execSlotTableWrite s
  | .mclsWrite => Sys2Proof.Machine.execMclsWrite s
  | .pkgidWrite => Sys2Proof.Machine.execPkgidWrite s
  | .fresumeWalk => Sys2Proof.Machine.execFresumeWalk s
  | .fresumeRefuse => Sys2Proof.Machine.execFresumeRefuse s
  | .faultRootAccept => Sys2Proof.Machine.execFaultRootAccept s
  | .laneTailWrite => Sys2Proof.Machine.execLaneTailWrite s
  | .poisonDetect => Sys2Proof.Machine.execPoisonDetect s
  | .microcodeStart => Sys2Proof.Machine.execMicrocodeStart s
  | .microcodeVerifyDone => Sys2Proof.Machine.execMicrocodeVerifyDone s
  | .engineCopy => Sys2Proof.Machine.execEngineCopy s
  | .engineMulticastCopy => Sys2Proof.Machine.execEngineMulticastCopy s
  | .memberAnswerTimeout => Sys2Proof.Machine.execMemberAnswerTimeout s
  | .allReduce => Sys2Proof.Machine.execAllReduce s
  | .reduceScatter => Sys2Proof.Machine.execReduceScatter s
  | .allGather => Sys2Proof.Machine.execAllGather s
  | .broadcast => Sys2Proof.Machine.execBroadcast s
  | .allToAll => Sys2Proof.Machine.execAllToAll s
  | .collectiveTimeout => Sys2Proof.Machine.execCollectiveTimeout s
  | .stagingRetry => Sys2Proof.Machine.execStagingRetry s
  | .inboundAccess => Sys2Proof.Machine.execInboundAccess s
  | .refusalReturn => Sys2Proof.Machine.execRefusalReturn s
  | .peerEntryValidate => Sys2Proof.Machine.execPeerEntryValidate s
  | .peerRevoke => Sys2Proof.Machine.execPeerRevoke s
  | .peerEntryFree => Sys2Proof.Machine.execPeerEntryFree s
  | .groupEntryCommit => Sys2Proof.Machine.execGroupEntryCommit s
  | .busWindowCommit => Sys2Proof.Machine.execBusWindowCommit s
  | .linkPortFailure => Sys2Proof.Machine.execLinkPortFailure s
  | .packageUnreachable => Sys2Proof.Machine.execPackageUnreachable s
  | .packageReachable => Sys2Proof.Machine.execPackageReachable s
  | .pcieInboundRequest => Sys2Proof.Machine.execPcieInboundRequest s
  | .hostBar0Access => Sys2Proof.Machine.execHostBar0Access s
  | .outboundStore => Sys2Proof.Machine.execOutboundStore s
  | .outboundLoad => Sys2Proof.Machine.execOutboundLoad s
  | .outboundCompletion => Sys2Proof.Machine.execOutboundCompletion s
  | .imageActivation => Sys2Proof.Machine.execImageActivation s
  | .domeCloseTrigger => Sys2Proof.Machine.execDomeCloseTrigger s
  | .domeHandlerStart => Sys2Proof.Machine.execDomeHandlerStart s
  | .allowanceExpiry => Sys2Proof.Machine.execAllowanceExpiry s
  | .domeCopy => Sys2Proof.Machine.execDomeCopy s
  | .domeDirectoryWrite => Sys2Proof.Machine.execDomeDirectoryWrite s
  | .powerReturn => Sys2Proof.Machine.execPowerReturn s
  | .powerOnReset => Sys2Proof.Machine.execPowerOnReset s
  | .hostImageReady => Sys2Proof.Machine.execHostImageReady s
  | .plateCheckDone => Sys2Proof.Machine.execPlateCheckDone s
  | .accWrite => Sys2Proof.Machine.execAccWrite s
  | .logExtend => Sys2Proof.Machine.execLogExtend s
  | .attestStart => Sys2Proof.Machine.execAttestStart s
  | .attestDone => Sys2Proof.Machine.execAttestDone s
  | .pwrcapWrite => Sys2Proof.Machine.execPwrcapWrite s
  | .blinkivWrite => Sys2Proof.Machine.execBlinkivWrite s
  | .refresh => Sys2Proof.Machine.execRefresh s
  | .retrainBurst => Sys2Proof.Machine.execRetrainBurst s
  | .temperatureBandChange => Sys2Proof.Machine.execTemperatureBandChange s
  | .htrainWrite => Sys2Proof.Machine.execHtrainWrite s
  | .spareEvent => Sys2Proof.Machine.execSpareEvent s
  | .pchRetireStart => Sys2Proof.Machine.execPchRetireStart s
  | .pchRetireSwitch => Sys2Proof.Machine.execPchRetireSwitch s
  | .stfenceWrite => Sys2Proof.Machine.execStfenceWrite s
  | .calibrationStart => Sys2Proof.Machine.execCalibrationStart s
  | .calibrationDone => Sys2Proof.Machine.execCalibrationDone s
  | .waitTimeout => Sys2Proof.Machine.execWaitTimeout s
  | .registerWrite => Sys2Proof.Machine.execRegisterWrite s
  | .contextRetirement => Sys2Proof.Machine.execContextRetirement s
  | .retireBufferRetry => Sys2Proof.Machine.execRetireBufferRetry s
  | .loadAnswer => Sys2Proof.Machine.execLoadAnswer s

end Sys2Proof.Machine
end

