-- ==== Sys2Proof/Machine/Rounds.lean ====
section
/-! DEFINITION. The schedule (log 1): one cycle of the part is a round, the list of what its units may do in that cycle. An event that does not
apply when its turn comes changes nothing, so a round may name more than happens. What comes from outside the part (service software, hosts,
other packages, DRAM and test results) is no part of a round: it stands in the agenda because something outside put it there. -/

namespace Sys2Proof.Machine

/-! ### The end of a cycle -/

/-- A region's idle count over one cycle (R326), in which a region that moved may come to run again (R311). -/
def State.tickRegion (s : State) (r : Region) : Region :=
  if r.fired then { r with fired := false, idle := 0 }
  else if r.freeze ≠ .running ∨ r.invs.isEmpty ∨ s.pageBound r then s.landed r
  else { r with idle := r.idle + 1 }

/-- A store that its package has performed: its time has come, and so has that of every earlier request of its source to that package, all
of them stores (R209, log 66). -/
def State.performedFar (s : State) (r : OutReq) : Bool :=
  let gone := fun (x : OutReq) => x.ans == .none && decide (x.due ≤ s.cycle.toNat)
  match r.pkg with
  | some p =>
    gone r && s.linked && !s.link.unreachable.contains p
      && (s.bus.outs.takeWhile fun x => x.id != r.id).all fun x => x.who != r.who || x.pkg != r.pkg || gone x
  | none => false

/-- A thread or hart may refill its fetch buffer: its context is resident and not held back, or dome-close lets it run. -/
def State.mayFetch (s : State) (a : Actor) : Bool :=
  s.domeLets a && (match s.actorCtx a with | some c => c.resident && (!c.hold || s.closing) | none => true)
    && (match a with | .engine d e => (match s.engineAt d e with | some x => x.loaded | none => false) | .thread _ _ _ => true)

/-- Every thread and hart refills its fetch buffer when it has to (R174). -/
def State.refills (s : State) : State := s.actors.foldl (fun s a => if s.mayFetch a then s.asActor a State.refill else s) s

/-- One cycle ends (R159). -/
def State.tick (s : State) : State :=
  let s := s.refills.performNear.bootTick
  { s with
    cycle := s.cycle + 1
    regions := s.regions.map s.tickRegion
    bus := { s.bus with outs := s.bus.outs.filter fun r => !s.performedFar r } }

/-! ### What may happen in a cycle -/

def task (op : Instr) (arg : Arg) : Task := ⟨op, arg⟩

def State.stationsUsed (s : State) : List Nat := (s.ctxs.map (·.station)).eraseDups

/-- Nodes that consume no token may fire in any iteration that has started. -/
def Inv.sourceFirings (i : Inv) (b : Block) : List (Nat × Nat) :=
  (b.nodes.filter fun n => b.isSource n.1 n.2.1 n.2.2).flatMap fun n =>
    (List.range i.started).filterMap fun j => if i.hasFired n.1 j then none else some (j, n.1)

/-- Firings that an invocation may make, as iteration and node: those with a token in a slot buffer, and those that need none. The oldest
iteration first, then the lowest slot number of an element, which is the node's index MOD 8 (R107, R109). -/
def Inv.candidates (i : Inv) (b : Block) (now : Nat) : List (Nat × Nat) :=
  let fed := i.tokens.filterMap fun t => match t.at_ with
    | .slot n _ _ => if t.due ≤ now then some (t.tok.tag, n) else none
    | .router _ _ _ _ _ _ => none
  let key := fun (x : Nat × Nat) => (x.1, x.2 % 8, x.2)
  sortBy (fun x y => let a := key x
    let b := key y
    decide (a.1 < b.1) || (a.1 == b.1 && (decide (a.2.1 < b.2.1) || (a.2.1 == b.2.1 && decide (a.2.2 < b.2.2))))) (fed ++ i.sourceFirings b).eraseDups

def Inv.firings (r : Region) (now : Nat) (i : Inv) : List Task :=
  match r.blockOf i with
  | none => []
  | some b => (i.candidates b now).filterMap fun p => (b.node p.2).bind fun n =>
      (mkNode n.1 ⟨r.handle, i.id, p.2, p.1⟩ n.2).map fun op => task op .none

/-- Router buffers that hold a token. -/
def Region.hops (r : Region) (now : Nat) : List Task :=
  ((r.invs.flatMap fun i => i.tokens.filterMap fun t => match t.at_ with
    | .router x y d _ _ _ => if t.due ≤ now then some (x, y, d) else none
    | .slot _ _ _ => none).eraseDups).map fun p => task .tokenHop (.n4 r.handle p.1 p.2.1 p.2.2)

def Region.round (now : Nat) (r : Region) : List Task :=
  task .hangDetect (.n1 r.handle) :: (r.invs.map fun i => task .iterationStart (.n2 r.handle i.id))
    ++ r.invs.flatMap (Inv.firings r now) ++ r.hops now
    ++ (r.invs.map fun i => task .invocationDiscard (.n2 r.handle i.id))
    ++ (r.invs.map fun i => task .invocationCommit (.n2 r.handle i.id))
    ++ [task .regionQuiesceStop (.n1 r.handle)]
    ++ (if r.drain.isSome then [task .drainSaveTimeout (.n1 r.handle)] else [])

/-- Each node of an open stream, and its end. -/
def State.streamRound (s : State) (x : Stream) : List Task :=
  ((s.graphWords x).zipIdx.filterMap fun p =>
      (mkSNode (snodeOp p.1) ⟨x.ctl, x.str, p.2⟩ (nodeFields p.1)).map fun op => task op .none)
    ++ [task .streamEnd (.n2 x.ctl x.str)]

/-- Controllers with something to choose: a request, or a stream. -/
def State.memoryRound (s : State) : List Task :=
  (((s.bus.reqs.map (·.ctl)).filter (· < 96) ++ s.streams.map (·.ctl)).eraseDups.map fun c => task .dramRequestSelect (.n1 c))
    ++ (s.bus.reqs.filter (·.refused)).map (fun r => task .retireBufferRetry (.n1 r.id))
    ++ (s.health.ctls.filter fun h => h.retiring.isSome).map (fun h => task .pchRetireSwitch (.n1 h.ctl))

/-- Answers of local homes, and what leaves by the PCIe ports. -/
def State.answerRound (s : State) : List Task :=
  (s.bus.answers.filterMap fun a => match a.who with
      | .actor x | .fetch x => some (task (if a.ans.isLoad then .loadAnswer else .atomicAnswer) (.actor x))
      | _ => none)
    ++ s.bus.outs.filterMap (fun r =>
      if r.pkg.isSome || s.hasLeft r then none
      else (outPlace r.who r.die).map fun at_ => task (if r.ans = .none then .outboundStore else .outboundLoad) at_)
    ++ s.sfus.filterMap fun p => if p.2.isEmpty then none else some (task .sfuResult (.unit p.1))

/-- Messages, commands, credits and mailbox writes on their way. -/
def State.messageRound (s : State) : List Task :=
  ((List.range s.bus.msgs.length).map fun k => task .messageArrive (.n1 k))
    ++ (s.bus.mails.map (·.1) ++ (s.ctxs.filter fun c => c.resident && !c.spill.isEmpty).map (·.id)).eraseDups.map
        (fun c => task .mailboxWriteRetry (.n1 c))
    ++ s.bus.cmds.map (fun m => task (if m.refused then .commandRetry else .matrixCommandArrival) (.n1 m.id))
    ++ s.queues.flatMap fun q => q.homes.zipIdx.filterMap fun h =>
        if h.1.credits.isEmpty then none else some (task .windowCreditReturn (.n2 q.id h.2))

/-- A wait with a limit. -/
def Wait.timed : Wait → Bool
  | .mailbox _ _ n | .counter _ _ _ n => n != 0
  | _ => false

/-- Waits with a limit, and what a context has under way. -/
def Ctx.round (c : Ctx) : List Task :=
  (c.threads.zipIdx.filterMap fun p => if p.1.wait.timed then some (task .waitTimeout (.actor (.thread c.station c.slot p.2))) else none)
    ++ (if c.swapping.isSome then [task .ctxswSfuWaitExpiry (.n1 c.id)] else [])
    ++ (if c.rolling then [task .rollback (.n1 c.id)] else [])
    ++ if c.bodyWrite.isSome then [task .platerdBodyComplete (.n1 c.id)] else []

/-- An engine has an item, or items in its work queue. -/
def State.engineBusy (s : State) (e : Engine) : Bool :=
  (s.jobOf e.die e.eng).isSome
    || match s.engineQueue e.die e.eng with
      | some q => q.homes.any fun h => !h.entries.isEmpty
      | none => false

/-- An engine with shipped microcode takes and runs items; one with loaded microcode issues. -/
def State.engineRound (s : State) (e : Engine) : List Task :=
  if e.loaded then [task .issueSlot (.actor (.engine e.die e.eng))]
  else if s.engineBusy e then
    let at_ := Arg.n2 e.die e.eng
    if e.eng = 8 then
      [task .allReduce at_, task .reduceScatter at_, task .allGather at_, task .broadcast at_, task .allToAll at_, task .collectiveTimeout at_,
       task .stagingRetry at_, task .engineCopy at_, task .engineMulticastCopy at_]
    else [task .engineCopy at_, task .engineMulticastCopy at_, task .stagingRetry at_]
  else []

/-- Multicast members that still owe an answer. -/
def Job.round (j : Job) : List Task := ((j.left.map (·.2.1)).eraseDups).map fun m => task .memberAnswerTimeout (.n3 j.die j.eng m)

def issueAt (st : Nat) : Task := task .issueSlot (.n1 st)

/-- The root of the fault tree has a record to take or to write (R393, R394). -/
def State.treeRound (s : State) : List Task := if s.tree.recs.isEmpty then [] else [task .faultRootAccept .none]

/-- A booted part with power. -/
def State.workRound (s : State) : List Task :=
  (s.stationsUsed.map fun st => task .dispatchDecision (.n1 st)) ++ s.stationsUsed.map issueAt ++ s.regions.flatMap (Region.round s.cycle.toNat)
    ++ s.streams.flatMap s.streamRound ++ s.memoryRound ++ s.answerRound ++ s.messageRound ++ s.ctxs.flatMap Ctx.round
    ++ s.engines.flatMap s.engineRound ++ s.jobs.flatMap Job.round
    ++ s.treeRound
    ++ if s.boot.attStat = 1 then [task .attestDone .none] else []

/-- What the boot image and the tests of a boot give when nothing outside says more: a good image and a good bank (log 1). -/
def bootInput : BootInput := ⟨0, 0, Config.imageDigest, Config.fusedKey, Config.fusedVersion, true, []⟩

/-- A boot at hand: power comes on, the host's image is ready, or the plate check runs (R450). -/
def State.bootRound (s : State) : List Task :=
  if s.boot.input.isNone then [task .powerOnReset (.boot bootInput)]
  else if s.boot.stage = 1 ∧ s.boot.hostReady = true then [task .hostImageReady (.boot bootInput)]
  else if s.dome.checking then [task .plateCheckDone (.plates [])]
  else []

/-- The sequence of dome-close (R421), in which handlers run alone. -/
def State.domeRound (s : State) : List Task :=
  match s.dome.phase with
  | .idle => []
  | .frozen =>
    s.memoryRound ++ s.answerRound ++ ((List.range s.bus.msgs.length).map fun k => task .messageArrive (.n1 k)) ++ s.treeRound
      ++ [task .domeHandlerStart .none]
  | .handlers rs =>
    ((rs.map fun r => r.1.station).eraseDups.map issueAt) ++ s.memoryRound ++ s.answerRound ++ s.treeRound
      ++ (rs.map fun r => task .allowanceExpiry (.actor r.1)) ++ [task .domeCopy .none]
  | .copying => s.treeRound ++ [task .domeCopy .none]
  | .directory => s.treeRound ++ [task .domeDirectoryWrite (.flag true)]
  | .stopped => if s.dome.returned then [task .powerOnReset (.boot bootInput)] else []

/-- One cycle's round. -/
def State.round (s : State) : List Task :=
  if s.closing then s.domeRound
  else if s.boot.stage ≠ 6 then s.bootRound
  else s.workRound

/-- Nothing in the part goes on by itself (R421, R450). -/
def State.halted (s : State) : Bool := s.boot.stage == 15 || (s.dome.phase == .stopped && !s.dome.returned)

end Sys2Proof.Machine
end

