-- ==== Sys2Proof/Machine/Step.lean ====
section
/-! DEFINITION. One step: the instruction of the thread that holds the issue slot, or the next event of the schedule, or the end of a cycle. -/

namespace Sys2Proof.Machine

/-- The loaded thread or hart takes the trap that is due, or decodes and runs the instruction that stands in its fetch buffer (R67). -/
def runThread (s : State) : Host.Outcome State Fault Refusal :=
  match s.cpu.trapDue with
  | some d => .next (s.takeDue d)
  | none =>
    match s.fetch with
    | (s, some ps) =>
      match decodeParcels ps with
      | .ok r => exec (s.rowOf r.1) s
      | .error _ => .next (s.trap clIllegalEncoding (parcelsVal ps))
    | (s, none) => .next s

/-- The loaded thread runs in its slot: one that it owns makes it eligible again (R317, R333). -/
def runSlot (s : State) : Host.Outcome State Fault Refusal :=
  let y := s.cpu.yielded
  match runThread (if s.model.owned then { s with cpu := { s.cpu with yielded := false } } else s) with
  | .next t => .next (t.passSlot y)
  | .fault f => .fault f
  | .refused r => .refused r

/-- The step of the part. -/
def step (s : State) : Host.Outcome State Fault Refusal :=
  match s.model.run with
  | some a =>
    let s := { s with model := { s.model with run := none } }
    if s.who = a then runSlot s else .next s
  | none =>
    match s.model.agenda with
    | t :: r => exec t.op { s with model := { s.model with agenda := r, arg := t.arg } }
    | [] =>
      if s.halted then .fault .stopped
      else
        let s := s.flush.tick
        .next { s with model := { s.model with agenda := s.round } }

/-! ### Placing an instruction -/

/-- The declaration of a service context with one thread that starts, 32 registers and one partition unit. -/
def probeDecl : CtxDecl :=
  { station := 0, threads := 1, regs := 32, spad := 1, prio := 0, handler := none, allowance := 0, code := [⟨true, [], 0, 0x10000000000⟩],
    regions := [], blocks := [], tiles := [], caps := [], holds := [], datas := [] }

def probeReq : ActReq :=
  { permissive := false, place := [0], asid := 1, service := true, dieDomains := [], pkgDomain := 0, capsGranted := true, claim := none,
    replace := none }

/-- Bytes of the instruction: a parcel, or a word whose first parcel holds the upper bits. -/
def tableBytes (nbits w : Nat) : List Byte :=
  if nbits ≤ 16 then bytesOfParcel (BitVec.ofNat 16 w) else bytesOfWord (BitVec.ofNat 32 w)

/-- ASID 1 maps the first GiB of its space to the scratchpad windows: its ASID entry, and a table of each of levels 3 and 2. -/
def probeTables (base : Nat) (m : List Host.Cell) : List Host.Cell :=
  let m := memWrite m (base + 16) (bytesOf 16 (0x1000 + 2 ^ 64))
  let m := memWrite m 0x1000 (bytesOf 8 0x2001)
  memWrite m 0x2000 (bytesOf 8 (0x10000000000 + 0x1F))

/-- A machine on which the instruction runs next (log 40): booted, with a service context alone on station 0 whose thread holds the issue
slot, and the instruction at the start of its partition, where its program counter points, and in its fetch buffer. -/
def State.withFetchWord (s : State) (nbits w : Nat) : State :=
  let s := s.flush
  let s := if s.boot.stage = 6 then s else s.bootRun bootInput
  let (id, s) := s.fresh
  let c := newCtx probeDecl probeReq id 0 0 0 0 0 0 [0]
  let t := { Thr.zero .running 0 0 with buf := parcelsOfBytes (tableBytes nbits w) }
  { s with
    who := .thread 0 0 0
    cpu := t
    ctxs := s.ctxs.filter (fun x => x.station != 0) ++ [{ c with threads := [t] }]
    domains := s.domains ++ [freshDomain 0 id [id]]
    mem := memWrite (probeTables s.mmu.astbase.toNat s.mem) 0x10000000000 (tableBytes nbits w)
    model := { s.model with run := some (.thread 0 0 0), owned := false, slow := false, ahead := false } }

end Sys2Proof.Machine
end

