-- ==== Sys2Proof/Safety.lean ====
section
/-! DEFINITION. What a safe run is: it goes on, and memory keeps its canonical form; and the words that the statements share. -/

namespace Sys2Proof

open Machine

/-- A step that goes on. -/
def Safe (s : State) : Prop := ∃ t, step s = .next t

/-- The part can go on by itself or has something to do: an instruction, or an event (R421, R450). -/
def Machine.State.live (s : State) : Prop := s.model.run.isSome ∨ s.model.agenda ≠ [] ∨ s.halted = false

namespace Claims

/-- Every check of R67, R76 and R166 passes: the gate is open, the service level is held where the form needs it, every register
position is configured and every pair even (R155), no result of the special-function unit, load or atomic is outstanding for one of
them (R209), and no access that may still trap is unanswered unless the thread has gone on past it (R67, log 66). -/
structure Ready (f : Form) (s : State) : Prop where
  gate : f.gate.open_ s = true
  service : f.service = true → s.service = true
  regs : ∀ r ∈ f.regs, r.toNat < s.regCount
  pairs : ∀ r ∈ f.pairs, r.toNat % 2 = 0 ∧ r.toNat + 1 < s.regCount
  results : ∀ q ∈ s.pendingSfu s.who, q.gd ∉ f.regs ∧ ∀ r ∈ f.pairs, q.gd ≠ r ∧ q.gd ≠ r + 1
  loads : ∀ p ∈ s.cpu.pend, p.sure = true ∧ ∀ q ∈ p.regs, q ∉ f.regs ∧ ∀ r ∈ f.pairs, q ≠ r ∧ q ≠ r + 1

/-- `i` answers a next state in which gd holds `v` (a write to g0 is discarded), the program counter has moved past the instruction's
parcels, the thread does not wait, and nothing else has changed. -/
def WritesReg (i : Instr) (s : State) (d : Reg) (v : Word) (parcels : Nat) : Prop :=
  ∃ t, exec i s = .next t ∧ t.reg d = (if d = 0 then 0 else v) ∧ (∀ r, r ≠ d → t.reg r = s.reg r) ∧
    t = { s with cpu := { s.cpu with g := t.cpu.g, pc := s.cpu.pc + w64 (2 * parcels), wait := .none } }

/-- Every byte of memory outside `[a, a + n)` reads as before. -/
def KeepsBytes (s t : State) (a n : Nat) : Prop := ∀ x, x < a ∨ a + n ≤ x → memByte t.mem x = memByte s.mem x

end Claims

end Sys2Proof
end

