-- ==== Sys2Proof/WellFormed.lean ====
section
/-! DEFINITION. Which operations have an encoding that stands for them (R63-R76), and the operation that a shared word decodes to before its
operand registers are read. -/

namespace Sys2Proof

/-- Control registers whose PUTK is a row of its own (R287, R295, R372). -/
def ownPutk (n : BitVec 13) : Bool := n == 0x30 || n == 0x52 || n == 0x60

/-- The choice of a row by a field of its own word: PUTK's register number, and the mx bit of QUANT and DEQUANT (R71). -/
def Instr.rowOk : Instr → Bool
  | .putk _ n => !ownPutk n
  | .nodeQuant _ w | .nodeDequant _ w => !w.mx
  | .nodeQuantMx _ w | .nodeDequantMx _ w => w.mx
  | _ => true

/-- Why the word of an operation would be refused: a block word or node word outside its tables (R69-R75). -/
def Instr.wordErr (i : Instr) : Option DecodeErr :=
  match i.enc with
  | .block op _ w => blockWordErr op.toNat w
  | .node op _ w => nodeWordErr op.toNat w
  | .word _ | .parcel _ | .event => none

/-- An operation that its encoding stands for. -/
def Instr.wf (i : Instr) : Bool := i.rowOk && i.wordErr.isNone

/-- The operation as decoded from its word alone: rows that share a word, in which operand registers choose, decode to the first (R332,
R364, R401, R430). -/
def Instr.base : Instr → Instr
  | .cancelCommand d a b | .cancelHungRegion d a b => .cancelBlock d a b
  | .ctxswIn d a b | .ctxswKill d a b => .ctxswOut d a b
  | .capmintAdvance d a b => .capmintInstall d a b
  | .platerdEntry d a b | .platerdBody d a b | .platerdRecords d a b => .platerdHeader d a b
  | i => i

end Sys2Proof
end

