-- ==== Sys2Proof/Certificates/Slice0/Obligations.lean ====
section
/-! DEFINITION. The statements about the model: what each instruction and event does, what it leaves alone, and what every step keeps. -/

open Sys2Proof Sys2Proof.Machine Sys2Proof.Claims


/-! ### The machine as a whole: reset, steps, encodings -/

/-- R159, R319, R348, R368, R393, R394, R407, R436, R453 and R456: what the manual gives for reset. -/
def Obligations.ResetValues : Prop :=
  let s := State.reset
  s.cycle = 0 ∧ s.pkgid = 0 ∧ s.pkgValid = false ∧ (∀ c k, s.slotWritten c k = 0xDCBA9888DCBA9888#64 ∧ s.slotWord c k = 0xDCBA9888DCBA9888#64) ∧
    s.mmu.astbase = 0 ∧ (∀ n, (s.peerOf n).cur = 0 ∧ (s.peerOf n).stg = 0) ∧ s.tree.rootSeq = 0 ∧ s.tree.lfbase = 0 ∧ s.tree.lfhead = 0 ∧
    s.tree.lftail = 0 ∧ s.tree.lrbase = 0 ∧ s.tree.lrhead = 0 ∧ s.tree.lrtail = 0 ∧ (∀ d, s.blinkiv d = 20) ∧
    (∀ c, (s.healthOf c).htrain = 1024) ∧ s.boot.log = [] ∧ s.boot.pwrcap = 2600 ∧
    (∀ d e, d < 4 → e < 9 → ∃ x, s.engineAt d e = some x ∧ x.thr.pc = 0)

/-- The memory of the reset state has the canonical form, and every byte of it reads as zero, which is the model's choice (log 4). -/
def Obligations.ResetMemory : Prop :=
  Memory.wf State.reset.mem = true ∧ ∀ a, memByte State.reset.mem a = 0

/-- Every step keeps memory in its canonical form: rising addresses, no byte listed that reads as an unlisted one does. -/
def Obligations.MemoryKept : Prop :=
  ∀ s t : State, Memory.wf s.mem = true → step s = .next t → Memory.wf t.mem = true

/-- The operation is one of a sequencer's word or compact parcel. -/
def Sys2Proof.Claims.Sequencer (i : Instr) : Prop :=
  match i.enc with
  | .word _ | .parcel _ => True
  | .block _ _ _ | .node _ _ _ | .event => False

/-- Decoding the bytes of an encoded sequencer operation gives it back, with every operand, and leaves the bytes that follow. -/
def Obligations.SequencerRoundTrip : Prop :=
  ∀ (i : Instr) (r : List Byte), Sequencer i → i.wf = true → decodeBytes (encode i ++ r) = .ok (i.base, r)

/-- A sequencer word or parcel that decodes is the encoding of what it decodes to: no bit of it is left unread. -/
def Obligations.WordsHaveOneMeaning : Prop :=
  (∀ (p q : BitVec 16) (i : Instr), decodeParcels [p, q] = .ok (i, 2) → i.enc = .word (p ++ q)) ∧
    ∀ (p q : BitVec 16) (i : Instr), decodeParcels [p, q] = .ok (i, 1) → i.enc = .parcel p

/-- Decoding an encoded block word or stream node word gives the operation back, with every field. -/
def Obligations.NodeWordsRoundTrip : Prop :=
  ∀ (i : Instr), i.wf = true →
    (∀ op at_ w, i.enc = .block op at_ w → decodeBlock (blockBits op w) at_ = .ok i) ∧
    (∀ op at_ w, i.enc = .node op at_ w → decodeNode (nodeBits op w) at_ = .ok i)

/-- The sequencer's decoder reads words of six majors and three compact parcels written out from the encodings of R63 to R66 as the instructions they stand for. -/
def Obligations.DecodeWords : Prop :=
  decodeWord 0xE51D0980 = .ok (.fadd .f64 .rne 7 8 9) ∧ decodeWord 0xE68C9FFA = .ok (.blt 3 4 0x1FFA) ∧
    decodeWord 0xF080A001 = .ok (.trap 5) ∧ decodeWord 0xE883FFF8 = .ok (.jal 0 0x3FFF8) ∧ decodeWord 0xE00C2206 = .ok (.divn 3 1 2) ∧
    decodeWord 0xF1340010 = .ok (.getk 13 0x010) ∧ decodeWord 0xF0800000 = .ok .halt ∧ decodeWord 0xF0800002 = .ok .tret ∧
    decodeCompact 0x853F = .ok (.liCompact 5 0x3F) ∧ decodeCompact 0xB20A = .ok (.beqCompact 2 0x0A) ∧ decodeCompact 0xD000 = .ok .haltCompact

/-- What an instruction turns out to wait for by R166, so that its thread was not ready: SFU results, or its own accesses. -/
def Sys2Proof.Claims.notReady : Wait → Bool
  | .sfu | .loads _ | .access _ => true
  | _ => false

/-- R62, R67, R174, R317 and R333: when the thread that holds the issue slot has no trap due, its fetch buffer holds at the program counter the
parcels of a well-formed operation, and no store has changed the code under the parcels it reads, the step is that operation, chosen among
the rows that share its word by the operand registers. In a slot that the thread owns, an earlier YIELD no longer holds. A thread that turns
out not to be ready passes the slot on, and its YIELD stands (log 66). -/
def Obligations.StepRunsDecoded : Prop :=
  ∀ (s : State) (i : Instr) (r : List (BitVec 16)), s.model.run = some s.who → s.cpu.trapDue = none → Sequencer i → i.wf = true →
    s.cpu.buffered = parcelsOfBytes (encode i) ++ r →
    let u := { s with model := { s.model with run := none } }
    (∀ k p q, k < 2 → s.cpu.buffered[k]? = some p → u.codeNow (s.cpu.pc + w64 (2 * k)) = some q → q = p) →
      let v := if s.model.owned then { u with cpu := { u.cpu with yielded := false } } else u
      (∀ t, exec (v.rowOf i.base) v = .next t → notReady t.cpu.wait = false → step s = .next t) ∧
      (∀ t, exec (v.rowOf i.base) v = .next t → notReady t.cpu.wait = true →
        let again : List Task := match t.who with | .thread st _ _ => [⟨.issueSlot, .n1 st⟩] | .engine _ _ => []
        step s = .next { t with
          cpu := { t.cpu with yielded := s.cpu.yielded }
          model := { t.model with agenda := again ++ t.model.agenda } }) ∧
      (∀ f, exec (v.rowOf i.base) v = .fault f → step s = .fault f) ∧
      (∀ f, exec (v.rowOf i.base) v = .refused f → step s = .refused f)

/-- R174, R317: a thread whose next parcels are not in its fetch buffer refills it, from where the buffer ends: at a scratchpad it gets the
parcels up to the end of the granule, up to 32 of them; at HBM it sends a read for them, whose answer is appended. It issues nothing
meanwhile. -/
def Obligations.FetchBuffer : Prop :=
  ∀ (s t : State) (pa a : Nat) (via : Via), s.who.isEngine = false → s.cpu.run = .running → s.cpu.wait = .none → s.cpu.hasNext = false →
    s.cpu.trapDue = none →
    (s.ready s.who = false) ∧
    (s.cpu.fetching = none → s.checkAccess (s.cpu.pc + w64 (2 * s.cpu.buffered.length)) 2 .x false = (t, .go pa via) →
      t.fetchFenced (t.home pa) = false →
      (∀ st, t.home pa = .spad st a → t.poisoned a 2 = false →
        s.refill = { t with cpu := { t.cpu with
          bufBase := t.cpu.pc, buf := (t.cpu.buffered ++ parcelsOfBytes (memBytes t.mem a (64 - a % 64))).take 32 } }) ∧
      (t.home pa = .hbm a →
        ∃ r, s.refill.bus.reqs = t.bus.reqs ++ [r] ∧ r.pa = a ∧ r.op = .load (64 - a % 64) ∧ r.who = .fetch t.who ∧
          s.refill.cpu = { t.cpu with fetching := some r.id } ∧ s.refill.mem = t.mem)) ∧
    (∀ (id : Nat) (ea : Word) (x : Result), s.cpu.fetching = some id → x.poisoned = false →
      s.answerTo (.fetch s.who) id .fetch ea pa x = { s with cpu := { s.cpu with
        fetching := none, bufBase := s.cpu.pc, buf := (s.cpu.buffered ++ parcelsOfBytes (bytesOf (64 - pa % 64) x.data)).take 32 } })

/-- The model's schedule (log 1): with no instruction to run, a step performs the next event of the agenda; with an empty agenda a cycle ends
and the next round stands in the agenda; a part that runs nothing stops. -/
def Obligations.AgendaSteps : Prop :=
  ∀ s : State, s.model.run = none →
    (∀ e r, s.model.agenda = e :: r → step s = exec e.op { s with model := { s.model with agenda := r, arg := e.arg } }) ∧
    (s.model.agenda = [] → s.halted = true → step s = .fault .stopped) ∧
    (s.model.agenda = [] → s.halted = false → ∃ t, step s = .next t ∧ t.cycle = s.cycle + 1 ∧
      t.model.agenda = s.flush.tick.round ∧ t = { s.flush.tick with model := { s.flush.tick.model with agenda := t.model.agenda } })
/-! ### Integer, packed and floating-point instructions (07) -/

/-- R160: the result of every integer form. -/
def Sys2Proof.Claims.IntegerForms : Prop :=
  ∀ (s : State) (d a b : Reg), Ready (.plain [d, a, b]) s →
    WritesReg (.add d a b) s d (s.reg a + s.reg b) 2 ∧
    WritesReg (.sub d a b) s d (s.reg a - s.reg b) 2 ∧
    WritesReg (.mul d a b) s d (s.reg a * s.reg b) 2 ∧
    WritesReg (.mulh d a b) s d (((s.reg a).signExtend 128 * (s.reg b).signExtend 128).extractLsb' 64 64) 2 ∧
    WritesReg (.mulhn d a b) s d (((s.reg a).setWidth 128 * (s.reg b).setWidth 128).extractLsb' 64 64) 2 ∧
    WritesReg (.div d a b) s d (if s.reg b = 0 then 0xFFFFFFFFFFFFFFFF#64 else (s.reg a).sdiv (s.reg b)) 2 ∧
    WritesReg (.divn d a b) s d (if s.reg b = 0 then 0xFFFFFFFFFFFFFFFF#64 else s.reg a / s.reg b) 2 ∧
    WritesReg (.and_ d a b) s d (s.reg a &&& s.reg b) 2 ∧
    WritesReg (.or_ d a b) s d (s.reg a ||| s.reg b) 2 ∧
    WritesReg (.xor_ d a b) s d (s.reg a ^^^ s.reg b) 2 ∧
    WritesReg (.andn d a b) s d (s.reg a &&& ~~~ s.reg b) 2 ∧
    WritesReg (.sll d a b) s d (if (s.reg b).toNat < 64 then s.reg a <<< (s.reg b).toNat else 0) 2 ∧
    WritesReg (.srl d a b) s d (if (s.reg b).toNat < 64 then s.reg a >>> (s.reg b).toNat else 0) 2 ∧
    WritesReg (.sra d a b) s d ((s.reg a).sshiftRight (min (s.reg b).toNat 63)) 2 ∧
    WritesReg (.slt d a b) s d (if (s.reg a).toInt < (s.reg b).toInt then 1 else 0) 2 ∧
    WritesReg (.sltn d a b) s d (if (s.reg a).toNat < (s.reg b).toNat then 1 else 0) 2 ∧
    WritesReg (.min_ d a b) s d (if (s.reg b).toInt < (s.reg a).toInt then s.reg b else s.reg a) 2 ∧
    WritesReg (.max_ d a b) s d (if (s.reg a).toInt < (s.reg b).toInt then s.reg b else s.reg a) 2

/-- R160: CLZ and POPC, in the bits of the source. -/
def Sys2Proof.Claims.BitCounts : Prop :=
  ∀ (s : State) (d a : Reg), Ready (.plain [d, a]) s →
    (∃ n, n ≤ 64 ∧ WritesReg (.clz d a) s d (BitVec.ofNat 64 n) 2 ∧ (∀ k, k < n → (s.reg a).getLsbD (63 - k) = false) ∧
      (n < 64 → (s.reg a).getLsbD (63 - n) = true)) ∧
    WritesReg (.popc d a) s d (BitVec.ofNat 64 ((List.range 64).countP fun k => (s.reg a).getLsbD k)) 2

/-- R160: the words of the integer forms, in the R format under major 0x00; CLZ and POPC have a zero b field and no other word. -/
def Sys2Proof.Claims.IntegerEncodings : Prop :=
  ∀ d a b : Reg,
    let R := fun (b : Reg) (sub : BitVec 8) => 0b111#3 ++ 0b000000#6 ++ d ++ a ++ b ++ sub
    (Instr.add d a b).enc = .word (R b 0x00) ∧ (Instr.sub d a b).enc = .word (R b 0x01) ∧ (Instr.mul d a b).enc = .word (R b 0x02) ∧
    (Instr.mulh d a b).enc = .word (R b 0x03) ∧ (Instr.mulhn d a b).enc = .word (R b 0x04) ∧ (Instr.div d a b).enc = .word (R b 0x05) ∧
    (Instr.divn d a b).enc = .word (R b 0x06) ∧ (Instr.and_ d a b).enc = .word (R b 0x07) ∧ (Instr.or_ d a b).enc = .word (R b 0x08) ∧
    (Instr.xor_ d a b).enc = .word (R b 0x09) ∧ (Instr.andn d a b).enc = .word (R b 0x0A) ∧ (Instr.sll d a b).enc = .word (R b 0x0B) ∧
    (Instr.srl d a b).enc = .word (R b 0x0C) ∧ (Instr.sra d a b).enc = .word (R b 0x0D) ∧ (Instr.slt d a b).enc = .word (R b 0x0E) ∧
    (Instr.sltn d a b).enc = .word (R b 0x0F) ∧ (Instr.min_ d a b).enc = .word (R b 0x10) ∧ (Instr.max_ d a b).enc = .word (R b 0x11) ∧
    (Instr.clz d a).enc = .word (R 0 0x12) ∧ (Instr.popc d a).enc = .word (R 0 0x13) ∧
    (b ≠ 0 → ∀ i, decodeWord (R b 0x12) ≠ .ok i ∧ decodeWord (R b 0x13) ≠ .ok i)

/-- R161 and R162: the immediate and constant forms. The program counter of ADDPC is the address of its own first parcel. -/
def Sys2Proof.Claims.ImmediateResults : Prop :=
  ∀ (s : State) (d a : Reg),
    (Ready (.plain [d, a]) s →
      (∀ imm, WritesReg (.addi d a imm) s d (s.reg a + imm.signExtend 64) 2) ∧
      (∀ imm, WritesReg (.andi d a imm) s d (s.reg a &&& imm.signExtend 64) 2) ∧
      (∀ n, WritesReg (.slli d a n) s d (s.reg a <<< n) 2) ∧
      (∀ n, WritesReg (.srli d a n) s d (s.reg a >>> n) 2) ∧
      (∀ n, WritesReg (.srai d a n) s d ((s.reg a).sshiftRight' n) 2)) ∧
    (Ready (.plain [d]) s →
      (∀ imm, WritesReg (.li d imm) s d (imm.signExtend 64) 2) ∧
      (∀ imm, WritesReg (.lic d imm) s d ((s.reg d <<< 18) ||| imm.setWidth 64) 2) ∧
      (∀ imm, WritesReg (.addpc d imm) s d (s.cpu.pc + 2 * imm.signExtend 64) 2))

/-- R161 and R162: the words of the immediate and constant forms, in the I13 and I18 formats; a shift word with any of [12:6] set has no
meaning. -/
def Sys2Proof.Claims.ImmediateEncodings : Prop :=
  ∀ (d a : Reg) (i : BitVec 13) (n : BitVec 6) (k : BitVec 18),
    let I13 := fun (major : BitVec 6) (imm : BitVec 13) => 0b111#3 ++ major ++ d ++ a ++ imm
    let I18 := fun (major : BitVec 6) => 0b111#3 ++ major ++ d ++ k
    (Instr.addi d a i).enc = .word (I13 0x01 i) ∧ (Instr.andi d a i).enc = .word (I13 0x02 i) ∧
    (Instr.slli d a n).enc = .word (I13 0x03 (n.setWidth 13)) ∧ (Instr.srli d a n).enc = .word (I13 0x04 (n.setWidth 13)) ∧
    (Instr.srai d a n).enc = .word (I13 0x05 (n.setWidth 13)) ∧
    (Instr.li d k).enc = .word (I18 0x06) ∧ (Instr.lic d k).enc = .word (I18 0x07) ∧ (Instr.addpc d k).enc = .word (I18 0x08) ∧
    (i.extractLsb' 6 7 ≠ 0 → ∀ major ∈ [0x03#6, 0x04#6, 0x05#6], ∀ x, decodeWord (I13 major i) ≠ .ok x)

/-- R64: a compact form has the effect of its full form, on g0 to g15, and is one parcel long. -/
def Sys2Proof.Claims.CompactResults : Prop :=
  ∀ (s : State) (d a b : CReg),
    (Ready (.plain [creg d, creg a, creg b]) s →
      WritesReg (.addCompact d a b) s (creg d) (s.reg (creg a) + s.reg (creg b)) 1 ∧
      WritesReg (.subCompact d a b) s (creg d) (s.reg (creg a) - s.reg (creg b)) 1 ∧
      WritesReg (.andCompact d a b) s (creg d) (s.reg (creg a) &&& s.reg (creg b)) 1 ∧
      WritesReg (.orCompact d a b) s (creg d) (s.reg (creg a) ||| s.reg (creg b)) 1 ∧
      WritesReg (.xorCompact d a b) s (creg d) (s.reg (creg a) ^^^ s.reg (creg b)) 1) ∧
    (Ready (.plain [creg d, creg a]) s →
      (∀ imm, WritesReg (.addiCompact d a imm) s (creg d) (s.reg (creg a) + imm.signExtend 64) 1) ∧
      (∀ n, WritesReg (.slliCompact d a n) s (creg d) (s.reg (creg a) <<< n) 1) ∧
      (∀ n, WritesReg (.srliCompact d a n) s (creg d) (s.reg (creg a) >>> n) 1)) ∧
    (Ready (.plain [creg d]) s → ∀ imm, WritesReg (.liCompact d imm) s (creg d) (imm.signExtend 64) 1)

/-- Lane `k` of width `w`, as a two's-complement value clamped into the lane (ClampS of R163). -/
def Sys2Proof.Claims.satS (w : Nat) (v : Int) : BitVec w := BitVec.ofInt w (max (min v (2 ^ (w - 1) - 1)) (-(2 ^ (w - 1))))

/-- A packed form: its lane result, at every lane of the suffix's width, and a frame as of WritesReg. -/
def Sys2Proof.Claims.PackedAs (i : Instr) (s : State) (w : Nat) (d a b : Reg) (f : BitVec w → BitVec w → BitVec w) : Prop :=
  ∃ v : Word, WritesReg i s d v 2 ∧
    ∀ k, k < 64 / w → v.extractLsb' (w * k) w = f ((s.reg a).extractLsb' (w * k) w) ((s.reg b).extractLsb' (w * k) w)

/-- R163 and R66: the words of the packed forms; bits [1:0] of the sub-op are zero. -/
def Sys2Proof.Claims.PackedEncodings : Prop :=
  ∀ (l : PLane) (d a b : Reg),
    let lane : BitVec 2 := match l with | .b => 0 | .h => 1 | .w => 2
    let P := fun (op : BitVec 4) (low : BitVec 2) => 0b111#3 ++ 0b001001#6 ++ d ++ a ++ b ++ lane ++ op ++ low
    (Instr.padd l d a b).enc = .word (P 0 0) ∧ (Instr.psub l d a b).enc = .word (P 1 0) ∧ (Instr.padds l d a b).enc = .word (P 2 0) ∧
    (Instr.paddsn l d a b).enc = .word (P 3 0) ∧ (Instr.psubs l d a b).enc = .word (P 4 0) ∧ (Instr.psubsn l d a b).enc = .word (P 5 0) ∧
    (Instr.pmul l d a b).enc = .word (P 6 0) ∧ (Instr.pmin l d a b).enc = .word (P 7 0) ∧ (Instr.pmax l d a b).enc = .word (P 8 0) ∧
    ∀ op low, low ≠ 0 → ∀ i, decodeWord (P op low) ≠ .ok i

/-- R163: the word and the lane result of every packed form. -/
def Obligations.PackedResults : Prop :=
  PackedEncodings ∧ ∀ (s : State) (l : PLane) (d a b : Reg), Ready (.plain [d, a, b]) s →
    let w := PLane.width l
    PackedAs (.padd l d a b) s w d a b (fun x y => x + y) ∧
    PackedAs (.psub l d a b) s w d a b (fun x y => x - y) ∧
    PackedAs (.padds l d a b) s w d a b (fun x y => satS w (x.toInt + y.toInt)) ∧
    PackedAs (.paddsn l d a b) s w d a b (fun x y => BitVec.ofNat w (min (x.toNat + y.toNat) (2 ^ w - 1))) ∧
    PackedAs (.psubs l d a b) s w d a b (fun x y => satS w (x.toInt - y.toInt)) ∧
    PackedAs (.psubsn l d a b) s w d a b (fun x y => BitVec.ofNat w (x.toNat - y.toNat)) ∧
    PackedAs (.pmul l d a b) s w d a b (fun x y => x * y) ∧
    PackedAs (.pmin l d a b) s w d a b (fun x y => if y.toInt < x.toInt then y else x) ∧
    PackedAs (.pmax l d a b) s w d a b (fun x y => if x.toInt < y.toInt then y else x)

/-- The loaded thread has issued a request that will write `v` and `flags` to gd: it stands last in the queue of the thread's unit, the
program counter has moved past the word, and beside the count of requests nothing else has changed. -/
def Sys2Proof.Claims.Requests (i : Instr) (s : State) (d : Reg) (r : FRes) : Prop :=
  ∃ t q, exec i s = .next t ∧ q.who = s.who ∧ q.gd = d ∧ q.value = r.1 ∧ q.flags = r.2 ∧
    (∀ c, s.myCtx = some c → q.ctx = c.id) ∧ t.sfuOf s.who.unit = s.sfuOf s.who.unit ++ [q] ∧
    (∀ u, u ≠ s.who.unit → t.sfuOf u = s.sfuOf u) ∧
    t = { s with sfus := t.sfus, stats := t.stats, cpu := { s.cpu with pc := s.cpu.pc + 4, wait := .none } }

/-- The special-function unit takes one more request of the loaded thread: 16 entries in all, 4 of a thread (R164). -/
def Sys2Proof.Claims.SfuRoom (s : State) : Prop :=
  (s.sfuOf s.who.unit).length < 16 ∧ ((s.sfuOf s.who.unit).filter fun q => q.who == s.who).length < 4

/-- R164 and R169 to R171: with room in the unit's queue every floating-point form sends its request. -/
def Sys2Proof.Claims.FloatRequests : Prop :=
  ∀ (s : State) (F : FFmt) (m : SRnd) (d a b : Reg), SfuRoom s →
    let x := fval F (s.reg a)
    let y := fval F (s.reg b)
    (Ready (.plain [d, a, b]) s →
      Requests (.fadd F m d a b) s d (fres (fAddVal (ffmt F) x y (srnd m) 0)) ∧
      Requests (.fsub F m d a b) s d (fres (fAddVal (ffmt F) x y.flip (srnd m) 0)) ∧
      Requests (.fmul F m d a b) s d (fres (fMulVal (ffmt F) x y (srnd m) 0)) ∧
      Requests (.fdiv F m d a b) s d (fres (fDivVal (ffmt F) x y (srnd m) 0)) ∧
      Requests (.fma F m d a b) s d (fres (fFmaVal (ffmt F) x y (fval F (s.reg d)) (srnd m) 0)) ∧
      Requests (.fmin F d a b) s d (fres (fMinMax (ffmt F) false (fpat F (s.reg a)) (fpat F (s.reg b)))) ∧
      Requests (.fmax F d a b) s d (fres (fMinMax (ffmt F) true (fpat F (s.reg a)) (fpat F (s.reg b)))) ∧
      Requests (.fcmp F d a b) s d
        (if x.isNan || y.isNan then 8 else if x.lt y then 1 else if y.lt x then 4 else 2,
          if x.isSNan || y.isSNan then fInvalid else fNone)) ∧
    (Ready (.plain [d, a]) s →
      Requests (.fsqrt F m d a) s d (fres (fSqrtVal (ffmt F) x (srnd m) 0)) ∧
      Requests (.fcvti F m d a) s d
        (BitVec.ofInt 64 ((IntFmt.mk true 64).round x (srnd m) 0).1, ((IntFmt.mk true 64).round x (srnd m) 0).2) ∧
      Requests (.fcvtf F m d a) s d (fres ((ffmt F).round (valOfInt (s.reg a).toInt) (srnd m) 0)) ∧
      Requests (.fcvtw .f64 m d a) s d (fres (fp64.round (fval .f32 (s.reg a)) .rne 0)) ∧
      Requests (.fcvtw .f32 m d a) s d (fres (fp32.round (fval .f64 (s.reg a)) (srnd m) 0)))

/-- R93 and R164: a unit completes its oldest request, and a result of the loaded thread reaches gd and k.fflags in one step. -/
def Sys2Proof.Claims.SfuResultDelivered : Prop :=
  ∀ (s : State) (q : SfuReq) (rest : List SfuReq), s.model.arg = .unit s.who.unit → s.sfuOf s.who.unit = q :: rest → q.who = s.who →
    (∀ c, s.myCtx = some c → q.ctx = c.id ∧ s.ctxOf c.id = some c) → (s.who.isEngine = false → s.myCtx.isSome = true) →
    ∃ t, exec .sfuResult s = .next t ∧ t.sfuOf s.who.unit = rest ∧ t.reg q.gd = (if q.gd = 0 then 0 else q.value) ∧
      t.cpu.fflags = s.cpu.fflags ||| q.flags ∧ (∀ r, r ≠ q.gd → t.reg r = s.reg r) ∧ t.cpu.pc = s.cpu.pc ∧ t.mem = s.mem

/-! ### Control flow and traps (R172, R173, R387, R389) -/

/-- A branch of `n` bytes: taken, it goes to its own address plus twice the offset and the fetch buffer refills; else to the next
instruction. It writes no register, and nothing else changes. -/
def Sys2Proof.Claims.Branches (i : Instr) (s : State) (taken : Prop) [Decidable taken] (off : Word) (n : Word) : Prop :=
  exec i s = .next (if taken then { s with cpu := { s.cpu with pc := s.cpu.pc + 2 * off, wait := .none, buf := [], fetching := none } }
    else { s with cpu := { s.cpu with pc := s.cpu.pc + n, wait := .none } })

/-- R172 and R64: when every branch is taken, and where it goes. -/
def Sys2Proof.Claims.BranchResults : Prop :=
  ∀ (s : State),
    (∀ (a b : Reg) (o : BitVec 13), Ready (.plain [a, b]) s →
      Branches (.beq a b o) s (s.reg a = s.reg b) (o.signExtend 64) 4 ∧
      Branches (.bne a b o) s (s.reg a ≠ s.reg b) (o.signExtend 64) 4 ∧
      Branches (.blt a b o) s ((s.reg a).toInt < (s.reg b).toInt) (o.signExtend 64) 4 ∧
      Branches (.bge a b o) s ((s.reg b).toInt ≤ (s.reg a).toInt) (o.signExtend 64) 4 ∧
      Branches (.bltn a b o) s ((s.reg a).toNat < (s.reg b).toNat) (o.signExtend 64) 4 ∧
      Branches (.bgen a b o) s ((s.reg b).toNat ≤ (s.reg a).toNat) (o.signExtend 64) 4) ∧
    (∀ (a : CReg) (o : BitVec 8), Ready (.plain [creg a]) s →
      Branches (.beqCompact a o) s (s.reg (creg a) = 0) (o.signExtend 64) 2 ∧
      Branches (.bneCompact a o) s (s.reg (creg a) ≠ 0) (o.signExtend 64) 2)

/-- R172: the words of the branches, in the B format. -/
def Sys2Proof.Claims.BranchEncodings : Prop :=
  ∀ (a b : Reg) (o : BitVec 13),
    let B := fun (major : BitVec 6) => 0b111#3 ++ major ++ a ++ b ++ o
    (Instr.beq a b o).enc = .word (B 0x0B) ∧ (Instr.bne a b o).enc = .word (B 0x0C) ∧ (Instr.blt a b o).enc = .word (B 0x0D) ∧
    (Instr.bge a b o).enc = .word (B 0x0E) ∧ (Instr.bltn a b o).enc = .word (B 0x0F) ∧ (Instr.bgen a b o).enc = .word (B 0x10)

/-- A jump that links: gd holds the address of the next instruction, and the program counter the target. -/
def Sys2Proof.Claims.Links (i : Instr) (s : State) (d : Reg) (target : Word) : Prop :=
  ∃ t, exec i s = .next t ∧ t.reg d = (if d = 0 then 0 else s.cpu.pc + 4) ∧ (∀ r, r ≠ d → t.reg r = s.reg r) ∧
    t = { s with cpu := { s.cpu with g := t.cpu.g, pc := target, wait := .none, buf := [], fetching := none } }

/-- R173: JAL, and JALR to an even target computed from ga before the instruction. -/
def Sys2Proof.Claims.JumpResults : Prop :=
  ∀ (s : State) (d : Reg),
    (∀ o : BitVec 18, Ready (.plain [d]) s → Links (.jal d o) s d (s.cpu.pc + 2 * o.signExtend 64)) ∧
    (∀ (a : Reg) (imm : BitVec 13), Ready (.plain [d, a]) s → (s.reg a + 2 * imm.signExtend 64).getLsbD 0 = false →
      Links (.jalr d a imm) s d (s.reg a + 2 * imm.signExtend 64))

/-- TakeTrap (R387, R388) with no result outstanding. With a handler outside a handler: the trap registers are written, k.tpc without its
reserved bits, and the program counter is the vector without bit 0. Else a record of lane F with pc and val, and the thread ends. Nothing else
changes. -/
def Sys2Proof.Claims.TakesTrap (s t : State) (cls : Cls) (pc val : Word) : Prop :=
  if s.tvec.getLsbD 0 = true ∧ s.cpu.tcause.getLsbD 8 = false then
    t = { s with cpu := { s.cpu with
      tpc := pc &&& 0x00FFFFFFFFFFFFFF#64, tcause := 1#1 ++ cls, tval := val, pc := s.tvec &&& ~~~1#64, wait := .none, buf := []
      fetching := none, trapDue := none } }
  else
    (∃ r, t.tree.recs = s.tree.recs ++ [r] ∧ r.cls = cls ∧ r.laneR = false ∧ r.detail.extractLsb' 0 64 = pc ∧
      r.detail.extractLsb' 64 64 = val) ∧
    t = { s with tree := t.tree, cpu := { s.cpu with run := .ended, wait := .none, trapDue := none } }

/-- R67 and R174: a word that decodes to no instruction, under whose parcels no store has changed the code, ends with ILLEGAL-ENCODING at its
first parcel; the trap's value is the word. -/
def Sys2Proof.Claims.UndecodedTraps : Prop :=
  ∀ (s : State) (w : BitVec 32) (r : List (BitVec 16)), s.model.run = some s.who → s.cpu.trapDue = none → s.resultsOut = false →
    w.extractLsb' 29 3 = 7#3 → (∀ i, decodeWord w ≠ .ok i) →
    s.cpu.buffered = w.extractLsb' 16 16 :: w.extractLsb' 0 16 :: r →
    let u := { s with model := { s.model with run := none } }
    (∀ k p q, k < 2 → s.cpu.buffered[k]? = some p → u.codeNow (s.cpu.pc + w64 (2 * k)) = some q → q = p) →
      ∃ t, step s = .next t ∧
        TakesTrap (if s.model.owned then { u with cpu := { u.cpu with yielded := false } } else u) t 0x20 s.cpu.pc (w.setWidth 64)

/-- R387, R389 and R173: TRAP takes USER-TRAP with the address of the next instruction and the value of ga; a JALR to an odd target takes
ALIGNMENT with its own address and the target, and writes no register. -/
def Sys2Proof.Claims.TrapsTaken : Prop :=
  ∀ s : State, s.resultsOut = false →
    (∀ a : Reg, Ready (.plain [a]) s → ∃ t, exec (.trap a) s = .next t ∧ TakesTrap s t 0x28 (s.cpu.pc + 4) (s.reg a)) ∧
    (∀ (d a : Reg) (imm : BitVec 13), Ready (.plain [d, a]) s → (s.reg a + 2 * imm.signExtend 64).getLsbD 0 = true →
      ∃ t, exec (.jalr d a imm) s = .next t ∧ TakesTrap s t 0x23 s.cpu.pc (s.reg a + 2 * imm.signExtend 64))

/-- R67 and R386: the checks of a sequencer instruction, in their order, each with its class; the value is the instruction's word. Shown
on an integer form, on a form of engine harts, on one of contexts alone, and on a privileged one. -/
def Sys2Proof.Claims.ChecksTrap : Prop :=
  ∀ (s : State) (d a b : Reg), s.resultsOut = false →
    (¬(d.toNat < s.regCount ∧ a.toNat < s.regCount ∧ b.toNat < s.regCount) →
      ∃ t, exec (.add d a b) s = .next t ∧ TakesTrap s t 0x21 s.cpu.pc (Instr.add d a b).wordVal) ∧
    (s.who.isEngine = false → ∀ o, ∃ t, exec (.lld d a o) s = .next t ∧ TakesTrap s t 0x20 s.cpu.pc (Instr.lld d a o).wordVal) ∧
    (s.who.isEngine = true → ∃ t, exec (.rarm d a b) s = .next t ∧ TakesTrap s t 0x20 s.cpu.pc (Instr.rarm d a b).wordVal) ∧
    (s.service = false → ∃ t, exec (.rdstate d a) s = .next t ∧ TakesTrap s t 0x22 s.cpu.pc (Instr.rdstate d a).wordVal)

/-- R167 and R387: a trap met while results are outstanding is due, and the thread waits; once they are written, the trap that is due is taken
before any instruction. -/
def Sys2Proof.Claims.TrapsWait : Prop :=
  ∀ s : State,
    (∀ a : Reg, Ready (.plain [a]) s → s.resultsOut = true → s.cpu.trapDue = none →
      ∃ t, exec (.trap a) s = .next t ∧
        t.cpu.trapDue = some ⟨s.model.nextId, 0x28, s.cpu.pc + 4, s.reg a, 0⟩ ∧ t.cpu.wait = (if s.sfuBusy then .sfu else .loads []) ∧
        t.cpu.g = s.cpu.g ∧ t.cpu.pc = s.cpu.pc ∧ t.mem = s.mem) ∧
    (∀ x : TrapDue, s.model.run = some s.who → s.cpu.trapDue = some x → s.resultsOut = false → x.granule = 0 → 0x20 ≤ x.cls.toNat →
      ∃ t, step s = .next t ∧ TakesTrap { s with
        cpu := { s.cpu with yielded := s.cpu.yielded && !s.model.owned }
        model := { s.model with run := none } } t x.cls x.pc x.val)

/-- R389: TRET clears the in-handler bit and goes to k.tpc; outside a handler it raises ILLEGAL-OPERAND. -/
def Sys2Proof.Claims.TrapReturn : Prop :=
  ∀ s : State, Ready (.plain []) s → s.cpu.pend = [] →
    (s.cpu.tcause.getLsbD 8 = true →
      exec .tret s = .next { s with cpu := { s.cpu with
        tcause := s.cpu.tcause &&& 0x0FF#9, wait := .none, pc := s.cpu.tpc, buf := [], fetching := none } }) ∧
    (s.cpu.tcause.getLsbD 8 = false → s.sfuBusy = false →
      ∃ t, exec .tret s = .next t ∧ TakesTrap s t 0x21 s.cpu.pc 0xF0800002)

/-- R389 and R282: HALT stops the thread past its word, or, when a bound counter is pending, starts it again at that counter's entry: the
lowest one, whose pending bit clears, with its number in g1 and its landing offset in g2. -/
def Sys2Proof.Claims.HaltStops : Prop :=
  ∀ (s : State) (i : Instr) (n : Word), (i = .halt ∧ n = 4 ∨ i = .haltCompact ∧ n = 2) → Ready (.plain []) s → s.resultsOut = false →
    s.closing = false →
    (s.who.isEngine = true →
      exec i s = .next { s with cpu := { s.cpu with pc := s.cpu.pc + n, run := .halted, wait := .none } }) ∧
    (∀ (st slot k : Nat) (c : Ctx), s.who = .thread st slot k → s.myCtx = some c →
      ((∀ x ∈ c.counters, ¬(x.enabled = true ∧ x.pending = true ∧ x.thread = k)) →
        exec i s = .next { s with cpu := { s.cpu with pc := s.cpu.pc + n, run := .halted, wait := .none } }) ∧
      (∀ (m : Nat) (x : Counter), c.counters[m]? = some x → x.enabled = true → x.pending = true → x.thread = k →
        (∀ (m' : Nat) (y : Counter), m' < m → c.counters[m']? = some y → ¬(y.enabled = true ∧ y.pending = true ∧ y.thread = k)) →
        ∃ t, exec i s = .next t ∧ t.cpu.run = .running ∧ t.cpu.pc = w64 ((c.code.getD k (0, 0)).1 + x.entry) ∧
          t.reg 1 = w64 m ∧ t.reg 2 = x.landing ∧ (∀ r, r ≠ 1 → r ≠ 2 → t.reg r = s.reg r) ∧ t.mem = s.mem ∧
          t.ctxs = modifyFirst (fun y => y.id == c.id)
            (fun y => { y with counters := y.counters.modify m fun z => { z with pending := false } }) s.ctxs))

/-! ### What every status form leaves (R13) -/

/-- R13: a form that ends with a status writes it to gd [7:0] with zeros above, goes past its word, and changes nothing else. -/
def Sys2Proof.Claims.StatusFormEnds : Prop :=
  ∀ (s : State) (d : Reg) (st : BitVec 8),
    (s.finishStatus d st).reg d = (if d = 0 then 0 else st.setWidth 64) ∧ (∀ r, r ≠ d → (s.finishStatus d st).reg r = s.reg r) ∧
    s.finishStatus d st = { s with cpu := { s.cpu with g := (s.finishStatus d st).cpu.g, pc := s.cpu.pc + 4, wait := .none } }

/-! ### Scheduling (R330 to R333) -/

/-- `v` names block `b` of a region `r` of the issuing context `c`, with no reserved bit set (R330). -/
def Sys2Proof.Claims.NamesBlock (s : State) (v : Word) (c : Ctx) (r : Region) (b : Block) : Prop :=
  s.inHandler = false ∧ s.myCtx = some c ∧ wbits v 63 23 = 0 ∧ s.regionOf (wbits v 15 0) = some r ∧ r.ctx = c.id ∧
    r.blocks[wbits v 22 16]? = some b

/-- R331: RARM counts a dispatch of a block without queues, or arms a queue block with its threshold; RDISARM disarms; RPRIO sets the base
priority, up to the context's. -/
def Sys2Proof.Claims.BlockArming : Prop :=
  ∀ (s : State) (d a b : Reg) (c : Ctx) (r : Region) (k : Block), NamesBlock s (s.reg a) c r k →
    let n := wbits (s.reg a) 22 16
    (Ready ⟨.sched, false, [d, a, b], []⟩ s →
      (k.queueArmed = false → s.reg b = 0 → r.stopped = false → k.disp.pending ≠ 65535 →
        exec (.rarm d a b) s = .next ((s.modDisp r.handle n fun p => { p with pending := p.pending + 1 }).finishStatus d stOK)) ∧
      (k.queueArmed = false → s.reg b = 0 → r.stopped = false → k.disp.pending = 65535 →
        exec (.rarm d a b) s = .next (s.finishStatus d stBusy)) ∧
      (k.queueArmed = true → (s.reg b).toNat < 4096 → r.stopped = false →
        (∀ h ∈ k.armedQs, (s.reg b).toNat + 1 ≤ s.capacityOf c h) →
        exec (.rarm d a b) s =
          .next ((s.modDisp r.handle n fun p => { p with armed := true, threshold := (s.reg b).toNat + 1 }).finishStatus d stOK)) ∧
      ((s.reg b).toNat ≤ c.prio → (s.reg b).toNat < 4 →
        exec (.rprio d a b) s = .next ((s.modDisp r.handle n fun p => { p with base := (s.reg b).toNat }).finishStatus d stOK)) ∧
      (c.prio < (s.reg b).toNat → (s.reg b).toNat < 4 → exec (.rprio d a b) s = .next (s.finishStatus d stDenied))) ∧
    (Ready ⟨.sched, false, [d, a], []⟩ s →
      exec (.rdisarm d a) s =
        .next ((s.modDisp r.handle n fun p => { p with armed := false }).finishStatus d (if k.disp.armed then stOK else stEmpty)))

/-- R332: CANCEL of a block lowers its pending count, or says that a dispatch has started or that there is none; of a hung region it
discards the invocations and lets the region run; of a matrix command it sends the request on its way and waits for the answer. -/
def Sys2Proof.Claims.CancelResults : Prop :=
  ∀ (s : State) (d a b : Reg) (c : Ctx), Ready ⟨.sched, false, [d, a, b], []⟩ s →
    (∀ (r : Region) (k : Block), NamesBlock s (s.reg a) c r k → s.reg b = 0 →
      let n := wbits (s.reg a) 22 16
      (0 < k.disp.pending →
        exec (.cancelBlock d a b) s =
          .next ((s.modDisp r.handle n fun p => { p with pending := p.pending - 1 }).finishStatus d stOK)) ∧
      (k.disp.pending = 0 → (r.invs.any fun x => x.work == .block n) = true →
        exec (.cancelBlock d a b) s = .next (s.finishStatus d stStarted)) ∧
      (k.disp.pending = 0 → (r.invs.any fun x => x.work == .block n) = false →
        exec (.cancelBlock d a b) s = .next (s.finishStatus d stEmpty))) ∧
    (∀ r : Region, s.inHandler = false → s.myCtx = some c → s.reg b = 2 → (s.reg a).toNat < 65536 →
      s.regionOf (s.reg a).toNat = some r → r.ctx = c.id → r.freeze = .hung →
      exec (.cancelHungRegion d a b) s =
        .next ((((s.dropAll r (some stAborted)).modRegion (s.reg a).toNat fun r =>
          { r with freeze := .running, idle := 0 }).settleStats (s.reg a).toNat).finishStatus d stOK)) ∧
    (∀ r : Region, s.inHandler = false → s.myCtx = some c → wbits (s.reg b) 31 0 = 1 → (s.reg a).toNat < 65536 →
      s.matrixCap c (s.reg a).toNat = some r → s.passesAllowance [s.regionDie r] = false →
      exec (.cancelCommand d a b) s =
        .next ((s.sendCmd c r (.cancel ((s.reg b).extractLsb' 32 32) d)).waitFor .answer))

/-- R333: THPRIO sets a thread's priority, up to its context's; YIELD gives up the slots that the thread does not own. R422: in a dome-close
handler THPRIO is DENIED, and YIELD does nothing. -/
def Sys2Proof.Claims.ThreadPriority : Prop :=
  ∀ s : State,
    (∀ (d a : Reg) (c : Ctx), Ready ⟨.sched, false, [d, a], []⟩ s → s.inHandler = false → s.myCtx = some c →
      wbits (s.reg a) 63 10 = 0 → wbits (s.reg a) 7 3 = 0 → wbits (s.reg a) 2 0 < c.threads.length →
      (wbits (s.reg a) 9 8 ≤ c.prio →
        exec (.thprio d a) s =
          .next ((s.modCtxThr c.id (wbits (s.reg a) 2 0) fun x => { x with prio := wbits (s.reg a) 9 8 }).finishStatus d stOK)) ∧
      (c.prio < wbits (s.reg a) 9 8 → exec (.thprio d a) s = .next (s.finishStatus d stDenied))) ∧
    (∀ d a : Reg, Ready ⟨.sched, false, [d, a], []⟩ s → s.inHandler = true → exec (.thprio d a) s = .next (s.finishStatus d stDenied)) ∧
    (Ready ⟨.sched, false, [], []⟩ s →
      let y := !s.inHandler || s.cpu.yielded
      exec .yield s = .next { s with cpu := { s.cpu with yielded := y, pc := s.cpu.pc + 4, wait := .none } } ∧
      exec .yieldCompact s = .next { s with cpu := { s.cpu with yielded := y, pc := s.cpu.pc + 2, wait := .none } })

/-! ### Loads, stores, fences and atomics (R206, R211 to R213, R235 to R241) -/

/-- The access of the loaded thread at `ea` passes its checks (R236), leaving `s'`; no earlier FENCE holds it back, its home is a
scratchpad, at `l`, and the thread's free choice does not delay it there (log 66; `RemoteLoadSteps` has the delayed ones). -/
def Sys2Proof.Claims.AtScratchpad (s s' : State) (ea : Word) (size : Nat) (need : Need) (atomic : Bool) (l : Nat) : Prop :=
  ∃ pa st via, s.checkAccess ea size need atomic = (s', .go pa via) ∧ s'.fenced (s'.home pa) (need != .r) = false ∧ s'.home pa = .spad st l ∧
    s'.goesSlow (96 + st) = false

/-- The context for which the loaded thread accesses memory; none for an engine hart. -/
def Sys2Proof.Claims.sourceOf (s : State) : Option Nat := if s.ctxIdOf s.who = 0 then none else some (s.ctxIdOf s.who)

/-- R235 on the widths of at most 64 bits: gd after a load of these bytes. -/
def Sys2Proof.Claims.loaded (w : LdW) (bs : List Byte) : Word :=
  match w with
  | .s8 => (BitVec.ofNat 8 (leNat bs)).signExtend 64
  | .s16 => (BitVec.ofNat 16 (leNat bs)).signExtend 64
  | .s32 => (BitVec.ofNat 32 (leNat bs)).signExtend 64
  | .n8 | .n16 | .n32 | .d64 | .q128 => BitVec.ofNat 64 (leNat bs)

/-- R235, R237 and R64: a load from a scratchpad completes in one step. LD and LD64 compute ga plus the offset in units of the size; LDAQ
uses ga. A load of 128 bits writes the pair. No byte of memory changes. -/
def Sys2Proof.Claims.LoadResults : Prop :=
  ∀ (s s' : State) (d a : Reg) (w : LdW) (l : Nat), s'.poisoned l (ldSize w) = false →
    let bs := memBytes s'.mem l (ldSize w)
    let got := if w = .q128 then (s'.setPair d (BitVec.ofNat 128 (leNat bs))) else s'.setReg d (loaded w bs)
    (Ready (ldForm d a w) s →
      (∀ o : BitVec 10, AtScratchpad s s' (s.reg a + o.signExtend 64 * BitVec.ofNat 64 (ldSize w)) (ldSize w) .r false l →
        exec (.ld d a w o) s = .next (got.retire 2)) ∧
      (∀ sc : Scope, AtScratchpad s s' (s.reg a) (ldSize w) .r false l → exec (.ldaq d a w sc) s = .next (got.retire 2))) ∧
    (∀ (d' a' : CReg) (k : BitVec 4), w = .d64 → d = creg d' → a = creg a' → Ready (.plain [d, a]) s →
      AtScratchpad s s' (s.reg a + 8 * k.setWidth 64) 8 .r false l → exec (.ld64Compact d' a' k) s = .next (got.retire 1))

/-- R235, R237 and R213: a store to a scratchpad is performed in its own step, with the low bytes of the register in little-endian order.
STRL and SFLAG are, once no earlier access with its home in the scope is pending. -/
def Sys2Proof.Claims.StoreResults : Prop :=
  ∀ (s s' : State) (d a : Reg) (l : Nat),
    (∀ (w : StW),
      let bs := if w = .b128 then leBytes 16 (s.pair d).toNat else leBytes (stSize w) (s.reg d).toNat
      Ready (stForm d a w) s →
      (∀ o : BitVec 10, AtScratchpad s s' (s.reg a + o.signExtend 64 * BitVec.ofNat 64 (stSize w)) (stSize w) .w false l →
        exec (.st d a w o) s = .next ((s'.write (sourceOf s') l bs).retire 2)) ∧
      (∀ sc : Scope, AtScratchpad s s' (s.reg a) (stSize w) .w false l → s'.pendingOf s'.who = [] →
        exec (.strl a d w sc) s = .next ((s'.write (sourceOf s') l bs).retire 2))) ∧
    (∀ (w : FlagW) (sc : Scope), Ready (.plain [a, d]) s → s'.pendingOf s'.who = [] →
      let n := match w with | .w32 => 4 | .w64 => 8
      AtScratchpad s s' (s.reg a) n .w false l →
        exec (.sflag a d w sc) s = .next ((s'.write (sourceOf s') l (leBytes n (s.reg d).toNat)).retire 2)) ∧
    (∀ (d' a' : CReg) (k : BitVec 4), d = creg d' → a = creg a' → Ready (.plain [d, a]) s →
      AtScratchpad s s' (s.reg a + 8 * k.setWidth 64) 8 .w false l →
        exec (.st64Compact d' a' k) s = .next ((s'.write (sourceOf s') l (leBytes 8 (s.reg d).toNat)).retire 1))

/-- R206 and R209: what a store leaves in memory. Outside a protected superstep, with no exhausted row, each byte of the store reads as it was
written and every other byte as before; and memory keeps its canonical form. -/
def Obligations.WriteFrame : Prop :=
  ∀ (s : State) (src : Option Nat) (pa : Nat) (bs : List Byte), Memory.wf s.mem = true → (∀ c ∈ s.ctxs, c.isProt = false) → s.health.dead = [] →
    s.health.deadPch = [] →
    (∀ k, k < bs.length → memByte (s.write src pa bs).mem (pa + k) = bs.getD k 0) ∧ KeepsBytes s (s.write src pa bs) pa bs.length ∧
      (s.write src pa bs).cpu = s.cpu

/-- R212: FENCE goes on at once. With no access pending there is nothing to order, and at scope thread it orders nothing beyond R209; else the
fence is recorded with its kind and scope, between the accesses issued before it and those issued later, beside the orders that still have
something to hold. -/
def Sys2Proof.Claims.FenceResults : Prop :=
  ∀ (s : State) (sc : Scope) (k : FenceKind), Ready (.plain []) s →
    (s.pendingOf s.who = [] → exec (.fence sc k) s = .next { s with cpu := { s.cpu with fences := [], pc := s.cpu.pc + 4, wait := .none } }) ∧
    (s.pendingOf s.who ≠ [] →
      let kind := match k with | .acq => OrderKind.acquire | .rel => .release | .full => .full
      let alive := s.cpu.fences.filter fun f => (s.pendingOf s.who).any fun p => p.id < f.upTo
      exec (.fence sc k) s = .next { s with cpu := { s.cpu with
        fences := if sc = .thr then alive else alive ++ [⟨kind, sc, s.model.nextId⟩]
        pc := s.cpu.pc + 4, wait := .none } })

/-- R211 and R212: which later access of a thread an order holds back while an earlier one is pending: FENCE acq every later access in scope
behind earlier loads, FENCE rel every later store behind earlier accesses in scope, FENCE full both ways round, and LDAQ every later access
in scope behind itself alone. Accesses issued after the order hold nothing. -/
def Sys2Proof.Claims.OrdersHold : Prop :=
  ∀ (s : State) (h : Home) (storing : Bool),
    s.fenced h storing = true ↔ ∃ p ∈ s.pendingOf s.who, ∃ f ∈ s.cpu.fences,
      (f.kind = .acquire ∧ p.id < f.upTo ∧ p.reads = true ∧ inScope s.who f.scope h = true) ∨
      (f.kind = .release ∧ p.id < f.upTo ∧ inScope s.who f.scope (s.home p.pa) = true ∧ storing = true) ∨
      (f.kind = .full ∧ p.id < f.upTo ∧ (inScope s.who f.scope (s.home p.pa) = true ∨ inScope s.who f.scope h = true)) ∨
      (f.kind = .ldaq p.id ∧ inScope s.who f.scope h = true)

/-- An atomic of `n` bytes at a scratchpad has been performed and answered: the home holds `new`, gd the old value, k.astat OK, and the
flags are added to k.fflags. -/
def Sys2Proof.Claims.AtomicDone (i : Instr) (s s' : State) (l n : Nat) (d : Reg) (new : Nat) (fl : Flags) : Prop :=
  let m := s'.write (sourceOf s') l (leBytes n new)
  exec i s = .next (({ m with cpu := { m.cpu.setReg d (BitVec.ofNat 64 (memNat s'.mem l n)) with
    astat := stOK, astatId := Nat.max m.cpu.astatId m.model.nextId, fflags := m.cpu.fflags ||| fl } }).retire 2)

/-- R240: every atomic, at a scratchpad: gd takes the old value and the home the new one. -/
def Sys2Proof.Claims.AtomicResults : Prop :=
  ∀ (s s' : State) (z : ASize) (t : Bool) (d a b : Reg) (l : Nat), Ready (.plain [d, a, b]) s →
    let n := ASize.bytes z
    let old := memNat s'.mem l n
    let y := (s.reg b).toNat % 2 ^ (8 * n)
    (AtScratchpad s s' (s.reg a) n .rw true l → s'.poisoned l n = false →
      AtomicDone (.aadd z t d a b) s s' l n d ((old + y) % 2 ^ (8 * n)) 0 ∧
      AtomicDone (.aand z t d a b) s s' l n d (old &&& y) 0 ∧
      AtomicDone (.aor z t d a b) s s' l n d (old ||| y) 0 ∧
      AtomicDone (.axor z t d a b) s s' l n d (old ^^^ y) 0 ∧
      AtomicDone (.amin z t d a b) s s' l n d (if signedOf y (8 * n) < signedOf old (8 * n) then y else old) 0 ∧
      AtomicDone (.amax z t d a b) s s' l n d (if signedOf old (8 * n) < signedOf y (8 * n) then y else old) 0 ∧
      AtomicDone (.aswap z t d a b) s s' l n d y 0) ∧
    (AtScratchpad s s' (s.reg a) 4 .rw true l → s'.poisoned l 4 = false →
      let old := memNat s'.mem l 4
      let y := (s.reg b).toNat % 2 ^ 32
      (let r := fAddVal fp32 (fp32.decode old) (fp32.decode y) .rne 0;
        AtomicDone (.afaddF32 t d a b) s s' l 4 d r.1 r.2) ∧
      (let lo := fAddVal bf16 (bf16.decode (bitsOf old 15 0)) (bf16.decode (bitsOf y 15 0)) .rne 0;
        let hi := fAddVal bf16 (bf16.decode (bitsOf old 31 16)) (bf16.decode (bitsOf y 31 16)) .rne 0;
        AtomicDone (.afaddBf16 t d a b) s s' l 4 d (lo.1 + hi.1 * 2 ^ 16) (lo.2 ||| hi.2)))

/-- R241: CAS writes the new value exactly when the old one is the expected value; gd (or the pair) takes the old value. -/
def Sys2Proof.Claims.CasResults : Prop :=
  ∀ (s s' : State) (t : Bool) (d a b : Reg) (l : Nat),
    (Ready (.plain [d, a, b]) s → AtScratchpad s s' (s.reg a) 8 .rw true l → s'.poisoned l 8 = false →
      let old := memNat s'.mem l 8
      let m := if old = (s.reg d).toNat then s'.write (sourceOf s') l (leBytes 8 (s.reg b).toNat) else s'
      exec (.cas .s64 t d a b) s = .next (({ m with cpu := { m.cpu.setReg d (BitVec.ofNat 64 old) with
        astat := stOK, astatId := Nat.max m.cpu.astatId m.model.nextId } }).retire 2)) ∧
    (Ready ⟨.all, false, [a], [d, b]⟩ s → AtScratchpad s s' (s.reg a) 16 .rw true l → s'.poisoned l 16 = false →
      let old := memNat s'.mem l 16
      let m := if old = (s.pair d).toNat then s'.write (sourceOf s') l (leBytes 16 (s.pair b).toNat) else s'
      exec (.cas .s128 t d a b) s = .next (({ m with cpu := { m.cpu.setPair d (BitVec.ofNat 128 old) with
        astat := stOK, astatId := Nat.max m.cpu.astatId m.model.nextId } }).retire 2))

/-- R27, R30 and R236: an access that fails a check traps with its effective address, precisely: bits above 55, then alignment. Shown on
loads, stores and atomics of the loaded thread. -/
def Sys2Proof.Claims.AccessTraps : Prop :=
  ∀ (s : State) (d a b : Reg) (o : BitVec 10), s.resultsOut = false → Ready (.plain [d, a, b]) s →
    (let ea := s.reg a + o.signExtend 64 * 8;
      (ea.extractLsb' 56 8 ≠ 0 → (∃ t, exec (.ld d a .d64 o) s = .next t ∧ TakesTrap s t 0x22 s.cpu.pc ea) ∧
        (∃ t, exec (.st d a .b64 o) s = .next t ∧ TakesTrap s t 0x22 s.cpu.pc ea)) ∧
      (ea.extractLsb' 56 8 = 0 → ea.toNat % 8 ≠ 0 → (∃ t, exec (.ld d a .d64 o) s = .next t ∧ TakesTrap s t 0x23 s.cpu.pc ea) ∧
        (∃ t, exec (.st d a .b64 o) s = .next t ∧ TakesTrap s t 0x23 s.cpu.pc ea))) ∧
    ((s.reg a).extractLsb' 56 8 = 0 → (s.reg a).toNat % 4 ≠ 0 → ∀ t',
      ∃ t, exec (.aadd .s32 t' d a b) s = .next t ∧ TakesTrap s t 0x23 s.cpu.pc (s.reg a))

/-! ### Accesses on their way (R206, R209, R318 to R322, R381) -/

/-- An access of the loaded thread at `pa` takes a time to its home, number `c`, where it is performed at `l`: a memory controller, or a station
where the free choice of its slot or an earlier access of the thread delays it. -/
def Sys2Proof.Claims.TakesTime (s : State) (pa c l : Nat) : Prop :=
  (s.home pa = .hbm l ∧ c = hbmCtl l) ∨
    ∃ st m, s.home pa = .spad st m ∧ s.goesSlow (96 + st) = true ∧ c = 96 + st ∧ l = pa % 2 ^ 46

/-- R206, R209, R320 and R235: an access whose home is HBM leaves a request at its controller, and one to a scratchpad that the free choice of
its slot delays, or that stands behind an earlier one of its thread there, a request at its station (log 66). A load leaves its registers
pending; past it the thread goes on only where its slot's free choice says that it ends well. A controller performs the request that it
chooses, or one that is sent again; a station performs one whose time has come at the end of a cycle; and the answer writes the registers of
the load or the atomic that owes them. -/
def Sys2Proof.Claims.RemoteLoadSteps : Prop :=
  ∀ (s s' : State),
    (∀ (d a : Reg) (w : LdW) (o : BitVec 10) (pa l c : Nat) (via : Via), Ready (ldForm d a w) s →
      let ea := s.reg a + o.signExtend 64 * BitVec.ofNat 64 (ldSize w)
      s.checkAccess ea (ldSize w) .r false = (s', .go pa via) → s'.fenced (s'.home pa) false = false → TakesTime s' pa c l →
        ∃ t r, exec (.ld d a w o) s = .next t ∧ t.bus.reqs = s'.bus.reqs ++ [r] ∧ r.ctl = c ∧ r.pa = l ∧ r.who = .actor s'.who ∧
          r.op = .load (ldSize w) ∧ r.ans = .load d w ∧ t.mem = s'.mem ∧
          t.cpu = { s'.cpu with
            pend := s'.cpu.pend ++ [⟨r.id, s'.cpu.pc, if w = .q128 then [d, d + 1] else [d], none, false, s'.model.ahead⟩]
            fences := t.cpu.fences, pc := s'.cpu.pc + 4, wait := .none }) ∧
    (∀ (d a : Reg) (w : StW) (o : BitVec 10) (pa l c : Nat) (via : Via), Ready (stForm d a w) s →
      let ea := s.reg a + o.signExtend 64 * BitVec.ofNat 64 (stSize w)
      let bs := if w = .b128 then leBytes 16 (s.pair d).toNat else leBytes (stSize w) (s.reg d).toNat
      s.checkAccess ea (stSize w) .w false = (s', .go pa via) → s'.fenced (s'.home pa) true = false → TakesTime s' pa c l →
        ∃ t r, exec (.st d a w o) s = .next t ∧ t.bus.reqs = s'.bus.reqs ++ [r] ∧ r.ctl = c ∧ r.pa = l ∧ r.who = .actor s'.who ∧
          r.op = .store (stSize w) bs ∧ r.ans = .none ∧ t.mem = s'.mem ∧ t.cpu = { s'.cpu with pc := s'.cpu.pc + 4, wait := .none }) ∧
    (∀ r : MemReq, s.bus.reqs = [r] → 96 ≤ r.ctl →
      s.performNear = if r.due ≤ s.cycle.toNat then (s.dropReq r.id).performReq r else s) ∧
    (∀ (c : Nat) (r : MemReq), s.model.arg = .n1 c → s.nextRequest c = (s', some (.req r)) → s'.pchHeld r.pa = false →
      exec .dramRequestSelect s = .next ((s'.dropReq r.id).performReq r)) ∧
    (∀ (id : Nat) (r : MemReq), s.model.arg = .n1 id → (s.bus.reqs.find? fun r => r.id == id && r.refused) = some r →
      s.pchHeld r.pa = false → exec .retireBufferRetry s = .next ((s.dropReq r.id).performReq { r with refused := false })) ∧
    (∀ (x : MemAnswer) (p : Pend), s.model.arg = .actor s.who → x.who = .actor s.who →
      (s.cpu.pend.find? fun q => q.id == x.id) = some p → x.status = stOK →
      let rest := s.cpu.pend.filter fun q => q.id != p.id
      let bus := { s.bus with answers := dropFirst (· == x) s.bus.answers }
      (∀ (gd : Reg) (w : LdW), (s.bus.answers.find? fun y => y.who.isOf s.who && y.ans.isLoad) = some x → x.ans = .load gd w →
        x.poisoned = false → exec .loadAnswer s = .next { s with bus := bus, cpu := { s.cpu with pend := rest }.putLoad gd w x.data }) ∧
      (∀ (gd : Reg) (trap : Bool), (s.bus.answers.find? fun y => y.who.isOf s.who && !y.ans.isLoad) = some x → x.ans = .atomic gd trap →
        let late := s.cpu.astatId ≤ p.id
        exec .atomicAnswer s = .next { s with
          bus := bus
          cpu := { { s.cpu with pend := rest }.setReg gd (w64 x.data) with
            fflags := s.cpu.fflags ||| x.flags, astat := if late then stOK else s.cpu.astat
            astatId := if late then p.id else s.cpu.astatId } }))

/-- R381: accesses through the outbound window leave in issue order: a store leaves the part, a load waits for its completion, whose data
reaches gd. A read that fails, past which the thread has not gone, leaves PERMISSION due at the load, with the load's address. -/
def Sys2Proof.Claims.OutboundSteps : Prop :=
  ∀ (s : State),
    (∀ (st slot k die : Nat) (r : OutReq), s.model.arg = .n4 st slot k die → s.nextOut (.actor (.thread st slot k)) die = some r →
      (r.ans = .none → exec .outboundStore s = .next { s with bus := { s.bus with
        sent := r :: s.bus.sent, outs := s.bus.outs.filter fun x => x.id != r.id } }) ∧
      (r.ans ≠ .none → exec .outboundLoad s = .next { s with bus := { s.bus with sent := r :: s.bus.sent } })) ∧
    (∀ (id : Nat) (data : Option Word) (r : OutReq) (gd : Reg) (w : LdW) (p : Pend), s.model.arg = .outbound id data →
      (s.bus.outs.find? fun r => r.id == id && r.pkg == none && r.ans != .none && s.hasLeft r) = some r →
      r.who = .actor s.who → r.ans = .load gd w → (s.cpu.pend.find? fun q => q.id == r.id) = some p →
      let rest := s.cpu.pend.filter fun q => q.id != p.id
      (∀ v, data = some v →
        exec .outboundCompletion s = .next { s.dropOut r.id with cpu := { s.cpu with pend := rest }.putLoad gd w v.toNat }) ∧
      (data = none → s.cpu.trapDue = none → p.line = none → p.sure = false →
        ∃ t, exec .outboundCompletion s = .next t ∧ t.cpu.trapDue = some ⟨p.id, 0x22, p.pc, r.ea, 0⟩ ∧ t.cpu.pend = rest ∧
          t.cpu.g = s.cpu.g ∧ t.mem = s.mem))
/-! ### Messages, counters, mailboxes and queues (R261 to R286) -/

/-- The instruction runs in a context, not in a dome-close handler (R422). -/
def Sys2Proof.Claims.InCtx (s : State) (c : Ctx) : Prop := s.inHandler = false ∧ s.myCtx = some c

/-- The same, and no earlier FENCE or LDAQ of the thread holds back an access at its station (R210, R212). -/
def Sys2Proof.Claims.AtStation (s : State) (c : Ctx) : Prop := InCtx s c ∧ s.fenced (stationHome c.station) true = false

/-- R277 and R279: SEND puts the payload m0 to m(n − 1) on its way to the gang's context of the station, with the next number of the thread
for that station, which gd holds with OK; one more message is outstanding. A full allowance answers BUSY, an absent context DENIED. -/
def Sys2Proof.Claims.SendResults : Prop :=
  ∀ (s : State) (d a : Reg) (c : Ctx), Ready (.plain [d, a]) s → AtStation s c → sendReserved (s.reg a) = false →
    let h := s.reg a
    let st := wbits h 6 0
    let num := lookupD s.cpu.msgNum st 0
    st ≤ 95 → wbits h 35 32 ≤ 8 →
    ((s.gangCtxs c.gang st)[wbits h 37 36]? = none → exec (.send d a) s = .next (s.finishStatus d stDenied)) ∧
    (∀ dest, (s.gangCtxs c.gang st)[wbits h 37 36]? = some dest →
      (16 ≤ lookupD s.cpu.outstanding (st / 24) 0 → exec (.send d a) s = .next (s.finishStatus d stBusy)) ∧
      (lookupD s.cpu.outstanding (st / 24) 0 < 16 → s.mustRelease .pkg (stationHome st) = false →
        ∃ t m, exec (.send d a) s = .next t ∧ t.bus.msgs = s.bus.msgs ++ [m] ∧ m.dest = dest.id ∧ m.station = st ∧
          m.ctr = wbits h 13 8 ∧ m.dec = wbits h 25 16 ∧ m.num = num ∧
          m.payload = (s.cpu.m.toList.take (wbits h 35 32)).flatMap (fun w => leBytes 8 w.toNat) ∧
          t.reg d = (if d = 0 then 0 else w64 (num * 2 ^ 32)) ∧
          t.cpu.outstanding = assign s.cpu.outstanding (st / 24) (lookupD s.cpu.outstanding (st / 24) 0 + 1) ∧
          t.cpu.msgNum = assign s.cpu.msgNum st ((num + 1) % 2 ^ 32) ∧ t.cpu.pc = s.cpu.pc + 4 ∧ t.mem = s.mem ∧ t.ctxs = s.ctxs))

/-- R280 and R281: CSET, CGET and CBIND on a counter of the context, with the operands that CBIND refuses, and CWAIT on one that has reached
zero or has not. The thread issues nothing before its CWAIT ends, so an OK return comes before every later access (R216). -/
def Sys2Proof.Claims.CounterResults : Prop :=
  ∀ (s : State) (d a b : Reg) (c : Ctx), AtStation s c → (s.reg a).toNat % 256 < 64 →
    let k := wbits (s.reg a) 5 0
    let v := s.reg b
    let put := fun (f : Counter → Counter) => s.modCtx c.id fun c => { c with counters := c.counters.modify k f }
    (Ready (.plain [d, a, b]) s →
      ((s.reg a).toNat < 64 → v.toNat < 2 ^ 53 → wbits v 38 16 % 16 = 0 → wbits v 41 39 ≤ 4 →
        wbits v 38 16 + 16 * wbits v 41 39 * (wbits v 51 42 + 1) ≤ c.partSize →
        exec (.cset d a b) s = .next ((put fun x => { x with
          count := wbits v 15 0, stride := wbits v 41 39, slots := wbits v 51 42 + 1, base := wbits v 38 16, next := 0, arrivals := 0
          post := wbit v 52, pending := false, overrun := false }).finishStatus d stOK)) ∧
      (wbits (s.reg a) 63 11 = 1 → wbits (s.reg a) 10 8 < c.threads.length → v.getLsbD 0 = false →
        v.toNat < (c.code.getD (wbits (s.reg a) 10 8) (0, 0)).2 →
        exec (.cbind d a b) s = .next ((put fun x => { x with
          enabled := true, thread := wbits (s.reg a) 10 8, entry := v.toNat }).finishStatus d stOK)) ∧
      (wbits (s.reg a) 63 11 = 1 →
        (c.threads.length ≤ wbits (s.reg a) 10 8 ∨ v.getLsbD 0 = true ∨ (c.code.getD (wbits (s.reg a) 10 8) (0, 0)).2 ≤ v.toNat) →
        exec (.cbind d a b) s = .next (s.trap 0x21 (Instr.cbind d a b).wordVal)) ∧
      (wbits (s.reg a) 63 11 = 0 → wbits (s.reg a) 10 8 ≠ 0 ∨ v ≠ 0 →
        exec (.cbind d a b) s = .next (s.trap 0x21 (Instr.cbind d a b).wordVal)) ∧
      ((s.reg a).toNat < 64 → v = 0 →
        exec (.cbind d a b) s = .next ((put fun x => { x with enabled := false, thread := 0, entry := 0, pending := false }).finishStatus d stOK)) ∧
      ((s.reg a).toNat < 64 → (c.counter k).count = 0 → exec (.cwait d a b) s = .next (s.finishStatus d stOK)) ∧
      ((s.reg a).toNat < 64 → (c.counter k).count ≠ 0 → s.cpu.wait = .none →
        exec (.cwait d a b) s = .next (s.waitFor (.counter d k s.cycle.toNat v.toNat)))) ∧
    (Ready (.plain [d, a]) s → (s.reg a).toNat < 64 →
      let x := c.counter k
      WritesReg (.cget d a) s d (w64 (x.count + x.next * 2 ^ 16 + boolNat x.pending * 2 ^ 26 + boolNat x.overrun * 2 ^ 27
        + boolNat x.enabled * 2 ^ 28 + x.thread * 2 ^ 29 + x.arrivals * 2 ^ 32)) 2)

/-- R285: MBPOP takes the oldest entry of the mailbox into the pair, MBPEEK leaves it, and both write the number of entries left with OK;
an empty mailbox answers EMPTY. MBWAIT ends at once when there is an entry. -/
def Sys2Proof.Claims.MailboxResults : Prop :=
  ∀ (s : State) (d b : Reg) (c : Ctx), AtStation s c →
    (Ready ⟨.all, false, [d], [b]⟩ s →
      (c.mailbox = [] → WritesReg (.mbpop d b) s d 2 2 ∧ WritesReg (.mbpeek d b) s d 2 2) ∧
      (∀ e r, c.mailbox = e :: r →
        exec (.mbpop d b) s =
          .next (((s.setPair b e).modCtx c.id fun c => { c with mailbox := r }).finish d (w64 (r.length * 2 ^ 16))) ∧
        exec (.mbpeek d b) s = .next ((s.setPair b e).finish d (w64 ((r.length + 1) * 2 ^ 16))))) ∧
    (Ready (.plain [d, b]) s →
      (c.mailbox ≠ [] → WritesReg (.mbwait d b) s d (w64 (c.mailbox.length * 2 ^ 16)) 2) ∧
      (c.mailbox = [] → s.cpu.wait = .none →
        exec (.mbwait d b) s = .next (s.waitFor (.mailbox d s.cycle.toNat (s.reg b).toNat))))

/-- R281 and R285: a CWAIT or MBWAIT whose timeout has passed ends with TIMEOUT and what it waited for, unless that has come. -/
def Sys2Proof.Claims.WaitTimeouts : Prop :=
  ∀ (s : State) (c : Ctx) (gd : Reg) (since limit : Nat), s.model.arg = .actor s.who → s.myCtx = some c → limit ≠ 0 →
    since + limit ≤ s.cycle.toNat →
    (∀ k, s.cpu.wait = .counter gd k since limit →
      ((c.counter k).count ≠ 0 → WritesReg .waitTimeout s gd (w64 (0x0A + (c.counter k).count * 2 ^ 16)) 2) ∧
      ((c.counter k).count = 0 → exec .waitTimeout s = .next s)) ∧
    (s.cpu.wait = .mailbox gd since limit →
      (c.mailbox = [] → WritesReg .waitTimeout s gd 0x0A 2) ∧ (c.mailbox ≠ [] → exec .waitTimeout s = .next s))

/-- R278: what the arrival of a message does to its counter, whatever its payload: the landing slot, the next one, the count, and the status
that a posted entry carries. -/
def Sys2Proof.Claims.ArrivalRule : Prop :=
  ∀ (c : Counter) (dec len : Nat),
    let r := arriveCounter c dec len
    (r.2.1 = if c.stride = 0 then none else some (c.base + 16 * c.stride * c.next)) ∧
    (r.1.next = if c.stride = 0 then c.next else (c.next + 1) % c.slots) ∧
    (r.1.arrivals = (c.arrivals + 1) % 2 ^ 32) ∧
    (r.1.count = if dec = 0 then c.count else c.count - dec) ∧
    (r.2.2.1 = if dec ≠ 0 ∧ c.count = 0 then stDenied else if 16 * c.stride < len then stTrunc else stOK) ∧
    (r.2.2.2 = true ↔ dec ≠ 0 ∧ c.count ≠ 0 ∧ c.count ≤ dec)

/-- R278, R279, R286 and R400: the first message of its thread and station arrives at a context that holds its slot, and leaves the sender's
allowance; a refused mailbox entry is written again, after what the context's spill area still holds. -/
def Sys2Proof.Claims.ArrivalEvents : Prop :=
  ∀ (s t : State) (k : Nat),
    (∀ (m : Msg) (c : Ctx), s.model.arg = .n1 k → s.bus.msgs[k]? = some m → s.firstOfPair m = true → s.ctxOf m.dest = some c →
      c.resident = true → c.spill = [] → s.arrive m = some t →
        exec .messageArrive s = .next { t.creditBack m.sender (m.station / 24) with
          bus := { (t.creditBack m.sender (m.station / 24)).bus with
            msgs := (t.creditBack m.sender (m.station / 24)).bus.msgs.filter fun x => x.id != m.id } }) ∧
    (∀ (e : BitVec 128) (c : Ctx), s.model.arg = .n1 k → (s.bus.mails.find? fun m => m.1 == k) = some (k, e) → s.ctxOf k = some c →
      c.resident = true → c.spill = [] → c.mailbox.length < 256 →
        exec .mailboxWriteRetry s = .next
          { s.modCtx c.id fun c => { c with mailbox := c.mailbox ++ [e] } with
            bus := { s.bus with mails := dropFirst (fun x => x.1 == k) s.bus.mails } }) ∧
    (∀ (e : BitVec 128) (c : Ctx), s.model.arg = .n1 k → (s.bus.mails.find? fun m => m.1 == k) = none → s.ctxOf k = some c →
      c.resident = true → c.spill = [.entry e] → c.mailbox.length < 256 →
        exec .mailboxWriteRetry s = .next
          ((s.modCtx c.id fun c => { c with mailbox := c.mailbox ++ [e] }).modCtx k fun c => { c with spill := [] }))

/-- R264: QPUSH of a 16-byte item puts it at every live home of the queue and takes a window place there, when every home has one free;
without it BUSY; without any live home RETIRED. -/
def Sys2Proof.Claims.PushResults : Prop :=
  ∀ (s : State) (rel : Bool) (d a b : Reg) (c : Ctx) (x : Bound) (w : Nat) (q : Queue), Ready (.plain [d, a, b]) s →
    s.inHandler = false → s.bindOf (s.reg a) = some x → x.window = some w → s.myCtx = some c → s.queueOf x.q = some q → q.size = 16 →
    b.toNat % 2 = 0 → s.pairWait q b = false → (rel = true → s.pendingIn .pkg = false) →
    s.queueFenced q (s.liveHomes q) = false →
    let live := q.homes.filter fun h => s.homeAlive h.at_
    (live = [] → exec (.qpush rel d a b) s = .next (s.finishStatus d stRetired)) ∧
    (live ≠ [] → s.windowFree q c.id w = false → exec (.qpush rel d a b) s = .next (s.finishStatus d stBusy)) ∧
    (live ≠ [] → s.windowFree q c.id w = true → s.holdsPush c q = false → q.id = x.q →
      exec (.qpush rel d a b) s = .next
        (((s.takeWindow q.id c.id).placeItem q.id c.id (s.actorId s.who) (leBytes 16 (s.pair b).toNat) false).finishStatus d stOK))

/-- R265: QPOP takes the oldest unreserved item of 16 bytes into the pair and starts its credit, QPEEK leaves it; gd holds its number, its
producer and OK. An empty home answers EMPTY to a thread, a marker EMPTY with bit 8. -/
def Sys2Proof.Claims.PopResults : Prop :=
  ∀ (s : State) (d a b : Reg) (x : Bound) (h : HomeAt) (q : Queue) (y : QHome) (c : Ctx), Ready (.plain [d, a, b]) s →
    s.inHandler = false → s.bindOf (s.reg a) = some x → x.home = some h → s.queueOf x.q = some q → q.size = 16 → b.toNat % 2 = 0 →
    s.pairWait q b = false → q.home h = some y → s.who.isEngine = false → s.myCtx = some c → c.isProt = false →
    s.queueFenced q [h] = false →
    (headOf y.entries = none → WritesReg (.qpop d a b) s d 2 2 ∧ WritesReg (.qpeek d a b) s d 2 2) ∧
    (∀ n, headOf y.entries = some (.marker n) →
      exec (.qpop d a b) s = .next ((s.popHead q.id h none).finish d 0x102) ∧ WritesReg (.qpeek d a b) s d 0x102 2) ∧
    (∀ it, headOf y.entries = some (.item it) → it.poison = false →
      let v := w64 (it.num * 2 ^ 32 + it.source.toNat * 2 ^ 9)
      exec (.qpop d a b) s = .next (((s.popHead q.id h none).setPair b (BitVec.ofNat 128 (leNat it.data))).finish d v) ∧
      exec (.qpeek d a b) s = .next ((s.setPair b (BitVec.ofNat 128 (leNat it.data))).finish d v))

/-- R263, R266, R267 and R264: QSTAT counts, QDEF defines where the storage has room (its size is an uninterpreted constant, log 69), QBIND binds
the lowest free handle, QMARK starts a quiesce of the own gang or of the one that its capability names, and a credit that has returned frees
a window place. -/
def Sys2Proof.Claims.QueueTables : Prop :=
  ∀ (s : State) (d a : Reg) (c : Ctx), s.inHandler = false → s.myCtx = some c → s.who.isEngine = false →
    (Ready (.plain [d, a]) s →
      (∀ (x : Bound) (q : Queue) (h : HomeAt) (y : QHome), s.bindOf (s.reg a) = some x → s.queueOf x.q = some q → x.home = some h →
        q.home h = some y → x.window = none →
        WritesReg (.qstat d a) s d (w64 (y.items.length + (match headOf y.entries with | some (.marker _) => 2 ^ 48 | _ => 0))) 2) ∧
      (∀ (x : BitVec 128) (q k : Nat) (h : HomeAt), s.useCap c (s.reg a).toNat = some (x, .queue q h) → (capS x = true ∨ capR x = true) →
        s.freeHandle c = some k →
        let w := capParam x % 2 ^ 12 + 1
        (∀ y, capS x = true → s.queueOf q = some y → s.windowSum q + w ≤ y.cap) →
        exec (.qbind d a) s = .next ((s.bind c.id k
          { queue := q, window := if capS x then some w else none, consumer := if capR x then some h else none
            byCap := some (capEpoch x) }).finish d (w64 (k * 2 ^ 16)))) ∧
      (∀ g : Gang, s.reg a = 0 → s.gangOf c.gang = some g →
        (g.qstate = 0 → exec (.qmark d a) s = .next ((s.startQuiesce g).finishStatus d stOK)) ∧
        (g.qstate ≠ 0 → exec (.qmark d a) s = .next (s.finishStatus d stBusy))) ∧
      (∀ (x : BitVec 128) (g : Gang), s.reg a ≠ 0 → s.useCap c (s.reg a).toNat = some (x, .gang g.id) → s.gangOf g.id = some g → g.qstate = 0 →
        (capX x = true → exec (.qmark d a) s = .next ((s.startQuiesce g).finishStatus d stOK)) ∧
        (capX x = false → exec (.qmark d a) s = .next (s.trap 0x27 (Instr.qmark d a).wordVal)))) ∧
    (Ready ⟨.all, true, [d, a], []⟩ s →
      (∀ (x : QDesc) (k : Nat) (cs : List Ctx), qdescOf s.msg = some x → (s.reg a).toNat ≤ 4096 → (s.reg a).toNat ≤ x.cap →
        x.consumers.map (fun p => s.ctxBySlot p.1 p.2) = cs.map some → s.freeHandle c = some k →
        let ids := (cs.map (·.id)).eraseDups
        exec (.qdef d a) s = .next (
          if Config.queueStorage < s.queueBytes + x.size * x.cap * ids.length then s.finishStatus d stDenied
          else (s.defineQueue c k (s.reg a).toNat x ids).finish d (w64 (k * 2 ^ 16))))) ∧
    (∀ q k, s.model.arg = .n2 q k →
      exec .windowCreditReturn s = .next (s.modQueue q fun x => { x with homes := x.homes.modify k fun h =>
        match h.credits with
        | [] => h
        | o :: r => { h with credits := r, used := assign h.used o (h.usedBy o - 1) } }))

/-! ### Tags, tiles and address generators (R248 to R258) -/

/-- R252: TLOOK answers the entry of the granule, made the most recent, or the victim of its set; TINS writes an entry, or is DENIED; TINV
clears the valid bit and answers the entry that was there. Bits of the operands that R252 does not name are not looked at, and TINS into the
entry that holds the granule writes it again (log 15). -/
def Sys2Proof.Claims.TagResults : Prop :=
  ∀ (s : State) (d a b : Reg) (c : Ctx), InCtx s c →
    let g := wbits (s.reg a) 55 12
    (Ready (.plain [d, a]) s →
      (∀ i, c.findTag g = some i → exec (.tlook d a) s = .next ((s.modCtx c.id (·.touch i)).finish d (tlookWord true i (c.tagAt i)))) ∧
      (c.findTag g = none → let v := c.victim (g % c.tagSets)
        WritesReg (.tlook d a) s d (tlookWord false v (c.tagAt v)) 2) ∧
      (wbits (s.reg a) 11 0 < 128 * c.partUnits → let i := wbits (s.reg a) 11 0
        let t := c.tagAt i
        exec (.tinv d a) s = .next ((s.modCtx c.id fun c => { c with tags := assign c.tags i { t with valid := false } }).finish d
          (w64 (boolNat t.valid * 2 ^ 63 + boolNat t.dirty * 2 ^ 62 + t.granule % 2 ^ 44 * 2 ^ 12 + t.slot))))) ∧
    (Ready (.plain [d, a, b]) s →
      let v := s.reg b
      let i := wbits v 43 32
      i < 128 * c.partUnits → wbits v 10 0 < 64 * c.partUnits → wbits (s.reg a) 11 0 = 0 →
      (i / 8 = g % c.tagSets → (c.findTag g = none ∨ c.findTag g = some i) →
        exec (.tins d a b) s = .next ((s.modCtx c.id fun c =>
          ({ c with tags := assign c.tags i ⟨true, wbit v 61, g, wbits v 10 0⟩ }).touch i).finishStatus d stOK)) ∧
      ((i / 8 ≠ g % c.tagSets ∨ ∃ j, j ≠ i ∧ c.findTag g = some j) → exec (.tins d a b) s = .next (s.finishStatus d stDenied)))

/-- R255, R256 and R258: TDEF defines an EMPTY tile that fits its partition; TSTAT makes a tile READY or EMPTY again, or reads its state;
TWAIT ends when the tile is READY or EMPTY. -/
def Sys2Proof.Claims.TileResults : Prop :=
  ∀ (s : State) (d a b : Reg) (c : Ctx) (old : Tile), InCtx s c → (s.reg a).toNat < 512 → c.tileAt (s.reg a).toNat = some old →
    let i := (s.reg a).toNat
    (Ready (.plain [d, a]) s →
      (∀ t, tileOfDesc (s.msg 0) (s.msg 1) (s.msg 2) (s.msg 3) = some t → old.state = .empty → old.pins = 0 →
        t.base + t.bytes ≤ c.partSize → t.scale + t.scaleBytes ≤ c.partSize →
        exec (.tdef d a) s = .next ((s.modTile c.id i fun _ => t).finishStatus d stOK)) ∧
      (old.state = .ready → exec (.twait d a) s = .next (s.finishStatus d stOK)) ∧
      (old.state = .empty → exec (.twait d a) s = .next (s.finishStatus d stEmpty)) ∧
      (old.state = .filling ∨ old.state = .draining → exec (.twait d a) s = .next (s.waitFor (.tile i)))) ∧
    (Ready (.plain [d, a, b]) s →
      let pinned := 4 * boolNat (decide (0 < old.pins))
      (s.reg b = 0 → WritesReg (.tstat d a b) s d (w64 (tileCode old.state + pinned)) 2) ∧
      (s.reg b = 6 → old.state = .empty → s.mustRelease .pkg (stationHome c.station) = false →
        exec (.tstat d a b) s = .next ((s.modTile c.id i fun t => { t with state := .ready }).finish d (w64 (2 + pinned)))) ∧
      (s.reg b = 4 → old.state = .ready → old.pins = 0 →
        exec (.tstat d a b) s = .next ((s.modTile c.id i fun t => { t with state := .empty }).finish d 0)))

/-- R250: AGSET writes the record of m0 to m6 into a region of the issuing context, and AGPARM one field of a record, the base also of a record
of rank 0 (log 76); a reserved bit of its ga, or selector 6 or 7, raises ILLEGAL-OPERAND. -/
def Sys2Proof.Claims.AddressGenerators : Prop :=
  ∀ (s : State) (d a b : Reg) (c : Ctx) (r : Region), InCtx s c → s.regionOf (wbits (s.reg a) 15 0) = some r → r.ctx = c.id →
    let h := wbits (s.reg a) 15 0
    let k := wbits (s.reg a) 18 16
    let old := r.ags.toArray.getD k AgRec.zero
    let put := fun (f : AgRec → AgRec) => s.modRegion h fun r => { r with ags := r.ags.setIfInBounds k (f (r.ags.toArray.getD k AgRec.zero)) }
    (Ready (.plain [d, a]) s → ∀ g, agOfDesc s.msg = some g → (s.reg a).toNat < 2 ^ 19 →
      exec (.agset d a) s = .next ((put fun _ => g).finishStatus d stOK)) ∧
    (Ready (.plain [d, a, b]) s → (s.reg a).toNat < 2 ^ 23 → (s.reg a).getLsbD 19 = false →
      (wbits (s.reg a) 22 20 = 0 → (s.reg b).toNat < 2 ^ 56 →
        exec (.agparm d a b) s = .next ((put fun g => { g with base := (s.reg b).toNat }).finishStatus d stOK)) ∧
      (∀ n, wbits (s.reg a) 22 20 = n + 1 → n < 5 → n < old.rank → (s.reg b).toNat < 2 ^ 32 → s.reg b ≠ 0 →
        exec (.agparm d a b) s = .next ((put fun g => { g with e := g.e.set n (s.reg b).toNat }).finishStatus d stOK))) ∧
    (Ready (.plain [d, a, b]) s → (s.reg a).getLsbD 19 = true ∨ 2 ^ 23 ≤ (s.reg a).toNat ∨ 6 ≤ wbits (s.reg a) 22 20 →
      exec (.agparm d a b) s = .next (s.trap 0x21 (Instr.agparm d a b).wordVal))

/-! ### Control registers (R92, R158, R159, R242, R276, R287, R295, R329, R347, R372, R388, R404, R415) -/

/-- R158 and R159: GETK writes the register that the number names. The thread's own registers, and those of its context. -/
def Sys2Proof.Claims.ControlReads : Prop :=
  ∀ (s : State) (d : Reg), Ready (.plain [d]) s → s.resultsOut = false →
    let reads := fun (n : BitVec 13) (v : Word) => WritesReg (.getk d n) s d v 2
    (reads 0x001 (w64 s.regCount) ∧ reads 0x002 s.cycle ∧ reads 0x003 (w64 (s.pkgid + boolNat s.pkgValid * 2 ^ 9)) ∧
      reads 0x010 (s.cpu.fflags.setWidth 64) ∧ reads 0x020 (s.cpu.astat.setWidth 64) ∧ reads 0x031 s.cpu.sstat ∧
      reads 0x071 s.cpu.tpc ∧ reads 0x072 (s.cpu.tcause.setWidth 64) ∧ reads 0x073 s.cpu.tval ∧
      (∀ k : Fin 8, reads (0x040 + BitVec.ofNat 13 k.val) s.cpu.m[k])) ∧
    (∀ (st slot k : Nat) (c : Ctx), s.who = .thread st slot k → s.myCtx = some c →
      reads 0x004 (w64 c.asid) ∧ reads 0x005 (w64 (boolNat c.service)) ∧ reads 0x011 (c.vflags.setWidth 64) ∧
      reads 0x012 (c.vtrap.setWidth 64) ∧ reads 0x013 (c.srseed.setWidth 64) ∧ reads 0x030 c.dom ∧ reads 0x032 (c.mcls.setWidth 64) ∧
      reads 0x034 (c.hangiv.setWidth 64) ∧ reads 0x035 (c.hangmap.setWidth 64) ∧ reads 0x060 (c.lnack.setWidth 64) ∧
      reads 0x061 (c.lnaddr.setWidth 64) ∧ reads 0x070 c.tvec ∧ reads 0x074 c.prot ∧ reads 0x075 c.undo ∧
      (s.part ≠ 2 → reads 0x076 c.hentry)) ∧
    (∀ n : BitVec 13, n.toNat < 0x100 → s.getK n.toNat = none →
      ∃ t, exec (.getk d n) s = .next t ∧ TakesTrap s t 0x21 s.cpu.pc (Instr.getk d n).wordVal)

/-- The context register that a PUTK changes; everything else but the program counter is as before. -/
def Sys2Proof.Claims.PutsCtx (i : Instr) (s : State) (c : Ctx) (f : Ctx → Ctx) : Prop := exec i s = .next ((s.modCtx c.id f).retire 2)

/-- R158, R159, R295, R404 and R415: PUTK writes the register that the number names. A reserved bit, a read-only register, a number that names
no register of the issuer and a value that the register's own rule refuses raise ILLEGAL-OPERAND and change nothing. -/
def Sys2Proof.Claims.ControlWrites : Prop :=
  ∀ (s : State) (a : Reg), Ready (.plain [a]) s → s.resultsOut = false →
    let v := s.reg a
    let refused := fun (n : BitVec 13) => ∃ t, exec (.putk a n) s = .next t ∧ TakesTrap s t 0x21 s.cpu.pc (Instr.putk a n).wordVal
    (v.toNat < 32 → exec (.putk a 0x010) s =
      .next { s with cpu := { s.cpu with fflags := v.setWidth 5, pc := s.cpu.pc + 4, wait := .none } }) ∧
    (32 ≤ v.toNat → refused 0x010) ∧
    (v.toNat < 2 ^ 56 → v.getLsbD 0 = false → exec (.putk a 0x071) s =
      .next { s with cpu := { s.cpu with tpc := v, pc := s.cpu.pc + 4, wait := .none } }) ∧
    (2 ^ 56 ≤ v.toNat ∨ v.getLsbD 0 = true → refused 0x071) ∧
    (∀ k : Fin 8, exec (.putk a (0x040 + BitVec.ofNat 13 k.val)) s =
      .next { s with cpu := { s.cpu with m := s.cpu.m.set k.val v, pc := s.cpu.pc + 4, wait := .none } }) ∧
    (∀ (st slot k : Nat) (c : Ctx), s.who = .thread st slot k → s.myCtx = some c →
      (v.toNat < 32 → PutsCtx (.putk a 0x011) s c (fun c => { c with vflags := v.setWidth 5 }) ∧
        PutsCtx (.putk a 0x012) s c (fun c => { c with vtrap := v.setWidth 5 })) ∧
      (32 ≤ v.toNat → refused 0x011 ∧ refused 0x012) ∧
      (v.toNat < 2 ^ 32 → PutsCtx (.putk a 0x013) s c (fun c => { c with srseed := v.setWidth 32 })) ∧
      (2 ^ 32 ≤ v.toNat → refused 0x013) ∧
      (v.toNat < 2 ^ 20 → PutsCtx (.putk a 0x034) s c (fun c => { c with hangiv := v.setWidth 20 })) ∧
      (2 ^ 20 ≤ v.toNat → refused 0x034) ∧
      (v.toNat < 2 ^ 23 → v.toNat % 64 = 0 → PutsCtx (.putk a 0x035) s c (fun c => { c with hangmap := v.setWidth 23 })) ∧
      (2 ^ 23 ≤ v.toNat ∨ v.toNat % 64 ≠ 0 → refused 0x035) ∧
      (v.toNat < 2 ^ 56 → PutsCtx (.putk a 0x070) s c (fun c => { c with tvec := v })) ∧
      (2 ^ 56 ≤ v.toNat → refused 0x070) ∧
      (v &&& 0xFF0000000000FFFE#64 = 0 → c.isProt = false → PutsCtx (.putk a 0x075) s c (fun c => { c with undo := v })) ∧
      (v &&& 0xFF0000000000FFFE#64 ≠ 0 ∨ c.isProt = true → refused 0x075) ∧
      (s.part ≠ 2 → v.toNat < 2 ^ 56 → (v.getLsbD 0 = true → c.handler.isSome = true) →
        PutsCtx (.putk a 0x076) s c (fun c => { c with hentry := v })) ∧
      (s.part = 2 ∨ 2 ^ 56 ≤ v.toNat ∨ (v.getLsbD 0 = true ∧ c.handler = none) → refused 0x076) ∧
      (∀ n : BitVec 13, n = 0x004 ∨ n = 0x005 ∨ n = 0x032 ∨ n = 0x033 ∨ n = 0x050 ∨ n = 0x051 ∨ n = 0x052 ∨ n = 0x061 ∨ n = 0x074 ∨
        n = 0x078 → refused n) ∧
      (v = 0 → PutsCtx (.putkLnack a) s c (fun c => { c with lnack := 0, lnaddr := 0 })) ∧
      (v ≠ 0 → ∃ t, exec (.putkLnack a) s = .next t ∧ TakesTrap s t 0x21 s.cpu.pc (Instr.putkLnack a).wordVal) ∧
      (∀ t, s.putDom c v = some t → exec (.putkDom a) s = .next (t.retire 2))) ∧
    (∀ die eng : Nat, s.who = .engine die eng →
      let putsHart := fun (n : BitVec 13) (f : HartRegs → HartRegs) =>
        exec (.putk a n) s = .next { s with cpu := { s.cpu with hart := f s.cpu.hart, pc := s.cpu.pc + 4, wait := .none } }
      -- k.lcomb: an op of 0 to 3 in [2:0], a type of 0 to 4 in [6:4]
      (v.toNat < 128 → v.toNat % 16 < 4 → v.toNat / 16 < 5 → putsHart 0x050 fun h => { h with lcomb := v }) ∧
      (128 ≤ v.toNat ∨ 4 ≤ v.toNat % 16 ∨ 5 ≤ v.toNat / 16 → refused 0x050) ∧
      putsHart 0x051 (fun h => { h with ecompl := v }) ∧
      (v.toNat < 2 ^ 56 → putsHart 0x070 fun h => { h with tvec := v }) ∧ (2 ^ 56 ≤ v.toNat → refused 0x070)) ∧
    (∀ n : BitVec 13, n = 0x000 ∨ n = 0x001 ∨ n = 0x002 ∨ n = 0x003 ∨ n = 0x020 ∨ n = 0x031 ∨ n = 0x072 ∨ n = 0x073 ∨ n = 0x077 ∨
        (n.toNat < 0x100 ∧ s.getK n.toNat = none) → refused n)

/-! ### Engine harts (R294, R295) -/

/-- R294 and R295: LLD loads a line of 256 bytes from a scratchpad into a line register, LST stores one, and PUTK of k.ecomph sends the
completion to the producer's mailbox. -/
def Sys2Proof.Claims.HartForms : Prop :=
  ∀ (s s' : State) (d a : Reg) (die eng : Nat), s.who = .engine die eng →
    (Ready ⟨.engine, false, [a], []⟩ s → d.toNat < 4 → s.cpu.linePending d.toNat = false →
      (∀ (o : BitVec 10) (pa st l : Nat) (via : Via), s'.cpu.hart.got = [] →
        s.checkAccess (s.reg a + o.signExtend 64 * 256) 256 .r false = (s', .go pa via) → s'.fenced (s'.home pa) false = false →
        (∀ q, q < 4 → s'.home (pa + 64 * q) = .spad st (l + 64 * q)) →
          let qs := (List.range 4).map fun q => (q, memNat s'.mem (l + 64 * q) 64, s'.poisoned (l + 64 * q) 64);
          exec (.lld d a o) s = .next (({ s' with cpu := s'.cpu.putLine d.toNat qs }).retire 2)) ∧
      (∀ (o : BitVec 10) (pa st l : Nat) (via : Via),
        s.checkAccess (s.reg a + o.signExtend 64 * 256) 256 .w false = (s', .go pa via) → s'.fenced (s'.home pa) true = false →
        s'.health.dead = [] → s'.health.deadPch = [] → (∀ c ∈ s'.ctxs, c.isProt = false) → s'.who = s.who →
        (∀ q, q < 4 → s'.home (pa + 64 * q) = .spad st (l + 64 * q)) →
          ∃ t, exec (.lst d a o) s = .next t ∧ t.cpu = { s'.cpu with pc := s'.cpu.pc + 4, wait := .none } ∧
            t.mem = memWrite (memWrite (memWrite (memWrite s'.mem l (s'.cpu.quarter d.toNat 0).1) (l + 64) (s'.cpu.quarter d.toNat 1).1)
              (l + 128) (s'.cpu.quarter d.toNat 2).1) (l + 192) (s'.cpu.quarter d.toNat 3).1)) ∧
    (Ready (.plain [a]) s → s.pendingOf s.who = [] → ∀ (x : Engine) (cid : Nat) (c : Ctx), s.engineAt die eng = some x → x.producer = some cid →
      (s.bus.mails.any fun m => m.1 == cid) = false → s.ctxOf cid = some c → c.resident = true → c.spill = [] →
      c.mailbox.length < 256 →
        let t := s.modCtx cid fun c => { c with mailbox := c.mailbox ++ [s.reg a ++ s.cpu.hart.ecompl] };
        exec (.putkEcomph a) s =
          .next (({ t with cpu := { s.cpu with hart := { s.cpu.hart with ecomph := s.reg a } } }).retire 2))

/-! ### Matrix commands and streams (R142 to R149, R269 to R271) -/

/-- R144: a matrix command whose descriptor is well formed, and whose capabilities name matrix regions, is on its way to each of up to five
regions; MSTAT likewise, to one. -/
def Sys2Proof.Claims.MatrixSends : Prop :=
  ∀ (s : State) (d a b : Reg) (c : Ctx) (rs : List Region), InCtx s c → (s.reg a).toNat < 2 ^ 19 →
    let e := wbits (s.reg a) 18 16
    let ids := wbits (s.reg a) 15 0 :: (List.range e).map fun k => wbits (s.reg b) (16 * k + 15) (16 * k)
    let sent := fun (kind : Nat) (rs : List Region) =>
      Host.Outcome.next ((rs.foldl (fun s r => s.sendCmd c r (.command kind s.cpu.m)) s).finishStatus d stOK)
    s.mustRelease .pkg (stationHome c.station) = false →
    (Ready ⟨.matrix, false, [d, a, b], []⟩ s → e ≤ 4 → (s.reg b).toNat < 2 ^ (16 * e) → ids.map (s.matrixCap c) = rs.map some →
      s.passesAllowance (rs.map s.regionDie) = false →
      (badDesc 0 s.msg = false → exec (.mload d a b) s = sent 0 rs) ∧
      (badDesc 1 s.msg = false → exec (.mrun d a b) s = sent 1 rs) ∧
      (badDesc 2 s.msg = false → exec (.mdrain d a b) s = sent 2 rs)) ∧
    (∀ r : Region, Ready ⟨.matrix, false, [d, a], []⟩ s → e = 0 → s.matrixCap c (s.reg a).toNat = some r →
      s.passesAllowance [s.regionDie r] = false → exec (.mstat d a) s = sent 3 [r])

/-- R145: a command that is the oldest of its thread to its region takes a place in the queue, with the region's next number, or is refused by
a full one and sent again. -/
def Sys2Proof.Claims.CommandArrives : Prop :=
  ∀ (s : State) (id kind : Nat) (m : CmdMsg) (desc : Vector Word 8) (r : Region), s.model.arg = .n1 id → kind < 3 →
    m.kind = .command kind desc → s.firstCmd m = true → s.cmdRegion m = some r →
    (∀ (i : Instr), (i = .matrixCommandArrival ∧ (s.bus.cmds.find? fun m => m.id == id && !m.refused) = some m ∨
        i = .commandRetry ∧ (s.bus.cmds.find? fun m => m.id == id && m.refused) = some m) →
      (r.queueFill < 64 →
        let t := s.modRegion r.handle fun r =>
          { r with cmds := r.cmds ++ [.cmd ⟨kind, r.nextCmd, m.sender, m.source, desc⟩], nextCmd := (r.nextCmd + 1) % 2 ^ 32 };
        exec i s = .next { t.creditBack m.sender m.die with
          bus := { s.bus with cmds := s.bus.cmds.filter fun x => x.id != m.id } }) ∧
      (64 ≤ r.queueFill →
        exec i s = .next { s with bus := { s.bus with
          cmds := modifyFirst (fun x => x.id == m.id) (fun x => { x with refused := true }) s.bus.cmds } }))

/-- R270, R271 and R203: SOPEN opens a stream on the graph that the descriptor names, in the lowest free stream context; SCLOSE aborts an open
stream of the context unless its tail has ended; SSTAT answers the DRAM flits performed. -/
def Sys2Proof.Claims.StreamForms : Prop :=
  ∀ (s : State) (d a : Reg) (c : Ctx), InCtx s c →
    (Ready ⟨.hbm, false, [d], []⟩ s → ∀ (o : OpenDesc) (gs : List (Nat × Nat)) (p : Nat × Nat) (g : Graph) (row str : Nat),
      openDescOf s.cpu.m = some o → (s.gangOf c.gang).map (·.graphs) = some gs → gs[o.graph]? = some p →
      (s.graphs.find? fun g => g.ctl == p.1 && g.slot == p.2) = some g →
      let undo := g.words.any fun v => snodeOp v == 0x38
      ¬(undo = true ∧ (o.write = false ∨ o.jgranules = 0)) → ¬(o.prot = true ∧ o.write = true ∧ undo = false) → s.requesterOk c o = true →
        s.freeRow g.ctl (graphRows g.words.length) = some row →
      s.freeStr g.ctl = some str → (s.streams.any fun x => x.ctl == g.ctl && x.graphSlot == g.slot) = false → s.slotBound o = false →
      s.mustRelease .pkg (stationHome c.station) = false →
        exec (.sopen d) s = .next ((s.openAt c o g str row).finish d (w64 (g.ctl * 2 ^ 20 + str * 2 ^ 16)))) ∧
    (Ready ⟨.hbm, false, [d, a], []⟩ s → (s.reg a).toNat < 2 ^ 11 → (s.reg a).toNat / 16 ≤ 95 → ∀ x : Stream,
      s.openStream ((s.reg a).toNat / 16) ((s.reg a).toNat % 16) = some x → x.ctx = c.id →
        exec (.sclose d a) s = .next
          ((s.modStream x.ctl x.str fun x => if x.tailEnded then x else { x with aborted := true }).finishStatus d stOK) ∧
        WritesReg (.sstat d a) s d (w64 (x.done % 2 ^ 32 * 2 ^ 32)) 2)

/-! ### Barriers (R288 to R291) -/

/-- R289 to R291: BAR, BARSNAP and REDUCE join the open episode of their domain and wait, until what has joined completes it; DONE joins and
goes on, with OK and the episode's number in gd. -/
def Sys2Proof.Claims.EpisodeJoins : Prop :=
  ∀ (s : State) (d a b : Reg) (c : Ctx) (dm : Domain), InCtx s c → s.myDomain c s.myIndex (wbits (s.reg a) 2 0) = some dm →
    let level := wbits (s.reg a) 2 0
    level ≤ 4 → s.mustRelease (levelScope level) .none = false →
    -- the join orders what the thread does later behind what it did before (R216)
    let u := s.addOrder .full (levelScope level)
    (Ready (.plain [d, a]) s → (s.reg a).toNat < 8 →
      exec (.bar d a) s = .next (u.joinAndWait dm ⟨c.id, s.myIndex, .bar, s.reg a, 0, d⟩) ∧
      exec (.barsnap d a) s = .next (u.joinAndWait dm ⟨c.id, s.myIndex, .barsnap, s.reg a, 0, d⟩) ∧
      (let j := u.join dm ⟨c.id, s.myIndex, .done, s.reg a, 0, d⟩;
        exec (.done_ d a) s = .next ((({ j.2 with cpu := { j.2.cpu with sstat := sstatWord stOK dm.level j.1 } }).finish d
          (w64 (j.1 % 2 ^ 32 * 2 ^ 32))).settle))) ∧
    (Ready (.plain [d, a, b]) s → badReduce (s.reg a) = false →
      exec (.reduce d a b) s = .next (u.joinAndWait dm ⟨c.id, s.myIndex, .reduce, s.reg a, reduceValue (s.reg a) (s.reg b), d⟩))

/-- R288 and R289: a BAR in a domain whose only member is the thread completes at once: gd and k.sstat hold OK, the level and the episode's
number, and the thread goes on past the word. -/
def Sys2Proof.Claims.LoneBarrier : Prop :=
  ∀ (s : State) (d a : Reg) (c : Ctx) (dm : Domain) (st slot : Nat), s.who = .thread st slot 0 → InCtx s c → Ready (.plain [d, a]) s →
    s.reg a = 0 → s.myDomain c 0 0 = some dm → s.domains = [dm] → dm.members = [c.id] → c.threads.length = 1 → dm.episodes = [] →
    dm.broken = false → dm.joined = [] → c.snap = none → s.ctxOf c.id = some c → s.mustRelease .sta .none = false →
      ∃ t, exec (.bar d a) s = .next t ∧ t.reg d = (if d = 0 then 0 else w64 (dm.count % 2 ^ 32 * 2 ^ 32)) ∧
        t.cpu.sstat = w64 (dm.count % 2 ^ 32 * 2 ^ 32) ∧ t.cpu.pc = s.cpu.pc + 4 ∧ t.cpu.wait = .none ∧ t.mem = s.mem ∧
        (∀ r, r ≠ d → t.reg r = s.reg r)

/-! ### Capabilities, translations and read-back (R362, R364, R457) -/

/-- R364: CAPMINT installs a well-formed capability of the current epoch in a context's table, clears an entry with kind 0x00, or advances the
epoch of an object. -/
def Sys2Proof.Claims.CapmintResults : Prop :=
  ∀ (s : State) (d a b : Reg), Ready ⟨.all, true, [d, a], [b]⟩ s →
    let v := s.reg a
    let x := s.pair b
    (∀ c : Ctx, (v &&& 0xFFFFFFFFFF00FC80#64) = 0 → wbits v 6 0 ≤ 95 → capWellFormed x = true → capKind x = 0 → s.ctxBySlot (wbits v 6 0) (wbits v 9 8) = some c →
      exec (.capmintInstall d a b) s = .next ((s.modCtx c.id fun c => { c with caps := erase c.caps (wbits v 23 16) }).finishStatus d stOK)) ∧
    (∀ (c : Ctx) (o : CapObj), (v &&& 0xFFFFFFFFFF00FC80#64) = 0 → wbits v 6 0 ≤ 95 → capWellFormed x = true → capKind x ≠ 0 →
      s.ctxBySlot (wbits v 6 0) (wbits v 9 8) = some c → s.capObj x = some o →
      (s.epochOf o = capEpoch x →
        exec (.capmintInstall d a b) s = .next
          ((s.modCtx c.id fun c => { c with caps := assign c.caps (wbits v 23 16) x }).finishStatus d stOK)) ∧
      (s.epochOf o ≠ capEpoch x → exec (.capmintInstall d a b) s = .next (s.finishStatus d stDenied))) ∧
    (∀ o : CapObj, v = 0x80000000 → advanceWellFormed x = true → s.capObj x = some o →
      let t := s.advanceEpoch o
      exec (.capmintAdvance d a b) s = .next (t.finish d (w64 ((t.epochOf o).toNat * 2 ^ 16))))

/-- R362: TLBINV drops the translations that it names in its scope, and completes when no access that they translated is under way. -/
def Sys2Proof.Claims.TlbinvResults : Prop :=
  ∀ (s : State) (d a b : Reg) (m : TlbOp), Ready ⟨.all, true, [d, a, b], []⟩ s → tlbOpOf (s.reg a) (s.reg b) = some m → s.cpu.wait = .none →
    let t := s.tlbDrop m
    (t.tlbPending m t.model.nextId = false → exec (.tlbinv d a b) s = .next (t.finishStatus d stOK)) ∧
    (t.tlbPending m t.model.nextId = true → exec (.tlbinv d a b) s = .next (t.waitFor (.system t.model.nextId))) ∧
    (∀ e ∈ t.mmu.tlb, e ∈ s.mmu.tlb ∧ ¬(unitIn s.who m.scope e.unit = true ∧ m.hitsEntry e = true)) ∧
    t.mem = s.mem ∧ t.cpu = s.cpu

/-- R457: RDSTATE answers an item with OK and its live bit in the pair, or DENIED for one that the part has not; it changes no other state. -/
def Sys2Proof.Claims.RdstateResults : Prop :=
  ∀ (s : State) (d a : Reg), Ready ⟨.all, true, [a], [d]⟩ s →
    (∀ v live, s.readItem (s.reg a) = .val v live →
      exec (.rdstate d a) s = .next ((s.setPair d (w64 (2 ^ 8 * boolNat live) ++ v)).retire 2)) ∧
    (s.readItem (s.reg a) = .absent → exec (.rdstate d a) s = .next ((s.setPair d (w64 6 ++ 0#64)).retire 2))

/-! ### Pre-emption (R395 to R401) -/

/-- A memory in its canonical form in which a write changes its own bytes alone: no granule is dead, and no protected superstep adds undo
entries. -/
def Sys2Proof.Claims.PlainMemory (s : State) : Prop :=
  Memory.wf s.mem = true ∧ s.health.dead = [] ∧ s.health.deadPch = [] ∧ ∀ c ∈ s.ctxs, c.isProt = false

/-- Every byte of `bs` stands in the pages `fs` from an offset on, and every other byte of memory is as before. -/
def Sys2Proof.Claims.StoresAt (s t : State) (fs : List Nat) (off : Nat) (bs : List Byte) : Prop :=
  t.readPaged fs off bs.length = bs ∧
    ∀ a, (∀ k, k < bs.length → a ≠ fs.getD ((off + k) / 0x10000) 0 + (off + k) % 0x10000) → memByte t.mem a = memByte s.mem a

/-- The pages of an area lie apart, in a plain memory. -/
def Sys2Proof.Claims.PlainPages (s : State) (fs : List Nat) : Prop :=
  (fs.Pairwise fun f g => f + 0x10000 ≤ g ∨ g + 0x10000 ≤ f) ∧ PlainMemory s

/-- R396 to R398: a save of a region of up to 128 pages leaves its image in memory, of the size that R398 gives, and the region saved. -/
def Sys2Proof.Claims.SavesRegion (s : State) (r : Region) (c : Ctx) (freeze : Bool) (va : Nat) (fs : List Nat) : Prop :=
  let t := s.saveRegion r c freeze va fs
  (regionImage r c freeze).length = imageSize (r.w * r.h) freeze ∧
    t.regions = modifyFirst (fun x => x.handle == r.handle) (fun x => { x with freeze := .saved (x.freeze == .hung), drain := none }) s.regions ∧
    (PlainPages s fs → r.w * r.h ≤ 128 → StoresAt s t fs (va % 0x10000) (regionImage r c freeze))

/-- R395 and R398 to R401: CTXSW out begins by stopping the context's issue and waits for the capture; when the context has been captured and
its late results are written, it writes the save area and the context is out. CTXSW in takes a resting context of a whole area back, and then
places the messages and completions that the area holds as spilled; CTXSW kill contains a context. FRZSAVE writes the image of a region and
leaves it saved; DRNSAVE does so for a region without invocations. -/
def Sys2Proof.Claims.PreemptionResults : Prop :=
  ∀ (s s' : State) (d a b : Reg) (asid : Nat) (u : UnitId) (fs : List Nat), Ready ⟨.all, true, [d, a, b], []⟩ s →
    s.space s.who = some (asid, true, u) →
    let v := s.reg a
    let x := s.reg b
    (wbits x 15 0 = 0 → (v &&& 0xFFFFFFFFFFFFFC80#64) = 0 → wbits v 6 0 ≤ 95 → sysWait s'.cpu.wait = false →
      xlatePages u asid .w true (pagesOf x.toNat 0x40000) (x.toNat / 0x10000 * 0x10000) s = (s', .ok fs) →
      (fs.all fun f => (s'.home f).isMem) = true →
      ∀ c, s'.ctxAt (wbits v 6 0) (wbits v 9 8) = some c → c.swapping = none →
        (∀ r ∈ s'.regions, r.ctx = c.id → ∃ h, r.freeze = .saved h) →
        exec (.ctxswOut d a b) s = .next
          ((s'.modCtx c.id fun c => { c with hold := true, swapping := some s'.cycle.toNat }).waitFor (.system s'.cycle.toNat))) ∧
    (wbits x 15 0 = 0 → (v &&& 0xFFFFFFFFFFFFFC80#64) = 0 → wbits v 6 0 ≤ 95 → sysWait s'.cpu.wait = true →
      xlatePages u asid .w true (pagesOf x.toNat 0x40000) (x.toNat / 0x10000 * 0x10000) s = (s', .ok fs) →
      (fs.all fun f => (s'.home f).isMem) = true → PlainPages s' fs →
      ∀ c, s'.swapped (wbits v 6 0) (wbits v 9 8) = some c → s'.sfuOfCtx c.id = false →
        ∃ t, StoresAt s' t fs 0 (areaBytes c c.threads) ∧ exec (.ctxswOut d a b) s = .next
          ((t.modCtx c.id fun c => { c with saveFrames := fs, swapping := none, lnack := 0, lnaddr := 0 }).finishStatus d stOK)) ∧
    (wbits x 15 0 = 0 → (v &&& 0xFFFFFFFFFFFFFC80#64) = 0x1000 → wbits v 6 0 ≤ 95 →
      xlatePages u asid .r true (pagesOf x.toNat 0x40000) (x.toNat / 0x10000 * 0x10000) s = (s', .ok fs) →
      (fs.all fun f => (s'.home f).isMem) = true →
      let bs := s'.readPaged fs 0 0x40000
      wordAt bs 0 = 0x57534358 → wordAt bs areaCheck = (areaCrc bs).setWidth 64 → s'.ctxAt (wbits v 6 0) (wbits v 9 8) = none →
      ∀ c, (s'.ctxs.find? fun c => !c.resident && c.swapping.isNone && Config.ctxHead c.station c.slot c.asid == wordAt bs 8) = some c →
        let hw := (s'.freeHw (wbits v 6 0)).take c.threads.length
        hw.length = c.threads.length → (s'.bus.outs.any fun r => r.ctx == c.id) = false →
        exec (.ctxswIn d a b) s = .next ((State.applySpills c.id (s'.spillsOf c bs)
          (s'.modCtx c.id fun c =>
            (c.fromArea bs (s'.isServiceStation (wbits v 6 0)) (wbits v 6 0) (wbits v 9 8) hw).addRefusals c)).finishStatus d stOK)) ∧
    (x = 0 → (v &&& 0xFFFFFFFFFFFFFC80#64) = 0x2000 → wbits v 6 0 ≤ 95 →
      ∀ c, s.ctxAt (wbits v 6 0) (wbits v 9 8) = some c → s.ctxIdOf s.who ≠ c.id →
        exec (.ctxswKill d a b) s = .next ((s.contain c.id).finishStatus d stOK)) ∧
    (∀ (r : Region) (c : Ctx), badSave v x 63 = false → s.regionNamed v = some (r, c) →
      xlatePages u asid .w true (pagesOf x.toNat (imageSize (r.w * r.h) true)) (x.toNat / 0x10000 * 0x10000) s = (s', .ok fs) →
      (fs.all fun f => (s'.home f).isMem) = true → s'.regionPending r = false →
        exec (.frzsave d a b) s = .next ((s'.saveRegion r c true x.toNat fs).finishStatus d stOK) ∧ SavesRegion s' r c true x.toNat fs) ∧
    (∀ (r : Region) (c : Ctx), badSave v x 31 = false → s.regionNamed v = some (r, c) → r.invs = [] → sysWait s'.cpu.wait = false →
      xlatePages u asid .w true (pagesOf x.toNat (imageSize (r.w * r.h) false)) (x.toNat / 0x10000 * 0x10000) s = (s', .ok fs) →
      (fs.all fun f => (s'.home f).isMem) = true → s'.regionPending r = false →
        exec (.drnsave d a b) s = .next ((s'.saveRegion r c false x.toNat fs).finishStatus d stOK) ∧ SavesRegion s' r c false x.toNat fs)

/-- R398 and R152: RESTORE of a whole image whose check agrees takes back what the image holds, and lets the saved region run again, at the
place found for it. -/
def Sys2Proof.Claims.RestoreResult : Prop :=
  ∀ (s s' s'' : State) (d a b : Reg) (asid kind : Nat) (u : UnitId) (fs fs' : List Nat) (r : Region) (hung : Bool) (o : Nat × Nat),
    Ready ⟨.all, true, [d, a, b], []⟩ s → s.space s.who = some (asid, true, u) → s'.space s'.who = some (asid, true, u) →
    s.reg a = 0 → wbits (s.reg b) 11 0 = 0 →
    let va := (s.reg b).toNat
    xlatePages u asid .r true (pagesOf va 0x1000) (va / 0x10000 * 0x10000) s = (s', .ok fs) →
    (fs.all fun f => (s'.home f).isMem) = true →
    let hd := s'.readPaged fs (va % 0x10000) 64
    let n := (headerField hd 43 40 + 1) * (headerField hd 46 44 + 1)
    let size := imageSize n (kind == 1)
    headerField hd 31 0 = 0x52454753 → headerField hd 39 32 = kind → (kind = 1 ∨ kind = 2) → headerField hd 127 96 = size →
    xlatePages u asid .r true (pagesOf va size) (va / 0x10000 * 0x10000) s' = (s'', .ok fs') →
    (fs'.all fun f => (s''.home f).isMem) = true →
    let body := s''.readPaged fs' (va % 0x10000 + 64) (size - 64)
    (crc32c body).toNat = headerField hd 191 160 →
    s''.regionOf (headerField hd 63 48) = some r → r.freeze = .saved hung → s''.findRect s''.regions r.die r.w r.h = some o →
      exec (.restore d a b) s = .next
        ((s''.modRegion r.handle fun r => (r.fromImage (kind == 1) (hd ++ body)).resume hung o).finishStatus d stOK)

/-- R397, R399 and R395: the events of pre-emption and recovery. The capture of a context 64 cycles after its switch began, which leaves its
registers in its table and its slot free; a drain that has passed its limit resumes dispatch. Containment, which a kill runs, leaves nothing of
the context: no thread, region, stream or engine item, and a partition of zeros. -/
def Sys2Proof.Claims.PreemptionEvents : Prop :=
  ∀ (s : State) (k : Nat), s.model.arg = .n1 k →
    (∀ c, s.ctxOf k = some c → s.mayCapture c = true → exec .ctxswSfuWaitExpiry s = .next (s.capture k)) ∧
    (let t := s.capture k
     t.mem = s.mem ∧
      (∀ c st slot i, s.ctxOf k = some c → s.who = .thread st slot i → s.myCtx = some c →
        t.ctxOf k = some { c with threads := c.threads.set i s.cpu, resident := false, spilled := false, saveFrames := [] }) ∧
      (∀ c, s.ctxOf k = some c → s.ctxIdOf s.who ≠ k → t.ctxOf k = some { c with resident := false, spilled := false, saveFrames := [] })) ∧
    (∀ c, s.ctxOf k = some c →
      let t := s.contain k
      (∀ y ∈ t.ctxs, y.id ≠ k) ∧ (∀ r ∈ t.regions, r.ctx ≠ k) ∧ (∀ x ∈ t.streams, x.ctx ≠ k) ∧ (∀ j ∈ t.jobs, j.producer ≠ k) ∧
        (∀ o, o < c.partSize → memByte t.mem (c.partAddr o) = 0)) ∧
    (∀ since limit, (s.regionOf k).bind (·.drain) = some (since, limit) → limit ≠ 0 → since + limit ≤ s.cycle.toNat →
      exec .drainSaveTimeout s = .next (s.modRegion k fun r => { r with drain := none }))

/-! ### Dome-close forms (R419, R420, R430, R431) -/

/-- R419 and R420: HDECL declares a segment, of the scratchpad or of DRAM, that overlaps no other and fits the budget and the store, and
removes one; HOPEN opens a range of a
segment under the lowest free token, HCLOSE closes it. -/
def Sys2Proof.Claims.HoldForms : Prop :=
  ∀ (s : State) (d a b : Reg) (c : Ctx), s.myCtx = some c →
    let ga := s.reg a
    let gb := s.reg b
    (Ready ⟨.holdup, false, [d, a, b], []⟩ s →
      (∀ (s' : State) (pay back : Nat) (t : State), hdeclBad c ga gb = false → s.closing = false → gb.getLsbD 63 = false →
        let x : Segment := ⟨wbits gb 39 36, gb.getLsbD 34, ga.toNat, wbits gb 31 0, wbits gb 33 32, wbits gb 47 40,
          segCharge (gb.getLsbD 34) (wbits gb 33 32) (wbits gb 31 0)⟩
        -- a DRAM segment's pages translate, to local HBM
        (if gb.getLsbD 34 then s' = s
          else ∃ (asid : Nat) (svc : Bool) (u : UnitId) (fs : List Nat), s.space s.who = some (asid, svc, u) ∧
            xlatePages u asid .r svc (pagesOf x.base x.len) (x.base / 0x10000 * 0x10000) s = (s', .ok fs) ∧
            ∀ f ∈ fs, ∃ l, s'.home f = .hbm l) →
        (c.segments.any fun y => y.index != x.index && x.overlaps y) = false → (c.opens.any fun o => o.index == x.index) = false →
        s'.swapSegment c.id x.index (some x) = (pay, back, t) → pay ≤ s'.dome.hbudget + back → t.roomFor = true →
          exec (.hdecl d a b) s = .next (t.finish d (w64 (pay % 2 ^ 32 * 2 ^ 32)))) ∧
      (∀ (pay back : Nat) (t : State), (gb &&& 0x7FFFFF0FFFFFFFFF#64) = 0 → s.closing = false → gb.getLsbD 63 = true →
        (c.opens.any fun o => o.index == wbits gb 39 36) = false → s.swapSegment c.id (wbits gb 39 36) none = (pay, back, t) →
          exec (.hdecl d a b) s = .next (t.finish d (w64 (back % 2 ^ 32 * 2 ^ 32)))) ∧
      (∀ (x : Segment) (n t : Nat), ga.toNat < 16 → wbits gb 31 0 % 64 = 0 → wbits gb 63 32 % 64 = 0 →
        (c.segments.find? fun y => y.index == ga.toNat) = some x → openLen x (wbits gb 31 0) (wbits gb 63 32) = some n →
        ((List.range 4).find? fun t => c.opens.all fun o => o.token != t) = some t →
          exec (.hopen d a b) s = .next
            ((s.modCtx c.id fun c => { c with opens := c.opens ++ [⟨t, ga.toNat, wbits gb 31 0, n⟩] }).finish d (w64 (t * 2 ^ 8))))) ∧
    (Ready ⟨.holdup, false, [d, a], []⟩ s → ga.toNat < 4 →
      ((c.opens.any fun o => o.token == ga.toNat) = true → exec (.hclose d a) s = .next
        ((s.modCtx c.id fun c => { c with opens := c.opens.filter fun o => o.token != ga.toNat }).finishStatus d stOK)) ∧
      ((c.opens.any fun o => o.token == ga.toNat) = false → exec (.hclose d a) s = .next (s.finishStatus d stDenied)))

/-- R430 and R431: PLATERD stores the header, an entry or the records of the kept directory at a virtual address, or starts the write of a body,
whose pieces end with a completion in the mailbox; HCLEAR releases entries. -/
def Sys2Proof.Claims.PlateForms : Prop :=
  ∀ (s s' : State) (d a b : Reg) (c : Ctx) (x : Directory) (asid : Nat) (u : UnitId) (fs : List Nat), s.myCtx = some c → s.closing = false →
    s.dome.checking = false → s.directory = some x → s.space s.who = some (asid, c.service, u) → ((s.reg a).getLsbD 2 = true → c.service = true) →
    let ga := s.reg a
    let va := (s.reg b).toNat
    let es := if ga.getLsbD 2 then x.plates else x.plates.filter fun p => p.owner == some c.id
    (Ready ⟨.holdup, false, [d, a, b], []⟩ s → platerdBad ga (s.reg b) = false → va < 2 ^ 56 →
      (∀ bs v, xlatePages u asid .w c.service (pagesOf va bs.length) (va / 0x10000 * 0x10000) s = (s', .ok fs) →
        (fs.all fun f => (s'.home f).isMem) = true →
        ((List.range (bs.length / 64)).any fun k =>
          s'.rangeHeld (fs.getD ((va % 0x10000 + 64 * k) / 0x10000) 0 + (va + 64 * k) % 0x10000) 64) = false → s'.pendingOf s'.who = [] →
        let done := (State.writePaged (s'.myCtx.map (·.id)) fs 64 (va % 0x10000) bs s').finish d v
        let shown := wbits ga 29 16 = 0 ∨ wbits ga 29 16 < es.length
        (wbits ga 1 0 = 0 → shown → bs = x.header es.length → v = w64 (x.event % 2 ^ 32 * 2 ^ 32) →
          exec (.platerdHeader d a b) s = .next done) ∧
        (∀ p, wbits ga 1 0 = 1 → es[wbits ga 29 16]? = some p → bs = p.report → v = 0 → exec (.platerdEntry d a b) s = .next done) ∧
        (wbits ga 1 0 = 3 → shown → bs = x.recordBytes → v = 0 → exec (.platerdRecords d a b) s = .next done)) ∧
      -- an index beyond the count, and no entry at all where one is asked for
      (es.length ≤ wbits ga 29 16 →
        (wbits ga 1 0 = 0 → wbits ga 29 16 ≠ 0 → exec (.platerdHeader d a b) s = .next (s.finishStatus d stEmpty)) ∧
        (wbits ga 1 0 = 1 → exec (.platerdEntry d a b) s = .next (s.finishStatus d stEmpty)) ∧
        (wbits ga 1 0 = 2 → exec (.platerdBody d a b) s = .next (s.finishStatus d stEmpty)) ∧
        (wbits ga 1 0 = 3 → wbits ga 29 16 ≠ 0 → exec (.platerdRecords d a b) s = .next (s.finishStatus d stEmpty))) ∧
      (∀ p, wbits ga 1 0 = 2 → es[wbits ga 29 16]? = some p → p.state ≠ 2 → c.bodyWrite = none →
        xlatePages u asid .w c.service (pagesOf va p.len) (va / 0x10000 * 0x10000) s = (s', .ok fs) →
        (fs.all fun f => (s'.home f).isMem) = true →
          exec (.platerdBody d a b) s = .next ((s'.modCtx c.id fun c =>
            { c with bodyWrite := some ⟨p, fs, va % 0x10000, wbits ga 29 16, (ga >>> 32).setWidth 32, 0, [], s'.pageVias c va p.len⟩ }).finishStatus d stOK))) ∧
    (Ready ⟨.holdup, false, [d, a], []⟩ s → (ga &&& 0xFFFFFFFFC000FFFA#64) = 0 → c.bodyWrite.isSome = true →
      exec (.hclear d a) s = .next (s.finishStatus d stBusy)) ∧
    (Ready ⟨.holdup, false, [d, a], []⟩ s → (ga &&& 0xFFFFFFFFC000FFFA#64) = 0 → c.bodyWrite = none →
      let gone := if ga.getLsbD 0 then es else (es[wbits ga 29 16]?).toList
      (gone ≠ [] → exec (.hclear d a) s = .next ((s.putDirectory (x.release gone)).finishStatus d stOK)) ∧
      (gone = [] → exec (.hclear d a) s = .next (s.finishStatus d stEmpty)))


/-! ### The nodes of a block (R100-R131, R139, R245-R247, R259, R268, R272) -/

/-- Whenever the firing at `at_` of the node of word `w` can happen, `i` performs it: tokens `a` and `b` set out for the first and the
second target with the flags `fl`, as `P` says. -/
def Sys2Proof.Claims.Sends (i : Instr) (s : State) (at_ : FireAt) (op : Nat) (w : BlockWord)
    (P : Firing → Token → Token → Flags → Prop) : Prop :=
  ∀ f, s.firing at_ op w = some f → ∃ a b fl, exec i s = .next (s.sendTokens f a b fl) ∧ P f a b fl

/-- R102, R103 and R120: one token to every target, with the iteration's tag; an active lane holds `g`'s value and the others are null; the
flags are those of the active lanes together. -/
def Sys2Proof.Claims.LaneWise (g : Firing → Nat → Lane × Flags) (f : Firing) (a b : Token) (fl : Flags) : Prop :=
  b = a ∧ a.tag = f.at_.iter ∧ (∀ l, l < 16 → a.lane l = if f.active l then some (g f l).1 else none) ∧
    ∀ k, fl.getLsbD k = (List.range 16).any fun l => f.active l && (g f l).2.getLsbD k

/-- Lane `l` of operand a, b or p of a firing. -/
def Sys2Proof.Claims.opA (f : Firing) (l : Nat) : Lane := (f.ta.lane l).getD 0
def Sys2Proof.Claims.opB (f : Firing) (l : Nat) : Lane := (f.tb.lane l).getD 0
def Sys2Proof.Claims.opP (f : Firing) (l : Nat) : Lane := (f.tp.lane l).getD 0

/-- Lane `l` of operand a, b or p as a value of the node's floating type. -/
def Sys2Proof.Claims.fltA (w : BlockWord) (f : Firing) (l : Nat) : Val := (fltOf w.ty.toNat).decode (laneIn w.ty.toNat (opA f l))
def Sys2Proof.Claims.fltB (w : BlockWord) (f : Firing) (l : Nat) : Val := (fltOf w.ty.toNat).decode (laneIn w.ty.toNat (opB f l))
def Sys2Proof.Claims.fltP (w : BlockWord) (f : Firing) (l : Nat) : Val := (fltOf w.ty.toNat).decode (laneIn w.ty.toNat (opP f l))

/-- A pattern of the node's type in its lane, with its flags. -/
def Sys2Proof.Claims.inLane (w : BlockWord) (r : Nat × Flags) : Lane × Flags := (laneOf w.ty.toNat r.1, r.2)

/-- R121 and R122: the lane result of every floating-point and special-function node. -/
def Obligations.FloatNodes : Prop :=
  ∀ (s : State) (at_ : FireAt) (w : BlockWord),
    let F := fltOf w.ty.toNat
    Sends (.nodeFadd at_ w) s at_ 0x00 w (LaneWise fun f l => inLane w (fAddVal F (fltA w f l) (fltB w f l) f.rnd (f.draw l 0))) ∧
    Sends (.nodeFsub at_ w) s at_ 0x01 w (LaneWise fun f l => inLane w (fAddVal F (fltA w f l) (fltB w f l).flip f.rnd (f.draw l 0))) ∧
    Sends (.nodeFmul at_ w) s at_ 0x02 w (LaneWise fun f l => inLane w (fMulVal F (fltA w f l) (fltB w f l) f.rnd (f.draw l 0))) ∧
    Sends (.nodeFma at_ w) s at_ 0x03 w
      (LaneWise fun f l => inLane w (fFmaVal F (fltA w f l) (fltB w f l) (fltP w f l) f.rnd (f.draw l 0))) ∧
    Sends (.nodeFmin at_ w) s at_ 0x04 w
      (LaneWise fun f l => inLane w (fMinMax F false (laneIn w.ty.toNat (opA f l)) (laneIn w.ty.toNat (opB f l)))) ∧
    Sends (.nodeFmax at_ w) s at_ 0x05 w
      (LaneWise fun f l => inLane w (fMinMax F true (laneIn w.ty.toNat (opA f l)) (laneIn w.ty.toNat (opB f l)))) ∧
    Sends (.nodeFabs at_ w) s at_ 0x06 w (LaneWise fun f l => inLane w (laneIn w.ty.toNat (opA f l) % F.signBit, 0)) ∧
    Sends (.nodeFneg at_ w) s at_ 0x07 w (LaneWise fun f l => inLane w (laneIn w.ty.toNat (opA f l) ^^^ F.signBit, 0)) ∧
    Sends (.nodeFcmp at_ w) s at_ 0x08 w (LaneWise fun f l =>
      (if fCond w.cond.toNat (fltA w f l) (fltB w f l) then 0xFFFFFFFF#32 else 0, fCondFlags w.cond.toNat (fltA w f l) (fltB w f l))) ∧
    (let special := fun (g : Val → Rnd → Nat → Nat × Flags) (f : Firing) (l : Nat) =>
        (fun (r : Nat × Flags) => (BitVec.ofNat 32 r.1, r.2)) (g (fp32.decode (opA f l).toNat) f.rnd (f.draw l 0));
      Sends (.nodeFrcp at_ w) s at_ 0x09 w (LaneWise (special fRcp)) ∧
      Sends (.nodeFrsq at_ w) s at_ 0x0A w (LaneWise (special fRsq)) ∧
      Sends (.nodeFsqrt at_ w) s at_ 0x0B w (LaneWise (special (fSqrtVal fp32))) ∧
      Sends (.nodeFexp2 at_ w) s at_ 0x0C w (LaneWise (special fExp2)) ∧
      Sends (.nodeFlog2 at_ w) s at_ 0x0D w (LaneWise (special fLog2)) ∧
      Sends (.nodeFsin at_ w) s at_ 0x0E w (LaneWise (special (fSinCos false))) ∧
      Sends (.nodeFcos at_ w) s at_ 0x0F w (LaneWise (special (fSinCos true))) ∧
      Sends (.nodeFtanh at_ w) s at_ 0x10 w (LaneWise (special fTanh)))

/-- R123 and R124: the lane result of every integer and bitwise node. -/
def Obligations.IntegerNodes : Prop :=
  ∀ (s : State) (at_ : FireAt) (w : BlockWord),
    let T := w.ty.toNat
    let I := intOf T
    let x := fun (f : Firing) (l : Nat) => I.decode (laneIn T (opA f l))
    let y := fun (f : Firing) (l : Nat) => I.decode (laneIn T (opB f l))
    let int := fun (g : Int → Int → Int × Flags) (f : Firing) (l : Nat) =>
      (laneOf T (I.encode (g (x f l) (y f l)).1), (g (x f l) (y f l)).2)
    let bit := fun (g : Lane → Lane → Lane) (f : Firing) (l : Nat) => (g (opA f l) (opB f l), (0 : Flags))
    Sends (.nodeIadd at_ w) s at_ 0x20 w (LaneWise (int fun a b => I.fit (a + b) w.sat)) ∧
    Sends (.nodeIsub at_ w) s at_ 0x21 w (LaneWise (int fun a b => I.fit (a - b) w.sat)) ∧
    Sends (.nodeImul at_ w) s at_ 0x22 w (LaneWise (int fun a b => I.fit (a * b) w.sat)) ∧
    Sends (.nodeImulh at_ w) s at_ 0x23 w (LaneWise (int fun a b => (I.decode (wrapOf (a * b) (2 * I.width) >>> I.width), 0))) ∧
    Sends (.nodeImin at_ w) s at_ 0x24 w (LaneWise (int fun a b => (if b < a then b else a, 0))) ∧
    Sends (.nodeImax at_ w) s at_ 0x25 w (LaneWise (int fun a b => (if a < b then b else a, 0))) ∧
    Sends (.nodeIabs at_ w) s at_ 0x26 w (LaneWise (int fun a _ => I.fit a.natAbs false)) ∧
    Sends (.nodeIcmp at_ w) s at_ 0x27 w
      (LaneWise fun f l => (if iCond w.cond.toNat (x f l) (y f l) then 0xFFFFFFFF#32 else 0, 0)) ∧
    Sends (.nodeAnd at_ w) s at_ 0x28 w (LaneWise (bit fun a b => a &&& b)) ∧
    Sends (.nodeOr at_ w) s at_ 0x29 w (LaneWise (bit fun a b => a ||| b)) ∧
    Sends (.nodeXor at_ w) s at_ 0x2A w (LaneWise (bit fun a b => a ^^^ b)) ∧
    Sends (.nodeNot at_ w) s at_ 0x2B w (LaneWise (bit fun a _ => ~~~ a)) ∧
    Sends (.nodeShl at_ w) s at_ 0x2C w (LaneWise (bit fun a b => if b.toNat < 32 then a <<< b.toNat else 0)) ∧
    Sends (.nodeShr at_ w) s at_ 0x2D w (LaneWise (bit fun a b => if b.toNat < 32 then a >>> b.toNat else 0)) ∧
    Sends (.nodeShra at_ w) s at_ 0x2E w (LaneWise (bit fun a b => a.sshiftRight (min b.toNat 31))) ∧
    Sends (.nodeClz at_ w) s at_ 0x2F w (fun f a b fl => ∃ g : Nat → Nat, LaneWise (fun _ l => (BitVec.ofNat 32 (g l), 0)) f a b fl ∧
      ∀ l, g l ≤ 32 ∧ (∀ k, k < g l → (opA f l).getLsbD (31 - k) = false) ∧ (g l < 32 → (opA f l).getLsbD (31 - g l) = true)) ∧
    Sends (.nodePopc at_ w) s at_ 0x30 w
      (LaneWise fun f l => (BitVec.ofNat 32 ((List.range 32).countP fun k => (opA f l).getLsbD k), 0))

/-- Both tokens null, with no flag. -/
def Sys2Proof.Claims.Nulls (f : Firing) (a b : Token) (fl : Flags) : Prop :=
  a = Token.null f.at_.iter ∧ b = a ∧ fl = 0

/-- R125 to R128: CVT, QUANT and DEQUANT. A CVT with mx, to which the manual gives no result, sends lanes of no stated value (the model's choice,
log 42). The draw number of each element of a QUANT with mx is the model's choice too (log 27). -/
def Obligations.ConversionNodes : Prop :=
  ∀ (s : State) (at_ : FireAt) (w : BlockWord),
    let S := w.src.toNat
    let T := w.ty.toNat
    let scaled := fun (m : Firing → Rnd) (f : Firing) (l : Nat) =>
      inLane w (mulRound T (valTy S (laneIn S (opA f l))) (fp32.decode (opB f l).toNat) (m f) (f.draw l 0))
    (w.mx = false → Sends (.nodeCvt at_ w) s at_ 0x40 w
      (LaneWise fun f l => inLane w (convert S T f.rnd (f.draw l 0) (opA f l).toNat))) ∧
    (w.mx = true → ∀ f, s.firing at_ 0x40 w = some f → ∃ a k, exec (.nodeCvt at_ w) s =
        .next ({ s with model := { s.model with freeCount := k } }.sendTokens f a a 0) ∧ a.tag = at_.iter ∧
        ∀ l, l < 16 → (a.lane l).isSome = f.active l) ∧
    Sends (.nodeQuant at_ w) s at_ 0x41 w (LaneWise (scaled fun f => f.rnd)) ∧
    Sends (.nodeDequant at_ w) s at_ 0x42 w (LaneWise (scaled fun _ => .rne)) ∧
    (w.mx = true → Sends (.nodeQuantMx at_ w) s at_ 0x41 w fun f a b fl =>
      (f.whole f.ta = true ∧ f.whole f.tb = true → b = a ∧ a.tag = at_.iter ∧ a.valid = 0xFFFF#16 ∧
        ∃ q, q = quantMx (fltOf T) f.rnd
          (((List.range 16).map fun l => (fltOf S).decode (laneIn S (opA f l))) ++
            (List.range 16).map fun l => (fltOf S).decode (laneIn S (opB f l))) (fun i => f.draw (i % 16) (i / 16)) ∧ fl = q.2.2 ∧
          (tyWidth w.ty ≤ 8 → (∀ p ∈ q.1, p < 2 ^ tyWidth w.ty) →
            (∀ i, i < 32 → a.toNat >>> (tyWidth w.ty * i) % 2 ^ tyWidth w.ty = q.1.getD i 0) ∧ a.toNat >>> 480 = q.2.1)) ∧
      (¬(f.whole f.ta = true ∧ f.whole f.tb = true) → Nulls f a b fl)) ∧
    (w.mx = true → Sends (.nodeDequantMx at_ w) s at_ 0x42 w fun f a b fl =>
      (f.whole f.ta = true → a.tag = at_.iter ∧ b.tag = at_.iter ∧
        let r := fun (i : Nat) => mxOut (fltOf S) (fltOf T) (f.ta.toNat >>> 480 % 256)
          (f.ta.toNat >>> (tyWidth w.src * i) % 2 ^ tyWidth w.src)
        (∀ l, l < 16 → a.lane l = some (laneOf T (r l).1) ∧ b.lane l = some (laneOf T (r (16 + l)).1)) ∧
        ∀ k, fl.getLsbD k = (List.range 32).any fun i => (r i).2.getLsbD k) ∧
      (f.whole f.ta = false → Nulls f a b fl))

/-- The node's a token is null, or its predicate fails in every lane (R129). -/
def Sys2Proof.Claims.Idle (w : BlockWord) (f : Firing) : Prop :=
  f.ta.isNull = true ∨ ∀ l, l < 16 → predHolds w.pred f.tp l = false

/-- A token whose lane `l` is `g l`, to both targets. -/
def Sys2Proof.Claims.SameToken (f : Firing) (g : Nat → Option Lane) (a b : Token) : Prop :=
  b = a ∧ a.tag = f.at_.iter ∧ ∀ l, l < 16 → a.lane l = g l

/-- R129 and R130: SHUF, BCAST, RED, SCAN, PACK and UNPACK. -/
def Obligations.LaneNodes : Prop :=
  ∀ (s : State) (at_ : FireAt) (w : BlockWord),
    let T := w.ty.toNat
    let part := fun (f : Firing) (l : Nat) => (f.ta.lane l).getD (laneUnit T w.cond.toNat)
    let instead := fun (P : Firing → Token → Token → Flags → Prop) (f : Firing) (a b : Token) (fl : Flags) =>
      (Idle w f → Nulls f a b fl) ∧ (¬Idle w f → P f a b fl)
    Sends (.nodeShuf at_ w) s at_ 0x48 w (instead fun f a b fl => fl = 0 ∧ SameToken f (fun l =>
      if predHolds w.pred f.tp l then (f.tb.lane l).map fun x => opA f (x.toNat % 16) else none) a b) ∧
    Sends (.nodeBcast at_ w) s at_ 0x49 w (instead fun f a b fl =>
      ((f.ta.lane w.low4).isSome = true → fl = 0 ∧ SameToken f (fun _ => some (opA f w.low4)) a b) ∧
      ((f.ta.lane w.low4).isSome = false → Nulls f a b fl)) ∧
    Sends (.nodeRed at_ w) s at_ 0x4A w (instead fun f a b fl => ∃ v, SameToken f (fun _ => some v) a b ∧
      (v, fl) = (let r := laneTree T w.cond.toNat 4 ((List.range 16).map (part f)); (r.1.headD 0, r.2)) ∧
      (T ≠ 1 → w.cond.toNat = 0 → v = ((List.range 16).map (opA f)).sum ∧ fl = 0)) ∧
    Sends (.nodeScan at_ w) s at_ 0x4B w (instead fun f a b _ => ∃ g : Nat → Lane, SameToken f (fun l => some (g l)) a b ∧ g 0 = part f 0 ∧
      ∀ l, l < 15 → g (l + 1) = (laneStep T w.cond.toNat (g l) (part f (l + 1))).1) ∧
    Sends (.nodePack at_ w) s at_ 0x4C w (instead fun f a b fl => fl = 0 ∧ b = a ∧ a.tag = at_.iter ∧ a.valid = 0xFFFF#16 ∧
      (tyWidth w.src ≤ 16 → ∀ l, l < 16 →
        a.toNat >>> (tyWidth w.src * l) % 2 ^ tyWidth w.src = (opA f l).toNat % 2 ^ tyWidth w.src ∧
        a.toNat >>> (tyWidth w.src * (16 + l)) % 2 ^ tyWidth w.src = (opB f l).toNat % 2 ^ tyWidth w.src)) ∧
    Sends (.nodeUnpack at_ w) s at_ 0x4D w (instead fun f a b fl => fl = 0 ∧ a.tag = at_.iter ∧ b.tag = at_.iter ∧
      ∀ l, l < 16 → a.lane l = some (laneOf w.src.toNat (f.ta.toNat >>> (tyWidth w.src * l) % 2 ^ tyWidth w.src)) ∧
        b.lane l = some (laneOf w.src.toNat (f.ta.toNat >>> (tyWidth w.src * (16 + l)) % 2 ^ tyWidth w.src)))

/-- R131, R117 and R118: the control nodes, READ and WRITE. -/
def Obligations.ControlNodes : Prop :=
  ∀ (s : State) (at_ : FireAt) (w : BlockWord),
    Sends (.nodeNull at_ w) s at_ 0x73 w Nulls ∧
    Sends (.nodeConst at_ w) s at_ 0x74 w (LaneWise fun _ _ =>
      (if w.ty.toNat = 1 then w.imm ++ 0#6 else if w.ty.toNat = 2 ∨ w.ty.toNat = 3 then (w.imm.extractLsb' 0 16).setWidth 32
        else w.imm.signExtend 32, 0)) ∧
    Sends (.nodeCtr at_ w) s at_ 0x75 w (LaneWise fun f _ =>
      let v := f.i.vector at_.iter
      let k := w.low4 % 4
      (BitVec.ofNat 32 (if k = 3 then at_.iter else if f.b.depth ≤ k then 0 else if k = 0 then v.1 else if k = 1 then v.2.1
        else v.2.2.1), 0)) ∧
    Sends (.nodeFan at_ w) s at_ 0x76 w (LaneWise fun f l => (opA f l, 0)) ∧
    Sends (.nodeMerge at_ w) s at_ 0x77 w (fun f a b fl => fl = 0 ∧ SameToken f (fun l =>
      if predHolds w.pred f.tp l then (f.ta.lane l).orElse fun _ => f.tb.lane l else none) a b) ∧
    (∀ f, s.firing at_ 0x70 w = some f → f.r.frameWait f.i.id w.frame = false →
      ∃ a, exec (.nodeRead at_ w) s = .next (s.sendTokens f a a 0) ∧
        LaneWise (fun f l => ((f.r.frames.toArray.getD w.frame (Vector.replicate 16 0)).toArray.getD l 0, 0)) f a a 0) ∧
    (∀ f, s.firing at_ 0x70 w = some f → f.r.frameWait f.i.id w.frame = true → exec (.nodeRead at_ w) s = .next s) ∧
    (∀ f, s.firing at_ 0x71 w = some f → ∃ a, LaneWise (fun f l => (opA f l, 0)) f a a 0 ∧
      exec (.nodeWrite at_ w) s = .next ((s.modInv at_.region at_.inv fun i =>
        { i with frames := i.frames ++ [(w.frame, at_.iter, a.lanes, a.valid)] }).sendTokens f a a 0)) ∧
    (∀ f, s.firing at_ 0x72 w = some f → exec (.nodeBr at_ w) s = .next ((if predHolds w.pred f.tp 0 then
        s.modInv at_.region at_.inv
          fun i => { i with brs := i.brs ++ [(at_.iter, w.low4)] } else s).sendTokens f (Token.null at_.iter) (Token.null at_.iter) 0))

/-- The orders of R219 and R222 let the memory node act: it belongs to context `c`, its predecessor has acted, and no earlier invocation
stores into its range. -/
def Sys2Proof.Claims.MemTurn (s : State) (at_ : FireAt) (op : Nat) (w : BlockWord) (f : Firing) (c : Ctx) : Prop :=
  s.firing at_ op w = some f ∧ s.owner f.r = some c ∧ f.predDone = true ∧ f.r.rangeWait f = false

/-- Every lane's access of `n` bytes is an aligned offset of the partition, inside the node's declared span (R245, R246). -/
def Sys2Proof.Claims.LanesPass (f : Firing) (c : Ctx) (n : Nat) : Prop :=
  f.virtual = false ∧ ∀ p ∈ f.laneAddrs, f.inSpan p.2 n = true ∧ 0 ≤ p.2 ∧ p.2 < c.partSize ∧ p.2.toNat % n = 0

/-- Held stores `hs` join the invocation, in their own order when no two of them meet, and the node sends null tokens (R247); `u` is `s` after
the translations of the lanes. -/
def Sys2Proof.Claims.Holds (i : Instr) (s u : State) (at_ : FireAt) (f : Firing) (hs : List HeldStore) : Prop :=
  (∀ h, h.Perm hs → { f.i with stores := f.i.stores ++ h }.heldBytes ≤ f.r.holdLimit) →
    ∃ h k, h.Perm hs ∧ (lanesMeet hs = false → h = hs ∧ k = u.model.freeCount) ∧
      let z := Token.null at_.iter;
      exec i s = .next ((({ u with model := { u.model with freeCount := k } }).modInv at_.region at_.inv fun i =>
        { i with stores := i.stores ++ h }).sendTokens f z z 0)

/-- R220, R245, R246, R247 and R259: LOAD and STORE by partition offset or by virtual address, TLOAD and TSTORE. A load of the station's own
partition delivers the memory's bytes under what the invocation holds; a load whose home answers later sends its requests, and ends when
every lane has its answer. -/
def Obligations.MemoryNodes : Prop :=
  ∀ (s u : State) (at_ : FireAt) (w : BlockWord) (f : Firing) (c : Ctx) (ls : List (Nat × Nat × Option Via)),
    let n := valueBytes w.ty
    (MemTurn s at_ 0x60 w f c → f.i.waitsPage at_.node at_.iter = false → f.noAg = false → LanesPass f c n →
      (∀ p ∈ f.laneAddrs, ∃ st x, s.home (c.partAddr p.2.toNat) = .spad st x ∧ s.poisoned x n = false) →
      ∃ a, exec (.nodeLoad at_ w) s = .next (s.sendTokens f a a 0) ∧ a.tag = at_.iter ∧
        (∀ l, l < 16 → (∀ p ∈ f.laneAddrs, p.1 ≠ l) → a.lane l = none) ∧
        (∀ l v, l < 16 → (l, v) ∈ f.laneAddrs → a.lane l = some (laneOf w.ty.toNat (s.laneLoad f l (c.partAddr v.toNat) n).1)) ∧
        (f.seen = [] → f.i.accs = [] → ∀ l v st x, l < 16 → (l, v) ∈ f.laneAddrs → s.home (c.partAddr v.toNat) = .spad st x →
          a.lane l = some (laneOf w.ty.toNat (s.read x n)))) ∧
    (MemTurn s at_ 0x60 w f c → f.i.waitsPage at_.node at_.iter = false → f.noAg = false →
      State.laneChecks f c f.virtual n .r f.laneAddrs s = (u, ls, none) → (∀ p ∈ u.laterLanes ls, u.cutOff p.2.1 = false) →
      ((∃ p ∈ u.laterLanes ls, (f.sentRead p.1).bind (·.answer) = none) → exec (.nodeLoad at_ w) s =
        .next (((u.laterLanes ls).filter fun p => (f.sentRead p.1).isNone).foldl (fun s p => s.askLane f c n p) u)) ∧
      ((∀ p ∈ u.laterLanes ls, ∃ x, (f.sentRead p.1).bind (·.answer) = some x) → (∀ p ∈ ls, (u.laneLoad f p.1 p.2.1 n).2 = none) →
        ∃ a, exec (.nodeLoad at_ w) s = .next (u.sendTokens f a a 0) ∧ a.tag = at_.iter ∧
          ∀ l, l < 16 → ((∀ p ∈ ls, p.1 ≠ l) → a.lane l = none) ∧ ∀ p ∈ ls, p.1 = l → (ls.filter fun q => q.1 == l).length = 1 →
            a.lane l = some (laneOf w.ty.toNat (u.laneLoad f l p.2.1 n).1))) ∧
    (MemTurn s at_ 0x61 w f c → f.i.waitsPage at_.node at_.iter = false → f.noAg = false →
      (LanesPass f c n → (∀ p ∈ f.laneAddrs, s.noWindow (c.partAddr p.2.toNat) = false) →
        Holds (.nodeStore at_ w) s s at_ f (f.laneAddrs.map fun p =>
          f.held (c.partAddr p.2.toNat) (leBytes n (laneIn w.ty.toNat ((f.data.lane p.1).getD 0))) (List.replicate n 0xFF) none)) ∧
      (State.laneChecks f c f.virtual n .w f.laneAddrs s = (u, ls, none) → (∀ p ∈ ls, u.noWindow p.2.1 = false) →
        Holds (.nodeStore at_ w) s u at_ f (ls.map fun p =>
          f.held p.2.1 (leBytes n (laneIn w.ty.toNat ((f.data.lane p.1).getD 0))) (List.replicate n 0xFF) p.2.2))) ∧
    (∀ ps, MemTurn s at_ 0x62 w f c → (c.tileAt w.tile).bind f.elements = some ps →
      (∀ p ∈ ps, (s.laneLoad f p.1 (c.partAddr p.2.1) p.2.2.1).2 = none) →
      ∃ a, exec (.nodeTload at_ w) s = .next (s.sendTokens f a a 0) ∧ a.tag = at_.iter ∧
        ∀ l, l < 16 → ((∀ p ∈ ps, p.1 ≠ l) → a.lane l = none) ∧ ∀ p ∈ ps, p.1 = l → (ps.filter fun q => q.1 == l).length = 1 →
          a.lane l = some (laneOf w.ty.toNat ((s.laneLoad f l (c.partAddr p.2.1) p.2.2.1).1 >>> p.2.2.2 % 2 ^ tyWidth w.ty))) ∧
    (∀ ps, MemTurn s at_ 0x63 w f c → (c.tileAt w.tile).bind f.elements = some ps →
      Holds (.nodeTstore at_ w) s s at_ f (ps.map fun p =>
        let v := laneIn w.ty.toNat (opB f p.1)
        f.held (c.partAddr p.2.1) (leBytes p.2.2.1 (v <<< p.2.2.2)) (leBytes p.2.2.1 ((2 ^ tyWidth w.ty - 1) <<< p.2.2.2)) none))

/-- Bytes as lanes, four to a lane; lanes beyond them are null. -/
def Sys2Proof.Claims.BytesAsLanes (a : Token) (bs : List Byte) : Prop :=
  ∀ l, l < 16 → a.lane l = if 4 * l < bs.length then some (BitVec.ofNat 32 (leNat ((bs.drop (4 * l)).take 4))) else none

/-- R268 and R272: QIN reserves the next item and QOUT holds one back under a window credit; SIN takes the next half flit of a read stream
and SOUT contributes 64 bytes. Each sends null tokens when its predicate leaves it nothing to do. -/
def Obligations.QueueAndStreamNodes : Prop :=
  ∀ (s : State) (at_ : FireAt) (w : BlockWord) (f : Firing) (c : Ctx),
    let z := Token.null at_.iter
    (MemTurn s at_ 0x64 w f c → f.inOrder = true →
      (predHolds w.pred f.tp 0 = false → exec (.nodeQin at_ w) s = .next (s.sendTokens f z z 0)) ∧
      (∀ b q h es it, predHolds w.pred f.tp 0 = true → s.nodeQueue c w.queue = some (b, q) → b.consumer.bind q.home = some h →
        reserveNext (f.r.handle, f.i.id) h.entries = some (es, some it) → it.poison = false →
        ∃ a, BytesAsLanes a it.data ∧ a.tag = at_.iter ∧ exec (.nodeQin at_ w) s =
          .next (((s.modQueue q.id fun x => x.modHome h.at_ fun y => { y with entries := es }).modInv at_.region at_.inv fun i =>
            { i with reserved := assign i.reserved (at_.node, f.copy) (lookupD i.reserved (at_.node, f.copy) 0 + 1) }).sendTokens f a a 0))) ∧
    (MemTurn s at_ 0x65 w f c →
      (f.masked.isNull = true → exec (.nodeQout at_ w) s = .next (s.sendTokens f z z 0)) ∧
      (∀ b q k, f.masked.isNull = false → s.nodeQueue c w.queue = some (b, q) → b.window = some k → s.windowFree q c.id k = true →
        let it : HeldItem := ⟨at_.iter, f.depth, w.lsid, w.queue, f.masked.bytes q.size⟩;
        { f.i with items := f.i.items ++ [it] }.heldBytes ≤ f.r.holdLimit →
        exec (.nodeQout at_ w) s =
          .next (((s.takeWindow q.id c.id).modInv at_.region at_.inv fun i => { i with items := i.items ++ [it] }).sendTokens f z z 0))) ∧
    (MemTurn s at_ 0x66 w f c → f.inOrder = true →
      (predHolds w.pred f.tp 0 = false → exec (.nodeSin at_ w) s = .next (s.sendTokens f z z 0)) ∧
      (∀ x h, predHolds w.pred f.tp 0 = true → s.streamAt f.r.handle w.slot false = some x →
        (x.halves.find? fun h => h.taker.isNone) = some h → h.bad = false → (x.halves.countP fun h => h.taker == some f.i.id) < 1024 →
        ∃ a, BytesAsLanes a h.bytes ∧ a.tag = at_.iter ∧ exec (.nodeSin at_ w) s = .next ((s.modStream x.ctl x.str fun x =>
          { x with halves := modifyFirst (fun h => h.taker.isNone) (fun h => { h with taker := some f.i.id }) x.halves }).sendTokens f a a 0))) ∧
    (∀ x, MemTurn s at_ 0x67 w f c → s.streamAt f.r.handle w.slot true = some x →
      (f.masked.isNull = true → exec (.nodeSout at_ w) s = .next (s.sendTokens f z z 0)) ∧
      (f.masked.isNull = false → f.i.soutCount w.slot < 1024 →
        x.wbuf.length + (f.r.invs.map fun i => i.soutCount w.slot).sum < 1024 →
        exec (.nodeSout at_ w) s = .next ((s.modInv at_.region at_.inv fun i =>
          { i with souts := i.souts ++ [⟨at_.iter, f.depth, w.lsid, w.slot, f.masked.bytes 64⟩] }).sendTokens f z z 0)))

/-- The matrix effects and the exceptions of `j` enter the invocation. -/
def Sys2Proof.Claims.takeArray (j : Inv) (x : Raised) (y : Inv) : Inv :=
  { y with accs := j.accs, rows := j.rows, staged := j.staged, invalids := min 0xFFFF (y.invalids + x.invalids),
           overflows := min 0xFFFF (y.overflows + x.overflows), sats := min 0xFFFF (y.sats + x.sats) }

/-- R139 and R150: in its turn a matrix node whose parameter lanes are valid reads one more row of its source tile, or, once it has them all,
performs its array work, held by the invocation, and answers in lane 0 (ACCDRAIN: sixteen accumulator values); without a valid parameter
it sends null tokens. -/
def Obligations.MatrixNodes : Prop :=
  ∀ (s : State) (at_ : FireAt) (w : BlockWord) (f : Firing), f.matrixTurn = true →
    let z := Token.null at_.iter
    let lane0 := fun (v : Nat) (a : Token) =>
      a.tag = at_.iter ∧ ∀ l, l < 16 → a.lane l = if l = 0 then some (BitVec.ofNat 32 v) else none
    (s.firing at_ 0x80 w = some f →
      (f.acts 1 = false → exec (.nodeWload at_ w) s = .next (s.sendTokens f z z 0)) ∧
      (∀ t j, f.acts 1 = true → (opA f 0).toNat ≤ 95 → s.arrayTile f.r (opA f 0).toNat w.tile = some t →
        s.wload f.r f.i w.ty.toNat t = .more j → exec (.nodeWload at_ w) s =
          .next (s.modInv at_.region at_.inv fun y => { y with rows := j.rows })) ∧
      (∀ t j x, f.acts 1 = true → (opA f 0).toNat ≤ 95 → s.arrayTile f.r (opA f 0).toNat w.tile = some t →
        s.wload f.r f.i w.ty.toNat t = .ok j x →
        ∃ a, lane0 (256 * f.r.w * f.r.h) a ∧ exec (.nodeWload at_ w) s =
          .next (((s.modRegion f.r.handle fun r => { r with staging := (j.staged.map (·.1)).getD r.staging }).modInv
            at_.region at_.inv (takeArray j x)).sendTokens f a a x.flags))) ∧
    (s.firing at_ 0x81 w = some f →
      (f.acts 6 = false → exec (.nodeMacc at_ w) s = .next (s.sendTokens f z z 0)) ∧
      (∀ t o j x, f.acts 6 = true → (opA f 5).toNat ≤ 1 → (opA f 1).toNat ≤ 95 →
        s.arrayTile f.r (opA f 1).toNat (opA f 0).toNat = some t → s.ownTile f.r (opA f 2).toNat = some o →
        (s.macc f.r f.i w.ty.toNat t o (opA f 3).toNat (opA f 4).toNat (opA f 5 == 1) = .more j → exec (.nodeMacc at_ w) s =
          .next (s.modInv at_.region at_.inv fun y => { y with rows := j.rows })) ∧
        (s.macc f.r f.i w.ty.toNat t o (opA f 3).toNat (opA f 4).toNat (opA f 5 == 1) = .ok j x →
          ∃ a, lane0 (opA f 4).toNat a ∧ exec (.nodeMacc at_ w) s =
            .next (((s.modInv at_.region at_.inv (takeArray j x)).shadowArray at_.region at_.inv).sendTokens f a a x.flags)))) ∧
    (s.firing at_ 0x82 w = some f →
      (f.acts 3 = false → exec (.nodeAccdrain at_ w) s = .next (s.sendTokens f z z 0)) ∧
      (∀ c t vs, f.acts 3 = true → s.ownTile f.r w.tile = some (c, t) → (opA f 2).toNat ≤ 1 → (opA f 1).toNat < 4 * f.r.w →
        t.fits 1 f.r.columns ((opA f 0).toNat + 1) false = true →
        let pa := c.partAddr t.base + (opA f 0).toNat * 4 * f.r.columns + 64 * (opA f 1).toNat;
        let j := if (opA f 2).toNat = 1 then f.i.clearRun pa (List.range 16) else f.i;
        j.heldBytes ≤ f.r.holdLimit → s.accRun f.i pa (List.range 16) = .ok vs →
        ∃ a, (a.tag = at_.iter ∧ ∀ l, l < 16 → a.lane l = some (BitVec.ofNat 32 (vs.getD l 0))) ∧ exec (.nodeAccdrain at_ w) s =
          .next ((s.modInv at_.region at_.inv (takeArray j Raised.zero)).sendTokens f a a 0)))

/-- R103, R104, R107 and R335: a node fires in a started iteration of a running region, once its operands stand in its slot buffers and its
targets' first places and its element are free; it fires once. -/
def Sys2Proof.Claims.MayFire (s : State) (at_ : FireAt) (op : Nat) (w : BlockWord) (r : Region) (i : Inv) (b : Block) (ta tb tp : Token) : Prop :=
  s.regionOf at_.region = some r ∧ r.inv at_.inv = some i ∧ r.blockOf i = some b ∧ s.regionRuns r = true ∧ b.node at_.node = some (op, w) ∧
    at_.iter < i.started ∧ (at_.node, at_.iter) ∉ i.fired ∧ i.failures = [] ∧ i.worst (some b) = none ∧
    r.hasRoom i (r.firstPlaces b at_.node at_.iter w) = true ∧
    lookupD r.busy (copyXY r.w b.home at_.node (b.copyOf r.w at_.node at_.iter)) 0 ≤ s.cycle.toNat ∧
    let c := b.copyOf r.w at_.node at_.iter
    let stands := fun (used : Bool) (pos : Nat) (t : Token) =>
      if used then ∃ x, i.tokens.find? (fun x => x.at_ == .slot at_.node c pos && x.tok.tag == at_.iter &&
        decide (x.due ≤ s.cycle.toNat)) = some x ∧ x.tok = t else t = Token.null at_.iter
    stands (usesA op w (b.targeted at_.node 0)) 0 ta ∧ stands (usesB op w) 1 tb ∧ stands (usesP op w) 2 tp

/-- A firing happens when MayFire says so, once, and its tokens set out: the consumed ones leave the node's slot buffers, one for each target stands
at its first place from 6 or 12 cycles on and one more for a hop, a blink element that shadows it has 8 cycles more for its verdict (R407),
and nothing outside the region changes. -/
def Obligations.FiringRules : Prop :=
  ∀ (s : State) (at_ : FireAt) (op : Nat) (w : BlockWord),
    (∀ r i b ta tb tp, MayFire s at_ op w r i b ta tb tp →
      s.firing at_ op w = some ⟨r, i, b, at_, op, w, b.copyOf r.w at_.node at_.iter, ta, tb, tp⟩) ∧
    (∀ f, s.firing at_ op w = some f → f.at_ = at_ ∧ f.op = op ∧ f.w = w ∧ (at_.node, at_.iter) ∉ f.i.fired ∧ s.regionRuns f.r = true ∧
      at_.iter < f.i.started) ∧
    (∀ (f : Firing) (a b : Token), s.firing at_ op w = some f →
      ∃ t r i, s.sendTokens f a b 0 = t ∧ t.regionOf at_.region = some r ∧ r.inv at_.inv = some i ∧ i.fired = f.i.fired ++ [(at_.node, at_.iter)] ∧
        (let el := copyXY f.r.w f.b.home at_.node f.copy;
          i.shadowed = f.i.shadowed ++
            if s.shadows f.r el.1 el.2 then [(el.1, el.2, s.cycle.toNat + (if 9 ≤ op ∧ op ≤ 16 then 12 else 6) + 8)] else []) ∧
        (∃ new, i.tokens = (f.i.tokens.filter fun x => match x.at_ with
            | .slot n c _ => !(n == at_.node && c == f.copy && x.tok.tag == at_.iter)
            | .router _ _ _ _ _ _ => true) ++ new ∧
          new.map (fun x => x.at_) = f.r.firstPlaces f.b at_.node at_.iter w ∧
          new.map (fun x => x.tok) = ((targetOf w.t1).toList.map fun _ => a) ++ ((targetOf w.t2).toList.map fun _ => b) ∧
          ∀ x ∈ new, x.due = s.cycle.toNat + (if 9 ≤ op ∧ op ≤ 16 then 12 else 6) +
            (match x.at_ with | .slot _ _ _ => 0 | .router _ _ _ _ _ _ => 1)) ∧
        (∀ h, h ≠ at_.region → t.regionOf h = s.regionOf h) ∧ t.mem = s.mem ∧ t.cpu = s.cpu ∧ t.ctxs = s.ctxs ∧ t.queues = s.queues)

/-! ### Streams (R182-R184, R186-R201) -/

/-- Word `at_` of the graph of open stream `x` is the node word `w` of operator `op`. -/
def Sys2Proof.Claims.NodeWordIs (s : State) (at_ : SFireAt) (op : Nat) (w : NodeWord) (x : Stream) : Prop :=
  s.openStream at_.ctl at_.str = some x ∧ ∃ v, (s.graphWords x)[at_.word]? = some v ∧ snodeOp v = op ∧ nodeFields v = w

/-- Node `at_` of an open stream, of operator `op` and word `w`, can work: it has not ended, and holds less than one flit of output. The head
node first takes what the head has for it; `h` is the state then, and `x` and `n` the stream and the node in it. -/
def Sys2Proof.Claims.CanWork (s h : State) (at_ : SFireAt) (op : Nat) (w : NodeWord) (x : Stream) (n : SNode) : Prop :=
  (∃ x0, NodeWordIs s at_ op w x0 ∧ h = if headNode (s.graphWords x0) = at_.word then s.takeHead x0 else s) ∧
    h.openStream at_.ctl at_.str = some x ∧ x.nodes[at_.word]? = some n ∧ x.aborted = false ∧ n.ended = false ∧ n.out.length < 1024

/-- The UNDO node `at_` of an open stream has a flit and is not held by a page; its input comes from a SPLIT, so it is never the head. -/
def Sys2Proof.Claims.CanUndo (s : State) (at_ : SFireAt) (w : NodeWord) (x : Stream) (n : SNode) : Prop :=
  NodeWordIs s at_ 0x38 w x ∧ x.nodes[at_.word]? = some n ∧ x.aborted = false ∧ n.ended = false ∧ x.page = none ∧ 1024 ≤ n.inA.length

/-- Node `k` has worked: it becomes `n` with the flags `fl` in its stream, and a whole flit of output goes on through its routes. -/
def Sys2Proof.Claims.worked (s : State) (x : Stream) (k op : Nat) (w : NodeWord) (n : SNode) (fl : Flags) : State :=
  let u := (s.modNode x k fun _ => n).modStream x.ctl x.str fun x => { x with flags := orFlags x.flags fl }
  match u.openStream x.ctl x.str with
  | some y => u.sendFlit y k op w
  | none => u

/-- Whenever the node can work and `f` gives its next state, the bits that join its output and the flags, `i` does that work. -/
def Sys2Proof.Claims.Works (i : Instr) (s : State) (at_ : SFireAt) (op : Nat) (w : NodeWord) (f : Stream → SNode → SStep) : Prop :=
  ∀ h x n n' o fl, CanWork s h at_ op w x n → f x n = some (n', o, fl) →
    exec i s = .next (worked h x at_.word op w { n' with out := n.out ++ o, hungry := false } fl)

/-- Values of `wi` bits become values of `wo` bits, flit by flit: `g` sees the position of a value and the value; poison goes along. -/
def Sys2Proof.Claims.mapped (wi wo : Nat) (g : Stream → Nat → Nat → Nat × Flags) (x : Stream) (n : SNode) : SStep :=
  (n.unit 1024).map fun p =>
    let vs := svals wi (1024 / wi) p.1
    let rs := vs.zipIdx.map fun (v, i) => (g x (p.2.count + i) v.1, v.2)
    ({ p.2 with count := p.2.count + vs.length }, rs.flatMap fun r => sbits wo (r.1.1, r.2), rs.foldl (fun a r => a ||| r.1.2) 0)

/-- R189 to R191, R193: the operators that keep or replace each value. -/
def Obligations.StreamValueNodes : Prop :=
  ∀ (s : State) (at_ : SFireAt) (w : NodeWord),
    let T := intOf w.fmt.toNat
    let draw := fun (x : Stream) (p : Nat) => srDraw (x.seed ^^^ BitVec.ofNat 32 p) at_.word 0
    let copy := fun (_ : Stream) (n : SNode) => (n.unit 1024).map fun p => (p.2, p.1, (0 : Flags))
    Works (.snodePass at_ w) s at_ 0x00 w copy ∧
    Works (.snodeSplit at_ w) s at_ 0x01 w copy ∧
    Works (.snodeMerge at_ w) s at_ 0x02 w (sMerge w) ∧
    Works (.snodeScale at_ w) s at_ 0x08 w (mapped w.width w.width fun x p a => w.arith fMulVal (· * ·) (draw x p) a w.k) ∧
    (w.inB = 0#4 →
      Works (.snodeAdd at_ w) s at_ 0x09 w (mapped w.width w.width fun x p a => w.arith fAddVal (· + ·) (draw x p) a w.k) ∧
      Works (.snodeMul at_ w) s at_ 0x0A w (mapped w.width w.width fun x p a => w.arith fMulVal (· * ·) (draw x p) a w.k) ∧
      Works (.snodeCmpsel at_ w) s at_ 0x0D w (mapped w.width w.width fun _ _ a =>
        (if (w.compare a w.k).1 then a else w.k, (w.compare a w.k).2))) ∧
    (w.inB ≠ 0#4 →
      Works (.snodeAdd at_ w) s at_ 0x09 w (sMap2 w.width fun x p a b => w.arith fAddVal (· + ·) (draw x p) a b) ∧
      Works (.snodeMul at_ w) s at_ 0x0A w (sMap2 w.width fun x p a b => w.arith fMulVal (· * ·) (draw x p) a b) ∧
      Works (.snodeCmpsel at_ w) s at_ 0x0D w (sMap2 w.width fun _ _ a b =>
        (if (w.compare a b).1 then a else b, (w.compare a b).2))) ∧
    Works (.snodeFma at_ w) s at_ 0x0B w (sMap2 w.width fun x p a b => w.fma (draw x p) a b) ∧
    Works (.snodeClamp at_ w) s at_ 0x0C w (mapped w.width w.width fun _ _ a => w.clamp a) ∧
    Works (.snodeCvt at_ w) s at_ 0x10 w (mapped (tyWidth (BitVec.ofNat 4 (w.par 3 0))) w.width fun x p a =>
      convert (w.par 3 0) w.fmt.toNat (rndOf (w.par 6 4)) (draw x p) a) ∧
    Works (.snodePackb at_ w) s at_ 0x14 w (mapped w.width (w.par 4 0) fun _ _ a =>
      let v := T.decode a
      let lo : Int := if T.signed then -(2 ^ (w.par 4 0 - 1)) else 0
      let hi : Int := if T.signed then 2 ^ (w.par 4 0 - 1) - 1 else 2 ^ w.par 4 0 - 1
      (wrapOf (max (min v hi) lo) (w.par 4 0), if v < lo ∨ hi < v then fOverflow else 0)) ∧
    Works (.snodeDelta at_ w) s at_ 0x16 w (sDelta w false) ∧
    Works (.snodeUndelta at_ w) s at_ 0x17 w (sDelta w true) ∧
    Works (.snodeLut at_ w) s at_ 0x21 w (fun x n => (n.unit 1024).map fun p =>
      let wi := if w.par 8 8 = 1 then 4 else 8
      (p.2, (svals wi (1024 / wi) p.1).flatMap (fun v =>
        let i := (w.par 7 0 + v.1) % 256
        sbits w.width (leNat ((x.table.drop (4 * i)).take 4), v.2 || x.tableBad.contains (i / 16))), 0))

/-- R191, R192, R196 to R200: block formats, compression and sparsity, and PERM, by units of the input. -/
def Obligations.StreamUnitNodes : Prop :=
  ∀ (s : State) (at_ : SFireAt) (w : NodeWord),
    let F := fltOf w.fmt.toNat
    let S := w.par 3 0
    let m := w.par 4 0
    let draw := fun (x : Stream) (p : Nat) => srDraw (x.seed ^^^ BitVec.ofNat 32 p) at_.word 0
    Works (.snodeQmx at_ w) s at_ 0x11 w (fun x n => (n.unit (1024 * tyWidth (BitVec.ofNat 4 S))).map fun p =>
      let vs := svals (tyWidth (BitVec.ofNat 4 S)) 1024 p.1
      let blocks := (List.range 32).map fun b =>
        mxBlock F (fltOf S) (rndOf (w.par 6 4)) ((vs.drop (32 * b)).take 32) fun i => draw x (p.2.count + 32 * b + i)
      ({ p.2 with count := p.2.count + 1024 },
        (blocks.flatMap fun b => sbitsAll w.width b.1) ++ padS 1024 (blocks.flatMap fun b => sbits 8 b.2.1),
        blocks.foldl (fun a b => a ||| b.2.2) 0)) ∧
    Works (.snodeDqmx at_ w) s at_ 0x12 w (fun _ n => (n.unit (1024 * tyWidth (BitVec.ofNat 4 S) + 1024)).map fun p =>
      let es := svals (tyWidth (BitVec.ofNat 4 S)) 1024 p.1
      let sc := svals 8 32 (p.1.drop (1024 * tyWidth (BitVec.ofNat 4 S)))
      let rs := es.zipIdx.map fun (e, i) =>
        (mxOut (fltOf S) F (sc.getD (i / 32) (0, false)).1 e.1, e.2 || (sc.getD (i / 32) (0, false)).2)
      (p.2, rs.flatMap (fun r => sbits w.width (r.1.1, r.2)), rs.foldl (fun a r => a ||| r.1.2) 0)) ∧
    Works (.snodeUnpackb at_ w) s at_ 0x15 w (fun _ n =>
      if n.inA.length / m = 0 then none
      else
        let k := n.inA.length / m
        let T := intOf w.fmt.toNat
        some ({ n with inA := n.inA.drop (k * m) }, (svals m k n.inA).flatMap (fun v =>
          sbits w.width (T.encode (if T.signed then signedOf v.1 m else v.1), v.2)), 0)) ∧
    Works (.snodeBfpc at_ w) s at_ 0x18 w (fun x n => (n.unit (32 * w.width)).map fun p =>
      let vs := svals w.width 32 p.1
      let bad := vs.any Prod.snd
      let r := bfpBlock (vs.map fun v => F.decode v.1) m (rndOf (w.par 7 5)) fun i => draw x (p.2.count + i)
      ({ p.2 with count := p.2.count + 32 },
        sbits 8 (r.1, bad) ++ r.2.1.flatMap (fun q => sbits (m + 1) (wrapOf q (m + 1), bad)), r.2.2)) ∧
    Works (.snodeBfpd at_ w) s at_ 0x19 w (fun _ n => (n.unit (40 + 32 * m)).map fun p =>
      let X := (svals 8 1 p.1).headD (0, false)
      let rs := (svals (m + 1) 32 (p.1.drop 8)).map fun q => (bfpValue F X.1 m q.1, q.2 || X.2)
      (p.2, rs.flatMap (fun r => sbits w.width (r.1.1, r.2)), rs.foldl (fun a r => a ||| r.1.2) 0)) ∧
    Works (.snodeExpand24 at_ w) s at_ 0x1C w (fun _ n => (n.unit (1024 + 512 * w.width)).map fun p =>
      (p.2, (List.range 256).flatMap (fun g =>
        sbitsAll w.width (expandGroup (svals 2 512 p.1) (svals w.width 512 (p.1.drop 1024)) g)), 0)) ∧
    Works (.snodeExpandbm at_ w) s at_ 0x1D w (fun _ n =>
      if n.inA.length < 1024 then none
      else (n.unit (1024 + ceilDiv ((n.inA.take 1024).countP Prod.fst * w.width) 1024 * 1024)).map fun p =>
        (p.2, sbitsAll w.width (expandBitmap (p.1.take 1024)
          (svals w.width ((p.1.take 1024).countP Prod.fst) (p.1.drop 1024)) false), 0)) ∧
    Works (.snodeCompact at_ w) s at_ 0x1E w (fun _ n => (n.unit (1024 * w.width)).map fun p =>
      let vs := svals w.width 1024 p.1
      let kept := sbitsAll w.width (vs.filter fun v => !w.isZero v.1)
      (p.2, (vs.map fun v => (!w.isZero v.1, v.2)) ++ padS (ceilDiv kept.length 1024 * 1024) kept, 0)) ∧
    Works (.snodePerm at_ w) s at_ 0x20 w (fun _ n => (n.unit 32768).map fun p =>
      let size := 2 ^ w.par 2 0
      let rows := 2 ^ w.par 6 3
      let bytes := (svals 8 4096 p.1).toArray
      (p.2, (List.range 4096).flatMap (fun i =>
        let e := i % size
        let k := i / size
        sbits 8 (bytes.getD ((k % rows * (4096 / (size * rows)) + k / rows) * size + e) (0, false))), 0))

/-- A reducer folds the values of a flit, and makes no output. -/
def Sys2Proof.Claims.reduced (w : NodeWord) (g : SNode → Nat → SNode × Flags) (_ : Stream) (n : SNode) : SStep :=
  (n.unit 1024).map fun p =>
    let r := (svals w.width (1024 / w.width) p.1).foldl (fun (q : SNode × Flags) v =>
      let a := g q.1 v.1
      ({ a.1 with count := a.1.count + 1, bad := a.1.bad || v.2 }, q.2 ||| a.2)) (p.2, 0)
    (r.1, [], r.2)

/-- R194: the reducing operators. -/
def Obligations.StreamReducers : Prop :=
  ∀ (s : State) (at_ : SFireAt) (w : NodeWord),
    let T := intOf w.fmt.toNat
    let F := fltOf w.fmt.toNat
    (isFlt w.fmt.toNat = true →
      Works (.snodeSum at_ w) s at_ 0x28 w (reduced w fun n v =>
        let r := fAddVal fp32 (fp32.decode n.acc) (F.decode v) .rne 0
        ({ n with acc := r.1 }, r.2)) ∧
      Works (.snodeMinmax at_ w) s at_ 0x29 w (reduced w fun n v =>
        ({ n with acc := (fMinMax F false n.acc v).1, acc2 := (fMinMax F true n.acc2 v).1 },
          (fMinMax F false n.acc v).2 ||| (fMinMax F true n.acc2 v).2))) ∧
    (isFlt w.fmt.toNat = false →
      Works (.snodeSum at_ w) s at_ 0x28 w (reduced w fun n v => ({ n with acc := wrapOf ((n.acc : Int) + T.decode v) 64 }, 0)) ∧
      Works (.snodeMinmax at_ w) s at_ 0x29 w (reduced w fun n v =>
        ({ n with acc := if T.decode v < T.decode n.acc then v else n.acc,
                  acc2 := if T.decode n.acc2 < T.decode v then v else n.acc2 }, 0))) ∧
    Works (.snodeHist at_ w) s at_ 0x2A w (reduced w fun n v =>
      match w.bin v with
      | none => (n, 0)
      | some b => ({ n with bins := n.bins.modify b fun c => min 0xFFFFFFFF (c + 1) }, 0)) ∧
    Works (.snodeCount at_ w) s at_ 0x2B w (reduced w fun n v =>
      (if (w.compare v w.k).1 then { n with acc := n.acc + 1 } else n, (w.compare v w.k).2)) ∧
    Works (.snodeCrc32c at_ w) s at_ 0x30 w (fun _ n => (n.unit 1024).map fun p =>
      ({ p.2 with acc := (crcRun (BitVec.ofNat 32 p.2.acc) (bytesOfS p.1)).toNat, count := p.2.count + 128, bad := p.2.bad || badS p.1 },
        [], 0))

/-- R182, R183, R195 and R201: the head takes the next flit of its tile, or the end behind the last one; a flit goes on to the neighbour of
its route; a node whose inputs have ended sends its last bits padded with zeros and passes the end on; UNDO writes the flit that the tail is about to replace, with its address and number, into the journal. -/
def Obligations.StreamFlow : Prop :=
  ∀ (s h : State) (at_ : SFireAt) (w : NodeWord) (x : Stream) (n : SNode),
    (let ws := s.graphWords x
     let k := headNode ws
     s.openStream x.ctl x.str = some x → x.moving = false → x.write = true → x.headDone = false → x.aborted = false →
      (x.nodes.all fun n => n.out.length < 1024) = true → ∀ m, x.nodes[k]? = some m → m.hungry = true →
      let v := nodeFields (ws.getD k 0)
      (∀ d t, x.fromTile = true → s.streamTile x = some (d, t) →
        (x.reqDone < t.flits → ∃ y, (s.takeHead x).openStream x.ctl x.str = some y ∧ y.reqDone = x.reqDone + 1 ∧
          let bs := padS 1024 (s.readBits (d.partAddr (t.base + 128 * x.reqDone)) (Nat.min 128 (t.bytes - 128 * x.reqDone)))
          y.nodes[k]? = some { m with hungry := false, inA := if v.inA = 1#4 then m.inA ++ bs else m.inA, inB := if v.inB = 1#4 then m.inB ++ bs else m.inB }) ∧
        (t.flits ≤ x.reqDone → ∃ y, (s.takeHead x).openStream x.ctl x.str = some y ∧ y.headDone = true ∧
          y.nodes[k]? = some { m with endA := m.endA || v.inA == 1#4, endB := m.endB || v.inB == 1#4 })) ∧
      (∀ a b r, x.fromTile = false → x.wbuf = a :: b :: r → ∃ y, (s.takeHead x).openStream x.ctl x.str = some y ∧ y.wbuf = r ∧
        let bs := (bitsOfBytes (a ++ b)).map fun v => (v, false)
        y.nodes[k]? = some { m with hungry := false, inA := if v.inA = 1#4 then m.inA ++ bs else m.inA, inB := if v.inB = 1#4 then m.inB ++ bs else m.inB })) ∧
    (∀ (op j : Nat) (m : SNode), op ≠ 1 → s.openStream x.ctl x.str = some x → x.nodes[at_.word]? = some n → 1024 ≤ n.out.length →
      snodeAt at_.word w.out.toNat = some j → w.out.toNat ≠ 6 → j ≠ at_.word → x.nodes[j]? = some m →
      ∃ y, (s.sendFlit x at_.word op w).openStream x.ctl x.str = some y ∧
        y.nodes[at_.word]? = some { n with out := n.out.drop 1024 } ∧
        y.nodes[j]? = some (if takesAtA (nodeFields ((s.graphWords x).getD j 0)) w.out.toNat then { m with inA := m.inA ++ n.out.take 1024 }
          else { m with inB := m.inB ++ n.out.take 1024 }) ∧
        ∀ k, k ≠ at_.word → k ≠ j → y.nodes[k]? = x.nodes[k]?) ∧
    (CanWork s h at_ 0x00 w x n → n.inA = [] → n.endA = true → w.inB = 0#4 → n.out = [] → w.out.toNat = 6 →
      ∃ t y, exec (.snodePass at_ w) s = .next t ∧ t.openStream x.ctl x.str = some y ∧ y.tailEnded = true ∧
        y.nodes[at_.word]? = some { n with ended := true, hungry := true }) ∧
    (CanUndo s at_ w x n → x.jovf = true →
      exec (.snodeUndo at_ w) s = .next (s.modNode x at_.word fun n => { n with inA := n.inA.drop 1024, count := n.count + 1 })) ∧
    (∀ (p j : SeqPos) (pa ja : Nat) (s1 s2 : State) (y : Stream),
      CanUndo s at_ w x n → x.jovf = false → x.prot = false →
      s.seek x x.undo x.base x.granules .w = (s1, p, .at_ pa) →
      (s1.modStream x.ctl x.str fun x => { x with undo := p }).openStream x.ctl x.str = some y →
      (s1.modStream x.ctl x.str fun x => { x with undo := p }).seek y y.jour y.journal y.jgranules .w = (s2, j, .at_ ja) →
      s2.rangeHeld ja 256 = false → s2.rangeHeld pa 128 = false → y.prot = false →
      Memory.wf s2.mem = true → (∀ c ∈ s2.ctxs, c.isProt = false) → s2.health.dead = [] → s2.health.deadPch = [] →
      ∃ t, exec (.snodeUndo at_ w) s = .next t ∧ memBytes t.mem ja 256 = journalEntry (s2.readBits pa 128) y.entries pa ∧
        KeepsBytes s2 t ja 256)

/-- R186 and R187: a stream that has ended without a reducing node leaves its context, its tile ends its move, and a completion with its
tag, counts and status reaches its requester's landing queue, but in a rollback. A slot of a region knows that a read stream has ended. -/
def Sys2Proof.Claims.StreamEnds : Prop :=
  ∀ (s : State) (ctl str : Nat) (x : Stream) (c : Ctx), s.model.arg = .n2 ctl str → s.openStream ctl str = some x →
    s.ctxOf x.ctx = some c → x.exceeds c.rolling = true → x.poisoned < 256 →
    -- while the mailbox has no place for the completion, the stream stands (R286)
    (c.rolling = false → s.mailReady c.id = false → exec .streamEnd s = .next s) ∧
    (c.rolling = true ∨ s.mailReady c.id = true →
    let u := match x.requester with
      | .tile _ _ => s.dropStream x
      | .region h k =>
        if x.write = false ∧ x.tailEnded = true ∧ x.aborted = false then (s.dropStream x).modRegion h fun r => { r with ended := k :: r.ended }
        else s.dropStream x
    ((∀ v ∈ s.graphWords x, isReducing (snodeOp v) = false) →
      exec .streamEnd s = .next (if c.rolling then u else u.mail c.id x.completion))) ∧
    x.completion.extractLsb' 0 32 = x.tag ∧ (x.completion.extractLsb' 32 8 = if x.write then 0x41#8 else 0x40) ∧
    (x.completion.extractLsb' 40 8 = if x.aborted then stAborted else if x.trunc then stTrunc else if 0 < x.poisoned then stPartial else stOK) ∧
    x.completion.extractLsb' 96 32 = BitVec.ofNat 32 x.done ∧ x.completion.extractLsb' 64 32 = BitVec.ofNat 32 x.reqDone

/-! ### Dispatch, iterations, hops, commit and discard (R111-R118, R312-R317, R324-R327, R335, R407, R408, R459) -/

/-- R314 and R316: a dispatch decision of a station takes the candidate that stands before every other (higher effective priority, then
ready for longer, then lower region, then lower block), counts a skip for the others, and dispatches it: a block's invocation joins the
region's order with the latched seed, trap enables and generator records of its context. -/
def Obligations.DispatchDecisions : Prop :=
  (∀ (s : State) (st : Nat) (p : Cand), s.model.arg = .n1 st →
    let mine := fun (r : Region) => match s.owner r with | some c => c.station == st | none => false
    let u := { s with regions := modifyAll mine s.markRegion s.regions }
    let cs := (u.stationRegions st).flatMap u.candsOf
    let skipped := cs.foldl (fun (t : State) x => if x = p then t else t.modRegion x.region fun r => r.modCand x.index Dispatch.skip) u
    let after := (skipped.dispatch p.region p.index).modRegion p.region fun r =>
      r.modCand p.index fun d => { d with skips := 0, boost := 0, readySince := none }
    (p ∈ cs → (∀ x ∈ cs, x ≠ p → p.before x = true ∧ x.before p = false) →
      exec .dispatchDecision s = .next (after.settleStats p.region)) ∧
    (cs = [] → exec .dispatchDecision s = .next u)) ∧
  (∀ (s : State) (r : Region) (c : Ctx) (b : Block) (k : Nat), s.regionOf r.handle = some r → s.owner r = some c → k < 128 →
    r.blocks[k]? = some b → b.tiles = [] →
    ∃ t r', s.dispatch r.handle k = t ∧ t.regionOf r.handle = some r' ∧ r'.invs = r.invs ++ [Inv.start r.nextInv (.block k) c r []] ∧
      r'.nextInv = r.nextInv + 1 ∧ (r'.blocks[k]?).map (fun x => x.disp.pending) = some (b.disp.pending - 1) ∧
      (∀ j, j ≠ k → r'.blocks[j]? = r.blocks[j]?) ∧ t.mem = s.mem ∧ t.cpu = s.cpu)

/-- R111 and R112: the invocation of a block takes its trip counts from f31 once no earlier invocation can write it, and starts its
iterations in order, up to their number and to 64 that are not counted, while its source copies can take one. R140 and R150: a command's
invocation reads one row of its source tile at a time; that it works only once every earlier one has gone is inferred (DEDUCED, log 29). -/
def Obligations.IterationStarts : Prop :=
  ∀ (s : State) (r : Region) (i : Inv), s.model.arg = .n2 r.handle i.id → s.regionOf r.handle = some r →
    s.regionRuns r = true → r.inv i.id = some i →
    (∀ k b, i.work = .block k → r.blocks[k]? = some b →
      (∀ ts, i.trips = some ts → i.started < ts.foldl (· * ·) 1 → i.worst (some b) = none → i.openIters b < 64 →
        r.sourcesFree i b i.started = true →
        exec .iterationStart s = .next (s.modInv r.handle i.id fun _ => { i with started := i.started + 1 })) ∧
      (∀ ts, i.trips = some ts → ts.foldl (· * ·) 1 ≤ i.started → exec .iterationStart s = .next (s.modInv r.handle i.id fun _ => i)) ∧
      (i.trips = none → (b.depth = 0 ∨ r.frameWait i.id 31 = false) → (r.tripsOf b).foldl (· * ·) 1 = 0 → i.started = 0 →
        exec .iterationStart s = .next (s.modInv r.handle i.id fun _ => { i with trips := some (r.tripsOf b) }))) ∧
    (∀ c, i.work = .command c → i.started = 0 →
      let u := s.modRegion r.handle fun r => { r with fired := true, idle := 0 }
      (r.earlier i.id ≠ [] → exec .iterationStart s = .next s) ∧
      (∀ j, r.earlier i.id = [] → u.commandWork r i c = .more j →
        exec .iterationStart s = .next (u.modInv r.handle i.id fun x => { x with rows := j.rows })) ∧
      (∀ j x, r.earlier i.id = [] → u.commandWork r i c = .ok j x → x.first = none → c.kind = 2 →
        ∃ t r' i', exec .iterationStart s = .next t ∧ t.regionOf r.handle = some r' ∧ r'.inv i.id = some i' ∧ i'.started = 1 ∧
          i'.accs = j.accs ∧ i'.flags = [(0, x.flags)] ∧ i'.invalids = x.invalids ∧ i'.overflows = x.overflows ∧ i'.sats = x.sats ∧
          i'.failures = [] ∧ t.mem = s.mem ∧ t.cpu = s.cpu))

/-- R335: the head of a router's input buffer moves one element on, along X and then along Y, once it is due and its next place has room. -/
def Obligations.TokenHops : Prop :=
  ∀ (s : State) (h x y side : Nat) (r : Region) (p : Inv × Flying) (q : Place), s.model.arg = .n4 h x y side → s.regionOf h = some r →
    s.regionRuns r = true → r.routerHead x y side = some p → p.2.due ≤ s.cycle.toNat →
    (r.hopTo p = some q →
      let go := fun (t : Flying) => { t with at_ := q, due := s.cycle.toNat + 1, seq := s.fresh.1 };
      exec .tokenHop s = .next (s.fresh.2.modInv h p.1.id fun i => { i with tokens := modifyFirst (· == p.2) go i.tokens })) ∧
    (r.hopTo p = none → exec .tokenHop s = .next s) ∧
    (∀ n c pos b, p.2.at_ = .router x y side n c pos → r.blockOf p.1 = some b → r.hopTo p = some q →
      let t := copyXY r.w b.home n c
      (t = (x, y) → q = .slot n c pos) ∧
      (x < t.1 → q = .router (x + 1) y 3 n c pos) ∧ (t.1 < x → q = .router (x - 1) y 1 n c pos) ∧
      (t.1 = x → y < t.2 → q = .router x (y + 1) 0 n c pos) ∧ (t.1 = x → t.2 < y → q = .router x (y - 1) 2 n c pos))

/-- A byte of memory after an invocation's held writes: the rows and values of its matrix work, then its stores in invocation order, each
under its mask (R140, R224). -/
def Sys2Proof.Claims.storedByte (i : Inv) (a : Nat) (old : Byte) : Byte :=
  (storesInOrder i.stores).foldl (init := (i.accs.filter fun p => p.1 == a).foldl (fun _ p => p.2) old) fun b h =>
    if h.pa ≤ a ∧ a < h.pa + h.bytes.length then
      let m := h.mask.getD (a - h.pa) 0xFF
      (b &&& ~~~m) ||| (h.bytes.getD (a - h.pa) 0 &&& m)
    else b

/-- The invocation is one of region `r` of context `c`, and nothing waits for its end: no barrier is open and no MSTAT stands in the queue. -/
def Sys2Proof.Claims.PlainEnd (s : State) (r : Region) (c : Ctx) : Prop :=
  s.regionOf r.handle = some r ∧ s.ctxOf c.id = some c ∧ (∀ d ∈ s.domains, d.episodes = []) ∧ (∀ w t, CmdEntry.stat w t ∉ r.cmds) ∧
    PlainMemory s

/-- The completion joins the mailbox of its context, when that is resident, has a place and owes no earlier one. -/
def Sys2Proof.Claims.Completes (s t : State) (cid : Nat) (e : BitVec 128) : Prop :=
  ∀ d, s.ctxOf cid = some d → d.resident = true → d.spill = [] → d.mailbox.length < 256 → (s.bus.mails.any fun m => m.1 == cid) = false →
    (t.ctxOf cid).map (·.mailbox) = some (d.mailbox ++ [e])

/-- R94, R114 to R118, R136, R148, R221, R224 and R313: what a commit leaves. The region has the frame registers of `commitFrames`, the staged
weights and one invocation less; a block's exit raises the pending count of its target, and a command is the region's last and completes with
its counters. The context's flags join those of every iteration. The bytes of a block's held writes stand in this part's memory, in their
order, and every other byte is as before. -/
def Sys2Proof.Claims.CommitResults : Prop :=
  ∀ (s : State) (r : Region) (c : Ctx) (i : Inv), PlainEnd s r c →
    (∀ p ∈ i.accs, p.1 < 2 ^ 55 ∧ (s.home p.1).isMem = true) → (∀ x ∈ i.stores, x.pa < 2 ^ 55 ∧ (s.home x.pa).isMem = true) →
    let t := s.commitInv r c i
    (∃ x, t.regionOf r.handle = some x ∧ x.frames = commitFrames r.frames i.frames ∧ (x.invs = r.invs.filter fun y => y.id != i.id) ∧
      (∀ ws ty, i.staged = some (ws, ty) → x.weights = ws ∧ x.wtype = some ty) ∧
      (i.staged = none → x.weights = r.weights ∧ x.wtype = r.wtype) ∧
      (∀ k, i.work = .command k → x.lastCmd = some k.number ∧ x.blocks = r.blocks) ∧
      (∀ k, i.work = .block k → x.lastCmd = r.lastCmd ∧ (i.exit = 0 → x.blocks = r.blocks) ∧
        ∀ e, i.exit = e + 1 → e < 128 → (∀ j, j ≠ e → x.blocks[j]? = r.blocks[j]?) ∧
          x.blocks[e]? = (r.blocks[e]?).map fun b => { b with disp := { b.disp with pending := min 65535 (b.disp.pending + 1) } })) ∧
    (∀ n p, i.total = some (n + 1) → (i.brs.find? fun p => p.1 == n) = some p → i.exit = p.2) ∧
    (t.ctxOf c.id).map (·.vflags) = some (i.flags.foldl (fun a p => a ||| p.2) c.vflags) ∧
    (∀ k, i.work = .command k → Completes s t k.sender.1 (commandEntry k k.number i.invalids i.overflows i.sats stOK)) ∧
    (∀ k, i.work = .block k → ∀ a, memByte t.mem a = storedByte i a (memByte s.mem a))

/-- R94, R116, R148, R390, R391 and R459: what a discard on a cause leaves. The region keeps its frame registers and loses the invocation, memory
and the context's flags are as before, and one record of the cause's class is posted; a block is neither armed nor pending, and a command is
the region's last and completes ABORTED. An invocation that runs again stands in its place as it was dispatched. -/
def Sys2Proof.Claims.DiscardResults : Prop :=
  ∀ (s : State) (r : Region) (c : Ctx) (i : Inv), PlainEnd s r c →
    (∀ f, f.cause ≠ .poison →
      let t := s.failInv r c i f
      (∃ q, t.tree.recs = s.tree.recs ++ [q] ∧ q.cls = classOf f.cause ∧ q.detail = detailOf (failDetail r i f) ∧ q.asid = c.asid ∧
        q.station = c.station ∧ q.slot = c.slot) ∧
      (t.ctxOf c.id).map (·.vflags) = some c.vflags ∧
      (∃ x, t.regionOf r.handle = some x ∧ x.frames = r.frames ∧ (x.invs = r.invs.filter fun y => y.id != i.id) ∧
        (∀ k, i.work = .block k → t.mem = s.mem ∧ (k < 128 → (∀ j, j ≠ k → x.blocks[j]? = r.blocks[j]?) ∧
          x.blocks[k]? = (r.blocks[k]?).map fun b => { b with disp := { b.disp with armed := false, pending := 0 } })) ∧
        (∀ k, i.work = .command k → x.lastCmd = some k.number ∧ x.blocks = r.blocks ∧
          Completes s t k.sender.1 (commandEntry k k.number 0 0 0 stAborted)))) ∧
    (let t := s.rerunInv r i
     t.mem = s.mem ∧ t.tree = s.tree ∧ (t.ctxOf c.id).map (·.vflags) = some c.vflags ∧
      ∃ x, t.regionOf r.handle = some x ∧ x.frames = r.frames ∧ x.blocks = r.blocks ∧ x.cmds = r.cmds ∧
        x.invs = modifyFirst (fun y => y.id == i.id) (fun _ =>
          { id := i.id, work := i.work, srseed := i.srseed, vtrap := i.vtrap, ags := i.ags, trips := i.trips, mismatches := i.mismatches,
            pins := i.pins }) r.invs)

/-- R113 to R118, R221, R363, R390, R407 and R459: the first invocation of a region commits once it has counted and no blink verdict on it is
outstanding, and runs again when it is stale; a frame register takes each lane from the highest iteration that wrote it; an invocation is
discarded on the cause of its lowest iteration that met one, once each lower iteration has counted or can move no further (`discardCause`,
DEDUCED, log 47). Which record detail a command's failure has, and which iteration's flags a trap reports, are the model's (log 46), and so is
the seed of a draw that a flag comes from (log 27). -/
def Obligations.CommitsAndDiscards : Prop :=
  CommitResults ∧ DiscardResults ∧
  (∀ (s : State) (r : Region) (i : Inv) (rest : List Inv) (c : Ctx), s.model.arg = .n2 r.handle i.id → s.regionOf r.handle = some r →
    r.invs = i :: rest → s.owner r = some c → s.regionRuns r = true → c.rolling = false → i.counted (r.blockOf i) = true →
    (i.unverified s.cycle.toNat = true → exec .invocationCommit s = .next s) ∧
    (i.unverified s.cycle.toNat = false → i.stale = true → exec .invocationCommit s = .next (s.rerunInv r i)) ∧
    (i.unverified s.cycle.toNat = false → i.stale = false → (∀ x ∈ i.items, ∀ b q, s.nodeQueue c x.handle = some (b, q) → s.holdsPush c q = false) →
      (∀ x ∈ i.stores, s.rangeHeld x.pa x.bytes.length = false) → exec .invocationCommit s = .next (s.commitInv r c i))) ∧
  (∀ (fs : Vector (Vector Lane 16) 32) (ws : List (Nat × Nat × Vector Lane 16 × BitVec 16)) (n : Fin 32) (l : Fin 16),
    ((∀ w ∈ ws, w.1 = n.val → w.2.2.2.getLsbD l.val = false) → (commitFrames fs ws)[n][l] = fs[n][l]) ∧
    (∀ w ∈ ws, w.1 = n.val → w.2.2.2.getLsbD l.val = true →
      (∀ v ∈ ws, v ≠ w → v.1 = n.val → v.2.2.2.getLsbD l.val = true → v.2.1 < w.2.1) → (commitFrames fs ws)[n][l] = w.2.2.1[l])) ∧
  (∀ (s : State) (r : Region) (i : Inv) (c : Ctx), s.model.arg = .n2 r.handle i.id → s.regionOf r.handle = some r →
    r.inv i.id = some i → s.owner r = some c → s.regionRuns r = true → c.rolling = false →
    (∀ f, s.discardCause r i = some f → exec .invocationDiscard s = .next (s.failInv r c i f)) ∧
    (∀ f, s.discardCause r i = some f → ∀ x ∈ i.failures, f.iter ≤ x.iter) ∧
    (i.failures = [] → (∀ b j, r.blockOf i = some b → j < i.started → i.branchBreak b j = false) →
      exec .invocationDiscard s = .next s))

/-- R326, R327, R407 and R408: the hang monitor freezes a region whose idle count has reached its limit; a first mismatch of the blink check
runs the invocation again and a second one freezes the region; a verdict that agrees ends its wait, and a verdict on a result that no blink
element shadows in its 8 cycles changes nothing. -/
def Sys2Proof.Claims.RegionMonitors : Prop :=
  ∀ (s : State) (r : Region) (c : Ctx), s.regionOf r.handle = some r → s.owner r = some c → r.freeze = .running →
    (s.model.arg = .n1 r.handle →
      (c.hangiv ≠ 0 → 1024 * c.hangiv.toNat ≤ r.idle → exec .hangDetect s = .next (s.hang r c) ∧
        ∃ x, (s.hang r c).regionOf r.handle = some x ∧ x.freeze = .hung) ∧
      (c.hangiv = 0 ∨ r.idle < 1024 * c.hangiv.toNat → exec .hangDetect s = .next s)) ∧
    (∀ (i : Inv) (q e j : Nat), r.inv i.id = some i → q < r.w * r.h → e < 16 →
      let xy := elemXY r.w q e
      let mine := fun (x : Nat × Nat × Nat) => x.1 == xy.1 && x.2.1 == xy.2 && decide (s.cycle.toNat ≤ x.2.2)
      (i.shadowed.any mine = false → ∀ ok, s.model.arg = .blink r.handle i.id q e j ok → exec .blinkVerdict s = .next s) ∧
      (i.shadowed.any mine = true → s.model.arg = .blink r.handle i.id q e j true → exec .blinkVerdict s =
        .next (s.modInv r.handle i.id fun i => { i with shadowed := i.shadowed.eraseP mine })) ∧
      (i.shadowed.any mine = true → s.model.arg = .blink r.handle i.id q e j false →
        let t := s.mismatch r c i q e j
        let at_ := r.gridOf q
        exec .blinkVerdict s = .next t ∧ t.mem = s.mem ∧ (gridNumber r.die at_.1 at_.2, e) ∈ t.health.suspects ∧
        (∃ v, t.tree.recs = s.tree.recs ++ [v] ∧ v.cls = clBlinkMismatch) ∧
        -- the invocation stands in its place as it was dispatched
        ∃ x, t.regionOf r.handle = some x ∧ x.frames = r.frames ∧ x.invs.map (·.id) = r.invs.map (·.id) ∧
          x.inv i.id = some { id := i.id, work := i.work, srseed := i.srseed, vtrap := i.vtrap, ags := i.ags, trips := i.trips,
                              mismatches := i.mismatches + 1, pins := i.pins } ∧
          (0 < i.mismatches → x.freeze = .frozen ∧ x.unmovable = true ∧ x.orig = r.orig) ∧
          -- the region moves where it fits off the suspect elements, and else runs on in place
          (i.mismatches = 0 → (x.freeze = .running ∨ x.freeze = .moving) ∧ x.orig =
            ((s.suspect r q e).findRect (s.regions.filter fun y => y.handle != r.handle) r.die r.w r.h).getD r.orig)))

/-- R324 and R325: a region stops once every input of it holds a marker and its invocations have ended, and places a marker at every home of
its gang of each queue that its QOUT nodes name; a resting gang resumes with its markers gone and its regions dispatching. -/
def Sys2Proof.Claims.QuiesceEvents : Prop :=
  (∀ (s : State) (r : Region) (c : Ctx) (g : Gang), s.model.arg = .n1 r.handle → s.regionOf r.handle = some r → s.owner r = some c →
    s.gangOf c.gang = some g → r.stopped = false → s.regionRuns r = true → r.invs = [] → s.inputsMarked r = true →
    let written := fun (q : Queue) => r.blocks.any fun b => b.nodes.any fun x =>
      x.2.1 == 0x65 && (s.nodeQueue c x.2.2.queue).any fun p => p.2.id == q.id
    let marked := fun (q : Queue) (h : QHome) =>
      if written q = true ∧ s.homeInGang c.gang h.at_ = true then { h with entries := h.entries ++ [.marker g.qnumber] } else h
    ∃ t : State, exec .regionQuiesceStop s = .next (t.settleQuiesce c.gang) ∧
      t = { s with
        queues := s.queues.map fun q => { q with homes := q.homes.map (marked q) }
        regions := modifyFirst (fun x => x.handle == r.handle) (fun x => { x with stopped := true }) s.regions } ∧
      ((t.gangRegions c.gang).all (·.stopped) = true → g.qstate = 1 →
        (t.settleQuiesce c.gang).gangOf c.gang = some { g with qstate := 2 })) ∧
  (∀ (s : State) (g : Gang), s.model.arg = .n1 g.id → s.gangOf g.id = some g → g.qstate = 2 →
    exec .quiesceResume s = .next (s.resumeGang g) ∧ (s.resumeGang g).cpu = s.cpu ∧
      (s.resumeGang g).gangOf g.id = some { g with qstate := 0 } ∧
      -- an MSTAT that comes to the head is answered, and its sender may be switched out
      ((∀ r ∈ s.regions, ∀ w t, CmdEntry.stat w t ∉ r.cmds) →
        let clean := fun (h : QHome) =>
          if s.homeInGang g.id h.at_ = true then { h with entries := h.entries.filter fun e => e != .marker g.qnumber } else h
        (s.resumeGang g).mem = s.mem ∧
        (s.resumeGang g).regions = s.regions.map (fun r => if s.inGang g.id r then
          { r with stopped := false, cmds := r.cmds.filter fun e => e != .marker g.qnumber } else r) ∧
        (s.resumeGang g).queues = s.queues.map fun q => { q with homes := q.homes.map clean }))

/-- R317: the slot of a cycle goes to the ready thread that owns it, else to the ready thread of highest priority that has not yielded, the
next one after the owner among equals; the thread is loaded and runs next, and in a slot of its own its YIELD ends. An engine hart issues
whenever it is ready. -/
def Sys2Proof.Claims.IssueSlots : Prop :=
  ∀ (s : State) (a : Actor),
    -- the model draws the free choices of the instruction with the slot (log 66)
    let given := fun (owned : Bool) =>
      { s.load a with model := { (s.load a).model with
          run := some a, owned := owned, freeCount := s.model.freeCount + 1
          slow := (Config.freeWord s.model.freeCount).getLsbD 0, ahead := (Config.freeWord s.model.freeCount).getLsbD 1 } }
    (∀ st, s.model.arg = .n1 st → s.slotTaker st = some (a, true) → exec .issueSlot s = .next (given true)) ∧
    (∀ st, s.model.arg = .n1 st → s.slotTaker st = some (a, false) → exec .issueSlot s = .next (given false)) ∧
    (∀ st, s.model.arg = .n1 st → s.readyAt st = [] → exec .issueSlot s = .next s) ∧
    (∀ st h, (s.readyAt st).find? (fun p => p.2 == s.cycle.toNat % 8) = some (a, h) → s.slotTaker st = some (a, true)) ∧
    (∀ d e, a = .engine d e → s.model.arg = .actor a → s.ready a = true → exec .issueSlot s = .next (given true))

/-! ### Writes of the control window (R78, R159, R300, R319, R329, R368-R373, R394, R407, R436, R441, R442, R452-R456) -/

/-- What a store to a control register leaves there: slot table words, MCLS, PKGID, lane tails, BLINKIV, PWRCAP, HTRAIN, ACC0, the log, the
attestation, STFENCE, MCCTL, CALCTL and HRETIRE. Values outside what a register takes are ignored. -/
def Sys2Proof.Claims.ControlWindowWrites : Prop :=
  ∀ (s : State) (v : Word) (n k : Nat),
    (s.model.arg = .store2 n k v → n < (if s.part = 2 then 24 else 96) → k < 4 →
      ∃ t, exec .slotTableWrite s = .next t ∧ t.slotWritten n k = v ∧ (∀ j, j ≠ k → t.slotWritten n j = s.slotWritten n j) ∧
        t = { s with bus := { s.bus with slotNew := t.bus.slotNew } }) ∧
    (s.model.arg = .store1 n v →
      (∀ c, s.ctxAt (n / 4) (n % 4) = some c →
        (v.getLsbD 3 = false ∧ v.toNat < 128 →
          exec .mclsWrite s = .next (s.modCtx c.id fun c => { c with mcls := v.setWidth 7 })) ∧
        (v.getLsbD 3 = true ∨ 128 ≤ v.toNat → exec .mclsWrite s = .next s)) ∧
      (16 ≤ v.toNat ∧ v.toNat ≤ 30 → ∃ t, exec .blinkivWrite s = .next t ∧ t.blinkiv n = v.toNat) ∧
      (v.toNat < 16 ∨ 30 < v.toNat → exec .blinkivWrite s = .next s) ∧
      (s.part ≠ 2 → wbits v 15 0 ≠ 0 → ∃ t, exec .htrainWrite s = .next t ∧ (t.healthOf n).htrain = v.setWidth 16) ∧
      (s.part ≠ 2 → wbits v 15 0 = 0 → exec .htrainWrite s = .next s) ∧
      (n = 0 → s.userExists = false →
        ∃ t, exec .accWrite s = .next t ∧ t = { s with boot := { s.boot with acc0 := t.boot.acc0 } } ∧ ∀ i, i < 64 →
          t.boot.acc0.getLsbD i =
            -- bits [1] and [2] are accepted together or not at all
            if i = 1 ∨ i = 2 then v.getLsbD 1 && v.getLsbD 2 && s.boot.feat0.getLsbD 1 && s.boot.feat0.getLsbD 2
            else v.getLsbD i && s.boot.feat0.getLsbD i) ∧
      (n = 1 → s.userExists = false → exec .accWrite s = .next { s with boot := { s.boot with acc1 := v &&& s.boot.feat1 } }) ∧
      (2 ≤ n → exec .accWrite s = .next s) ∧
      (s.userExists = true → exec .accWrite s = .next s) ∧
      (s.part ≠ 2 → ∃ t, exec .stfenceWrite s = .next t ∧ ∀ i, i < 24 →
        (lookupD t.health.stfence n 0).testBit i =
          if s.ctxs.any (fun c => c.station == 24 * n + i) then (lookupD s.health.stfence n 0).testBit i else v.getLsbD i) ∧
      (s.part ≠ 2 → v.getLsbD 8 = true → (lookupD s.health.stfence n 0).testBit (wbits v 4 0) = true → lookup s.health.calctl n = none →
        ∃ t, exec .calibrationStart s = .next t ∧ lookupD t.health.calctl n 0 = w64 (wbits v 4 0 * 2 ^ 8)) ∧
      (s.part ≠ 2 → v.getLsbD 8 = false → exec .calibrationStart s = .next s)) ∧
    (s.model.arg = .value v →
      (s.pkgValid = false → s.userExists = false → exec .pkgidWrite s = .next { s with pkgid := wbits v 8 0, pkgValid := true }) ∧
      (s.pkgValid = true ∨ s.userExists = true → exec .pkgidWrite s = .next s) ∧
      (600 ≤ wbits v 15 0 ∧ wbits v 15 0 ≤ 2600 →
        exec .pwrcapWrite s = .next { s with boot := { s.boot with pwrcap := wbits v 15 0 } }) ∧
      (wbits v 15 0 < 600 ∨ 2600 < wbits v 15 0 → exec .pwrcapWrite s = .next s) ∧
      (wbits v 2 0 = 4 → s.boot.log.length < 1024 → exec .logExtend s = .next { s with boot := { s.boot with
        log := s.boot.log ++ [0#192 ++ BitVec.ofNat 32 s.boot.log.length ++ 4#32 ++ s.boot.logdig]
        logFull := decide (s.boot.log.length = 1023) } }) ∧
      (wbits v 2 0 = 4 → 1024 ≤ s.boot.log.length → exec .logExtend s = .next { s with boot := { s.boot with logFull := true } }) ∧
      (v.getLsbD 0 = true → s.boot.attStat ≠ 1 → s.boot.acc0.getLsbD 4 = true →
        exec .attestStart s = .next { s with boot := { s.boot with attStat := 1, attCount := s.boot.log.length } }) ∧
      (v.getLsbD 0 = false ∨ s.boot.attStat = 1 ∨ s.boot.acc0.getLsbD 4 = false → exec .attestStart s = .next s)) ∧
    (s.boot.acc0.getLsbD 4 = false → (wbits s.attctl 31 0 = 3)) ∧
    (s.boot.attStat = 1 → ∃ t, exec .attestDone s = .next t ∧ t.boot.attStat = 2 ∧
      t = { s with boot := { s.boot with attStat := 2, attSig := t.boot.attSig } }) ∧
    (s.model.arg = .n2 n k → ∀ x, s.engineAt n k = some x → x.mcstat ≠ 1 →
      exec .microcodeStart s = .next (s.modEngine n k fun x => { x with mcstat := 1, mccause := 0 })) ∧
    (∀ r, s.model.arg = .n3 n k r → s.part ≠ 2 →
      ((s.healthOf n).retiring = none →
        exec .pchRetireStart s = .next (s.modHealth n fun h => { h with hretire := 1, retiring := some (k, r) })) ∧
      ((s.healthOf n).retiring ≠ none → exec .pchRetireStart s = .next s))

/-- R368, R370, R373, R380, R394 and R30: lane tails move up to HEAD; peer, group and bus-window entries become current by a store to their
last word, a revocation advancing the window's epoch; and a store of service software reaches the register behind its address. R287 and
R296: it also defines domains without an open episode and sizes empty work queues; that it does so by this event is the model's choice
(log 71). -/
def Sys2Proof.Claims.TableWrites : Prop :=
  ∀ (s : State) (v : Word) (n : Nat),
    (∀ x : BitVec 32, s.model.arg = .tail true x →
      ((x.toNat + 2 ^ 32 - s.tree.lrtail) % 2 ^ 32 ≤ (s.tree.lrhead + 2 ^ 32 - s.tree.lrtail) % 2 ^ 32 →
        exec .laneTailWrite s = .next { s with tree := { s.tree with lrtail := x.toNat } }) ∧
      ((s.tree.lrhead + 2 ^ 32 - s.tree.lrtail) % 2 ^ 32 < (x.toNat + 2 ^ 32 - s.tree.lrtail) % 2 ^ 32 →
        exec .laneTailWrite s = .next s)) ∧
    (∀ x : BitVec 32, s.model.arg = .tail false x →
      (x.toNat + 2 ^ 32 - s.tree.lftail) % 2 ^ 32 ≤ (s.tree.lfhead + 2 ^ 32 - s.tree.lftail) % 2 ^ 32 →
        exec .laneTailWrite s = .next { s with tree := { s.tree with lftail := x.toNat } }) ∧
    (s.model.arg = .store1 n v →
      (n < 4096 →
        let entered := fun (i : Instr) => ∃ t, exec i s = .next t ∧ (t.peerOf n).cur = putWord (s.peerOf n).stg 1 (v &&& peerMask) ∧
          (t.peerOf n).stg = (t.peerOf n).cur ∧ peerState (t.peerOf n).cur = wbits v 47 46 ∧ (∀ m, m ≠ n → t.peerOf m = s.peerOf m) ∧
          t.linkEpoch 4 n = s.linkEpoch 4 n + if wbits v 47 46 = 2 ∧ peerState (s.peerOf n).cur ≠ 2 then 1 else 0;
        (wbits v 47 46 = 1 → entered .peerEntryValidate) ∧ (wbits v 47 46 = 2 → entered .peerRevoke) ∧
        (wbits v 47 46 = 0 → entered .peerEntryFree)) ∧
      (n < 1024 → ∃ t, exec .groupEntryCommit s = .next t ∧ (t.groupOf n).cur = putWord (s.groupOf n).stg 8 (v &&& 0x80003FFFFFFFFFC0#64) ∧
        (t.groupOf n).stg = (t.groupOf n).cur ∧ ∀ m, m ≠ n → t.groupOf m = s.groupOf m) ∧
      (n < 1024 → wbits v 47 46 ≠ 3 → ∃ t, exec .busWindowCommit s = .next t ∧
        (t.busOf n).cur = putWord (s.busOf n).stg 1 (v &&& busMask) ∧ (t.busOf n).stg = (t.busOf n).cur ∧ ∀ m, m ≠ n → t.busOf m = s.busOf m) ∧
      ((s.localHome n).isCtl = true → n % 8 = 0 → exec .registerWrite s = .next (s.ctlWrite (s.localHome n) 8 v.toNat))) ∧
    (∀ level cs, s.model.arg = .domain level n (cs.map .here) → 1 ≤ level → level ≤ 4 → (∀ d, s.domainAt level n = some d → d.episodes = []) →
      ∃ t, exec .registerWrite s = .next t ∧ t.domainAt level n = some (freshDomain level n cs) ∧
        (∀ l m, ¬(l = level ∧ m = n) → t.domainAt l m = s.domainAt l m) ∧ t = { s with domains := t.domains }) ∧
    (∀ e cap q, s.model.arg = .workQueue n e cap → (s.queues.find? fun q => q.homes.any fun h => h.at_ == .engine n e) = some q →
      (1 ≤ cap → cap ≤ 65536 → (∀ h ∈ q.homes, h.entries = []) → s.windowSum q.id ≤ cap →
        exec .registerWrite s = .next (s.modQueue q.id fun q => { q with cap := cap })) ∧
      (cap = 0 ∨ 65536 < cap ∨ (∃ h ∈ q.homes, h.entries ≠ []) ∨ cap < s.windowSum q.id → exec .registerWrite s = .next s))

/-! ### Faults, poison and recovery (R355, R356, R391-R394, R406, R409) -/

/-- R355, R356, R393, R394, R395, R406 and R409: FRESUME answers a pending fault tag; the root accepts the oldest record, lane F first, and
writes it at HEAD of its lane; poison marks a granule or an item; a rollback starts once its members are at rest; a context retires whole. -/
def Obligations.FaultEvents : Prop :=
  ∀ s : State,
    (∀ u tag, s.model.arg = .tag u tag → s.tagPending u tag = true →
      (∃ t, exec .fresumeWalk s = .next t ∧ t.tagPending u tag = false ∧ t.mem = s.mem ∧
        (∀ f ∈ s.mmu.faults, ¬(f.unit = u ∧ f.tag = tag) → f ∈ t.mmu.faults) ∧
        ∀ x ∈ t.streams, s.streamUnit x = u → x.page ≠ some tag) ∧
      exec .fresumeRefuse s = .next (s.fresumeRefuse u tag)) ∧
    (∀ u tag, s.model.arg = .tag u tag → s.tagPending u tag = false → exec .fresumeWalk s = .next s ∧ exec .fresumeRefuse s = .next s) ∧
    (∀ r, s.heldRecord false = none → s.heldRecord true = none → s.nextRecord false = some r →
      exec .faultRootAccept s = .next (s.acceptRecord r)) ∧
    (∀ r, s.heldRecord false = none → s.heldRecord true = none → s.nextRecord false = none → s.nextRecord true = some r →
      exec .faultRootAccept s = .next (s.acceptRecord r)) ∧
    (∀ r, r.note = none → r.laneR = false → s.laneFull false = false → Memory.wf s.mem = true → (∀ c ∈ s.ctxs, c.isProt = false) →
      s.health.dead = [] → s.health.deadPch = [] →
      let t := s.acceptRecord r
      t.tree.rootSeq = s.tree.rootSeq + 1 ∧ t.tree.lfhead = (s.tree.lfhead + 1) % 2 ^ 32 ∧
        memBytes t.mem (s.tree.lfbase.toNat + 64 * (s.tree.lfhead % 256)) 64 = leBytes 64 (r.bits s.tree.rootSeq).toNat) ∧
    (∀ g, s.model.arg = .n1 g → (s.localHome (64 * g)).isMem = true → exec .poisonDetect s = .next (s.poisonGranule g)) ∧
    (∀ q h k x y i, s.model.arg = .n3 q h k → s.queueOf q = some x → x.homes[h]? = some y → y.entries[k]? = some (.item i) →
      ∃ t x' y', exec .poisonDetect s = .next t ∧ t.queueOf q = some x' ∧ x'.homes[h]? = some y' ∧
        y'.entries[k]? = some (.item { i with poison := true }) ∧ ∀ j, j ≠ k → y'.entries[j]? = y.entries[j]?) ∧
    (∀ c sn, s.model.arg = .n1 c.id → s.ctxOf c.id = some c → c.snap = some sn → c.rolling = true → s.rollReady (s.rollingWith sn) = true →
      exec .rollback s = .next (s.rollback sn (s.rollingWith sn))) ∧
    (∀ c, s.model.arg = .n1 c.id → s.ctxOf c.id = some c →
      ∃ t, exec .contextRetirement s = .next t ∧ (∀ x ∈ t.ctxs, x.id ≠ c.id) ∧ (∀ r ∈ t.regions, r.ctx ≠ c.id) ∧
        (∀ x ∈ t.streams, x.ctx ≠ c.id) ∧ ∀ j ∈ t.jobs, j.producer ≠ c.id)

/-! ### Memory health (R436 to R442) -/

/-- R437 to R442: refresh commands are counted, a retraining burst begins the count again and three failures in a row start a retirement, as soon
as the controller has no other (log 60); temperature bands reach every controller of a stack; a spare event takes a granule spare, a row spare, or exhausts the row; a retirement
switches to the lowest free spare pseudo-channel; the end of a test of a fenced station enters its result. -/
def Obligations.HealthEvents : Prop :=
  ∀ s : State, s.part ≠ 2 →
    (∀ c p, s.model.arg = .n2 c p → c < 96 → p < 32 →
      ∃ t, exec .refresh s = .next t ∧ lookupD (t.healthOf c).refresh p 0 = lookupD (s.healthOf c).refresh p 0 + 1) ∧
    (∀ c p ok, s.model.arg = .burst c p ok →
      (lookupD (s.healthOf c).refresh p 0 < (s.healthOf c).htrain.toNat → exec .retrainBurst s = .next s) ∧
      ((s.healthOf c).htrain.toNat ≤ lookupD (s.healthOf c).refresh p 0 →
        let before := lookupD (s.healthOf c).failed p 0
        let n := if ok = true ∧ before < 3 then 0 else before + 1
        let free := (s.healthOf c).retiring = none ∧ (c, p) ∉ s.health.deadPch
        ∃ t, exec .retrainBurst s = .next t ∧ lookupD (t.healthOf c).refresh p 0 = 0 ∧
          (3 ≤ n ∧ free → lookupD (t.healthOf c).failed p 0 = 0 ∧ (t.healthOf c).retiring = some (p, 1)) ∧
          (¬(3 ≤ n ∧ free) → lookupD (t.healthOf c).failed p 0 = n ∧ (t.healthOf c).retiring = (s.healthOf c).retiring))) ∧
    (∀ stack layer band k, s.model.arg = .n3 stack layer band → stack < 8 → layer < 16 → band < 4 → k < 12 →
      ∃ t, exec .temperatureBandChange s = .next t ∧ wbits (t.healthOf (12 * stack + k)).htemp (4 * layer + 3) (4 * layer) = band ∧
        ∀ c, (c < 12 * stack ∨ 12 * stack + 12 ≤ c) → t.healthOf c = s.healthOf c) ∧
    (∀ c pch bank row g slots unc, s.model.arg = .spare c pch bank row g slots unc →
      let b := s.bankOf c pch bank
      -- the weak granules of the bank's rows, this one among them; another event for it does not count it again
      let weak := if unc = true ∨ (row, g) ∈ b.weak then b.weak else b.weak ++ [(row, g)]
      let inRow := (weak.filter fun x => x.1 == row).length
      row ∉ b.exhausted → (c, pch) ∉ s.health.deadPch →
        (unc = false → inRow < 3 → 0 < b.remaps → 0 < b.granules → exec .spareEvent s =
          .next (s.putBank { b with remaps := b.remaps - 1, granules := b.granules - 1, weak := weak })) ∧
        ((unc = true ∨ 3 ≤ inRow ∨ b.remaps = 0 ∨ b.granules = 0) → 0 < b.rows →
          exec .spareEvent s = .next (s.putBank { b with rows := b.rows - 1, weak := weak.filter fun x => x.1 != row })) ∧
        ((unc = true ∨ 3 ≤ inRow ∨ b.remaps = 0 ∨ b.granules = 0) → b.rows = 0 →
          ∃ t, exec .spareEvent s = .next t ∧ ∀ q ∈ slots, pieceOf c pch q ∈ t.health.dead)) ∧
    (∀ c pch reason, s.model.arg = .n1 c → (s.healthOf c).retiring = some (pch, reason) →
      exec .pchRetireSwitch s = .next ((s.pchSwitch c pch reason).nextRetire c) ∧
      (∀ i, s.freeSpare (c / 12) = some i → (s.healthOf c).buffer = [] →
        lookup (s.pchSwitch c pch reason).health.hpmap (c / 12, i) = some (32 * (c % 12) + pch) ∧
        ((s.pchSwitch c pch reason).healthOf c).hretire = 2 ∧ ((s.pchSwitch c pch reason).healthOf c).retiring = none)) ∧
    (∀ d r n x l v, s.model.arg = .calib d r n x l → lookup s.health.calctl d = some v → wbits v 1 0 = 0 → r ≠ 0 → r ≠ 3 →
      (s.closing = true → exec .calibrationDone s = .next s) ∧
      (s.closing = false → ∃ t, exec .calibrationDone s = .next t ∧ lookupD t.health.calctl d 0 = w64 (r.toNat + n.toNat * 2 ^ 32) ∧
        -- a pass clears the suspect marks of the station under test; a failure marks its failing elements
        (let here := fun (p : Nat × Nat) => p.1 / 4 = 24 * d + wbits v 12 8
         (r = 1 → ∀ p, p ∈ t.health.suspects ↔ p ∈ s.health.suspects ∧ ¬here p) ∧
          (r = 2 → ∀ p, p ∈ t.health.suspects ↔ p ∈ s.health.suspects ∨ (p ∈ l ∧ here p))) ∧
        (s.boot.log.length < 1024 → t.boot.log = s.boot.log ++ [0#192 ++ BitVec.ofNat 32 s.boot.log.length ++ 3#32 ++ x])))

/-! ### Engines (R296 to R300, R374 to R376, R460) -/

/-- Idle engine `e` of die `d` runs the shipped microcode and finds a clean item of context `c` at the head of its work queue. -/
def Sys2Proof.Claims.FindsItem (s : State) (d e : Nat) (i : QItem) : Prop :=
  s.jobOf d e = none ∧ (∃ x, s.engineAt d e = some x ∧ x.loaded = false) ∧ (∃ q, s.workHead d e = some (q, i)) ∧ i.poison = false ∧
    (s.ctxOf i.owner).isSome = true

/-- The engine has taken the item and works on it next. -/
def Sys2Proof.Claims.TakesItem (a : Instr) (s : State) (d e : Nat) (i : QItem) : Prop :=
  ∃ t, exec a s = .next t ∧ t.jobs = s.jobs ++ [Job.start d e i.owner i.data] ∧ t.mem = s.mem ∧ t.cpu = s.cpu ∧ t.ctxs = s.ctxs

/-- R296 and R297: a step of an accepted copy issues the next pieces, up to 64 at hand, and moves one of those that may be moved, or ends the
item once none is left; and two steps copy 64 bytes from one scratchpad tile to another. How many pieces are at hand, and which of them moves
first, are the model's choices (log 32). -/
def Sys2Proof.Claims.CopySteps : Prop :=
  ∀ (s : State) (j : Job), s.jobOf j.die j.eng = some j → j.page = none → j.status = stOK → j.moving = false →
    (let k := (s.settlePieces j).issue
     let u := { s.modJob j.die j.eng fun _ => k with model := { s.model with freeCount := s.model.freeCount + 1 } }
     (s.settlePieces j).status = stOK → (s.settlePieces j).page = none → (s.settlePieces j).moving = false →
      (k.pend = [] → s.copyStep j = (s.modJob j.die j.eng fun _ => k).endJob k (copyCompletion k k.final)) ∧
      (k.pend ≠ [] → u.movable k ≠ [] → ∃ p ∈ u.movable k, s.copyStep j = u.movePiece k p) ∧
      (k.pend ≠ [] → u.movable k = [] → s.copyStep j = u)) ∧
    (∀ (c d : Ctx) (x y : Tile) (m n st sd : Nat), PlainMemory s → j.pend = [] → j.next = 0 → j.length = 64 →
      j.srcTile = some (c.id, m) → s.ctxOf c.id = some c → c.tileAt m = some x → j.dstTile = some (d.id, n) → s.ctxOf d.id = some d →
      d.tileAt n = some y →
      let a := c.partAddr x.base
      let b := d.partAddr y.base
      s.home a = .spad st a → s.home b = .spad sd b → a % 64 = 0 → b % 64 = 0 → s.poisoned a 64 = false →
      ∃ k, (s.copyStep j).jobOf j.die j.eng = some k ∧
        let t := (s.copyStep j).copyStep k
        memBytes t.mem b 64 = memBytes s.mem a 64 ∧ KeepsBytes s t b 64 ∧
          ∃ k', t.jobOf j.die j.eng = some k' ∧ k'.pieces = j.pieces + 1 ∧ k'.poisoned = j.poisoned ∧ k'.pend = [])

/-- R374 to R376: a step of an accepted multicast copy reads the next 64 bytes of its source and sends them to each member of the group, in a
request to the member's window; a member that cannot be reached counts as refused. -/
def Sys2Proof.Claims.MulticastSteps : Prop :=
  ∀ (s u : State) (j : Job) (pa st l : Nat) (via : Option Via), s.jobOf j.die j.eng = some j → j.page = none → j.status = stOK →
    j.moving = false → j.next < j.length → j.pend = [] →
    s.jobPlace j (itemBits j.item 127 64) j.srcTile j.next .r = (u, .ok pa via) → u.home pa = .spad st l → u.poisoned l 64 = false →
    let g := (u.groupOf j.group).cur
    let t := s.mcastStep j
    g.getLsbD 575 = true → u.pkgValid = true →
      t.mem = u.mem ∧
      (∃ k, t.jobOf j.die j.eng = some k ∧ k.next = j.next + 64 ∧ ∀ p, p < 512 → (groupMembers g).getLsbD p = true →
        p ∈ u.link.unreachable → k.others.getLsbD p = true) ∧
      (∀ p, p < 512 → (groupMembers g).getLsbD p = true → p ∉ u.link.unreachable → ∃ r ∈ t.bus.outs, r.pkg = some p ∧
        r.op = .line (memBytes u.mem l 64) false ∧ r.pa = 2 ^ 55 + p * 2 ^ 46 + groupBase g + j.window + j.next ∧
        r.who = .job j.die j.eng)

/-- R296, R297, R374 and R376: a copy engine takes the items at the head of its work queue in order and goes on with the one it has; a piece
is read from its source, or asked of a memory controller, and then written whole at its destination; a member that has not answered for 2^20
cycles counts as refused. An engine that power has failed (R301), or that a further record of its own stalls (R394), does nothing. -/
def Obligations.CopyEngineEvents : Prop :=
  CopySteps ∧ MulticastSteps ∧
  ∀ (s : State) (d e : Nat),
    (s.model.arg = .n2 d e → s.engineRuns d e = false → exec .engineCopy s = .next s ∧ exec .engineMulticastCopy s = .next s) ∧
    (s.model.arg = .n2 d e → e ≠ 8 → s.engineRuns d e = true →
      (∀ i, FindsItem s d e i → itemBits i.data 39 32 ≠ 2 → TakesItem .engineCopy s d e i) ∧
      (∀ i, FindsItem s d e i → itemBits i.data 39 32 = 2 → TakesItem .engineMulticastCopy s d e i) ∧
      (∀ j, s.jobOf d e = some j → j.step = 1 → j.op ≠ 2 → exec .engineCopy s = .next (s.copyStep j)) ∧
      (∀ j c t, s.jobOf d e = some j → j.step ≠ 1 → j.op ≠ 2 → s.ctxOf j.producer = some c → s.acceptCopy j c = .ok t →
        exec .engineCopy s = .next t) ∧
      (∀ j c st, s.jobOf d e = some j → j.step ≠ 1 → j.op ≠ 2 → s.ctxOf j.producer = some c → s.acceptCopy j c = .error st →
        exec .engineCopy s = .next (s.endJob j (copyCompletion j st))) ∧
      (∀ j, s.jobOf d e = some j → j.step = 1 → j.op = 2 → exec .engineMulticastCopy s = .next (s.mcastStep j)) ∧
      (∀ j c t st, s.jobOf d e = some j → j.step ≠ 1 → j.op = 2 → j.page = none → s.ctxOf j.producer = some c → j.status = stOK →
        s.acceptMcast j c = (t, some st) →
        exec .engineMulticastCopy s = .next (if st = stOK then t else t.endJob j (mcastCompletion j st)))) ∧
    (∀ (j : Job) (p : Piece) (t : State) (pa l : Nat) (via : Option Via), p.stage = 0 →
      s.jobPlace j (itemBits j.item 127 64) j.srcTile p.off .r = (t, .ok pa via) →
      (∀ st, t.home pa = .spad st l → s.movePiece j p =
        t.modPiece j p.off fun p => { p with stage := 2, data := bytesOf 64 (t.read l 64), bad := t.poisoned l 64 }) ∧
      (t.home pa = .hbm l →
        let r := t.request (.job j.die j.eng) j.producer l 0 via (.load 64) .piece;
        s.movePiece j p = r.1.modPiece j p.off fun p => { p with stage := 1, out := r.2 })) ∧
    (∀ (j : Job) (p : Piece) (t : State) (pa l : Nat) (via : Option Via), p.stage = 2 →
      s.jobPlace j (itemBits j.item 191 128) j.dstTile p.off .w = (t, .ok pa via) →
      (∀ st, t.home pa = .spad st l → p.bad = false → p.data.length = 64 → l % 64 = 0 → Memory.wf t.mem = true →
        (∀ c ∈ t.ctxs, c.isProt = false) → t.health.dead = [] → t.health.deadPch = [] →
        memBytes (s.movePiece j p).mem l 64 = p.data ∧ KeepsBytes t (s.movePiece j p) l 64) ∧
      (t.home pa = .hbm l →
        let r := t.request (.job j.die j.eng) j.producer l 0 via (.line p.data p.bad) .none;
        s.movePiece j p = r.1.modPiece j p.off fun p => { p with stage := 3, out := r.2 })) ∧
    (∀ p j, s.model.arg = .n3 d e p → s.jobOf d e = some j →
      (∃ x ∈ j.left, x.2.1 = p ∧ x.2.2 + 2 ^ 20 ≤ s.cycle.toNat ∧ s.bus.outs.any (fun r => r.id == x.1) = true) →
      ∃ t k, exec .memberAnswerTimeout s = .next t ∧ t.jobOf d e = some k ∧ k = { j with others := j.others ||| BitVec.ofNat 512 (2 ^ p) })

/-- A function of rank and block changed at one place. -/
def Sys2Proof.Claims.put {α : Type} (f : Nat → Nat → α) (r c : Nat) (v : α) : Nat → Nat → α := fun x y => if x = r ∧ y = c then v else f x y

/-- What step `p.2` of rank `p.1` does to the blocks of all ranks: `m.1 r c` is block `c` of rank `r`'s buffer and `m.2 r c` of its exchange
area. -/
def Sys2Proof.Claims.collAct {α : Type} (comb : α → α → α) (zero : α) (m : (Nat → Nat → α) × (Nat → Nat → α)) (p : Nat × CStep) :
    (Nat → Nat → α) × (Nat → Nat → α) :=
  let r := p.1
  match p.2 with
  | .send own b toward l _ => (m.1, put m.2 toward l (if own then m.1 r b else m.2 r b))
  | .recv _ _ | .scan _ => m
  | .combine c last => let v := comb (m.2 r c) (m.1 r c); if last then (put m.1 r c v, m.2) else (m.1, put m.2 r c v)
  | .place c => (put m.1 r c (m.2 r c), m.2)
  | .own => (m.1, put m.2 r r (m.1 r r))
  | .zero c => (m.1, put m.2 r c zero)

/-- The steps of `n` ranks side by side: every rank's first step, then every rank's second one, and so on. -/
def Sys2Proof.Claims.sideBySide (op n : Nat) : List (Nat × CStep) :=
  (List.range (collSteps op n 0).1.length).flatMap fun k => (List.range n).filterMap fun r => ((collSteps op n r).1[k]?).map fun x => (r, x)

/-- The steps of rank 0, then those of rank 1, and so on. -/
def Sys2Proof.Claims.rankByRank (op n : Nat) : List (Nat × CStep) :=
  (List.range n).flatMap fun r => (collSteps op n r).1.map fun x => (r, x)

/-- The fold of block `c` along the ring (R298): Comb(... Comb(Comb(x(c+1, c), x(c+2, c)), x(c+3, c)) ...), of `k + 1` values. -/
def Sys2Proof.Claims.ringFold {α : Type} (comb : α → α → α) (x : Nat → Nat → α) (n c : Nat) : (k : Nat) → α
  | 0 => x ((c + 1) % n) c
  | k + 1 => comb (ringFold comb x n c k) (x ((c + k + 2) % n) c)

/-- R298, R340 and R460: what the five collectives leave in the buffers, and all-to-all in the exchange areas, when the `n` ranks have taken their
steps: side by side, and in a broadcast, whose data goes down a tree, rank by rank. -/
def Sys2Proof.Claims.CollectiveResults : Prop :=
  ∀ (α : Type) (comb : α → α → α) (zero : α) (n : Nat) (x e : Nat → Nat → α), 2 ≤ n → n ≤ 512 →
    let after := fun (steps : List (Nat × CStep)) => steps.foldl (collAct comb zero) (x, e)
    ∀ r c, r < n → c < n →
      (after (sideBySide 0x10 n)).1 r c = ringFold comb x n c (n - 1) ∧
      (after (sideBySide 0x11 n)).1 r c = (if c = r then ringFold comb x n c (n - 1) else x r c) ∧
      (after (sideBySide 0x12 n)).1 r c = x c c ∧
      (after (rankByRank 0x13 n)).1 r c = x 0 c ∧
      (after (sideBySide 0x14 n)).1 r c = x r c ∧ (after (sideBySide 0x14 n)).2 r c = x c r

/-- An access of a job reaches 64 aligned bytes of a scratchpad; `u` is the state after the translation. -/
def Sys2Proof.Claims.JobReaches (s : State) (j : Job) (va : Nat) (need : Need) (u : State) (l : Nat) : Prop :=
  ∃ pa via st, s.jobAccess j va need = (u, .ok pa via) ∧ u.home pa = .spad st l ∧ l % 64 = 0 ∧ PlainMemory u

/-- The buffer page of a placement is present (R410); `u` is the state after the look. -/
def Sys2Proof.Claims.BufferPresent (s : State) (j : Job) (va : Nat) (u : State) : Prop :=
  ∃ c pa via, s.ctxOf j.producer = some c ∧ s.translate (.engine j.die j.eng) c.asid va .w c.service = (u, .ok pa via)

/-- The next 64 bytes of the step's block follow, or the next step. -/
def Sys2Proof.Claims.GoesOn (j : Job) (t : State) : Prop :=
  ∃ k, t.jobOf j.die j.eng = some k ∧ k.pend = [] ∧ k.poisoned = j.poisoned ∧ k.bytes = j.bytes ∧
    if j.next + 64 < j.blockBytes then k.step = j.step ∧ k.next = j.next + 64 else k.step = j.step + 1 ∧ k.next = 0

/-- R298 and R460: what each step of a collective does to 64 bytes that lie in scratchpads: a transfer writes them into the receiver's exchange
area, a combination writes Comb of the received and the own bytes, into the exchange block or, at the last step, into the buffer, a placement
copies what was received into the buffer. A transfer is received when its flag line holds the own signature with its number. -/
def Sys2Proof.Claims.CollectiveSteps : Prop :=
  ∀ (s u t v w : State) (j : Job) (a b l : Nat), s.jobOf j.die j.eng = some j → j.page = none → j.status = stOK → collBad j = false →
    j.peers.length = j.ranks → j.held = none → j.pend = [] → j.next < j.blockBytes →
    let now := fun (x : CStep) => (j.steps.1 ++ j.steps.2)[j.step]? = some x
    let z := s.collStep j
    (∀ own block toward landing num, now (.send own block toward landing num) →
      JobReaches s j ((if own then j.buffer else j.exchange) + block * j.blockBytes + j.next) .r u a → u.poisoned a 64 = false →
      JobReaches u j (j.peers.getD toward 0 + landing * j.blockBytes + j.next) .w t b → t.stagingFull b = false →
      memBytes z.mem b 64 = memBytes s.mem a 64 ∧ KeepsBytes s z b 64 ∧
        z.jobOf j.die j.eng = some { j with next := j.next + 64, bytes := j.bytes + 64 }) ∧
    (∀ c, now (.combine c false) → JobReaches s j (j.stagedAt c) .r u a → u.poisoned a 64 = false →
      JobReaches u j (j.bufferAt c) .r t b → t.poisoned b 64 = false → JobReaches t j (j.stagedAt c) .w v l →
      memBytes z.mem l 64 = bytesOf 64 (combBytes j.comb j.type (s.read a 64) (s.read b 64)).1 ∧ KeepsBytes s z l 64 ∧ GoesOn j z) ∧
    (∀ c, now (.combine c true) → JobReaches s j (j.stagedAt c) .r u a → u.poisoned a 64 = false →
      JobReaches u j (j.bufferAt c) .r t b → t.poisoned b 64 = false →
      let r := combBytes j.comb j.type (s.read a 64) (s.read b 64)
      let k := { j with flags := orFlags j.flags r.2 }
      BufferPresent (t.modJob j.die j.eng fun _ => k) j (j.bufferAt c) v → JobReaches v j (j.bufferAt c) .w w l →
      memBytes z.mem l 64 = bytesOf 64 r.1 ∧ KeepsBytes s z l 64 ∧ GoesOn j z) ∧
    (∀ c, now (.place c) → JobReaches s j (j.stagedAt c) .r u a → u.poisoned a 64 = false → BufferPresent u j (j.bufferAt c) v →
      JobReaches v j (j.bufferAt c) .w w l →
      memBytes z.mem l 64 = memBytes s.mem a 64 ∧ KeepsBytes s z l 64 ∧ GoesOn j z) ∧
    (now .own → JobReaches s j (j.bufferAt j.rank) .r u a → u.poisoned a 64 = false → JobReaches u j (j.stagedAt j.rank) .w t l →
      memBytes z.mem l 64 = memBytes s.mem a 64 ∧ KeepsBytes s z l 64 ∧ GoesOn j z) ∧
    (∀ c, now (.zero c) → JobReaches s j (j.stagedAt c) .w u l →
      memBytes z.mem l 64 = List.replicate 64 0 ∧ KeepsBytes s z l 64 ∧ GoesOn j z) ∧
    (∀ source num, now (.recv source num) → JobReaches s j (j.flagLine j.exchange source) .r u a →
      let f := s.read a 8
      z.mem = s.mem ∧
        (f = j.signature num → ∃ k, z.jobOf j.die j.eng = some k ∧ k.step = j.step + 1 ∧ k.next = 0 ∧ k.status = stOK) ∧
        (f.testBit 63 = false → z.jobOf j.die j.eng = some j) ∧
        (f.testBit 63 = true → bitsOf f 34 25 = num % 2 ^ 10 → f ≠ j.signature num →
          z.jobOf j.die j.eng = some { j with status := stAborted }))

/-- R298, R460 and R300: what the five collectives and their steps leave; the collective engine of a die goes on with an item of its operation;
its timeout, counted from when it began to wait (DEDUCED, log 33), ends an item that waits; staging is asked again after 1,024 cycles; and
microcode whose verification ends takes effect or is refused with its cause, which is 3 for an image outside local HBM (DESIGN CHOICE,
log 34). An engine that power has failed, or that a further record stalls, does nothing. -/
def Obligations.CollectiveEvents : Prop :=
  CollectiveResults ∧ CollectiveSteps ∧
  ∀ (s : State) (d : Nat),
    (s.model.arg = .n2 d 8 → s.engineRuns d 8 = false →
      exec .allReduce s = .next s ∧ exec .reduceScatter s = .next s ∧ exec .allGather s = .next s ∧ exec .broadcast s = .next s ∧
        exec .allToAll s = .next s ∧ exec .collectiveTimeout s = .next s) ∧
    (s.model.arg = .n2 d 8 → s.engineRuns d 8 = true →
      (∀ j, s.jobOf d 8 = some j →
        (j.op = 0x10 → exec .allReduce s = .next (s.collStep j)) ∧ (j.op = 0x11 → exec .reduceScatter s = .next (s.collStep j)) ∧
        (j.op = 0x12 → exec .allGather s = .next (s.collStep j)) ∧ (j.op = 0x13 → exec .broadcast s = .next (s.collStep j)) ∧
        (j.op = 0x14 → exec .allToAll s = .next (s.collStep j)) ∧
        (j.op < 0x10 ∨ 0x14 < j.op → exec .allReduce s = .next (s.endJob j (collCompletion j stAborted)))) ∧
      (∀ i, FindsItem s d 8 i →
        (itemBits i.data 39 32 = 0x10 → TakesItem .allReduce s d 8 i) ∧ (itemBits i.data 39 32 = 0x11 → TakesItem .reduceScatter s d 8 i) ∧
        (itemBits i.data 39 32 = 0x12 → TakesItem .allGather s d 8 i) ∧ (itemBits i.data 39 32 = 0x13 → TakesItem .broadcast s d 8 i) ∧
        (itemBits i.data 39 32 = 0x14 → TakesItem .allToAll s d 8 i)) ∧
      (∀ j, s.jobOf d 8 = some j → j.peers.length = j.ranks → j.status = stOK → j.awaits = true → j.since + j.limit ≤ s.cycle.toNat →
        ∃ t, exec .collectiveTimeout s = .next t ∧ t.jobOf d 8 = some { j with status := stTimeout })) ∧
    (∀ e j at_, s.model.arg = .n2 d e → s.jobOf d e = some j → j.held = some at_ →
      (at_ + 1024 ≤ s.cycle.toNat → s.engineRuns d e = true → ∃ t, exec .stagingRetry s = .next t ∧ t.jobOf d e = some { j with held := none }) ∧
      (s.cycle.toNat < at_ + 1024 → ∃ t, exec .stagingRetry s = .next t ∧ t.jobOf d e = some j)) ∧
    (∀ e ok digest x, s.model.arg = .micro d e ok digest → s.engineAt d e = some x → x.mcstat = 1 →
      let base := x.mcbase.toNat
      let n := wbits x.mclen 16 0
      let cause := if s.engineIdle d e = false then 1 else if n < 66 ∨ 65600 < n ∨ n % 2 ≠ 0 then 2
        else if ok = false ∨ s.inHbm base n = false then 3 else if s.poisoned base n = true then 4 else 0
      (cause ≠ 0 → exec .microcodeVerifyDone s = .next (s.modEngine d e fun x => { x with mcstat := 3, mccause := cause })) ∧
      (cause = 0 → exec .microcodeVerifyDone s = .next (s.loadMicrocode d e base (n - 64) digest) ∧
        ∃ y, (s.loadMicrocode d e base (n - 64) digest).engineAt d e = some y ∧ y.mcstat = 2 ∧ y.loaded = true))

/-! ### The link and the host (R369 to R372, R378 to R380, R455) -/

/-- R369, R372, R378, R380, R385, R452 and R455: an inbound access passes the check of its entry, or its source gets the reason why not; a
refusal that returns is taken by its source; a failed port is fenced with a record; a PCIe request passes its entry, or is completed as
unsupported, or, as a write, dropped and counted as an error of its port; BAR0 reads and writes the package block. Nothing comes in over a
port whose ACC1 bit is clear, nor once power has failed. The model's choices are which PCIe forms are unsupported, that errors are counted
for each port, and what a BAR0 access of another size or alignment gives (log 59), and BUSY for a transfer over full staging (log 58). -/
def Obligations.LinkEvents : Prop :=
  ∀ s : State,
    (∀ port src off op, s.model.arg = .inbound port src off op →
      (s.closing = true ∨ s.linkUp port = false → exec .inboundAccess s = .next s) ∧
      (s.closing = false → s.linkUp port = true →
        let refused := fun (st : Status) => { s with bus := { s.bus with replies := ⟨src, false, st, 0, false⟩ :: s.bus.replies } }
        let st := inboundCheck s.link.peers src off (remoteNeed op)
        (inCtlWindow off = true → exec .inboundAccess s = .next (refused stPermission)) ∧
        (inCtlWindow off = false →
          (st ≠ stOK → exec .inboundAccess s = .next (refused st)) ∧
          (st = stOK → (s.localHome off).isMem = false → exec .inboundAccess s = .next (refused stPermission)) ∧
          (st = stOK → (s.localHome off).isMem = true → transferOp op = true ∧ s.stagingFull off = true →
            exec .inboundAccess s = .next (refused stBusy)) ∧
          (st = stOK → (s.localHome off).isMem = true → ¬(transferOp op = true ∧ s.stagingFull off = true) →
            exec .inboundAccess s = .next (s.takeIn (.link src) src false off (remoteMem op)))))) ∧
    (∀ id st r, s.model.arg = .refusal id st → s.bus.outs.find? (fun r => r.id == id && r.pkg.isSome) = some r →
      s.linked = true → exec .refusalReturn s = .next (s.refuseOut r st)) ∧
    (∀ p far, s.model.arg = .port p far → p ∉ s.link.portsDown → s.boot.acc1.getLsbD p = true →
      ∃ t r, exec .linkPortFailure s = .next t ∧ t.link.portsDown = p :: s.link.portsDown ∧ t.tree.recs = s.tree.recs ++ [r] ∧ r.cls = clLinkFailure ∧
        r.laneR = false ∧ t.mem = s.mem) ∧
    (∀ p, s.model.arg = .n1 p →
      (∃ t, exec .packageUnreachable s = .next t ∧ p ∈ t.link.unreachable) ∧
      (s.linked = true →
        exec .packageReachable s = .next { s with link := { s.link with unreachable := s.link.unreachable.filter (· != p) } })) ∧
    (∀ port rq off relaxed op, s.model.arg = .pcie port rq off relaxed op →
      (s.closing = true → exec .pcieInboundRequest s = .next s) ∧
      (s.closing = false →
        let fits := pcieOp op = true ∧ s.part ≠ 2 ∧ off < 0x8000000000
        let st := inboundCheck s.link.buses rq off (remoteNeed op)
        (fits ∧ st = stOK → exec .pcieInboundRequest s =
          .next (s.takeIn (.pcie port (relaxed && pcieStore op)) rq true off (remoteMem op))) ∧
        (¬(fits ∧ st = stOK) →
          (pcieStore op = false → exec .pcieInboundRequest s =
            .next { s with bus := { s.bus with replies := ⟨rq, true, stPermission, 0, false⟩ :: s.bus.replies } }) ∧
          (pcieStore op = true → exec .pcieInboundRequest s =
            .next { s with link := { s.link with aer := assign s.link.aer port (lookupD s.link.aer port 0 + 1) } })))) ∧
    (∀ off size w, s.model.arg = .bar0 off size w →
      (s.closing = true → exec .hostBar0Access s = .next s) ∧
      (s.closing = false → ¬((size = 4 ∨ size = 8) ∧ off % size = 0) →
        (w = none → exec .hostBar0Access s = .next { s with bus := { s.bus with replies := ⟨0, true, stOK, 0, false⟩ :: s.bus.replies } }) ∧
        (w ≠ none → exec .hostBar0Access s = .next s)) ∧
      (s.closing = false → (size = 4 ∨ size = 8) → off % size = 0 →
        let reads := fun (v : Nat) => exec .hostBar0Access s = .next { s with bus := { s.bus with
          replies := ⟨0, true, stOK, v % 2 ^ (8 * size), false⟩ :: s.bus.replies } }
        (off < 0x100 ∨ (0x800 ≤ off ∧ off < 0x900) →
          (w = none → reads (s.ctlRead (.pkgCtl off) size)) ∧
          (∀ v, w = some v → exec .hostBar0Access s = .next (s.ctlWrite (.pkgCtl off) size v.toNat))) ∧
        (0x10000 ≤ off → off < 0x20000 →
          (w = none → reads (s.ctlRead (.pkgCtl off) size)) ∧ (w ≠ none → exec .hostBar0Access s = .next s)) ∧
        (0x100000 ≤ off → off < 0x200000 → w = none → reads (memNat s.boot.window (off - 0x100000) size))))

/-! ### Dome-close and power (R421 to R427, R433) -/

/-- R421, R422, R423, R427 and R433: the fall of the input rail freezes the part and numbers the event; handlers start once nothing is in
flight, and end with their allowance; segments are closed one at a time; the directory of the event is written, and the part stops. That what
left the part is no longer waited for when handlers start is inferred (DEDUCED, log 35). -/
def Obligations.DomeEvents : Prop :=
  ∀ s : State,
    (s.boot.acc0.getLsbD 1 = true → s.dome.phase = .idle → s.part ≠ 2 →
      ∃ t, exec .domeCloseTrigger s = .next t ∧ t.dome.phase = .frozen ∧ t.dome.plates = [] ∧
        t.dome.event = (match s.directory with | some x => x.event | none => 0) + 1 ∧ (∀ r ∈ t.regions, r.freeze ≠ .running) ∧
        t.tree.rootSeq = s.tree.rootSeq + 1) ∧
    (s.boot.acc0.getLsbD 1 = false → exec .domeCloseTrigger s = .next s) ∧
    (s.dome.phase = .frozen → s.frozen = true →
      ∃ t, exec .domeHandlerStart s = .next t ∧ t.bus.outs = [] ∧ t.mem = s.mem ∧
        t.dome.phase = .handlers ((s.ctxs.filterMap fun c => c.handlerActor).map fun a => (a, s.cycle.toNat))) ∧
    (∀ a rs since c, s.model.arg = .actor a → s.dome.phase = .handlers rs → rs.find? (fun r => r.1 == a) = some (a, since) →
      s.actorCtx a = some c → since + c.allowance ≤ s.cycle.toNat →
      exec .allowanceExpiry s = .next (s.modThr a fun t => { t with run := .halted, wait := .none })) ∧
    (∀ c x, s.dome.phase = .copying → s.closeOrder[s.dome.plates.length]? = some (c, x) →
      exec .domeCopy s = .next { s.closeSegment c x with dome := { (s.closeSegment c x).dome with phase := .copying } }) ∧
    (s.dome.phase = .copying → s.closeOrder[s.dome.plates.length]? = none →
      exec .domeCopy s = .next { s with dome := { s.dome with phase := .directory } }) ∧
    (s.dome.phase = .directory →
      (s.model.arg = .flag true → ∃ t, exec .domeDirectoryWrite s = .next t ∧ t.dome.phase = .stopped ∧
        t.dome.dirs[match s.newest with | some 0 => 1 | _ => 0]? = some s.newDirectory) ∧
      (s.model.arg = .flag false → exec .domeDirectoryWrite s = .next { s with dome := { s.dome with phase := .stopped } })) ∧
    (s.dome.phase ≠ .idle → exec .powerReturn s = .next { s with dome := { s.dome with returned := true } })

/-! ### Power-on, boot and activation (R429, R430, R449 to R453) -/

/-- R450 to R452, R412 and R429: what one cycle does to a machine whose boot is at hand. An image that die 0 does not verify waits in stage 1
for the host; another failure ends boot in stage 15; stage 1 appends measurement entry 0, stage 3 opens the hold-up account, stage 4 lasts
as long as the plate check, and stage 5 accepts the part's features. -/
def Sys2Proof.Claims.BootStages : Prop :=
  ∀ (s : State) (x : BootInput), s.boot.input = some x →
    let c := bootCode x
    let t := s.bootTick
    let failed := fun (code : Nat) => t.boot.stage = 15 ∧ t.boot.fail = code ∧ t.boot.log = s.boot.log ∧ t.mem = s.mem
    (x.failure ≠ 1 → x.failure ≠ 2 → (x.keyDigest ≠ Config.fusedKey → c = 3) ∧
      (x.keyDigest = Config.fusedKey → x.version < Config.fusedVersion → c = 4) ∧
      (x.keyDigest = Config.fusedKey → ¬x.version < Config.fusedVersion → c = x.failure)) ∧
    (s.boot.stage = 0 → t = { s with boot := { s.boot with stage := 1 } }) ∧
    (s.boot.stage = 1 →
      (1 ≤ c → c ≤ 4 → x.die = 0 → t = s) ∧ (1 ≤ c → c ≤ 4 → x.die ≠ 0 → failed c) ∧ (c = 7 → failed 7) ∧
      (c = 0 ∨ c = 5 ∨ c = 6 → t.boot.stage = 2 ∧ t.boot.version = x.version ∧
        (s.boot.log = [] → t.boot.log = [0#192 ++ 0#32 ++ 1#32 ++ x.digest]))) ∧
    (s.boot.stage = 2 → (c = 5 → failed 5) ∧ (c ≠ 5 → t = { s with boot := { s.boot with stage := 3 } })) ∧
    (s.boot.stage = 3 → (c = 6 → failed 6) ∧
      (c ≠ 6 → t.boot.stage = 4 ∧ t.dome.checking = (s.part != 2) ∧
        t.dome.hbudget = if s.part ≠ 2 ∧ x.bankOk = true then 1950000 else 0)) ∧
    (s.boot.stage = 4 → (s.dome.checking = true → t = s) ∧
      (s.dome.checking = false → t = { s with boot := { s.boot with stage := 5 } })) ∧
    (s.boot.stage = 5 → t.boot.stage = 6 ∧ t.boot.services = x.services ∧
      (t.boot.feat0, t.boot.feat1, t.boot.feat2) = partFeatures s.part x.bankOk ∧ t.boot.acc0 = t.boot.feat0 ∧ t.boot.acc1 = t.boot.feat1) ∧
    (5 < s.boot.stage → t = s)

/-- R37, R54, R287 and R312: what an activation that replaces nothing installs, from the image with its relocations applied: the gang, each
context with its threads at their entry points, the queues behind those that stand, and each region with its blocks at the lowest free
handles. Contexts and gangs of the state have identities below the next one. Code, data and segments are left out here. -/
def Sys2Proof.Claims.Installs (s t : State) (img : Image) (req : ActReq) : Prop :=
  let handles := lowestFree (s.regions.map (·.handle)) img.regions.length
  ∀ p : Image, applyRelocs req.place handles [] img.relocs img = .ok p → req.replace = none →
    (∀ c ∈ s.ctxs, c.id < s.model.nextId ∧ c.gang < s.model.nextId) → (∀ g ∈ s.gangs, g.id < s.model.nextId) →
    let g := s.model.nextId
    t.loaded = some (loadStatus p req) ∧
    (∃ x, t.gangOf g = some x ∧ x.name = p.name ∧ x.version = p.version ∧ x.asid = req.asid ∧ x.service = req.service ∧ x.qstate = 0 ∧
      x.queues = p.queues.length) ∧
    (∀ (i : Nat) (c : CtxDecl), p.ctxs[i]? = some c → ∃ x ∈ t.ctxs, x.gang = g ∧ x.index = i ∧ x.logical = c.station ∧
      x.station = req.place.getD c.station 96 ∧ x.asid = req.asid ∧ x.service = req.service ∧ x.regs = c.regs ∧ x.prio = c.prio ∧
      x.partUnits = c.spad ∧ x.handler = c.handler ∧ x.allowance = c.allowance ∧ x.mcls = 0x30 ∧ x.hangiv = 1024 ∧
      (c.code.length = c.threads → x.threads.map (fun k => (k.pc, k.run)) =
        c.code.map fun k => (w64 k.va, if k.start = true then .running else .never))) ∧
    t.queues.map (fun q => (q.ty, q.size, q.cap, q.prio, q.gang)) =
      s.queues.map (fun q => (q.ty, q.size, q.cap, q.prio, q.gang)) ++ p.queues.map (fun d => (d.fmt, d.size, d.cap, d.prio, some g)) ∧
    (∀ (k i j : Nat) (c : CtxDecl) (wh : Nat × Nat) (n : Nat), p.regions[k]? = some (i, j) → p.ctxs[i]? = some c → c.regions[j]? = some wh → handles[k]? = some n →
      ∃ r ∈ t.regions, r.handle = n ∧ r.index = j ∧ (r.w, r.h) = wh ∧ r.blocks = loadBlocks c j ∧
        ∃ x ∈ t.ctxs, x.id = r.ctx ∧ x.gang = g ∧ x.index = i)

/-- R449 to R452 and R429: a reset begins a boot in stage 0, and the stages follow; the host's image goes on from stage 1; the plate check
ends; an image is activated whole or not at all; and the write of a body ends with its completion. That memory reads as at first after a
reset is the model's choice (log 4), and that an activation waits for the accesses of its address space is inferred (log 63). -/
def Obligations.BootEvents : Prop :=
  BootStages ∧
  ∀ (s : State) (inp : BootInput),
    (s.model.arg = .boot inp →
      (∃ t, exec .powerOnReset s = .next t ∧ t.boot.stage = 0 ∧ t.boot.input = some inp ∧ t.part = s.part ∧ t.ctxs = [] ∧ t.regions = [] ∧
        t.queues = [] ∧ t.mem = [] ∧ t.boot.log = [] ∧ t.health.banks = s.health.banks) ∧
      (s.boot.stage = 1 →
        let c := bootCode inp
        ∃ t, exec .hostImageReady s = .next t ∧ t.boot.hostReady = true ∧
          (c = 7 ∨ (1 ≤ c ∧ c ≤ 4) → t.boot.stage = 15 ∧ t.boot.fail = c) ∧
          (c = 0 ∨ c = 5 ∨ c = 6 → t.boot.stage = 2 ∧ t.boot.version = inp.version ∧ t.boot.input = some inp)) ∧
      (s.boot.stage ≠ 1 → exec .hostImageReady s = .next s)) ∧
    (∀ bad, s.model.arg = .plates bad →
      (s.newest = none → exec .plateCheckDone s = .next { s with dome := { s.dome with checking := false } }) ∧
      (∀ k, s.newest = some k → s.dome.checking = true → ∃ t, exec .plateCheckDone s = .next t ∧ t.dome.checking = false ∧
        (t.dirCopy k).plates = (s.dirCopy k).plates.zipIdx.map fun p => p.1.check bad p.2)) ∧
    (∀ img req, s.model.arg = .activate img req → s.asidBusy req.asid = true → exec .imageActivation s = .next s) ∧
    (∀ img req, s.model.arg = .activate img req → s.boot.stage = 6 → s.closing = false → s.dome.checking = false → s.asidBusy req.asid = false →
      (∀ n o, s.flush.activate img req = .error (n, o) → exec .imageActivation s = .next { s with loaded := some ⟨n, some o, [], 0⟩ }) ∧
      (∀ t, s.flush.activate img req = .ok t → exec .imageActivation s = .next t ∧ Installs s.flush t img req)) ∧
    (∀ c w, s.model.arg = .n1 c.id → s.ctxOf c.id = some c → c.bodyWrite = some w → w.begin.pend = [] →
      let u := { s with model := { s.model with freeCount := s.model.freeCount + 1 } }
      -- while its mailbox has no room, the write is in flight
      (u.mailReady c.id = false → exec .platerdBodyComplete s = .next u) ∧
      (u.mailReady c.id = true → exec .platerdBodyComplete s = .next
        ((u.modCtx c.id fun c => { c with bodyWrite := none }).mail c.id w.begin.completion)))

/-! ### Statements of several parts -/

/-- R160: every integer form, with its bit counts, and its word. -/
def Obligations.IntegerResults : Prop :=
  Claims.IntegerForms ∧ Claims.BitCounts ∧ Claims.IntegerEncodings

/-- R161, R162 and R64: immediate, constant and compact forms. -/
def Obligations.ImmediateAndCompactResults : Prop :=
  Claims.ImmediateResults ∧ Claims.CompactResults

/-- R161 and R162: the words of the immediate and constant forms, and what they do; LIC into g0 reads zero and writes nothing. A shift word with
any of bits [12:6] set is no instruction's, and such a word raises ILLEGAL-ENCODING. -/
def Obligations.ImmediateAndConstantForms : Prop :=
  Claims.ImmediateEncodings ∧ Claims.ImmediateResults ∧ Claims.UndecodedTraps

/-- R164 and R169 to R171: floating-point forms send their requests; R93: the results reach gd and k.fflags. -/
def Obligations.FloatResults : Prop :=
  Claims.FloatRequests ∧ Claims.SfuResultDelivered

/-- R172, R173 and R64: where branches go, and jumps to even targets, and the words of the branches. -/
def Obligations.BranchesAndJumps : Prop :=
  Claims.BranchResults ∧ Claims.JumpResults ∧ Claims.BranchEncodings

/-- R167, R387 and R389: taking a trap, the checks and accesses that raise one, and the return. That k.tval of a JALR to an odd target holds the
target is inferred (DEDUCED, log 10); that a trap waits for loads of the thread too, beside SFU results, is the model's choice (log 66). -/
def Obligations.TrapsAndReturns : Prop :=
  Claims.TrapsTaken ∧ Claims.TrapsWait ∧ Claims.ChecksTrap ∧ Claims.AccessTraps ∧ Claims.TrapReturn

/-- R282, R317, R333 and R389: a thread stops, changes its priority, yields, and gets the issue slot. -/
def Obligations.ThreadScheduling : Prop :=
  Claims.HaltStops ∧ Claims.ThreadPriority ∧ Claims.IssueSlots

/-- R13 and R330 to R332: what a form with a status leaves; arming, disarming and priority of blocks; CANCEL. -/
def Obligations.SchedulingForms : Prop :=
  Claims.StatusFormEnds ∧ Claims.BlockArming ∧ Claims.CancelResults

/-- R235 and R237: loads and stores at a scratchpad. -/
def Obligations.LoadsAndStores : Prop :=
  Claims.LoadResults ∧ Claims.StoreResults

/-- R211, R212, R240 and R241: fences, atomics and compare-and-swap. -/
def Obligations.AtomicsAndFences : Prop :=
  Claims.FenceResults ∧ Claims.OrdersHold ∧ Claims.AtomicResults ∧ Claims.CasResults

/-- R206, R371, R381 and R441: accesses on their way, and what crosses the link and the host port. That the thread goes on past a load, and that
a refused one leaves a trap due, are the model's choices (log 66). -/
def Obligations.RemoteAccessEvents : Prop :=
  Claims.RemoteLoadSteps ∧ Claims.OutboundSteps

/-- R274 to R279: sending a message, and its arrival. -/
def Obligations.Messages : Prop :=
  Claims.SendResults ∧ Claims.ArrivalRule ∧ Claims.ArrivalEvents

/-- R280 to R286: counters, mailbox and time limits of waits. What MBPOP and MBPEEK leave in gd when it is a register of the pair is the
model's choice (log 20). -/
def Obligations.Waiting : Prop :=
  Claims.CounterResults ∧ Claims.MailboxResults ∧ Claims.WaitTimeouts

/-- R260 to R267: queues, of items of up to 16 bytes. What QPOP and QPEEK leave in gd when it is a register of the pair is the model's choice
(log 20); that QDEF binds no consumer whose handles are all taken is inferred (DEDUCED, log 55). -/
def Obligations.QueueForms : Prop :=
  Claims.PushResults ∧ Claims.PopResults ∧ Claims.QueueTables

/-- R248 to R258: tags, tiles and address generators. -/
def Obligations.LocalTables : Prop :=
  Claims.TagResults ∧ Claims.TileResults ∧ Claims.AddressGenerators

/-- R156 to R159: reading and writing control registers, and the line forms of engine harts. -/
def Obligations.ControlRegisters : Prop :=
  Claims.ControlReads ∧ Claims.ControlWrites ∧ Claims.HartForms

/-- R142 to R149: matrix commands from their sender to the region. -/
def Obligations.MatrixCommands : Prop :=
  Claims.MatrixSends ∧ Claims.CommandArrives

/-- R269 to R271, R186 and R187: a stream is opened, closed, asked and ended. -/
def Obligations.StreamControl : Prop :=
  Claims.StreamForms ∧ Claims.StreamEnds

/-- R287 to R291: barriers and reductions. -/
def Obligations.Barriers : Prop :=
  Claims.EpisodeJoins ∧ Claims.LoneBarrier

/-- R355, R363, R364 and R401: CAPMINT, TLBINV and RDSTATE. -/
def Obligations.ServiceForms : Prop :=
  Claims.CapmintResults ∧ Claims.TlbinvResults ∧ Claims.RdstateResults

/-- R395 to R401, R457: switching contexts, saving and restoring regions. -/
def Obligations.Preemption : Prop :=
  Claims.PreemptionResults ∧ Claims.RestoreResult ∧ Claims.PreemptionEvents

/-- R419, R420, R430 and R431: declarations, open ranges and plates. -/
def Obligations.HoldUp : Prop :=
  Claims.HoldForms ∧ Claims.PlateForms

/-- R324 to R327, R407 and R408: quiesce, hang monitor and blink check of a region. -/
def Obligations.RegionEvents : Prop :=
  Claims.RegionMonitors ∧ Claims.QuiesceEvents

/-- Stores to the control window, and its tables. -/
def Obligations.ControlWindow : Prop :=
  Claims.ControlWindowWrites ∧ Claims.TableWrites
end

