-- ==== Sys2Proof/Laws/Issue.lean ====
section
/-! SUPPORT. Registers, and what an instruction that passes its checks does: each is said once and cited. -/

namespace Sys2Proof.Machine

open Claims

/-- What a register holds after a register has been written. -/
theorem Thr.reg_setReg (t : Thr) (d r : Reg) (v : Word) :
    (t.setReg d v).reg r = if r = d then (if d = 0 then 0 else v) else t.reg r := by
  by_cases hd : d = 0
  · subst hd
    by_cases hr : r = 0 <;> simp [Thr.setReg, Thr.reg, hr]
    exact fun h h' => absurd h h'
  · rw [Thr.setReg, if_neg hd]
    by_cases hr : r = 0
    · subst hr
      rw [if_neg (Ne.symm hd)]
      rfl
    · simp only [Thr.reg, if_neg hr]
      by_cases h : r = d
      · subst h; rw [if_pos rfl, if_neg hd, Vector.getElem_set_self]
      · rw [if_neg h, Vector.getElem_set_ne]
        exact fun h' => h (BitVec.eq_of_toNat_eq h'.symm)

theorem State.reg_setReg (s : State) (d r : Reg) (v : Word) :
    (s.setReg d v).reg r = if r = d then (if d = 0 then 0 else v) else s.reg r := Thr.reg_setReg s.cpu d r v

/-- Writing a register changes the register file alone. -/
theorem Thr.setReg_eq (t : Thr) (d : Reg) (v : Word) : t.setReg d v = { t with g := (t.setReg d v).g } := by
  by_cases h : d = 0 <;> simp only [Thr.setReg, h, if_true, if_false]

/-- A register that is none of a form's positions. -/
theorem meets_false {f : Form} {q : Reg} (h : q ∉ f.regs ∧ ∀ r ∈ f.pairs, q ≠ r ∧ q ≠ r + 1) : f.meets q = false := by
  simp only [Form.meets, Bool.or_eq_false_iff, List.contains_eq_mem, decide_eq_false_iff_not, List.any_eq_false, Bool.or_eq_true, beq_iff_eq, not_or]
  exact ⟨h.1, fun r hr => ⟨(h.2 r hr).1.symm, (h.2 r hr).2.symm⟩⟩

/-- An instruction whose checks all pass goes to its own effect (R67, R166). -/
theorem issue_ready {i : Instr} {f : Form} {s : State} {body : State → State} (h : Ready f s) : issue i f s body = .next (body s) := by
  have waits : f.sfuWait s = false := List.any_eq_false.mpr fun q hq => Bool.eq_false_iff.mp (meets_false (h.results q hq))
  have loads : f.loadWait s = false := List.any_eq_false.mpr fun p hp => by
    obtain ⟨hs, hl⟩ := h.loads p hp
    simp only [hs, Bool.not_true, Bool.false_or, List.any_eq_true, not_exists, not_and, Bool.not_eq_true]
    exact fun q hq => meets_false (hl q hq)
  have checks : f.check s = none := by
    have service : (f.service && !s.service) = false := by
      cases hs : f.service <;> simp
      exact h.service hs
    have regs : (f.regs.all s.regOk && f.pairs.all s.pairOk) = true := by
      simp only [Bool.and_eq_true, List.all_eq_true, State.regOk, State.pairOk, decide_eq_true_eq, beq_iff_eq]
      exact ⟨h.regs, h.pairs⟩
    simp [Form.check, h.gate, service, regs]
  simp [issue, waits, loads, checks]

/-- Everything that `issue` can do: wait for results (R166, R209), raise the class of the first check that fails (R67), or run the effect. -/
theorem issue_cases (i : Instr) (f : Form) (s : State) (body : State → State) :
    (f.sfuWait s = true ∧ issue i f s body = .next (s.waitFor .sfu)) ∨
    (f.sfuWait s = false ∧ f.loadWait s = true ∧ issue i f s body = .next (s.waitFor (.loads f.all))) ∨
    (∃ c, f.sfuWait s = false ∧ f.loadWait s = false ∧ f.check s = some c ∧ issue i f s body = .next (s.trap c i.wordVal)) ∨
    (f.sfuWait s = false ∧ f.loadWait s = false ∧ f.check s = none ∧ issue i f s body = .next (body s)) := by
  unfold issue
  cases f.sfuWait s <;> cases f.loadWait s <;> cases f.check s <;> simp

/-- An instruction that writes one register and retires does what WritesReg says. -/
theorem writesReg_of_exec {i : Instr} {s : State} {d : Reg} {v : Word} {n : Nat} (h : exec i s = .next ((s.setReg d v).retire n)) :
    WritesReg i s d v n :=
  ⟨_, h, (s.reg_setReg d d v).trans (by simp), fun r hr => (s.reg_setReg d r v).trans (by simp [hr]), by
    simp only [State.retire, State.setReg]
    rw [Thr.setReg_eq]⟩

end Sys2Proof.Machine
end

