-- ==== Sys2Proof/Laws/Compute.lean ====
section
/-! SUPPORT. The shapes of the integer instructions: each says once what an instruction of its shape writes. -/

namespace Sys2Proof.Machine

open Claims

/-- The shape gd := f (ga, gb). -/
theorem opRRR_writes {i : Instr} {d a b : Reg} {f : Word → Word → Word} {s : State} (e : exec i s = opRRR i d a b f s)
    (h : Ready (.plain [d, a, b]) s) : WritesReg i s d (f (s.reg a) (s.reg b)) 2 :=
  writesReg_of_exec (e.trans (issue_ready h))

/-- The shape gd := f (ga). -/
theorem opRR_writes {i : Instr} {d a : Reg} {f : Word → Word} {s : State} (e : exec i s = opRR i d a f s)
    (h : Ready (.plain [d, a]) s) : WritesReg i s d (f (s.reg a)) 2 :=
  writesReg_of_exec (e.trans (issue_ready h))

/-- The compact shape gd := f (ga, gb). -/
theorem opC_writes {i : Instr} {d a b : CReg} {f : Word → Word → Word} {s : State} (e : exec i s = opC i d a b f s)
    (h : Ready (.plain [creg d, creg a, creg b]) s) : WritesReg i s (creg d) (f (s.reg (creg a)) (s.reg (creg b))) 1 :=
  writesReg_of_exec (e.trans (issue_ready h))

/-- The compact shape gd := f (ga). -/
theorem opCI_writes {i : Instr} {d a : CReg} {f : Word → Word} {s : State} (e : exec i s = opCI i d a f s)
    (h : Ready (.plain [creg d, creg a]) s) : WritesReg i s (creg d) (f (s.reg (creg a))) 1 :=
  writesReg_of_exec (e.trans (issue_ready h))

end Sys2Proof.Machine
end

