-- ==== Sys2Proof/Laws/Fabric.lean ====
section
/-! SUPPORT. Tokens and the shape of a lane-wise node: each is said once and cited. -/

namespace Sys2Proof.Machine

theorem Token.of_tag (tag : Nat) (f : Nat → Option Lane) : (Token.of tag f).tag = tag := rfl

theorem orBits_foldl {α : Type} {n : Nat} (g : α → BitVec n) (p : α → Bool) (k : Nat) (xs : List α) (v : BitVec n) :
    (xs.foldl (fun v l => if p l then v ||| g l else v) v).getLsbD k = (v.getLsbD k || xs.any fun l => p l && (g l).getLsbD k) := by
  induction xs generalizing v with
  | nil => simp
  | cons x xs ih =>
    rw [List.foldl_cons, ih, List.any_cons]
    by_cases h : p x <;> simp [h, Bool.or_assoc]

/-- Lane `l` of a built token. -/
theorem Token.of_lane (tag : Nat) (f : Nat → Option Lane) (l : Nat) (h : l < 16) : (Token.of tag f).lane l = f l := by
  have hv : (Token.of tag f).valid.getLsbD l = (f l).isSome := by
    unfold Token.of
    rw [orBits_foldl (fun l => 1#16 <<< l) (fun l => (f l).isSome)]
    have h0 : BitVec.getLsbD (0 : BitVec 16) l = false := BitVec.getLsbD_zero
    rw [h0, Bool.false_or, Bool.eq_iff_iff, List.any_eq_true]
    constructor
    · rintro ⟨k, -, hk⟩
      simp only [Bool.and_eq_true, BitVec.getLsbD_shiftLeft, BitVec.getLsbD_one, decide_eq_true_eq, Bool.not_eq_true', decide_eq_false_iff_not] at hk
      have : k = l := by omega
      exact this ▸ hk.1
    · exact fun hk => ⟨l, List.mem_range.2 h, by simp [hk, h]⟩
  have hl : (Token.of tag f).lanes.toArray.getD l 0 = (f l).getD 0 := by
    unfold Token.of
    simp [Array.getD, h]
  unfold Token.lane
  rw [hv, hl]
  cases f l <;> rfl

theorem Token.null_lane (tag l : Nat) (h : l < 16) : (Token.null tag).lane l = none := Token.of_lane tag _ l h

theorem eq_some_of_ite {α : Type} {c : Prop} [Decidable c] {x : Option α} {y : α} (h : (if c then none else x) = some y) : x = some y := by
  by_cases hc : c
  · rw [if_pos hc] at h; cases h
  · rwa [if_neg hc] at h

/-- A firing carries the node word, the place and the operation that it was asked for. -/
theorem State.firing_word {s : State} {at_ : FireAt} {op : Nat} {w : BlockWord} {f : Firing} (h : s.firing at_ op w = some f) :
    f.w = w ∧ f.at_ = at_ ∧ f.op = op := by
  unfold State.firing at h
  split at h
  · cases h
  · split at h
    · cases h
    · split at h
      · cases h
      · have h := eq_some_of_ite h
        simp only at h
        split at h
        · cases h
          exact ⟨rfl, rfl, rfl⟩
        · cases h

end Sys2Proof.Machine

namespace Sys2Proof.Claims
open Machine

theorem fireData_sends {i : Instr} {s : State} {at_ : FireAt} {op : Nat} {w : BlockWord} {g : Firing → Token × Token × Flags}
    {P : Firing → Token → Token → Flags → Prop} (h : exec i s = .next (s.fireData at_ op w g))
    (hP : ∀ f, s.firing at_ op w = some f → P f (g f).1 (g f).2.1 (g f).2.2) : Sends i s at_ op w P := by
  intro f hf
  refine ⟨_, _, _, ?_, hP f hf⟩
  rw [h]
  unfold State.fireData State.fireWith
  simp only [hf]

theorem lanes_def (f : Firing) (g : Nat → Lane → Lane → Lane → Lane × Flags) :
    ∃ t fl, f.lanes g = (t, t, fl) ∧ t.tag = f.at_.iter ∧
      (∀ l, l < 16 → t.lane l = if f.active l then some (g l (opA f l) (opB f l) (opP f l)).1 else none) ∧
      ∀ k, fl.getLsbD k = (List.range 16).any fun l => f.active l && (g l (opA f l) (opB f l) (opP f l)).2.getLsbD k := by
  refine ⟨_, _, rfl, rfl, fun l hl => ?_, fun k => ?_⟩
  · rw [Token.of_lane _ _ _ hl]
    simp only [List.getD_eq_getElem?_getD, List.getElem?_map, List.getElem?_range hl, Option.map_some, Option.getD_some, opA, opB, opP]
    split <;> rfl
  · rw [List.foldl_map]
    have h0 : BitVec.getLsbD (0 : Flags) k = false := BitVec.getLsbD_zero
    have := orBits_foldl (fun l => (g l (opA f l) (opB f l) (opP f l)).2) (fun l => f.active l) k (List.range 16) 0
    rw [h0, Bool.false_or] at this
    rw [← this]
    congr 2
    funext v l
    by_cases h : f.active l <;> simp [h, opA, opB, opP]

theorem lanes_sends {i : Instr} {s : State} {at_ : FireAt} {op : Nat} {w : BlockWord} {g : Firing → Nat → Lane → Lane → Lane → Lane × Flags}
    {g' : Firing → Nat → Lane × Flags} (h : exec i s = .next (s.fireData at_ op w fun f => f.lanes (g f)))
    (hg : ∀ f l, f.w = w → g f l (opA f l) (opB f l) (opP f l) = g' f l) : Sends i s at_ op w (LaneWise g') := by
  refine fireData_sends h fun f hf => ?_
  have hw : f.w = w := (State.firing_word hf).1
  obtain ⟨t, fl, e, ht, hl, hk⟩ := lanes_def f (g f)
  rw [e]
  exact ⟨rfl, ht, fun l h => (hl l h).trans (by rw [hg f l hw]), fun k => (hk k).trans (by simp only [hg f _ hw])⟩

end Sys2Proof.Claims
end

