-- ==== Sys2Proof/Laws/Memory.lean ====
section
/-! SUPPORT. Memory: a write answers what was written and nothing else changes, and every memory operation keeps the canonical form. -/

namespace Sys2Proof.Machine

/-! ### One byte -/

/-- Below its first listed address a memory reads zero. -/
theorem memByte_of_above {m : List Host.Cell} {lo a : Nat} (h : Memory.above lo m = true) (ha : a < lo) : memByte m a = 0 := by
  cases m with
  | nil => rfl
  | cons c r =>
    obtain ⟨k, v⟩ := c
    simp only [Memory.above, Bool.and_eq_true, decide_eq_true_eq] at h
    rw [memByte, if_neg (by omega), if_pos (by omega)]

/-- A lower bound may be lowered. -/
theorem Memory.above_mono {m : List Host.Cell} {lo lo' : Nat} (h : Memory.above lo m = true) (hl : lo' ≤ lo) : Memory.above lo' m = true := by
  cases m with
  | nil => rfl
  | cons c r =>
    obtain ⟨k, v⟩ := c
    simp only [Memory.above, Bool.and_eq_true, decide_eq_true_eq] at h ⊢
    exact ⟨⟨by omega, h.1.2⟩, h.2⟩

/-- Writing a byte at or above the lower bound keeps the form. -/
theorem Memory.above_memPut {m : List Host.Cell} {lo a : Nat} (b : Byte) (h : Memory.above lo m = true) (ha : lo ≤ a) :
    Memory.above lo (memPut m a b) = true := by
  induction m generalizing lo with
  | nil =>
    rw [memPut]
    split
    · rfl
    · simp_all [Memory.above]
  | cons c r ih =>
    obtain ⟨k, v⟩ := c
    have h' := h
    simp only [Memory.above, Bool.and_eq_true, decide_eq_true_eq] at h
    rw [memPut]
    split
    · split
      · exact h'
      · next hk hb => simp only [Memory.above, Bool.and_eq_true, decide_eq_true_eq, bne_iff_ne]; exact ⟨⟨ha, hb⟩, ⟨by omega, by simpa using h.1.2⟩, h.2⟩
    · split
      · split
        · exact Memory.above_mono h.2 (by omega)
        · next hk hb => subst hk; simp only [Memory.above, Bool.and_eq_true, decide_eq_true_eq, bne_iff_ne]; exact ⟨⟨ha, hb⟩, h.2⟩
      · simp only [Memory.above, Bool.and_eq_true, decide_eq_true_eq]
        exact ⟨h.1, ih h.2 (by omega)⟩

/-- A byte write keeps the canonical form. -/
theorem Memory.wf_memPut {m : List Host.Cell} (a : Nat) (b : Byte) (h : Memory.wf m = true) : Memory.wf (memPut m a b) = true :=
  Memory.above_memPut b h (Nat.zero_le a)

/-- A byte write answers its own byte at its own address, and every other address reads as before. -/
theorem memByte_memPut {m : List Host.Cell} {lo : Nat} (a x : Nat) (b : Byte) (h : Memory.above lo m = true) :
    memByte (memPut m a b) x = if x = a then b else memByte m x := by
  induction m generalizing lo with
  | nil =>
    rw [memPut]
    split
    · next hb => rw [hb]; split <;> rfl
    · simp only [memByte, eq_comm (a := a), ite_self]
  | cons c r ih =>
    obtain ⟨k, v⟩ := c
    simp only [Memory.above, Bool.and_eq_true, decide_eq_true_eq] at h
    have hr := fun {z : Nat} (hz : z < k + 1) => memByte_of_above h.2 hz
    rw [memPut]
    split
    · next hk =>
      split
      · next hb =>
        subst hb
        by_cases hx : x = a
        · subst hx; rw [if_pos rfl, memByte, if_neg (by omega), if_pos hk]
        · rw [if_neg hx]
      · by_cases hx : x = a
        · subst hx; rw [if_pos rfl, memByte, if_pos rfl]
        · rw [if_neg hx, memByte, if_neg (Ne.symm hx)]
          split
          · next hxa => rw [memByte, if_neg (by omega), if_pos (by omega)]
          · rfl
    · split
      · next hk hak =>
        subst hak
        by_cases hx : x = a
        · subst hx
          split
          · next hb => rw [hr (by omega), if_pos rfl, hb]
          · rw [if_pos rfl, memByte, if_pos rfl]
        · rw [if_neg hx]
          split
          · rw [memByte, if_neg (Ne.symm hx)]
            split
            · exact hr (by omega)
            · rfl
          · rw [memByte, memByte, if_neg (Ne.symm hx), if_neg (Ne.symm hx)]
      · next hk hak =>
        rw [memByte, memByte, ih h.2]
        by_cases hx : x = a
        · subst hx; rw [if_pos rfl, if_neg (fun e => hak e.symm), if_neg hk, if_pos rfl]
        · rw [if_neg hx, if_neg hx]

/-- Two writes of bytes keep the form whatever else a fold decides. -/
theorem Memory.wf_foldl {α : Type} {g : List Host.Cell → α → List Host.Cell} (hg : ∀ m x, Memory.wf m = true → Memory.wf (g m x) = true)
    (xs : List α) {m : List Host.Cell} (h : Memory.wf m = true) : Memory.wf (xs.foldl g m) = true := by
  induction xs generalizing m with
  | nil => exact h
  | cons x xs ih => exact ih (hg m x h)

/-! ### Several bytes -/

theorem Memory.wf_memWrite {m : List Host.Cell} (a : Nat) (bs : List Byte) (h : Memory.wf m = true) : Memory.wf (memWrite m a bs) = true := by
  induction bs generalizing m a with
  | nil => exact h
  | cons b bs ih => exact ih (a + 1) (Memory.wf_memPut a b h)

/-- A write answers its bytes inside its range, and every address outside it reads as before. -/
theorem memByte_memWrite {m : List Host.Cell} (a x : Nat) (bs : List Byte) (h : Memory.wf m = true) :
    memByte (memWrite m a bs) x = if a ≤ x ∧ x < a + bs.length then bs.getD (x - a) 0 else memByte m x := by
  induction bs generalizing m a with
  | nil => rw [memWrite, if_neg (by simp only [List.length_nil]; omega)]
  | cons b bs ih =>
    rw [memWrite, ih _ (Memory.wf_memPut a b h), memByte_memPut a x b (lo := 0) h, List.length_cons]
    by_cases hx : x = a
    · subst hx; rw [if_neg (by omega), if_pos rfl, if_pos (by omega), Nat.sub_self]; rfl
    · rw [if_neg hx]
      by_cases hl : a + 1 ≤ x ∧ x < a + 1 + bs.length
      · rw [if_pos hl, if_pos (by omega)]
        obtain ⟨k, rfl⟩ : ∃ k, x = a + 1 + k := ⟨x - (a + 1), by omega⟩
        rw [show a + 1 + k - (a + 1) = k by omega, show a + 1 + k - a = k + 1 by omega]
        rfl
      · rw [if_neg hl, if_neg (by omega)]

/-! ### The named writes -/

theorem State.unprotect_mem (s : State) (cid reason : Nat) : (s.unprotect cid reason).mem = s.mem := by
  unfold State.unprotect
  split
  · rfl
  · split <;> rfl

/-- A copy into the undo area keeps the canonical form (R403). -/
theorem State.undoLine_wf {s : State} (line : Nat) (h : Memory.wf s.mem = true) : Memory.wf (s.undoLine line).mem = true := by
  unfold State.undoLine
  split
  · exact h
  · split
    · exact h
    · split
      · rw [State.unprotect_mem]; exact h
      · have key : ∀ (s' : State) (o : Option Nat) (off : Nat) (bs : List Byte), Memory.wf s'.mem = true →
            Memory.wf (match o with | none => s' | some f => { s' with mem := memWrite s'.mem (f + off) bs }).mem = true := by
          intro s' o off bs h'
          cases o
          · exact h'
          · exact Memory.wf_memWrite _ _ h'
        exact key (s.modCtx _ _) _ _ _ h

theorem State.putBytes_wf {s : State} (pa : Nat) (bs : List Byte) (h : Memory.wf s.mem = true) : Memory.wf (s.putBytes pa bs).mem = true := by
  unfold State.putBytes
  split
  · exact Memory.wf_memWrite _ _ h
  · refine Memory.wf_foldl (g := fun m (x : Byte × Nat) => if s.dead ((pa + x.2) / 64) then m else memPut m (pa + x.2) x.1)
      (fun m x hm => ?_) _ h
    split
    · exact hm
    · exact Memory.wf_memPut _ _ hm

theorem State.write_wf {s : State} (src : Option Nat) (pa : Nat) (bs : List Byte) (h : Memory.wf s.mem = true) :
    Memory.wf (s.write src pa bs).mem = true := by
  have fold : ∀ (gs : List Nat) (s : State), Memory.wf s.mem = true → Memory.wf (gs.foldl (fun s g => s.undoLine g) s).mem = true := by
    intro gs
    induction gs with
    | nil => exact fun s hs => hs
    | cons g gs ih => exact fun s hs => ih _ (State.undoLine_wf g hs)
  unfold State.write
  refine State.putBytes_wf pa bs (fold _ _ ?_)
  split
  · split
    · rw [State.unprotect_mem]; exact h
    · exact h
  · exact h

theorem foldl_mem {f : State → Nat → State} (hf : ∀ s g, (f s g).mem = s.mem) (gs : List Nat) (s : State) : (gs.foldl f s).mem = s.mem := by
  induction gs generalizing s with
  | nil => rfl
  | cons g gs ih => exact (ih _).trans (hf s g)

theorem State.writeWhole_wf {s : State} (src : Option Nat) (pa : Nat) (bs : List Byte) (h : Memory.wf s.mem = true) :
    Memory.wf (s.writeWhole src pa bs).mem = true := by
  unfold State.writeWhole
  rw [foldl_mem (f := fun s g => s.cleanGranule g) fun _ _ => rfl]
  exact State.write_wf src pa bs h

theorem State.writePoisoned_wf {s : State} (src : Option Nat) (pa : Nat) (bs : List Byte) (h : Memory.wf s.mem = true) :
    Memory.wf (s.writePoisoned src pa bs).mem = true := by
  unfold State.writePoisoned
  rw [foldl_mem (f := fun s g => s.poisonGranule g) fun s g => by simp only [State.poisonGranule]; split <;> rfl]
  exact State.write_wf src pa bs h

end Sys2Proof.Machine
end

