-- ==== Sys2Proof/Laws/PerInstr.lean ====
section
/-! SUPPORT. For every operation: decoding what the encoding tables give for it answers the operation (its base row, where rows share a word),
with every field. -/

namespace Sys2Proof

/-! ### Fields of the built words -/

theorem fMajor_wordR (m : BitVec 6) (d : Reg) (a : Reg) (b : Reg) (s : BitVec 8) : fMajor (wordR m d a b s) = m := by
  unfold fMajor wordR
  rw [BitVec.extractLsb'_append_eq_of_le (by decide), BitVec.extractLsb'_append_eq_of_le (by decide), BitVec.extractLsb'_append_eq_of_le (by decide), BitVec.extractLsb'_append_eq_of_le (by decide), BitVec.extractLsb'_append_eq_of_add_le (by decide), BitVec.extractLsb'_eq_self]
theorem fD_wordR (m : BitVec 6) (d : Reg) (a : Reg) (b : Reg) (s : BitVec 8) : fD (wordR m d a b s) = d := by
  unfold fD wordR
  rw [BitVec.extractLsb'_append_eq_of_le (by decide), BitVec.extractLsb'_append_eq_of_le (by decide), BitVec.extractLsb'_append_eq_of_le (by decide), BitVec.extractLsb'_append_eq_of_add_le (by decide), BitVec.extractLsb'_eq_self]
theorem fA_wordR (m : BitVec 6) (d : Reg) (a : Reg) (b : Reg) (s : BitVec 8) : fA (wordR m d a b s) = a := by
  unfold fA wordR
  rw [BitVec.extractLsb'_append_eq_of_le (by decide), BitVec.extractLsb'_append_eq_of_le (by decide), BitVec.extractLsb'_append_eq_of_add_le (by decide), BitVec.extractLsb'_eq_self]
theorem fB_wordR (m : BitVec 6) (d : Reg) (a : Reg) (b : Reg) (s : BitVec 8) : fB (wordR m d a b s) = b := by
  unfold fB wordR
  rw [BitVec.extractLsb'_append_eq_of_le (by decide), BitVec.extractLsb'_append_eq_of_add_le (by decide), BitVec.extractLsb'_eq_self]
theorem fSub_wordR (m : BitVec 6) (d : Reg) (a : Reg) (b : Reg) (s : BitVec 8) : fSub (wordR m d a b s) = s := by
  unfold fSub wordR
  rw [BitVec.extractLsb'_append_eq_of_add_le (by decide), BitVec.extractLsb'_eq_self]
theorem fMajor_wordI13 (m : BitVec 6) (d : Reg) (a : Reg) (v : BitVec 13) : fMajor (wordI13 m d a v) = m := by
  unfold fMajor wordI13
  rw [BitVec.extractLsb'_append_eq_of_le (by decide), BitVec.extractLsb'_append_eq_of_le (by decide), BitVec.extractLsb'_append_eq_of_le (by decide), BitVec.extractLsb'_append_eq_of_add_le (by decide), BitVec.extractLsb'_eq_self]
theorem fD_wordI13 (m : BitVec 6) (d : Reg) (a : Reg) (v : BitVec 13) : fD (wordI13 m d a v) = d := by
  unfold fD wordI13
  rw [BitVec.extractLsb'_append_eq_of_le (by decide), BitVec.extractLsb'_append_eq_of_le (by decide), BitVec.extractLsb'_append_eq_of_add_le (by decide), BitVec.extractLsb'_eq_self]
theorem fA_wordI13 (m : BitVec 6) (d : Reg) (a : Reg) (v : BitVec 13) : fA (wordI13 m d a v) = a := by
  unfold fA wordI13
  rw [BitVec.extractLsb'_append_eq_of_le (by decide), BitVec.extractLsb'_append_eq_of_add_le (by decide), BitVec.extractLsb'_eq_self]
theorem fImm13_wordI13 (m : BitVec 6) (d : Reg) (a : Reg) (v : BitVec 13) : fImm13 (wordI13 m d a v) = v := by
  unfold fImm13 wordI13
  rw [BitVec.extractLsb'_append_eq_of_add_le (by decide), BitVec.extractLsb'_eq_self]
theorem fMajor_wordI18 (m : BitVec 6) (d : Reg) (u : BitVec 18) : fMajor (wordI18 m d u) = m := by
  unfold fMajor wordI18
  rw [BitVec.extractLsb'_append_eq_of_le (by decide), BitVec.extractLsb'_append_eq_of_le (by decide), BitVec.extractLsb'_append_eq_of_add_le (by decide), BitVec.extractLsb'_eq_self]
theorem fD_wordI18 (m : BitVec 6) (d : Reg) (u : BitVec 18) : fD (wordI18 m d u) = d := by
  unfold fD wordI18
  rw [BitVec.extractLsb'_append_eq_of_le (by decide), BitVec.extractLsb'_append_eq_of_add_le (by decide), BitVec.extractLsb'_eq_self]
theorem fImm18_wordI18 (m : BitVec 6) (d : Reg) (u : BitVec 18) : fImm18 (wordI18 m d u) = u := by
  unfold fImm18 wordI18
  rw [BitVec.extractLsb'_append_eq_of_add_le (by decide), BitVec.extractLsb'_eq_self]
theorem fMajor_wordM (m : BitVec 6) (d : Reg) (a : Reg) (k : BitVec 3) (o : BitVec 10) : fMajor (wordM m d a k o) = m := by
  unfold fMajor wordM
  rw [BitVec.extractLsb'_append_eq_of_le (by decide), BitVec.extractLsb'_append_eq_of_le (by decide), BitVec.extractLsb'_append_eq_of_le (by decide), BitVec.extractLsb'_append_eq_of_le (by decide), BitVec.extractLsb'_append_eq_of_add_le (by decide), BitVec.extractLsb'_eq_self]
theorem fD_wordM (m : BitVec 6) (d : Reg) (a : Reg) (k : BitVec 3) (o : BitVec 10) : fD (wordM m d a k o) = d := by
  unfold fD wordM
  rw [BitVec.extractLsb'_append_eq_of_le (by decide), BitVec.extractLsb'_append_eq_of_le (by decide), BitVec.extractLsb'_append_eq_of_le (by decide), BitVec.extractLsb'_append_eq_of_add_le (by decide), BitVec.extractLsb'_eq_self]
theorem fA_wordM (m : BitVec 6) (d : Reg) (a : Reg) (k : BitVec 3) (o : BitVec 10) : fA (wordM m d a k o) = a := by
  unfold fA wordM
  rw [BitVec.extractLsb'_append_eq_of_le (by decide), BitVec.extractLsb'_append_eq_of_le (by decide), BitVec.extractLsb'_append_eq_of_add_le (by decide), BitVec.extractLsb'_eq_self]
theorem fWidth_wordM (m : BitVec 6) (d : Reg) (a : Reg) (k : BitVec 3) (o : BitVec 10) : fWidth (wordM m d a k o) = k := by
  unfold fWidth wordM
  rw [BitVec.extractLsb'_append_eq_of_le (by decide), BitVec.extractLsb'_append_eq_of_add_le (by decide), BitVec.extractLsb'_eq_self]
theorem fOff10_wordM (m : BitVec 6) (d : Reg) (a : Reg) (k : BitVec 3) (o : BitVec 10) : fOff10 (wordM m d a k o) = o := by
  unfold fOff10 wordM
  rw [BitVec.extractLsb'_append_eq_of_add_le (by decide), BitVec.extractLsb'_eq_self]

theorem low_wordR (m : BitVec 6) (d a b : Reg) (s : BitVec 8) (k n : Nat) (h : k + n ≤ 8) :
    (wordR m d a b s).extractLsb' k n = s.extractLsb' k n := by
  unfold wordR
  rw [BitVec.extractLsb'_append_eq_of_add_le h]
theorem low_wordI13 (m : BitVec 6) (d a : Reg) (v : BitVec 13) (k n : Nat) (h : k + n ≤ 13) :
    (wordI13 m d a v).extractLsb' k n = v.extractLsb' k n := by
  unfold wordI13
  rw [BitVec.extractLsb'_append_eq_of_add_le h]
theorem shamt_high (n : BitVec 6) : (0#7 ++ n).extractLsb' 6 7 = 0#7 := by
  rw [BitVec.extractLsb'_append_eq_of_le (by decide), BitVec.extractLsb'_eq_self]
theorem shamt_low (n : BitVec 6) : (0#7 ++ n).extractLsb' 0 6 = n := by
  rw [BitVec.extractLsb'_append_eq_of_add_le (by decide), BitVec.extractLsb'_eq_self]

/-! ### The shapes of a decoded word -/

theorem read3 (C : Reg → Reg → Reg → Instr) {m : BitVec 6} {d a b : Reg} {s : BitVec 8} :
    (Except.ok (C (fD (wordR m d a b s)) (fA (wordR m d a b s)) (fB (wordR m d a b s))) : Except DecodeErr Instr) = .ok (C d a b) := by
  rw [fD_wordR, fA_wordR, fB_wordR]
theorem readDA (C : Reg → Reg → Instr) {m : BitVec 6} {d a : Reg} {s : BitVec 8} {e : DecodeErr} :
    need (fB (wordR m d a 0 s) == 0) e (C (fD (wordR m d a 0 s)) (fA (wordR m d a 0 s))) = .ok (C d a) := by
  rw [fD_wordR, fA_wordR, fB_wordR]; rfl
theorem readDB (C : Reg → Reg → Instr) {m : BitVec 6} {d b : Reg} {s : BitVec 8} {e : DecodeErr} :
    need (fA (wordR m d 0 b s) == 0) e (C (fD (wordR m d 0 b s)) (fB (wordR m d 0 b s))) = .ok (C d b) := by
  rw [fD_wordR, fA_wordR, fB_wordR]; rfl
theorem readD (C : Reg → Instr) {m : BitVec 6} {d : Reg} {s : BitVec 8} {e : DecodeErr} :
    need (fA (wordR m d 0 0 s) == 0 && fB (wordR m d 0 0 s) == 0) e (C (fD (wordR m d 0 0 s))) = .ok (C d) := by
  rw [fD_wordR, fA_wordR, fB_wordR]; rfl
theorem readA (C : Reg → Instr) {m : BitVec 6} {a : Reg} {s : BitVec 8} {e : DecodeErr} :
    need (fD (wordR m 0 a 0 s) == 0 && fB (wordR m 0 a 0 s) == 0) e (C (fA (wordR m 0 a 0 s))) = .ok (C a) := by
  rw [fD_wordR, fA_wordR, fB_wordR]; rfl
theorem read0 (i : Instr) {m : BitVec 6} {s : BitVec 8} {e : DecodeErr} :
    need (fD (wordR m 0 0 0 s) == 0 && fA (wordR m 0 0 0 s) == 0 && fB (wordR m 0 0 0 s) == 0) e i = .ok i := by
  rw [fD_wordR, fA_wordR, fB_wordR]; rfl
theorem readI13 (C : Reg → Reg → BitVec 13 → Instr) {m : BitVec 6} {d a : Reg} {v : BitVec 13} :
    (Except.ok (C (fD (wordI13 m d a v)) (fA (wordI13 m d a v)) (fImm13 (wordI13 m d a v))) : Except DecodeErr Instr) = .ok (C d a v) := by
  rw [fD_wordI13, fA_wordI13, fImm13_wordI13]
theorem readI18 (C : Reg → BitVec 18 → Instr) {m : BitVec 6} {d : Reg} {u : BitVec 18} :
    (Except.ok (C (fD (wordI18 m d u)) (fImm18 (wordI18 m d u))) : Except DecodeErr Instr) = .ok (C d u) := by
  rw [fD_wordI18, fImm18_wordI18]

theorem decInt_major (d a b : Reg) (s : BitVec 8) : decodeWord (wordR 0x00 d a b s) = decInt (wordR 0x00 d a b s) := by
  rw [decodeWord, fMajor_wordR]; rfl
theorem decPacked_major (d a b : Reg) (s : BitVec 8) : decodeWord (wordR 0x09 d a b s) = decPacked (wordR 0x09 d a b s) := by
  rw [decodeWord, fMajor_wordR]; rfl
theorem decFloat_major (d a b : Reg) (s : BitVec 8) : decodeWord (wordR 0x0a d a b s) = decFloat (wordR 0x0a d a b s) := by
  rw [decodeWord, fMajor_wordR]; rfl
theorem decLdaq_major (d a b : Reg) (s : BitVec 8) : decodeWord (wordR 0x15 d a b s) = decLdaq (wordR 0x15 d a b s) := by
  rw [decodeWord, fMajor_wordR]; rfl
theorem decStrl_major (d a b : Reg) (s : BitVec 8) : decodeWord (wordR 0x16 d a b s) = decStrl (wordR 0x16 d a b s) := by
  rw [decodeWord, fMajor_wordR]; rfl
theorem decFence_major (d a b : Reg) (s : BitVec 8) : decodeWord (wordR 0x17 d a b s) = decFence (wordR 0x17 d a b s) := by
  rw [decodeWord, fMajor_wordR]; rfl
theorem decSflag_major (d a b : Reg) (s : BitVec 8) : decodeWord (wordR 0x18 d a b s) = decSflag (wordR 0x18 d a b s) := by
  rw [decodeWord, fMajor_wordR]; rfl
theorem decAtomic_major (d a b : Reg) (s : BitVec 8) : decodeWord (wordR 0x19 d a b s) = decAtomic (wordR 0x19 d a b s) := by
  rw [decodeWord, fMajor_wordR]; rfl
theorem decCas_major (d a b : Reg) (s : BitVec 8) : decodeWord (wordR 0x1a d a b s) = decCas (wordR 0x1a d a b s) := by
  rw [decodeWord, fMajor_wordR]; rfl
theorem decMsg_major (d a b : Reg) (s : BitVec 8) : decodeWord (wordR 0x1b d a b s) = decMsg (wordR 0x1b d a b s) := by
  rw [decodeWord, fMajor_wordR]; rfl
theorem decQueue_major (d a b : Reg) (s : BitVec 8) : decodeWord (wordR 0x1c d a b s) = decQueue (wordR 0x1c d a b s) := by
  rw [decodeWord, fMajor_wordR]; rfl
theorem decTable_major (d a b : Reg) (s : BitVec 8) : decodeWord (wordR 0x1d d a b s) = decTable (wordR 0x1d d a b s) := by
  rw [decodeWord, fMajor_wordR]; rfl
theorem decMatrix_major (d a b : Reg) (s : BitVec 8) : decodeWord (wordR 0x1e d a b s) = decMatrix (wordR 0x1e d a b s) := by
  rw [decodeWord, fMajor_wordR]; rfl
theorem decSched_major (d a b : Reg) (s : BitVec 8) : decodeWord (wordR 0x1f d a b s) = decSched (wordR 0x1f d a b s) := by
  rw [decodeWord, fMajor_wordR]; rfl
theorem decBar_major (d a b : Reg) (s : BitVec 8) : decodeWord (wordR 0x20 d a b s) = decBar (wordR 0x20 d a b s) := by
  rw [decodeWord, fMajor_wordR]; rfl
theorem decSys_major (d a b : Reg) (s : BitVec 8) : decodeWord (wordR 0x21 d a b s) = decSys (wordR 0x21 d a b s) := by
  rw [decodeWord, fMajor_wordR]; rfl

/-! ### Block words and node words -/

theorem blockBits_op (op : BitVec 8) (w : BlockWord) : (blockBits op w).extractLsb' 56 8 = op := by
  unfold blockBits
  rw [BitVec.extractLsb'_append_eq_of_le (by decide), BitVec.extractLsb'_append_eq_of_le (by decide), BitVec.extractLsb'_append_eq_of_le (by decide), BitVec.extractLsb'_append_eq_of_le (by decide), BitVec.extractLsb'_append_eq_of_le (by decide), BitVec.extractLsb'_append_eq_of_le (by decide), BitVec.extractLsb'_eq_self]
theorem blockFields_bits (op : BitVec 8) (w : BlockWord) : blockFields (blockBits op w) = w := by
  have ty : (blockBits op w).extractLsb' 52 4 = w.ty := by
    unfold blockBits; rw [BitVec.extractLsb'_append_eq_of_le (by decide), BitVec.extractLsb'_append_eq_of_le (by decide), BitVec.extractLsb'_append_eq_of_le (by decide), BitVec.extractLsb'_append_eq_of_le (by decide), BitVec.extractLsb'_append_eq_of_le (by decide), BitVec.extractLsb'_append_eq_of_add_le (by decide), BitVec.extractLsb'_eq_self]
  have pred : (blockBits op w).extractLsb' 50 2 = w.pred := by
    unfold blockBits; rw [BitVec.extractLsb'_append_eq_of_le (by decide), BitVec.extractLsb'_append_eq_of_le (by decide), BitVec.extractLsb'_append_eq_of_le (by decide), BitVec.extractLsb'_append_eq_of_le (by decide), BitVec.extractLsb'_append_eq_of_add_le (by decide), BitVec.extractLsb'_eq_self]
  have repl : (blockBits op w).extractLsb' 44 6 = w.repl := by
    unfold blockBits; rw [BitVec.extractLsb'_append_eq_of_le (by decide), BitVec.extractLsb'_append_eq_of_le (by decide), BitVec.extractLsb'_append_eq_of_le (by decide), BitVec.extractLsb'_append_eq_of_add_le (by decide), BitVec.extractLsb'_eq_self]
  have t1 : (blockBits op w).extractLsb' 35 9 = w.t1 := by
    unfold blockBits; rw [BitVec.extractLsb'_append_eq_of_le (by decide), BitVec.extractLsb'_append_eq_of_le (by decide), BitVec.extractLsb'_append_eq_of_add_le (by decide), BitVec.extractLsb'_eq_self]
  have t2 : (blockBits op w).extractLsb' 26 9 = w.t2 := by
    unfold blockBits; rw [BitVec.extractLsb'_append_eq_of_le (by decide), BitVec.extractLsb'_append_eq_of_add_le (by decide), BitVec.extractLsb'_eq_self]
  have imm : (blockBits op w).extractLsb' 0 26 = w.imm := by
    unfold blockBits; rw [BitVec.extractLsb'_append_eq_of_add_le (by decide), BitVec.extractLsb'_eq_self]
  unfold blockFields
  rw [ty, pred, repl, t1, t2, imm]

theorem nodeBits_op (op : BitVec 6) (w : NodeWord) : (nodeBits op w).extractLsb' 58 6 = op := by
  unfold nodeBits
  rw [BitVec.extractLsb'_append_eq_of_le (by decide), BitVec.extractLsb'_append_eq_of_le (by decide), BitVec.extractLsb'_append_eq_of_le (by decide), BitVec.extractLsb'_append_eq_of_le (by decide), BitVec.extractLsb'_append_eq_of_le (by decide), BitVec.extractLsb'_eq_self]
theorem nodeFields_bits (op : BitVec 6) (w : NodeWord) : nodeFields (nodeBits op w) = w := by
  have inA : (nodeBits op w).extractLsb' 54 4 = w.inA := by
    unfold nodeBits; rw [BitVec.extractLsb'_append_eq_of_le (by decide), BitVec.extractLsb'_append_eq_of_le (by decide), BitVec.extractLsb'_append_eq_of_le (by decide), BitVec.extractLsb'_append_eq_of_le (by decide), BitVec.extractLsb'_append_eq_of_add_le (by decide), BitVec.extractLsb'_eq_self]
  have inB : (nodeBits op w).extractLsb' 50 4 = w.inB := by
    unfold nodeBits; rw [BitVec.extractLsb'_append_eq_of_le (by decide), BitVec.extractLsb'_append_eq_of_le (by decide), BitVec.extractLsb'_append_eq_of_le (by decide), BitVec.extractLsb'_append_eq_of_add_le (by decide), BitVec.extractLsb'_eq_self]
  have out : (nodeBits op w).extractLsb' 46 4 = w.out := by
    unfold nodeBits; rw [BitVec.extractLsb'_append_eq_of_le (by decide), BitVec.extractLsb'_append_eq_of_le (by decide), BitVec.extractLsb'_append_eq_of_add_le (by decide), BitVec.extractLsb'_eq_self]
  have fmt : (nodeBits op w).extractLsb' 42 4 = w.fmt := by
    unfold nodeBits; rw [BitVec.extractLsb'_append_eq_of_le (by decide), BitVec.extractLsb'_append_eq_of_add_le (by decide), BitVec.extractLsb'_eq_self]
  have params : (nodeBits op w).extractLsb' 0 42 = w.params := by
    unfold nodeBits; rw [BitVec.extractLsb'_append_eq_of_add_le (by decide), BitVec.extractLsb'_eq_self]
  unfold nodeFields
  rw [inA, inB, out, fmt, params]

/-- A block word without an error decodes to the row of its opcode. -/
theorem decodeBlock_bits {op : BitVec 8} {w : BlockWord} {at_ : FireAt} {i : Instr} (h : (blockWordErr op.toNat w).isNone = true)
    (m : mkNode op.toNat at_ w = some i) : decodeBlock (blockBits op w) at_ = .ok i := by
  simp only [decodeBlock, blockBits_op, blockFields_bits, Option.isNone_iff_eq_none.1 h, m]

/-- A node word without an error decodes to the row of its operator. -/
theorem decodeNode_bits {op : BitVec 6} {w : NodeWord} {at_ : SFireAt} {i : Instr} (h : (nodeWordErr op.toNat w).isNone = true)
    (m : mkSNode op.toNat at_ w = some i) : decodeNode (nodeBits op w) at_ = .ok i := by
  simp only [decodeNode, nodeBits_op, nodeFields_bits, Option.isNone_iff_eq_none.1 h, m]

theorem wf_word {i : Instr} (h : i.wf = true) : i.wordErr.isNone = true := (Bool.and_eq_true_iff.1 h).2

/-- A compact parcel is read as its fields. -/
theorem nib3_1 (c d a b : BitVec 4) : (c ++ d ++ a ++ b).extractLsb' 8 4 = d := by
  rw [BitVec.extractLsb'_append_eq_of_le (by decide), BitVec.extractLsb'_append_eq_of_le (by decide),
    BitVec.extractLsb'_append_eq_of_add_le (by decide), BitVec.extractLsb'_eq_self]

theorem top_wordR (m : BitVec 6) (d a b : Reg) (s : BitVec 8) : (wordR m d a b s).extractLsb' 29 3 = 7#3 := by
  unfold wordR
  rw [BitVec.extractLsb'_append_eq_of_le (by decide), BitVec.extractLsb'_append_eq_of_le (by decide), BitVec.extractLsb'_append_eq_of_le (by decide), BitVec.extractLsb'_append_eq_of_le (by decide), BitVec.extractLsb'_append_eq_of_le (by decide), BitVec.extractLsb'_eq_self]
theorem top_wordI13 (m : BitVec 6) (d a : Reg) (v : BitVec 13) : (wordI13 m d a v).extractLsb' 29 3 = 7#3 := by
  unfold wordI13
  rw [BitVec.extractLsb'_append_eq_of_le (by decide), BitVec.extractLsb'_append_eq_of_le (by decide), BitVec.extractLsb'_append_eq_of_le (by decide), BitVec.extractLsb'_append_eq_of_le (by decide), BitVec.extractLsb'_eq_self]
theorem top_wordI18 (m : BitVec 6) (d : Reg) (u : BitVec 18) : (wordI18 m d u).extractLsb' 29 3 = 7#3 := by
  unfold wordI18
  rw [BitVec.extractLsb'_append_eq_of_le (by decide), BitVec.extractLsb'_append_eq_of_le (by decide), BitVec.extractLsb'_append_eq_of_le (by decide), BitVec.extractLsb'_eq_self]
theorem top_wordM (m : BitVec 6) (d a : Reg) (k : BitVec 3) (o : BitVec 10) : (wordM m d a k o).extractLsb' 29 3 = 7#3 := by
  unfold wordM
  rw [BitVec.extractLsb'_append_eq_of_le (by decide), BitVec.extractLsb'_append_eq_of_le (by decide), BitVec.extractLsb'_append_eq_of_le (by decide), BitVec.extractLsb'_append_eq_of_le (by decide), BitVec.extractLsb'_append_eq_of_le (by decide), BitVec.extractLsb'_eq_self]

/-- The fields of a compact parcel with three operands. -/
theorem fields_parcel3 (c d a b : BitVec 4) :
    (c ++ d ++ a ++ b).extractLsb' 12 4 = c ∧ (c ++ d ++ a ++ b).extractLsb' 8 4 = d ∧ (c ++ d ++ a ++ b).extractLsb' 4 4 = a ∧
      (c ++ d ++ a ++ b).extractLsb' 0 4 = b ∧ (c ++ d ++ a ++ b).extractLsb' 13 3 = c.extractLsb' 1 3 := by
  refine ⟨?_, ?_, ?_, ?_, ?_⟩
  · rw [BitVec.extractLsb'_append_eq_of_le (by decide), BitVec.extractLsb'_append_eq_of_le (by decide), BitVec.extractLsb'_append_eq_of_le (by decide), BitVec.extractLsb'_eq_self]
  · rw [BitVec.extractLsb'_append_eq_of_le (by decide), BitVec.extractLsb'_append_eq_of_le (by decide), BitVec.extractLsb'_append_eq_of_add_le (by decide), BitVec.extractLsb'_eq_self]
  · rw [BitVec.extractLsb'_append_eq_of_le (by decide), BitVec.extractLsb'_append_eq_of_add_le (by decide), BitVec.extractLsb'_eq_self]
  · rw [BitVec.extractLsb'_append_eq_of_add_le (by decide), BitVec.extractLsb'_eq_self]
  · rw [BitVec.extractLsb'_append_eq_of_le (by decide), BitVec.extractLsb'_append_eq_of_le (by decide), BitVec.extractLsb'_append_eq_of_le (by decide)]

/-- The fields of a compact parcel with one operand and eight bits. -/
theorem fields_parcel2 (c d : BitVec 4) (i : BitVec 8) :
    (c ++ d ++ i).extractLsb' 12 4 = c ∧ (c ++ d ++ i).extractLsb' 8 4 = d ∧ (c ++ d ++ i).extractLsb' 0 8 = i ∧
      (c ++ d ++ i).extractLsb' 13 3 = c.extractLsb' 1 3 := by
  refine ⟨?_, ?_, ?_, ?_⟩
  · rw [BitVec.extractLsb'_append_eq_of_le (by decide), BitVec.extractLsb'_append_eq_of_le (by decide), BitVec.extractLsb'_eq_self]
  · rw [BitVec.extractLsb'_append_eq_of_le (by decide), BitVec.extractLsb'_append_eq_of_add_le (by decide), BitVec.extractLsb'_eq_self]
  · rw [BitVec.extractLsb'_append_eq_of_add_le (by decide), BitVec.extractLsb'_eq_self]
  · rw [BitVec.extractLsb'_append_eq_of_le (by decide), BitVec.extractLsb'_append_eq_of_le (by decide)]

namespace Laws

/-- Decoding an encoded operation gives it back. -/
def RoundTrip.Statement (i : Instr) : Prop :=
  i.wf = true →
    match i.enc with
    | .word w => w.extractLsb' 29 3 = 7#3 ∧ decodeWord w = .ok i.base
    | .parcel p => p.extractLsb' 13 3 ≠ 7#3 ∧ decodeCompact p = .ok i.base
    | .block op at_ w => decodeBlock (blockBits op w) at_ = .ok i
    | .node op at_ w => decodeNode (nodeBits op w) at_ = .ok i
    | .event => True

theorem RoundTrip.add (d : Reg) (a : Reg) (b : Reg) : RoundTrip.Statement (.add d a b) := fun _ => ⟨top_wordR _ _ _ _ _, by
  rw [decInt_major, decInt, fSub_wordR]; exact read3 .add⟩
theorem RoundTrip.sub (d : Reg) (a : Reg) (b : Reg) : RoundTrip.Statement (.sub d a b) := fun _ => ⟨top_wordR _ _ _ _ _, by
  rw [decInt_major, decInt, fSub_wordR]; exact read3 .sub⟩
theorem RoundTrip.mul (d : Reg) (a : Reg) (b : Reg) : RoundTrip.Statement (.mul d a b) := fun _ => ⟨top_wordR _ _ _ _ _, by
  rw [decInt_major, decInt, fSub_wordR]; exact read3 .mul⟩
theorem RoundTrip.mulh (d : Reg) (a : Reg) (b : Reg) : RoundTrip.Statement (.mulh d a b) := fun _ => ⟨top_wordR _ _ _ _ _, by
  rw [decInt_major, decInt, fSub_wordR]; exact read3 .mulh⟩
theorem RoundTrip.mulhn (d : Reg) (a : Reg) (b : Reg) : RoundTrip.Statement (.mulhn d a b) := fun _ => ⟨top_wordR _ _ _ _ _, by
  rw [decInt_major, decInt, fSub_wordR]; exact read3 .mulhn⟩
theorem RoundTrip.div (d : Reg) (a : Reg) (b : Reg) : RoundTrip.Statement (.div d a b) := fun _ => ⟨top_wordR _ _ _ _ _, by
  rw [decInt_major, decInt, fSub_wordR]; exact read3 .div⟩
theorem RoundTrip.divn (d : Reg) (a : Reg) (b : Reg) : RoundTrip.Statement (.divn d a b) := fun _ => ⟨top_wordR _ _ _ _ _, by
  rw [decInt_major, decInt, fSub_wordR]; exact read3 .divn⟩
theorem RoundTrip.and_ (d : Reg) (a : Reg) (b : Reg) : RoundTrip.Statement (.and_ d a b) := fun _ => ⟨top_wordR _ _ _ _ _, by
  rw [decInt_major, decInt, fSub_wordR]; exact read3 .and_⟩
theorem RoundTrip.or_ (d : Reg) (a : Reg) (b : Reg) : RoundTrip.Statement (.or_ d a b) := fun _ => ⟨top_wordR _ _ _ _ _, by
  rw [decInt_major, decInt, fSub_wordR]; exact read3 .or_⟩
theorem RoundTrip.xor_ (d : Reg) (a : Reg) (b : Reg) : RoundTrip.Statement (.xor_ d a b) := fun _ => ⟨top_wordR _ _ _ _ _, by
  rw [decInt_major, decInt, fSub_wordR]; exact read3 .xor_⟩
theorem RoundTrip.andn (d : Reg) (a : Reg) (b : Reg) : RoundTrip.Statement (.andn d a b) := fun _ => ⟨top_wordR _ _ _ _ _, by
  rw [decInt_major, decInt, fSub_wordR]; exact read3 .andn⟩
theorem RoundTrip.sll (d : Reg) (a : Reg) (b : Reg) : RoundTrip.Statement (.sll d a b) := fun _ => ⟨top_wordR _ _ _ _ _, by
  rw [decInt_major, decInt, fSub_wordR]; exact read3 .sll⟩
theorem RoundTrip.srl (d : Reg) (a : Reg) (b : Reg) : RoundTrip.Statement (.srl d a b) := fun _ => ⟨top_wordR _ _ _ _ _, by
  rw [decInt_major, decInt, fSub_wordR]; exact read3 .srl⟩
theorem RoundTrip.sra (d : Reg) (a : Reg) (b : Reg) : RoundTrip.Statement (.sra d a b) := fun _ => ⟨top_wordR _ _ _ _ _, by
  rw [decInt_major, decInt, fSub_wordR]; exact read3 .sra⟩
theorem RoundTrip.slt (d : Reg) (a : Reg) (b : Reg) : RoundTrip.Statement (.slt d a b) := fun _ => ⟨top_wordR _ _ _ _ _, by
  rw [decInt_major, decInt, fSub_wordR]; exact read3 .slt⟩
theorem RoundTrip.sltn (d : Reg) (a : Reg) (b : Reg) : RoundTrip.Statement (.sltn d a b) := fun _ => ⟨top_wordR _ _ _ _ _, by
  rw [decInt_major, decInt, fSub_wordR]; exact read3 .sltn⟩
theorem RoundTrip.min_ (d : Reg) (a : Reg) (b : Reg) : RoundTrip.Statement (.min_ d a b) := fun _ => ⟨top_wordR _ _ _ _ _, by
  rw [decInt_major, decInt, fSub_wordR]; exact read3 .min_⟩
theorem RoundTrip.max_ (d : Reg) (a : Reg) (b : Reg) : RoundTrip.Statement (.max_ d a b) := fun _ => ⟨top_wordR _ _ _ _ _, by
  rw [decInt_major, decInt, fSub_wordR]; exact read3 .max_⟩
theorem RoundTrip.clz (d : Reg) (a : Reg) : RoundTrip.Statement (.clz d a) := fun _ => ⟨top_wordR _ _ _ _ _, by
  rw [decInt_major, decInt, fSub_wordR]; exact readDA .clz⟩
theorem RoundTrip.popc (d : Reg) (a : Reg) : RoundTrip.Statement (.popc d a) := fun _ => ⟨top_wordR _ _ _ _ _, by
  rw [decInt_major, decInt, fSub_wordR]; exact readDA .popc⟩
theorem RoundTrip.addi (d : Reg) (a : Reg) (imm : BitVec 13) : RoundTrip.Statement (.addi d a imm) := fun _ => ⟨top_wordI13 _ _ _ _, by
  rw [decodeWord, fMajor_wordI13]; exact readI13 .addi⟩
theorem RoundTrip.andi (d : Reg) (a : Reg) (imm : BitVec 13) : RoundTrip.Statement (.andi d a imm) := fun _ => ⟨top_wordI13 _ _ _ _, by
  rw [decodeWord, fMajor_wordI13]; exact readI13 .andi⟩
theorem RoundTrip.slli (d : Reg) (a : Reg) (n : BitVec 6) : RoundTrip.Statement (.slli d a n) := fun _ => ⟨top_wordI13 _ _ _ _, by
  rw [decodeWord, fMajor_wordI13, fD_wordI13, fA_wordI13, low_wordI13 _ _ _ _ 6 7 (by decide), low_wordI13 _ _ _ _ 0 6 (by decide), shamt_high, shamt_low]; rfl⟩
theorem RoundTrip.srli (d : Reg) (a : Reg) (n : BitVec 6) : RoundTrip.Statement (.srli d a n) := fun _ => ⟨top_wordI13 _ _ _ _, by
  rw [decodeWord, fMajor_wordI13, fD_wordI13, fA_wordI13, low_wordI13 _ _ _ _ 6 7 (by decide), low_wordI13 _ _ _ _ 0 6 (by decide), shamt_high, shamt_low]; rfl⟩
theorem RoundTrip.srai (d : Reg) (a : Reg) (n : BitVec 6) : RoundTrip.Statement (.srai d a n) := fun _ => ⟨top_wordI13 _ _ _ _, by
  rw [decodeWord, fMajor_wordI13, fD_wordI13, fA_wordI13, low_wordI13 _ _ _ _ 6 7 (by decide), low_wordI13 _ _ _ _ 0 6 (by decide), shamt_high, shamt_low]; rfl⟩
theorem RoundTrip.li (d : Reg) (imm : BitVec 18) : RoundTrip.Statement (.li d imm) := fun _ => ⟨top_wordI18 _ _ _, by
  rw [decodeWord, fMajor_wordI18]; exact readI18 .li⟩
theorem RoundTrip.lic (d : Reg) (imm : BitVec 18) : RoundTrip.Statement (.lic d imm) := fun _ => ⟨top_wordI18 _ _ _, by
  rw [decodeWord, fMajor_wordI18]; exact readI18 .lic⟩
theorem RoundTrip.addpc (d : Reg) (imm : BitVec 18) : RoundTrip.Statement (.addpc d imm) := fun _ => ⟨top_wordI18 _ _ _, by
  rw [decodeWord, fMajor_wordI18]; exact readI18 .addpc⟩
theorem RoundTrip.padd (l : PLane) (d : Reg) (a : Reg) (b : Reg) : RoundTrip.Statement (.padd l d a b) := fun _ => ⟨top_wordR _ _ _ _ _, by
  rw [decPacked_major, decPacked, low_wordR _ _ _ _ _ 0 2 (by decide), low_wordR _ _ _ _ _ 6 2 (by decide), low_wordR _ _ _ _ _ 2 4 (by decide)]; cases l <;> exact read3 (.padd _)⟩
theorem RoundTrip.psub (l : PLane) (d : Reg) (a : Reg) (b : Reg) : RoundTrip.Statement (.psub l d a b) := fun _ => ⟨top_wordR _ _ _ _ _, by
  rw [decPacked_major, decPacked, low_wordR _ _ _ _ _ 0 2 (by decide), low_wordR _ _ _ _ _ 6 2 (by decide), low_wordR _ _ _ _ _ 2 4 (by decide)]; cases l <;> exact read3 (.psub _)⟩
theorem RoundTrip.padds (l : PLane) (d : Reg) (a : Reg) (b : Reg) : RoundTrip.Statement (.padds l d a b) := fun _ => ⟨top_wordR _ _ _ _ _, by
  rw [decPacked_major, decPacked, low_wordR _ _ _ _ _ 0 2 (by decide), low_wordR _ _ _ _ _ 6 2 (by decide), low_wordR _ _ _ _ _ 2 4 (by decide)]; cases l <;> exact read3 (.padds _)⟩
theorem RoundTrip.paddsn (l : PLane) (d : Reg) (a : Reg) (b : Reg) : RoundTrip.Statement (.paddsn l d a b) := fun _ => ⟨top_wordR _ _ _ _ _, by
  rw [decPacked_major, decPacked, low_wordR _ _ _ _ _ 0 2 (by decide), low_wordR _ _ _ _ _ 6 2 (by decide), low_wordR _ _ _ _ _ 2 4 (by decide)]; cases l <;> exact read3 (.paddsn _)⟩
theorem RoundTrip.psubs (l : PLane) (d : Reg) (a : Reg) (b : Reg) : RoundTrip.Statement (.psubs l d a b) := fun _ => ⟨top_wordR _ _ _ _ _, by
  rw [decPacked_major, decPacked, low_wordR _ _ _ _ _ 0 2 (by decide), low_wordR _ _ _ _ _ 6 2 (by decide), low_wordR _ _ _ _ _ 2 4 (by decide)]; cases l <;> exact read3 (.psubs _)⟩
theorem RoundTrip.psubsn (l : PLane) (d : Reg) (a : Reg) (b : Reg) : RoundTrip.Statement (.psubsn l d a b) := fun _ => ⟨top_wordR _ _ _ _ _, by
  rw [decPacked_major, decPacked, low_wordR _ _ _ _ _ 0 2 (by decide), low_wordR _ _ _ _ _ 6 2 (by decide), low_wordR _ _ _ _ _ 2 4 (by decide)]; cases l <;> exact read3 (.psubsn _)⟩
theorem RoundTrip.pmul (l : PLane) (d : Reg) (a : Reg) (b : Reg) : RoundTrip.Statement (.pmul l d a b) := fun _ => ⟨top_wordR _ _ _ _ _, by
  rw [decPacked_major, decPacked, low_wordR _ _ _ _ _ 0 2 (by decide), low_wordR _ _ _ _ _ 6 2 (by decide), low_wordR _ _ _ _ _ 2 4 (by decide)]; cases l <;> exact read3 (.pmul _)⟩
theorem RoundTrip.pmin (l : PLane) (d : Reg) (a : Reg) (b : Reg) : RoundTrip.Statement (.pmin l d a b) := fun _ => ⟨top_wordR _ _ _ _ _, by
  rw [decPacked_major, decPacked, low_wordR _ _ _ _ _ 0 2 (by decide), low_wordR _ _ _ _ _ 6 2 (by decide), low_wordR _ _ _ _ _ 2 4 (by decide)]; cases l <;> exact read3 (.pmin _)⟩
theorem RoundTrip.pmax (l : PLane) (d : Reg) (a : Reg) (b : Reg) : RoundTrip.Statement (.pmax l d a b) := fun _ => ⟨top_wordR _ _ _ _ _, by
  rw [decPacked_major, decPacked, low_wordR _ _ _ _ _ 0 2 (by decide), low_wordR _ _ _ _ _ 6 2 (by decide), low_wordR _ _ _ _ _ 2 4 (by decide)]; cases l <;> exact read3 (.pmax _)⟩
theorem RoundTrip.fadd (f : FFmt) (r : SRnd) (d : Reg) (a : Reg) (b : Reg) : RoundTrip.Statement (.fadd f r d a b) := fun _ => ⟨top_wordR _ _ _ _ _, by
  rw [decFloat_major, decFloat, low_wordR _ _ _ _ _ 7 1 (by decide), low_wordR _ _ _ _ _ 4 3 (by decide), low_wordR _ _ _ _ _ 0 4 (by decide)]; cases f <;> cases r <;> exact read3 (.fadd _ _)⟩
theorem RoundTrip.fsub (f : FFmt) (r : SRnd) (d : Reg) (a : Reg) (b : Reg) : RoundTrip.Statement (.fsub f r d a b) := fun _ => ⟨top_wordR _ _ _ _ _, by
  rw [decFloat_major, decFloat, low_wordR _ _ _ _ _ 7 1 (by decide), low_wordR _ _ _ _ _ 4 3 (by decide), low_wordR _ _ _ _ _ 0 4 (by decide)]; cases f <;> cases r <;> exact read3 (.fsub _ _)⟩
theorem RoundTrip.fmul (f : FFmt) (r : SRnd) (d : Reg) (a : Reg) (b : Reg) : RoundTrip.Statement (.fmul f r d a b) := fun _ => ⟨top_wordR _ _ _ _ _, by
  rw [decFloat_major, decFloat, low_wordR _ _ _ _ _ 7 1 (by decide), low_wordR _ _ _ _ _ 4 3 (by decide), low_wordR _ _ _ _ _ 0 4 (by decide)]; cases f <;> cases r <;> exact read3 (.fmul _ _)⟩
theorem RoundTrip.fdiv (f : FFmt) (r : SRnd) (d : Reg) (a : Reg) (b : Reg) : RoundTrip.Statement (.fdiv f r d a b) := fun _ => ⟨top_wordR _ _ _ _ _, by
  rw [decFloat_major, decFloat, low_wordR _ _ _ _ _ 7 1 (by decide), low_wordR _ _ _ _ _ 4 3 (by decide), low_wordR _ _ _ _ _ 0 4 (by decide)]; cases f <;> cases r <;> exact read3 (.fdiv _ _)⟩
theorem RoundTrip.fsqrt (f : FFmt) (r : SRnd) (d : Reg) (a : Reg) : RoundTrip.Statement (.fsqrt f r d a) := fun _ => ⟨top_wordR _ _ _ _ _, by
  rw [decFloat_major, decFloat, low_wordR _ _ _ _ _ 7 1 (by decide), low_wordR _ _ _ _ _ 4 3 (by decide), low_wordR _ _ _ _ _ 0 4 (by decide)]; cases f <;> cases r <;> exact readDA (.fsqrt _ _)⟩
theorem RoundTrip.fma (f : FFmt) (r : SRnd) (d : Reg) (a : Reg) (b : Reg) : RoundTrip.Statement (.fma f r d a b) := fun _ => ⟨top_wordR _ _ _ _ _, by
  rw [decFloat_major, decFloat, low_wordR _ _ _ _ _ 7 1 (by decide), low_wordR _ _ _ _ _ 4 3 (by decide), low_wordR _ _ _ _ _ 0 4 (by decide)]; cases f <;> cases r <;> exact read3 (.fma _ _)⟩
theorem RoundTrip.fmin (f : FFmt) (d : Reg) (a : Reg) (b : Reg) : RoundTrip.Statement (.fmin f d a b) := fun _ => ⟨top_wordR _ _ _ _ _, by
  rw [decFloat_major, decFloat, low_wordR _ _ _ _ _ 7 1 (by decide), low_wordR _ _ _ _ _ 4 3 (by decide), low_wordR _ _ _ _ _ 0 4 (by decide), fD_wordR, fA_wordR, fB_wordR]; cases f <;> rfl⟩
theorem RoundTrip.fmax (f : FFmt) (d : Reg) (a : Reg) (b : Reg) : RoundTrip.Statement (.fmax f d a b) := fun _ => ⟨top_wordR _ _ _ _ _, by
  rw [decFloat_major, decFloat, low_wordR _ _ _ _ _ 7 1 (by decide), low_wordR _ _ _ _ _ 4 3 (by decide), low_wordR _ _ _ _ _ 0 4 (by decide), fD_wordR, fA_wordR, fB_wordR]; cases f <;> rfl⟩
theorem RoundTrip.fcmp (f : FFmt) (d : Reg) (a : Reg) (b : Reg) : RoundTrip.Statement (.fcmp f d a b) := fun _ => ⟨top_wordR _ _ _ _ _, by
  rw [decFloat_major, decFloat, low_wordR _ _ _ _ _ 7 1 (by decide), low_wordR _ _ _ _ _ 4 3 (by decide), low_wordR _ _ _ _ _ 0 4 (by decide), fD_wordR, fA_wordR, fB_wordR]; cases f <;> rfl⟩
theorem RoundTrip.fcvti (f : FFmt) (r : SRnd) (d : Reg) (a : Reg) : RoundTrip.Statement (.fcvti f r d a) := fun _ => ⟨top_wordR _ _ _ _ _, by
  rw [decFloat_major, decFloat, low_wordR _ _ _ _ _ 7 1 (by decide), low_wordR _ _ _ _ _ 4 3 (by decide), low_wordR _ _ _ _ _ 0 4 (by decide)]; cases f <;> cases r <;> exact readDA (.fcvti _ _)⟩
theorem RoundTrip.fcvtf (f : FFmt) (r : SRnd) (d : Reg) (a : Reg) : RoundTrip.Statement (.fcvtf f r d a) := fun _ => ⟨top_wordR _ _ _ _ _, by
  rw [decFloat_major, decFloat, low_wordR _ _ _ _ _ 7 1 (by decide), low_wordR _ _ _ _ _ 4 3 (by decide), low_wordR _ _ _ _ _ 0 4 (by decide)]; cases f <;> cases r <;> exact readDA (.fcvtf _ _)⟩
theorem RoundTrip.fcvtw (f : FFmt) (r : SRnd) (d : Reg) (a : Reg) : RoundTrip.Statement (.fcvtw f r d a) := fun _ => ⟨top_wordR _ _ _ _ _, by
  rw [decFloat_major, decFloat, low_wordR _ _ _ _ _ 7 1 (by decide), low_wordR _ _ _ _ _ 4 3 (by decide), low_wordR _ _ _ _ _ 0 4 (by decide)]; cases f <;> cases r <;> exact readDA (.fcvtw _ _)⟩
theorem RoundTrip.beq (a : Reg) (b : Reg) (o : BitVec 13) : RoundTrip.Statement (.beq a b o) := fun _ => ⟨top_wordI13 _ _ _ _, by
  rw [decodeWord, fMajor_wordI13]; exact readI13 .beq⟩
theorem RoundTrip.bne (a : Reg) (b : Reg) (o : BitVec 13) : RoundTrip.Statement (.bne a b o) := fun _ => ⟨top_wordI13 _ _ _ _, by
  rw [decodeWord, fMajor_wordI13]; exact readI13 .bne⟩
theorem RoundTrip.blt (a : Reg) (b : Reg) (o : BitVec 13) : RoundTrip.Statement (.blt a b o) := fun _ => ⟨top_wordI13 _ _ _ _, by
  rw [decodeWord, fMajor_wordI13]; exact readI13 .blt⟩
theorem RoundTrip.bge (a : Reg) (b : Reg) (o : BitVec 13) : RoundTrip.Statement (.bge a b o) := fun _ => ⟨top_wordI13 _ _ _ _, by
  rw [decodeWord, fMajor_wordI13]; exact readI13 .bge⟩
theorem RoundTrip.bltn (a : Reg) (b : Reg) (o : BitVec 13) : RoundTrip.Statement (.bltn a b o) := fun _ => ⟨top_wordI13 _ _ _ _, by
  rw [decodeWord, fMajor_wordI13]; exact readI13 .bltn⟩
theorem RoundTrip.bgen (a : Reg) (b : Reg) (o : BitVec 13) : RoundTrip.Statement (.bgen a b o) := fun _ => ⟨top_wordI13 _ _ _ _, by
  rw [decodeWord, fMajor_wordI13]; exact readI13 .bgen⟩
theorem RoundTrip.jal (d : Reg) (o : BitVec 18) : RoundTrip.Statement (.jal d o) := fun _ => ⟨top_wordI18 _ _ _, by
  rw [decodeWord, fMajor_wordI18]; exact readI18 .jal⟩
theorem RoundTrip.jalr (d : Reg) (a : Reg) (imm : BitVec 13) : RoundTrip.Statement (.jalr d a imm) := fun _ => ⟨top_wordI13 _ _ _ _, by
  rw [decodeWord, fMajor_wordI13]; exact readI13 .jalr⟩
theorem RoundTrip.ld (d : Reg) (a : Reg) (w : LdW) (o : BitVec 10) : RoundTrip.Statement (.ld d a w o) := fun _ => ⟨top_wordM _ _ _ _ _, by
  rw [decodeWord, fMajor_wordM]; change Except.ok (Instr.ld (fD _) (fA _) (LdW.ofCode (fWidth _)) (fOff10 _)) = _; rw [fD_wordM, fA_wordM, fWidth_wordM, fOff10_wordM]; cases w <;> rfl⟩
theorem RoundTrip.st (d : Reg) (a : Reg) (w : StW) (o : BitVec 10) : RoundTrip.Statement (.st d a w o) := fun _ => ⟨top_wordM _ _ _ _ _, by
  rw [decodeWord, fMajor_wordM]; change field (StW.ofCode (fWidth _)) (fun wd => .ok (.st (fD _) (fA _) wd (fOff10 _))) = _; rw [fD_wordM, fA_wordM, fWidth_wordM, fOff10_wordM]; cases w <;> rfl⟩
theorem RoundTrip.ldaq (d : Reg) (a : Reg) (w : LdW) (sc : Scope) : RoundTrip.Statement (.ldaq d a w sc) := fun _ => ⟨top_wordR _ _ _ _ _, by
  rw [decLdaq_major, decLdaq, low_wordR _ _ _ _ _ 2 3 (by decide), low_wordR _ _ _ _ _ 0 2 (by decide), low_wordR _ _ _ _ _ 5 3 (by decide), fD_wordR, fA_wordR, fB_wordR]; cases w <;> cases sc <;> rfl⟩
theorem RoundTrip.strl (a : Reg) (b : Reg) (w : StW) (sc : Scope) : RoundTrip.Statement (.strl a b w sc) := fun _ => ⟨top_wordR _ _ _ _ _, by
  rw [decStrl_major, decStrl, low_wordR _ _ _ _ _ 2 3 (by decide), low_wordR _ _ _ _ _ 5 3 (by decide), low_wordR _ _ _ _ _ 0 2 (by decide), fD_wordR, fA_wordR, fB_wordR]; cases w <;> cases sc <;> rfl⟩
theorem RoundTrip.fence (sc : Scope) (k : FenceKind) : RoundTrip.Statement (.fence sc k) := fun _ => ⟨top_wordR _ _ _ _ _, by
  rw [decFence_major, decFence, low_wordR _ _ _ _ _ 2 3 (by decide), low_wordR _ _ _ _ _ 0 2 (by decide), low_wordR _ _ _ _ _ 5 3 (by decide), fD_wordR, fA_wordR, fB_wordR]; cases sc <;> cases k <;> rfl⟩
theorem RoundTrip.sflag (a : Reg) (b : Reg) (w : FlagW) (sc : Scope) : RoundTrip.Statement (.sflag a b w sc) := fun _ => ⟨top_wordR _ _ _ _ _, by
  rw [decSflag_major, decSflag, low_wordR _ _ _ _ _ 2 3 (by decide), low_wordR _ _ _ _ _ 5 3 (by decide), low_wordR _ _ _ _ _ 0 2 (by decide), fD_wordR, fA_wordR, fB_wordR]; cases w <;> cases sc <;> rfl⟩
theorem RoundTrip.aadd (z : ASize) (t : Bool) (d : Reg) (a : Reg) (b : Reg) : RoundTrip.Statement (.aadd z t d a b) := fun _ => ⟨top_wordR _ _ _ _ _, by
  rw [decAtomic_major, decAtomic, low_wordR _ _ _ _ _ 0 2 (by decide), low_wordR _ _ _ _ _ 3 1 (by decide), low_wordR _ _ _ _ _ 2 1 (by decide), low_wordR _ _ _ _ _ 4 4 (by decide), fD_wordR, fA_wordR, fB_wordR]; cases z <;> cases t <;> rfl⟩
theorem RoundTrip.aand (z : ASize) (t : Bool) (d : Reg) (a : Reg) (b : Reg) : RoundTrip.Statement (.aand z t d a b) := fun _ => ⟨top_wordR _ _ _ _ _, by
  rw [decAtomic_major, decAtomic, low_wordR _ _ _ _ _ 0 2 (by decide), low_wordR _ _ _ _ _ 3 1 (by decide), low_wordR _ _ _ _ _ 2 1 (by decide), low_wordR _ _ _ _ _ 4 4 (by decide), fD_wordR, fA_wordR, fB_wordR]; cases z <;> cases t <;> rfl⟩
theorem RoundTrip.aor (z : ASize) (t : Bool) (d : Reg) (a : Reg) (b : Reg) : RoundTrip.Statement (.aor z t d a b) := fun _ => ⟨top_wordR _ _ _ _ _, by
  rw [decAtomic_major, decAtomic, low_wordR _ _ _ _ _ 0 2 (by decide), low_wordR _ _ _ _ _ 3 1 (by decide), low_wordR _ _ _ _ _ 2 1 (by decide), low_wordR _ _ _ _ _ 4 4 (by decide), fD_wordR, fA_wordR, fB_wordR]; cases z <;> cases t <;> rfl⟩
theorem RoundTrip.axor (z : ASize) (t : Bool) (d : Reg) (a : Reg) (b : Reg) : RoundTrip.Statement (.axor z t d a b) := fun _ => ⟨top_wordR _ _ _ _ _, by
  rw [decAtomic_major, decAtomic, low_wordR _ _ _ _ _ 0 2 (by decide), low_wordR _ _ _ _ _ 3 1 (by decide), low_wordR _ _ _ _ _ 2 1 (by decide), low_wordR _ _ _ _ _ 4 4 (by decide), fD_wordR, fA_wordR, fB_wordR]; cases z <;> cases t <;> rfl⟩
theorem RoundTrip.amin (z : ASize) (t : Bool) (d : Reg) (a : Reg) (b : Reg) : RoundTrip.Statement (.amin z t d a b) := fun _ => ⟨top_wordR _ _ _ _ _, by
  rw [decAtomic_major, decAtomic, low_wordR _ _ _ _ _ 0 2 (by decide), low_wordR _ _ _ _ _ 3 1 (by decide), low_wordR _ _ _ _ _ 2 1 (by decide), low_wordR _ _ _ _ _ 4 4 (by decide), fD_wordR, fA_wordR, fB_wordR]; cases z <;> cases t <;> rfl⟩
theorem RoundTrip.amax (z : ASize) (t : Bool) (d : Reg) (a : Reg) (b : Reg) : RoundTrip.Statement (.amax z t d a b) := fun _ => ⟨top_wordR _ _ _ _ _, by
  rw [decAtomic_major, decAtomic, low_wordR _ _ _ _ _ 0 2 (by decide), low_wordR _ _ _ _ _ 3 1 (by decide), low_wordR _ _ _ _ _ 2 1 (by decide), low_wordR _ _ _ _ _ 4 4 (by decide), fD_wordR, fA_wordR, fB_wordR]; cases z <;> cases t <;> rfl⟩
theorem RoundTrip.aswap (z : ASize) (t : Bool) (d : Reg) (a : Reg) (b : Reg) : RoundTrip.Statement (.aswap z t d a b) := fun _ => ⟨top_wordR _ _ _ _ _, by
  rw [decAtomic_major, decAtomic, low_wordR _ _ _ _ _ 0 2 (by decide), low_wordR _ _ _ _ _ 3 1 (by decide), low_wordR _ _ _ _ _ 2 1 (by decide), low_wordR _ _ _ _ _ 4 4 (by decide), fD_wordR, fA_wordR, fB_wordR]; cases z <;> cases t <;> rfl⟩
theorem RoundTrip.afaddF32 (t : Bool) (d : Reg) (a : Reg) (b : Reg) : RoundTrip.Statement (.afaddF32 t d a b) := fun _ => ⟨top_wordR _ _ _ _ _, by
  rw [decAtomic_major, decAtomic, low_wordR _ _ _ _ _ 0 2 (by decide), low_wordR _ _ _ _ _ 3 1 (by decide), low_wordR _ _ _ _ _ 2 1 (by decide), low_wordR _ _ _ _ _ 4 4 (by decide), fD_wordR, fA_wordR, fB_wordR]; cases t <;> rfl⟩
theorem RoundTrip.afaddBf16 (t : Bool) (d : Reg) (a : Reg) (b : Reg) : RoundTrip.Statement (.afaddBf16 t d a b) := fun _ => ⟨top_wordR _ _ _ _ _, by
  rw [decAtomic_major, decAtomic, low_wordR _ _ _ _ _ 0 2 (by decide), low_wordR _ _ _ _ _ 3 1 (by decide), low_wordR _ _ _ _ _ 2 1 (by decide), low_wordR _ _ _ _ _ 4 4 (by decide), fD_wordR, fA_wordR, fB_wordR]; cases t <;> rfl⟩
theorem RoundTrip.cas (z : CSize) (t : Bool) (d : Reg) (a : Reg) (b : Reg) : RoundTrip.Statement (.cas z t d a b) := fun _ => ⟨top_wordR _ _ _ _ _, by
  rw [decCas_major, decCas, low_wordR _ _ _ _ _ 0 2 (by decide), low_wordR _ _ _ _ _ 4 4 (by decide), low_wordR _ _ _ _ _ 3 1 (by decide), low_wordR _ _ _ _ _ 2 1 (by decide), fD_wordR, fA_wordR, fB_wordR]; cases z <;> cases t <;> rfl⟩
theorem RoundTrip.send (d : Reg) (a : Reg) : RoundTrip.Statement (.send d a) := fun _ => ⟨top_wordR _ _ _ _ _, by
  rw [decMsg_major, decMsg, fSub_wordR]; exact readDA .send⟩
theorem RoundTrip.cset (d : Reg) (a : Reg) (b : Reg) : RoundTrip.Statement (.cset d a b) := fun _ => ⟨top_wordR _ _ _ _ _, by
  rw [decMsg_major, decMsg, fSub_wordR]; exact read3 .cset⟩
theorem RoundTrip.cget (d : Reg) (a : Reg) : RoundTrip.Statement (.cget d a) := fun _ => ⟨top_wordR _ _ _ _ _, by
  rw [decMsg_major, decMsg, fSub_wordR]; exact readDA .cget⟩
theorem RoundTrip.cbind (d : Reg) (a : Reg) (b : Reg) : RoundTrip.Statement (.cbind d a b) := fun _ => ⟨top_wordR _ _ _ _ _, by
  rw [decMsg_major, decMsg, fSub_wordR]; exact read3 .cbind⟩
theorem RoundTrip.cwait (d : Reg) (a : Reg) (b : Reg) : RoundTrip.Statement (.cwait d a b) := fun _ => ⟨top_wordR _ _ _ _ _, by
  rw [decMsg_major, decMsg, fSub_wordR]; exact read3 .cwait⟩
theorem RoundTrip.mbwait (d : Reg) (b : Reg) : RoundTrip.Statement (.mbwait d b) := fun _ => ⟨top_wordR _ _ _ _ _, by
  rw [decMsg_major, decMsg, fSub_wordR]; exact readDB .mbwait⟩
theorem RoundTrip.mbpop (d : Reg) (b : Reg) : RoundTrip.Statement (.mbpop d b) := fun _ => ⟨top_wordR _ _ _ _ _, by
  rw [decMsg_major, decMsg, fSub_wordR]; exact readDB .mbpop⟩
theorem RoundTrip.mbpeek (d : Reg) (b : Reg) : RoundTrip.Statement (.mbpeek d b) := fun _ => ⟨top_wordR _ _ _ _ _, by
  rw [decMsg_major, decMsg, fSub_wordR]; exact readDB .mbpeek⟩
theorem RoundTrip.qdef (d : Reg) (a : Reg) : RoundTrip.Statement (.qdef d a) := fun _ => ⟨top_wordR _ _ _ _ _, by
  rw [decQueue_major, decQueue, fSub_wordR]; exact readDA .qdef⟩
theorem RoundTrip.qpush (rel : Bool) (d : Reg) (a : Reg) (b : Reg) : RoundTrip.Statement (.qpush rel d a b) := fun _ => ⟨top_wordR _ _ _ _ _, by
  rw [decQueue_major, decQueue, fSub_wordR]; cases rel <;> exact read3 (.qpush _)⟩
theorem RoundTrip.qpop (d : Reg) (a : Reg) (b : Reg) : RoundTrip.Statement (.qpop d a b) := fun _ => ⟨top_wordR _ _ _ _ _, by
  rw [decQueue_major, decQueue, fSub_wordR]; exact read3 .qpop⟩
theorem RoundTrip.qpeek (d : Reg) (a : Reg) (b : Reg) : RoundTrip.Statement (.qpeek d a b) := fun _ => ⟨top_wordR _ _ _ _ _, by
  rw [decQueue_major, decQueue, fSub_wordR]; exact read3 .qpeek⟩
theorem RoundTrip.qstat (d : Reg) (a : Reg) : RoundTrip.Statement (.qstat d a) := fun _ => ⟨top_wordR _ _ _ _ _, by
  rw [decQueue_major, decQueue, fSub_wordR]; exact readDA .qstat⟩
theorem RoundTrip.qbind (d : Reg) (a : Reg) : RoundTrip.Statement (.qbind d a) := fun _ => ⟨top_wordR _ _ _ _ _, by
  rw [decQueue_major, decQueue, fSub_wordR]; exact readDA .qbind⟩
theorem RoundTrip.qmark (d : Reg) (a : Reg) : RoundTrip.Statement (.qmark d a) := fun _ => ⟨top_wordR _ _ _ _ _, by
  rw [decQueue_major, decQueue, fSub_wordR]; exact readDA .qmark⟩
theorem RoundTrip.tlook (d : Reg) (a : Reg) : RoundTrip.Statement (.tlook d a) := fun _ => ⟨top_wordR _ _ _ _ _, by
  rw [decTable_major, decTable, fSub_wordR]; exact readDA .tlook⟩
theorem RoundTrip.tins (d : Reg) (a : Reg) (b : Reg) : RoundTrip.Statement (.tins d a b) := fun _ => ⟨top_wordR _ _ _ _ _, by
  rw [decTable_major, decTable, fSub_wordR]; exact read3 .tins⟩
theorem RoundTrip.tinv (d : Reg) (a : Reg) : RoundTrip.Statement (.tinv d a) := fun _ => ⟨top_wordR _ _ _ _ _, by
  rw [decTable_major, decTable, fSub_wordR]; exact readDA .tinv⟩
theorem RoundTrip.tdef (d : Reg) (a : Reg) : RoundTrip.Statement (.tdef d a) := fun _ => ⟨top_wordR _ _ _ _ _, by
  rw [decTable_major, decTable, fSub_wordR]; exact readDA .tdef⟩
theorem RoundTrip.tstat (d : Reg) (a : Reg) (b : Reg) : RoundTrip.Statement (.tstat d a b) := fun _ => ⟨top_wordR _ _ _ _ _, by
  rw [decTable_major, decTable, fSub_wordR]; exact read3 .tstat⟩
theorem RoundTrip.twait (d : Reg) (a : Reg) : RoundTrip.Statement (.twait d a) := fun _ => ⟨top_wordR _ _ _ _ _, by
  rw [decTable_major, decTable, fSub_wordR]; exact readDA .twait⟩
theorem RoundTrip.agset (d : Reg) (a : Reg) : RoundTrip.Statement (.agset d a) := fun _ => ⟨top_wordR _ _ _ _ _, by
  rw [decTable_major, decTable, fSub_wordR]; exact readDA .agset⟩
theorem RoundTrip.agparm (d : Reg) (a : Reg) (b : Reg) : RoundTrip.Statement (.agparm d a b) := fun _ => ⟨top_wordR _ _ _ _ _, by
  rw [decTable_major, decTable, fSub_wordR]; exact read3 .agparm⟩
theorem RoundTrip.sopen (d : Reg) : RoundTrip.Statement (.sopen d) := fun _ => ⟨top_wordR _ _ _ _ _, by
  rw [decTable_major, decTable, fSub_wordR]; exact readD .sopen⟩
theorem RoundTrip.sclose (d : Reg) (a : Reg) : RoundTrip.Statement (.sclose d a) := fun _ => ⟨top_wordR _ _ _ _ _, by
  rw [decTable_major, decTable, fSub_wordR]; exact readDA .sclose⟩
theorem RoundTrip.sstat (d : Reg) (a : Reg) : RoundTrip.Statement (.sstat d a) := fun _ => ⟨top_wordR _ _ _ _ _, by
  rw [decTable_major, decTable, fSub_wordR]; exact readDA .sstat⟩
theorem RoundTrip.mload (d : Reg) (a : Reg) (b : Reg) : RoundTrip.Statement (.mload d a b) := fun _ => ⟨top_wordR _ _ _ _ _, by
  rw [decMatrix_major, decMatrix, fSub_wordR]; exact read3 .mload⟩
theorem RoundTrip.mrun (d : Reg) (a : Reg) (b : Reg) : RoundTrip.Statement (.mrun d a b) := fun _ => ⟨top_wordR _ _ _ _ _, by
  rw [decMatrix_major, decMatrix, fSub_wordR]; exact read3 .mrun⟩
theorem RoundTrip.mdrain (d : Reg) (a : Reg) (b : Reg) : RoundTrip.Statement (.mdrain d a b) := fun _ => ⟨top_wordR _ _ _ _ _, by
  rw [decMatrix_major, decMatrix, fSub_wordR]; exact read3 .mdrain⟩
theorem RoundTrip.mstat (d : Reg) (a : Reg) : RoundTrip.Statement (.mstat d a) := fun _ => ⟨top_wordR _ _ _ _ _, by
  rw [decMatrix_major, decMatrix, fSub_wordR]; exact readDA .mstat⟩
theorem RoundTrip.rarm (d : Reg) (a : Reg) (b : Reg) : RoundTrip.Statement (.rarm d a b) := fun _ => ⟨top_wordR _ _ _ _ _, by
  rw [decSched_major, decSched, fSub_wordR]; exact read3 .rarm⟩
theorem RoundTrip.rdisarm (d : Reg) (a : Reg) : RoundTrip.Statement (.rdisarm d a) := fun _ => ⟨top_wordR _ _ _ _ _, by
  rw [decSched_major, decSched, fSub_wordR]; exact readDA .rdisarm⟩
theorem RoundTrip.cancelBlock (d : Reg) (a : Reg) (b : Reg) : RoundTrip.Statement (.cancelBlock d a b) := fun _ => ⟨top_wordR _ _ _ _ _, by
  rw [decSched_major, decSched, fSub_wordR]; exact read3 .cancelBlock⟩
theorem RoundTrip.cancelCommand (d : Reg) (a : Reg) (b : Reg) : RoundTrip.Statement (.cancelCommand d a b) := fun _ => ⟨top_wordR _ _ _ _ _, by
  rw [decSched_major, decSched, fSub_wordR]; exact read3 .cancelBlock⟩
theorem RoundTrip.cancelHungRegion (d : Reg) (a : Reg) (b : Reg) : RoundTrip.Statement (.cancelHungRegion d a b) := fun _ => ⟨top_wordR _ _ _ _ _, by
  rw [decSched_major, decSched, fSub_wordR]; exact read3 .cancelBlock⟩
theorem RoundTrip.rprio (d : Reg) (a : Reg) (b : Reg) : RoundTrip.Statement (.rprio d a b) := fun _ => ⟨top_wordR _ _ _ _ _, by
  rw [decSched_major, decSched, fSub_wordR]; exact read3 .rprio⟩
theorem RoundTrip.thprio (d : Reg) (a : Reg) : RoundTrip.Statement (.thprio d a) := fun _ => ⟨top_wordR _ _ _ _ _, by
  rw [decSched_major, decSched, fSub_wordR]; exact readDA .thprio⟩
theorem RoundTrip.bar (d : Reg) (a : Reg) : RoundTrip.Statement (.bar d a) := fun _ => ⟨top_wordR _ _ _ _ _, by
  rw [decBar_major, decBar, fSub_wordR]; exact readDA .bar⟩
theorem RoundTrip.barsnap (d : Reg) (a : Reg) : RoundTrip.Statement (.barsnap d a) := fun _ => ⟨top_wordR _ _ _ _ _, by
  rw [decBar_major, decBar, fSub_wordR]; exact readDA .barsnap⟩
theorem RoundTrip.reduce (d : Reg) (a : Reg) (b : Reg) : RoundTrip.Statement (.reduce d a b) := fun _ => ⟨top_wordR _ _ _ _ _, by
  rw [decBar_major, decBar, fSub_wordR]; exact read3 .reduce⟩
theorem RoundTrip.done_ (d : Reg) (a : Reg) : RoundTrip.Statement (.done_ d a) := fun _ => ⟨top_wordR _ _ _ _ _, by
  rw [decBar_major, decBar, fSub_wordR]; exact readDA .done_⟩
theorem RoundTrip.trap (a : Reg) : RoundTrip.Statement (.trap a) := fun _ => ⟨top_wordR _ _ _ _ _, by
  rw [decSys_major, decSys, fSub_wordR]; exact readA .trap⟩
theorem RoundTrip.ctxswOut (d : Reg) (a : Reg) (b : Reg) : RoundTrip.Statement (.ctxswOut d a b) := fun _ => ⟨top_wordR _ _ _ _ _, by
  rw [decSys_major, decSys, fSub_wordR]; exact read3 .ctxswOut⟩
theorem RoundTrip.ctxswIn (d : Reg) (a : Reg) (b : Reg) : RoundTrip.Statement (.ctxswIn d a b) := fun _ => ⟨top_wordR _ _ _ _ _, by
  rw [decSys_major, decSys, fSub_wordR]; exact read3 .ctxswOut⟩
theorem RoundTrip.ctxswKill (d : Reg) (a : Reg) (b : Reg) : RoundTrip.Statement (.ctxswKill d a b) := fun _ => ⟨top_wordR _ _ _ _ _, by
  rw [decSys_major, decSys, fSub_wordR]; exact read3 .ctxswOut⟩
theorem RoundTrip.frzsave (d : Reg) (a : Reg) (b : Reg) : RoundTrip.Statement (.frzsave d a b) := fun _ => ⟨top_wordR _ _ _ _ _, by
  rw [decSys_major, decSys, fSub_wordR]; exact read3 .frzsave⟩
theorem RoundTrip.drnsave (d : Reg) (a : Reg) (b : Reg) : RoundTrip.Statement (.drnsave d a b) := fun _ => ⟨top_wordR _ _ _ _ _, by
  rw [decSys_major, decSys, fSub_wordR]; exact read3 .drnsave⟩
theorem RoundTrip.restore (d : Reg) (a : Reg) (b : Reg) : RoundTrip.Statement (.restore d a b) := fun _ => ⟨top_wordR _ _ _ _ _, by
  rw [decSys_major, decSys, fSub_wordR]; exact read3 .restore⟩
theorem RoundTrip.rdstate (d : Reg) (a : Reg) : RoundTrip.Statement (.rdstate d a) := fun _ => ⟨top_wordR _ _ _ _ _, by
  rw [decSys_major, decSys, fSub_wordR]; exact readDA .rdstate⟩
theorem RoundTrip.tlbinv (d : Reg) (a : Reg) (b : Reg) : RoundTrip.Statement (.tlbinv d a b) := fun _ => ⟨top_wordR _ _ _ _ _, by
  rw [decSys_major, decSys, fSub_wordR]; exact read3 .tlbinv⟩
theorem RoundTrip.capmintInstall (d : Reg) (a : Reg) (b : Reg) : RoundTrip.Statement (.capmintInstall d a b) := fun _ => ⟨top_wordR _ _ _ _ _, by
  rw [decSys_major, decSys, fSub_wordR]; exact read3 .capmintInstall⟩
theorem RoundTrip.capmintAdvance (d : Reg) (a : Reg) (b : Reg) : RoundTrip.Statement (.capmintAdvance d a b) := fun _ => ⟨top_wordR _ _ _ _ _, by
  rw [decSys_major, decSys, fSub_wordR]; exact read3 .capmintInstall⟩
theorem RoundTrip.hdecl (d : Reg) (a : Reg) (b : Reg) : RoundTrip.Statement (.hdecl d a b) := fun _ => ⟨top_wordR _ _ _ _ _, by
  rw [decSys_major, decSys, fSub_wordR]; exact read3 .hdecl⟩
theorem RoundTrip.hopen (d : Reg) (a : Reg) (b : Reg) : RoundTrip.Statement (.hopen d a b) := fun _ => ⟨top_wordR _ _ _ _ _, by
  rw [decSys_major, decSys, fSub_wordR]; exact read3 .hopen⟩
theorem RoundTrip.hclose (d : Reg) (a : Reg) : RoundTrip.Statement (.hclose d a) := fun _ => ⟨top_wordR _ _ _ _ _, by
  rw [decSys_major, decSys, fSub_wordR]; exact readDA .hclose⟩
theorem RoundTrip.platerdHeader (d : Reg) (a : Reg) (b : Reg) : RoundTrip.Statement (.platerdHeader d a b) := fun _ => ⟨top_wordR _ _ _ _ _, by
  rw [decSys_major, decSys, fSub_wordR]; exact read3 .platerdHeader⟩
theorem RoundTrip.platerdEntry (d : Reg) (a : Reg) (b : Reg) : RoundTrip.Statement (.platerdEntry d a b) := fun _ => ⟨top_wordR _ _ _ _ _, by
  rw [decSys_major, decSys, fSub_wordR]; exact read3 .platerdHeader⟩
theorem RoundTrip.hclear (d : Reg) (a : Reg) : RoundTrip.Statement (.hclear d a) := fun _ => ⟨top_wordR _ _ _ _ _, by
  rw [decSys_major, decSys, fSub_wordR]; exact readDA .hclear⟩
theorem RoundTrip.getk (d : Reg) (n : BitVec 13) : RoundTrip.Statement (.getk d n) := fun _ => ⟨top_wordI13 _ _ _ _, by
  rw [decodeWord, fMajor_wordI13]; change need (fA _ == 0) _ (.getk (fD _) (fImm13 _)) = _; rw [fD_wordI13, fA_wordI13, fImm13_wordI13]; rfl⟩
theorem RoundTrip.putk (a : Reg) (n : BitVec 13) : RoundTrip.Statement (.putk a n) := fun h => ⟨top_wordI13 _ _ _ _, by
  have k := (Bool.and_eq_true_iff.1 h).1
  simp only [Instr.rowOk, ownPutk, Bool.not_eq_true', Bool.or_eq_false_iff] at k
  rw [decodeWord, fMajor_wordI13]; change decPutk _ = _
  rw [decPutk, fD_wordI13, fA_wordI13, fImm13_wordI13, k.1.1, k.1.2, k.2]; rfl⟩
theorem RoundTrip.putkEcomph (a : Reg) : RoundTrip.Statement (.putkEcomph a) := fun _ => ⟨top_wordI13 _ _ _ _, by
  rw [decodeWord, fMajor_wordI13]; change decPutk _ = _; rw [decPutk, fD_wordI13, fA_wordI13, fImm13_wordI13]; rfl⟩
theorem RoundTrip.putkDom (a : Reg) : RoundTrip.Statement (.putkDom a) := fun _ => ⟨top_wordI13 _ _ _ _, by
  rw [decodeWord, fMajor_wordI13]; change decPutk _ = _; rw [decPutk, fD_wordI13, fA_wordI13, fImm13_wordI13]; rfl⟩
theorem RoundTrip.putkLnack (a : Reg) : RoundTrip.Statement (.putkLnack a) := fun _ => ⟨top_wordI13 _ _ _ _, by
  rw [decodeWord, fMajor_wordI13]; change decPutk _ = _; rw [decPutk, fD_wordI13, fA_wordI13, fImm13_wordI13]; rfl⟩
theorem RoundTrip.lld (d : Reg) (a : Reg) (o : BitVec 10) : RoundTrip.Statement (.lld d a o) := fun _ => ⟨top_wordM _ _ _ _ _, by
  rw [decodeWord, fMajor_wordM]; change need (fWidth _ == 0) _ (.lld (fD _) (fA _) (fOff10 _)) = _; rw [fD_wordM, fA_wordM, fWidth_wordM, fOff10_wordM]; rfl⟩
theorem RoundTrip.lst (d : Reg) (a : Reg) (o : BitVec 10) : RoundTrip.Statement (.lst d a o) := fun _ => ⟨top_wordM _ _ _ _ _, by
  rw [decodeWord, fMajor_wordM]; change need (fWidth _ == 0) _ (.lst (fD _) (fA _) (fOff10 _)) = _; rw [fD_wordM, fA_wordM, fWidth_wordM, fOff10_wordM]; rfl⟩
theorem RoundTrip.addCompact (d : CReg) (a : CReg) (b : CReg) : RoundTrip.Statement (.addCompact d a b) := fun _ => by
  obtain ⟨h1, h2, h3, h4, h5⟩ := fields_parcel3 0#4 d a b
  refine ⟨?_, ?_⟩
  · rw [h5]; decide
  · rw [decodeCompact, h1, h2, h3, h4]; rfl
theorem RoundTrip.subCompact (d : CReg) (a : CReg) (b : CReg) : RoundTrip.Statement (.subCompact d a b) := fun _ => by
  obtain ⟨h1, h2, h3, h4, h5⟩ := fields_parcel3 1#4 d a b
  refine ⟨?_, ?_⟩
  · rw [h5]; decide
  · rw [decodeCompact, h1, h2, h3, h4]; rfl
theorem RoundTrip.andCompact (d : CReg) (a : CReg) (b : CReg) : RoundTrip.Statement (.andCompact d a b) := fun _ => by
  obtain ⟨h1, h2, h3, h4, h5⟩ := fields_parcel3 2#4 d a b
  refine ⟨?_, ?_⟩
  · rw [h5]; decide
  · rw [decodeCompact, h1, h2, h3, h4]; rfl
theorem RoundTrip.orCompact (d : CReg) (a : CReg) (b : CReg) : RoundTrip.Statement (.orCompact d a b) := fun _ => by
  obtain ⟨h1, h2, h3, h4, h5⟩ := fields_parcel3 3#4 d a b
  refine ⟨?_, ?_⟩
  · rw [h5]; decide
  · rw [decodeCompact, h1, h2, h3, h4]; rfl
theorem RoundTrip.xorCompact (d : CReg) (a : CReg) (b : CReg) : RoundTrip.Statement (.xorCompact d a b) := fun _ => by
  obtain ⟨h1, h2, h3, h4, h5⟩ := fields_parcel3 4#4 d a b
  refine ⟨?_, ?_⟩
  · rw [h5]; decide
  · rw [decodeCompact, h1, h2, h3, h4]; rfl
theorem RoundTrip.addiCompact (d : CReg) (a : CReg) (i : BitVec 4) : RoundTrip.Statement (.addiCompact d a i) := fun _ => by
  obtain ⟨h1, h2, h3, h4, h5⟩ := fields_parcel3 5#4 d a i
  refine ⟨?_, ?_⟩
  · rw [h5]; decide
  · rw [decodeCompact, h1, h2, h3, h4]; rfl
theorem RoundTrip.slliCompact (d : CReg) (a : CReg) (i : BitVec 4) : RoundTrip.Statement (.slliCompact d a i) := fun _ => by
  obtain ⟨h1, h2, h3, h4, h5⟩ := fields_parcel3 6#4 d a i
  refine ⟨?_, ?_⟩
  · rw [h5]; decide
  · rw [decodeCompact, h1, h2, h3, h4]; rfl
theorem RoundTrip.srliCompact (d : CReg) (a : CReg) (i : BitVec 4) : RoundTrip.Statement (.srliCompact d a i) := fun _ => by
  obtain ⟨h1, h2, h3, h4, h5⟩ := fields_parcel3 7#4 d a i
  refine ⟨?_, ?_⟩
  · rw [h5]; decide
  · rw [decodeCompact, h1, h2, h3, h4]; rfl
theorem RoundTrip.liCompact (d : CReg) (i : BitVec 8) : RoundTrip.Statement (.liCompact d i) := fun _ => by
  obtain ⟨h1, h2, h3, h4⟩ := fields_parcel2 8#4 d i
  refine ⟨?_, ?_⟩
  · rw [h4]; decide
  · rw [decodeCompact, h1, h2, h3]; rfl
theorem RoundTrip.ld64Compact (d : CReg) (a : CReg) (i : BitVec 4) : RoundTrip.Statement (.ld64Compact d a i) := fun _ => by
  obtain ⟨h1, h2, h3, h4, h5⟩ := fields_parcel3 9#4 d a i
  refine ⟨?_, ?_⟩
  · rw [h5]; decide
  · rw [decodeCompact, h1, h2, h3, h4]; rfl
theorem RoundTrip.st64Compact (d : CReg) (a : CReg) (i : BitVec 4) : RoundTrip.Statement (.st64Compact d a i) := fun _ => by
  obtain ⟨h1, h2, h3, h4, h5⟩ := fields_parcel3 10#4 d a i
  refine ⟨?_, ?_⟩
  · rw [h5]; decide
  · rw [decodeCompact, h1, h2, h3, h4]; rfl
theorem RoundTrip.beqCompact (a : CReg) (o : BitVec 8) : RoundTrip.Statement (.beqCompact a o) := fun _ => by
  obtain ⟨h1, h2, h3, h4⟩ := fields_parcel2 11#4 a o
  refine ⟨?_, ?_⟩
  · rw [h4]; decide
  · rw [decodeCompact, h1, h2, h3]; rfl
theorem RoundTrip.bneCompact (a : CReg) (o : BitVec 8) : RoundTrip.Statement (.bneCompact a o) := fun _ => by
  obtain ⟨h1, h2, h3, h4⟩ := fields_parcel2 12#4 a o
  refine ⟨?_, ?_⟩
  · rw [h4]; decide
  · rw [decodeCompact, h1, h2, h3]; rfl
theorem RoundTrip.nodeFadd (at_ : FireAt) (w : BlockWord) : RoundTrip.Statement (.nodeFadd at_ w) := fun h => decodeBlock_bits (wf_word h) rfl
theorem RoundTrip.nodeFsub (at_ : FireAt) (w : BlockWord) : RoundTrip.Statement (.nodeFsub at_ w) := fun h => decodeBlock_bits (wf_word h) rfl
theorem RoundTrip.nodeFmul (at_ : FireAt) (w : BlockWord) : RoundTrip.Statement (.nodeFmul at_ w) := fun h => decodeBlock_bits (wf_word h) rfl
theorem RoundTrip.nodeFma (at_ : FireAt) (w : BlockWord) : RoundTrip.Statement (.nodeFma at_ w) := fun h => decodeBlock_bits (wf_word h) rfl
theorem RoundTrip.nodeFmin (at_ : FireAt) (w : BlockWord) : RoundTrip.Statement (.nodeFmin at_ w) := fun h => decodeBlock_bits (wf_word h) rfl
theorem RoundTrip.nodeFmax (at_ : FireAt) (w : BlockWord) : RoundTrip.Statement (.nodeFmax at_ w) := fun h => decodeBlock_bits (wf_word h) rfl
theorem RoundTrip.nodeFabs (at_ : FireAt) (w : BlockWord) : RoundTrip.Statement (.nodeFabs at_ w) := fun h => decodeBlock_bits (wf_word h) rfl
theorem RoundTrip.nodeFneg (at_ : FireAt) (w : BlockWord) : RoundTrip.Statement (.nodeFneg at_ w) := fun h => decodeBlock_bits (wf_word h) rfl
theorem RoundTrip.nodeFcmp (at_ : FireAt) (w : BlockWord) : RoundTrip.Statement (.nodeFcmp at_ w) := fun h => decodeBlock_bits (wf_word h) rfl
theorem RoundTrip.nodeFrcp (at_ : FireAt) (w : BlockWord) : RoundTrip.Statement (.nodeFrcp at_ w) := fun h => decodeBlock_bits (wf_word h) rfl
theorem RoundTrip.nodeFrsq (at_ : FireAt) (w : BlockWord) : RoundTrip.Statement (.nodeFrsq at_ w) := fun h => decodeBlock_bits (wf_word h) rfl
theorem RoundTrip.nodeFsqrt (at_ : FireAt) (w : BlockWord) : RoundTrip.Statement (.nodeFsqrt at_ w) := fun h => decodeBlock_bits (wf_word h) rfl
theorem RoundTrip.nodeFexp2 (at_ : FireAt) (w : BlockWord) : RoundTrip.Statement (.nodeFexp2 at_ w) := fun h => decodeBlock_bits (wf_word h) rfl
theorem RoundTrip.nodeFlog2 (at_ : FireAt) (w : BlockWord) : RoundTrip.Statement (.nodeFlog2 at_ w) := fun h => decodeBlock_bits (wf_word h) rfl
theorem RoundTrip.nodeFsin (at_ : FireAt) (w : BlockWord) : RoundTrip.Statement (.nodeFsin at_ w) := fun h => decodeBlock_bits (wf_word h) rfl
theorem RoundTrip.nodeFcos (at_ : FireAt) (w : BlockWord) : RoundTrip.Statement (.nodeFcos at_ w) := fun h => decodeBlock_bits (wf_word h) rfl
theorem RoundTrip.nodeFtanh (at_ : FireAt) (w : BlockWord) : RoundTrip.Statement (.nodeFtanh at_ w) := fun h => decodeBlock_bits (wf_word h) rfl
theorem RoundTrip.nodeIadd (at_ : FireAt) (w : BlockWord) : RoundTrip.Statement (.nodeIadd at_ w) := fun h => decodeBlock_bits (wf_word h) rfl
theorem RoundTrip.nodeIsub (at_ : FireAt) (w : BlockWord) : RoundTrip.Statement (.nodeIsub at_ w) := fun h => decodeBlock_bits (wf_word h) rfl
theorem RoundTrip.nodeImul (at_ : FireAt) (w : BlockWord) : RoundTrip.Statement (.nodeImul at_ w) := fun h => decodeBlock_bits (wf_word h) rfl
theorem RoundTrip.nodeImulh (at_ : FireAt) (w : BlockWord) : RoundTrip.Statement (.nodeImulh at_ w) := fun h => decodeBlock_bits (wf_word h) rfl
theorem RoundTrip.nodeImin (at_ : FireAt) (w : BlockWord) : RoundTrip.Statement (.nodeImin at_ w) := fun h => decodeBlock_bits (wf_word h) rfl
theorem RoundTrip.nodeImax (at_ : FireAt) (w : BlockWord) : RoundTrip.Statement (.nodeImax at_ w) := fun h => decodeBlock_bits (wf_word h) rfl
theorem RoundTrip.nodeIabs (at_ : FireAt) (w : BlockWord) : RoundTrip.Statement (.nodeIabs at_ w) := fun h => decodeBlock_bits (wf_word h) rfl
theorem RoundTrip.nodeIcmp (at_ : FireAt) (w : BlockWord) : RoundTrip.Statement (.nodeIcmp at_ w) := fun h => decodeBlock_bits (wf_word h) rfl
theorem RoundTrip.nodeAnd (at_ : FireAt) (w : BlockWord) : RoundTrip.Statement (.nodeAnd at_ w) := fun h => decodeBlock_bits (wf_word h) rfl
theorem RoundTrip.nodeOr (at_ : FireAt) (w : BlockWord) : RoundTrip.Statement (.nodeOr at_ w) := fun h => decodeBlock_bits (wf_word h) rfl
theorem RoundTrip.nodeXor (at_ : FireAt) (w : BlockWord) : RoundTrip.Statement (.nodeXor at_ w) := fun h => decodeBlock_bits (wf_word h) rfl
theorem RoundTrip.nodeNot (at_ : FireAt) (w : BlockWord) : RoundTrip.Statement (.nodeNot at_ w) := fun h => decodeBlock_bits (wf_word h) rfl
theorem RoundTrip.nodeShl (at_ : FireAt) (w : BlockWord) : RoundTrip.Statement (.nodeShl at_ w) := fun h => decodeBlock_bits (wf_word h) rfl
theorem RoundTrip.nodeShr (at_ : FireAt) (w : BlockWord) : RoundTrip.Statement (.nodeShr at_ w) := fun h => decodeBlock_bits (wf_word h) rfl
theorem RoundTrip.nodeShra (at_ : FireAt) (w : BlockWord) : RoundTrip.Statement (.nodeShra at_ w) := fun h => decodeBlock_bits (wf_word h) rfl
theorem RoundTrip.nodeClz (at_ : FireAt) (w : BlockWord) : RoundTrip.Statement (.nodeClz at_ w) := fun h => decodeBlock_bits (wf_word h) rfl
theorem RoundTrip.nodePopc (at_ : FireAt) (w : BlockWord) : RoundTrip.Statement (.nodePopc at_ w) := fun h => decodeBlock_bits (wf_word h) rfl
theorem RoundTrip.nodeCvt (at_ : FireAt) (w : BlockWord) : RoundTrip.Statement (.nodeCvt at_ w) := fun h => decodeBlock_bits (wf_word h) rfl
theorem RoundTrip.nodeQuant (at_ : FireAt) (w : BlockWord) : RoundTrip.Statement (.nodeQuant at_ w) := fun h => decodeBlock_bits (wf_word h) (by
  have := (Bool.and_eq_true_iff.1 h).1
  simp only [Instr.rowOk, Bool.not_eq_true'] at this
  simp [mkNode, this])
theorem RoundTrip.nodeQuantMx (at_ : FireAt) (w : BlockWord) : RoundTrip.Statement (.nodeQuantMx at_ w) := fun h => decodeBlock_bits (wf_word h) (by
  have := (Bool.and_eq_true_iff.1 h).1
  simp only [Instr.rowOk] at this
  simp [mkNode, this])
theorem RoundTrip.nodeDequant (at_ : FireAt) (w : BlockWord) : RoundTrip.Statement (.nodeDequant at_ w) := fun h => decodeBlock_bits (wf_word h) (by
  have := (Bool.and_eq_true_iff.1 h).1
  simp only [Instr.rowOk, Bool.not_eq_true'] at this
  simp [mkNode, this])
theorem RoundTrip.nodeDequantMx (at_ : FireAt) (w : BlockWord) : RoundTrip.Statement (.nodeDequantMx at_ w) := fun h => decodeBlock_bits (wf_word h) (by
  have := (Bool.and_eq_true_iff.1 h).1
  simp only [Instr.rowOk] at this
  simp [mkNode, this])
theorem RoundTrip.nodeShuf (at_ : FireAt) (w : BlockWord) : RoundTrip.Statement (.nodeShuf at_ w) := fun h => decodeBlock_bits (wf_word h) rfl
theorem RoundTrip.nodeBcast (at_ : FireAt) (w : BlockWord) : RoundTrip.Statement (.nodeBcast at_ w) := fun h => decodeBlock_bits (wf_word h) rfl
theorem RoundTrip.nodeRed (at_ : FireAt) (w : BlockWord) : RoundTrip.Statement (.nodeRed at_ w) := fun h => decodeBlock_bits (wf_word h) rfl
theorem RoundTrip.nodeScan (at_ : FireAt) (w : BlockWord) : RoundTrip.Statement (.nodeScan at_ w) := fun h => decodeBlock_bits (wf_word h) rfl
theorem RoundTrip.nodePack (at_ : FireAt) (w : BlockWord) : RoundTrip.Statement (.nodePack at_ w) := fun h => decodeBlock_bits (wf_word h) rfl
theorem RoundTrip.nodeUnpack (at_ : FireAt) (w : BlockWord) : RoundTrip.Statement (.nodeUnpack at_ w) := fun h => decodeBlock_bits (wf_word h) rfl
theorem RoundTrip.nodeLoad (at_ : FireAt) (w : BlockWord) : RoundTrip.Statement (.nodeLoad at_ w) := fun h => decodeBlock_bits (wf_word h) rfl
theorem RoundTrip.nodeStore (at_ : FireAt) (w : BlockWord) : RoundTrip.Statement (.nodeStore at_ w) := fun h => decodeBlock_bits (wf_word h) rfl
theorem RoundTrip.nodeTload (at_ : FireAt) (w : BlockWord) : RoundTrip.Statement (.nodeTload at_ w) := fun h => decodeBlock_bits (wf_word h) rfl
theorem RoundTrip.nodeTstore (at_ : FireAt) (w : BlockWord) : RoundTrip.Statement (.nodeTstore at_ w) := fun h => decodeBlock_bits (wf_word h) rfl
theorem RoundTrip.nodeQin (at_ : FireAt) (w : BlockWord) : RoundTrip.Statement (.nodeQin at_ w) := fun h => decodeBlock_bits (wf_word h) rfl
theorem RoundTrip.nodeQout (at_ : FireAt) (w : BlockWord) : RoundTrip.Statement (.nodeQout at_ w) := fun h => decodeBlock_bits (wf_word h) rfl
theorem RoundTrip.nodeSin (at_ : FireAt) (w : BlockWord) : RoundTrip.Statement (.nodeSin at_ w) := fun h => decodeBlock_bits (wf_word h) rfl
theorem RoundTrip.nodeSout (at_ : FireAt) (w : BlockWord) : RoundTrip.Statement (.nodeSout at_ w) := fun h => decodeBlock_bits (wf_word h) rfl
theorem RoundTrip.nodeRead (at_ : FireAt) (w : BlockWord) : RoundTrip.Statement (.nodeRead at_ w) := fun h => decodeBlock_bits (wf_word h) rfl
theorem RoundTrip.nodeWrite (at_ : FireAt) (w : BlockWord) : RoundTrip.Statement (.nodeWrite at_ w) := fun h => decodeBlock_bits (wf_word h) rfl
theorem RoundTrip.nodeBr (at_ : FireAt) (w : BlockWord) : RoundTrip.Statement (.nodeBr at_ w) := fun h => decodeBlock_bits (wf_word h) rfl
theorem RoundTrip.nodeNull (at_ : FireAt) (w : BlockWord) : RoundTrip.Statement (.nodeNull at_ w) := fun h => decodeBlock_bits (wf_word h) rfl
theorem RoundTrip.nodeConst (at_ : FireAt) (w : BlockWord) : RoundTrip.Statement (.nodeConst at_ w) := fun h => decodeBlock_bits (wf_word h) rfl
theorem RoundTrip.nodeCtr (at_ : FireAt) (w : BlockWord) : RoundTrip.Statement (.nodeCtr at_ w) := fun h => decodeBlock_bits (wf_word h) rfl
theorem RoundTrip.nodeFan (at_ : FireAt) (w : BlockWord) : RoundTrip.Statement (.nodeFan at_ w) := fun h => decodeBlock_bits (wf_word h) rfl
theorem RoundTrip.nodeMerge (at_ : FireAt) (w : BlockWord) : RoundTrip.Statement (.nodeMerge at_ w) := fun h => decodeBlock_bits (wf_word h) rfl
theorem RoundTrip.nodeWload (at_ : FireAt) (w : BlockWord) : RoundTrip.Statement (.nodeWload at_ w) := fun h => decodeBlock_bits (wf_word h) rfl
theorem RoundTrip.nodeMacc (at_ : FireAt) (w : BlockWord) : RoundTrip.Statement (.nodeMacc at_ w) := fun h => decodeBlock_bits (wf_word h) rfl
theorem RoundTrip.nodeAccdrain (at_ : FireAt) (w : BlockWord) : RoundTrip.Statement (.nodeAccdrain at_ w) := fun h => decodeBlock_bits (wf_word h) rfl
theorem RoundTrip.snodePass (at_ : SFireAt) (w : NodeWord) : RoundTrip.Statement (.snodePass at_ w) := fun h => decodeNode_bits (wf_word h) rfl
theorem RoundTrip.snodeSplit (at_ : SFireAt) (w : NodeWord) : RoundTrip.Statement (.snodeSplit at_ w) := fun h => decodeNode_bits (wf_word h) rfl
theorem RoundTrip.snodeMerge (at_ : SFireAt) (w : NodeWord) : RoundTrip.Statement (.snodeMerge at_ w) := fun h => decodeNode_bits (wf_word h) rfl
theorem RoundTrip.snodeScale (at_ : SFireAt) (w : NodeWord) : RoundTrip.Statement (.snodeScale at_ w) := fun h => decodeNode_bits (wf_word h) rfl
theorem RoundTrip.snodeAdd (at_ : SFireAt) (w : NodeWord) : RoundTrip.Statement (.snodeAdd at_ w) := fun h => decodeNode_bits (wf_word h) rfl
theorem RoundTrip.snodeMul (at_ : SFireAt) (w : NodeWord) : RoundTrip.Statement (.snodeMul at_ w) := fun h => decodeNode_bits (wf_word h) rfl
theorem RoundTrip.snodeFma (at_ : SFireAt) (w : NodeWord) : RoundTrip.Statement (.snodeFma at_ w) := fun h => decodeNode_bits (wf_word h) rfl
theorem RoundTrip.snodeClamp (at_ : SFireAt) (w : NodeWord) : RoundTrip.Statement (.snodeClamp at_ w) := fun h => decodeNode_bits (wf_word h) rfl
theorem RoundTrip.snodeCmpsel (at_ : SFireAt) (w : NodeWord) : RoundTrip.Statement (.snodeCmpsel at_ w) := fun h => decodeNode_bits (wf_word h) rfl
theorem RoundTrip.snodeCvt (at_ : SFireAt) (w : NodeWord) : RoundTrip.Statement (.snodeCvt at_ w) := fun h => decodeNode_bits (wf_word h) rfl
theorem RoundTrip.snodeQmx (at_ : SFireAt) (w : NodeWord) : RoundTrip.Statement (.snodeQmx at_ w) := fun h => decodeNode_bits (wf_word h) rfl
theorem RoundTrip.snodeDqmx (at_ : SFireAt) (w : NodeWord) : RoundTrip.Statement (.snodeDqmx at_ w) := fun h => decodeNode_bits (wf_word h) rfl
theorem RoundTrip.snodePackb (at_ : SFireAt) (w : NodeWord) : RoundTrip.Statement (.snodePackb at_ w) := fun h => decodeNode_bits (wf_word h) rfl
theorem RoundTrip.snodeUnpackb (at_ : SFireAt) (w : NodeWord) : RoundTrip.Statement (.snodeUnpackb at_ w) := fun h => decodeNode_bits (wf_word h) rfl
theorem RoundTrip.snodeDelta (at_ : SFireAt) (w : NodeWord) : RoundTrip.Statement (.snodeDelta at_ w) := fun h => decodeNode_bits (wf_word h) rfl
theorem RoundTrip.snodeUndelta (at_ : SFireAt) (w : NodeWord) : RoundTrip.Statement (.snodeUndelta at_ w) := fun h => decodeNode_bits (wf_word h) rfl
theorem RoundTrip.snodeBfpc (at_ : SFireAt) (w : NodeWord) : RoundTrip.Statement (.snodeBfpc at_ w) := fun h => decodeNode_bits (wf_word h) rfl
theorem RoundTrip.snodeBfpd (at_ : SFireAt) (w : NodeWord) : RoundTrip.Statement (.snodeBfpd at_ w) := fun h => decodeNode_bits (wf_word h) rfl
theorem RoundTrip.snodeExpand24 (at_ : SFireAt) (w : NodeWord) : RoundTrip.Statement (.snodeExpand24 at_ w) := fun h => decodeNode_bits (wf_word h) rfl
theorem RoundTrip.snodeExpandbm (at_ : SFireAt) (w : NodeWord) : RoundTrip.Statement (.snodeExpandbm at_ w) := fun h => decodeNode_bits (wf_word h) rfl
theorem RoundTrip.snodeCompact (at_ : SFireAt) (w : NodeWord) : RoundTrip.Statement (.snodeCompact at_ w) := fun h => decodeNode_bits (wf_word h) rfl
theorem RoundTrip.snodePerm (at_ : SFireAt) (w : NodeWord) : RoundTrip.Statement (.snodePerm at_ w) := fun h => decodeNode_bits (wf_word h) rfl
theorem RoundTrip.snodeLut (at_ : SFireAt) (w : NodeWord) : RoundTrip.Statement (.snodeLut at_ w) := fun h => decodeNode_bits (wf_word h) rfl
theorem RoundTrip.snodeSum (at_ : SFireAt) (w : NodeWord) : RoundTrip.Statement (.snodeSum at_ w) := fun h => decodeNode_bits (wf_word h) rfl
theorem RoundTrip.snodeMinmax (at_ : SFireAt) (w : NodeWord) : RoundTrip.Statement (.snodeMinmax at_ w) := fun h => decodeNode_bits (wf_word h) rfl
theorem RoundTrip.snodeHist (at_ : SFireAt) (w : NodeWord) : RoundTrip.Statement (.snodeHist at_ w) := fun h => decodeNode_bits (wf_word h) rfl
theorem RoundTrip.snodeCount (at_ : SFireAt) (w : NodeWord) : RoundTrip.Statement (.snodeCount at_ w) := fun h => decodeNode_bits (wf_word h) rfl
theorem RoundTrip.snodeCrc32c (at_ : SFireAt) (w : NodeWord) : RoundTrip.Statement (.snodeCrc32c at_ w) := fun h => decodeNode_bits (wf_word h) rfl
theorem RoundTrip.snodeUndo (at_ : SFireAt) (w : NodeWord) : RoundTrip.Statement (.snodeUndo at_ w) := fun h => decodeNode_bits (wf_word h) rfl
theorem RoundTrip.platerdBody (d : Reg) (a : Reg) (b : Reg) : RoundTrip.Statement (.platerdBody d a b) := fun _ => ⟨top_wordR _ _ _ _ _, by
  rw [decSys_major, decSys, fSub_wordR]; exact read3 .platerdHeader⟩
theorem RoundTrip.platerdRecords (d : Reg) (a : Reg) (b : Reg) : RoundTrip.Statement (.platerdRecords d a b) := fun _ => ⟨top_wordR _ _ _ _ _, by
  rw [decSys_major, decSys, fSub_wordR]; exact read3 .platerdHeader⟩
theorem RoundTrip.yield : RoundTrip.Statement (.yield) := fun _ => ⟨top_wordR _ _ _ _ _, by
  rw [decSched_major, decSched, fSub_wordR]; exact read0 .yield⟩
theorem RoundTrip.halt : RoundTrip.Statement (.halt) := fun _ => ⟨top_wordR _ _ _ _ _, by
  rw [decSys_major, decSys, fSub_wordR]; exact read0 .halt⟩
theorem RoundTrip.tret : RoundTrip.Statement (.tret) := fun _ => ⟨top_wordR _ _ _ _ _, by
  rw [decSys_major, decSys, fSub_wordR]; exact read0 .tret⟩
theorem RoundTrip.haltCompact : RoundTrip.Statement (.haltCompact) := fun _ => ⟨by decide, by rfl⟩
theorem RoundTrip.yieldCompact : RoundTrip.Statement (.yieldCompact) := fun _ => ⟨by decide, by rfl⟩
theorem RoundTrip.sfuResult : RoundTrip.Statement (.sfuResult) := fun _ => trivial
theorem RoundTrip.atomicAnswer : RoundTrip.Statement (.atomicAnswer) := fun _ => trivial
theorem RoundTrip.messageArrive : RoundTrip.Statement (.messageArrive) := fun _ => trivial
theorem RoundTrip.mailboxWriteRetry : RoundTrip.Statement (.mailboxWriteRetry) := fun _ => trivial
theorem RoundTrip.windowCreditReturn : RoundTrip.Statement (.windowCreditReturn) := fun _ => trivial
theorem RoundTrip.regionQuiesceStop : RoundTrip.Statement (.regionQuiesceStop) := fun _ => trivial
theorem RoundTrip.quiesceResume : RoundTrip.Statement (.quiesceResume) := fun _ => trivial
theorem RoundTrip.streamEnd : RoundTrip.Statement (.streamEnd) := fun _ => trivial
theorem RoundTrip.matrixCommandArrival : RoundTrip.Statement (.matrixCommandArrival) := fun _ => trivial
theorem RoundTrip.commandRetry : RoundTrip.Statement (.commandRetry) := fun _ => trivial
theorem RoundTrip.rollback : RoundTrip.Statement (.rollback) := fun _ => trivial
theorem RoundTrip.ctxswSfuWaitExpiry : RoundTrip.Statement (.ctxswSfuWaitExpiry) := fun _ => trivial
theorem RoundTrip.drainSaveTimeout : RoundTrip.Statement (.drainSaveTimeout) := fun _ => trivial
theorem RoundTrip.platerdBodyComplete : RoundTrip.Statement (.platerdBodyComplete) := fun _ => trivial
theorem RoundTrip.issueSlot : RoundTrip.Statement (.issueSlot) := fun _ => trivial
theorem RoundTrip.dispatchDecision : RoundTrip.Statement (.dispatchDecision) := fun _ => trivial
theorem RoundTrip.iterationStart : RoundTrip.Statement (.iterationStart) := fun _ => trivial
theorem RoundTrip.tokenHop : RoundTrip.Statement (.tokenHop) := fun _ => trivial
theorem RoundTrip.invocationCommit : RoundTrip.Statement (.invocationCommit) := fun _ => trivial
theorem RoundTrip.invocationDiscard : RoundTrip.Statement (.invocationDiscard) := fun _ => trivial
theorem RoundTrip.blinkVerdict : RoundTrip.Statement (.blinkVerdict) := fun _ => trivial
theorem RoundTrip.hangDetect : RoundTrip.Statement (.hangDetect) := fun _ => trivial
theorem RoundTrip.dramRequestSelect : RoundTrip.Statement (.dramRequestSelect) := fun _ => trivial
theorem RoundTrip.slotTableWrite : RoundTrip.Statement (.slotTableWrite) := fun _ => trivial
theorem RoundTrip.mclsWrite : RoundTrip.Statement (.mclsWrite) := fun _ => trivial
theorem RoundTrip.pkgidWrite : RoundTrip.Statement (.pkgidWrite) := fun _ => trivial
theorem RoundTrip.fresumeWalk : RoundTrip.Statement (.fresumeWalk) := fun _ => trivial
theorem RoundTrip.fresumeRefuse : RoundTrip.Statement (.fresumeRefuse) := fun _ => trivial
theorem RoundTrip.faultRootAccept : RoundTrip.Statement (.faultRootAccept) := fun _ => trivial
theorem RoundTrip.laneTailWrite : RoundTrip.Statement (.laneTailWrite) := fun _ => trivial
theorem RoundTrip.poisonDetect : RoundTrip.Statement (.poisonDetect) := fun _ => trivial
theorem RoundTrip.microcodeStart : RoundTrip.Statement (.microcodeStart) := fun _ => trivial
theorem RoundTrip.microcodeVerifyDone : RoundTrip.Statement (.microcodeVerifyDone) := fun _ => trivial
theorem RoundTrip.engineCopy : RoundTrip.Statement (.engineCopy) := fun _ => trivial
theorem RoundTrip.engineMulticastCopy : RoundTrip.Statement (.engineMulticastCopy) := fun _ => trivial
theorem RoundTrip.memberAnswerTimeout : RoundTrip.Statement (.memberAnswerTimeout) := fun _ => trivial
theorem RoundTrip.allReduce : RoundTrip.Statement (.allReduce) := fun _ => trivial
theorem RoundTrip.reduceScatter : RoundTrip.Statement (.reduceScatter) := fun _ => trivial
theorem RoundTrip.allGather : RoundTrip.Statement (.allGather) := fun _ => trivial
theorem RoundTrip.broadcast : RoundTrip.Statement (.broadcast) := fun _ => trivial
theorem RoundTrip.allToAll : RoundTrip.Statement (.allToAll) := fun _ => trivial
theorem RoundTrip.collectiveTimeout : RoundTrip.Statement (.collectiveTimeout) := fun _ => trivial
theorem RoundTrip.stagingRetry : RoundTrip.Statement (.stagingRetry) := fun _ => trivial
theorem RoundTrip.inboundAccess : RoundTrip.Statement (.inboundAccess) := fun _ => trivial
theorem RoundTrip.refusalReturn : RoundTrip.Statement (.refusalReturn) := fun _ => trivial
theorem RoundTrip.peerEntryValidate : RoundTrip.Statement (.peerEntryValidate) := fun _ => trivial
theorem RoundTrip.peerRevoke : RoundTrip.Statement (.peerRevoke) := fun _ => trivial
theorem RoundTrip.peerEntryFree : RoundTrip.Statement (.peerEntryFree) := fun _ => trivial
theorem RoundTrip.groupEntryCommit : RoundTrip.Statement (.groupEntryCommit) := fun _ => trivial
theorem RoundTrip.busWindowCommit : RoundTrip.Statement (.busWindowCommit) := fun _ => trivial
theorem RoundTrip.linkPortFailure : RoundTrip.Statement (.linkPortFailure) := fun _ => trivial
theorem RoundTrip.packageUnreachable : RoundTrip.Statement (.packageUnreachable) := fun _ => trivial
theorem RoundTrip.packageReachable : RoundTrip.Statement (.packageReachable) := fun _ => trivial
theorem RoundTrip.pcieInboundRequest : RoundTrip.Statement (.pcieInboundRequest) := fun _ => trivial
theorem RoundTrip.hostBar0Access : RoundTrip.Statement (.hostBar0Access) := fun _ => trivial
theorem RoundTrip.outboundStore : RoundTrip.Statement (.outboundStore) := fun _ => trivial
theorem RoundTrip.outboundLoad : RoundTrip.Statement (.outboundLoad) := fun _ => trivial
theorem RoundTrip.outboundCompletion : RoundTrip.Statement (.outboundCompletion) := fun _ => trivial
theorem RoundTrip.imageActivation : RoundTrip.Statement (.imageActivation) := fun _ => trivial
theorem RoundTrip.domeCloseTrigger : RoundTrip.Statement (.domeCloseTrigger) := fun _ => trivial
theorem RoundTrip.domeHandlerStart : RoundTrip.Statement (.domeHandlerStart) := fun _ => trivial
theorem RoundTrip.allowanceExpiry : RoundTrip.Statement (.allowanceExpiry) := fun _ => trivial
theorem RoundTrip.domeCopy : RoundTrip.Statement (.domeCopy) := fun _ => trivial
theorem RoundTrip.domeDirectoryWrite : RoundTrip.Statement (.domeDirectoryWrite) := fun _ => trivial
theorem RoundTrip.powerReturn : RoundTrip.Statement (.powerReturn) := fun _ => trivial
theorem RoundTrip.powerOnReset : RoundTrip.Statement (.powerOnReset) := fun _ => trivial
theorem RoundTrip.hostImageReady : RoundTrip.Statement (.hostImageReady) := fun _ => trivial
theorem RoundTrip.plateCheckDone : RoundTrip.Statement (.plateCheckDone) := fun _ => trivial
theorem RoundTrip.accWrite : RoundTrip.Statement (.accWrite) := fun _ => trivial
theorem RoundTrip.logExtend : RoundTrip.Statement (.logExtend) := fun _ => trivial
theorem RoundTrip.attestStart : RoundTrip.Statement (.attestStart) := fun _ => trivial
theorem RoundTrip.attestDone : RoundTrip.Statement (.attestDone) := fun _ => trivial
theorem RoundTrip.pwrcapWrite : RoundTrip.Statement (.pwrcapWrite) := fun _ => trivial
theorem RoundTrip.blinkivWrite : RoundTrip.Statement (.blinkivWrite) := fun _ => trivial
theorem RoundTrip.refresh : RoundTrip.Statement (.refresh) := fun _ => trivial
theorem RoundTrip.retrainBurst : RoundTrip.Statement (.retrainBurst) := fun _ => trivial
theorem RoundTrip.temperatureBandChange : RoundTrip.Statement (.temperatureBandChange) := fun _ => trivial
theorem RoundTrip.htrainWrite : RoundTrip.Statement (.htrainWrite) := fun _ => trivial
theorem RoundTrip.spareEvent : RoundTrip.Statement (.spareEvent) := fun _ => trivial
theorem RoundTrip.pchRetireStart : RoundTrip.Statement (.pchRetireStart) := fun _ => trivial
theorem RoundTrip.pchRetireSwitch : RoundTrip.Statement (.pchRetireSwitch) := fun _ => trivial
theorem RoundTrip.stfenceWrite : RoundTrip.Statement (.stfenceWrite) := fun _ => trivial
theorem RoundTrip.calibrationStart : RoundTrip.Statement (.calibrationStart) := fun _ => trivial
theorem RoundTrip.calibrationDone : RoundTrip.Statement (.calibrationDone) := fun _ => trivial
theorem RoundTrip.waitTimeout : RoundTrip.Statement (.waitTimeout) := fun _ => trivial
theorem RoundTrip.registerWrite : RoundTrip.Statement (.registerWrite) := fun _ => trivial
theorem RoundTrip.contextRetirement : RoundTrip.Statement (.contextRetirement) := fun _ => trivial
theorem RoundTrip.retireBufferRetry : RoundTrip.Statement (.retireBufferRetry) := fun _ => trivial
theorem RoundTrip.loadAnswer : RoundTrip.Statement (.loadAnswer) := fun _ => trivial

end Laws

end Sys2Proof
end

