-- ==== Sys2Proof/Laws/State.lean ====
section
/-! SUPPORT. The fields of the state after each of its plain updates: one lemma per field and update, so that no proof unfolds a record
update. -/

namespace Sys2Proof.Machine

/-! ### `State.setReg` changes `cpu` alone -/

@[simp] theorem State.setReg_part (s : State) (d : Reg) (v : Word) : (s.setReg d v).part = s.part := rfl
@[simp] theorem State.setReg_cycle (s : State) (d : Reg) (v : Word) : (s.setReg d v).cycle = s.cycle := rfl
@[simp] theorem State.setReg_pkgid (s : State) (d : Reg) (v : Word) : (s.setReg d v).pkgid = s.pkgid := rfl
@[simp] theorem State.setReg_pkgValid (s : State) (d : Reg) (v : Word) : (s.setReg d v).pkgValid = s.pkgValid := rfl
@[simp] theorem State.setReg_who (s : State) (d : Reg) (v : Word) : (s.setReg d v).who = s.who := rfl
@[simp] theorem State.setReg_ctxs (s : State) (d : Reg) (v : Word) : (s.setReg d v).ctxs = s.ctxs := rfl
@[simp] theorem State.setReg_gangs (s : State) (d : Reg) (v : Word) : (s.setReg d v).gangs = s.gangs := rfl
@[simp] theorem State.setReg_regions (s : State) (d : Reg) (v : Word) : (s.setReg d v).regions = s.regions := rfl
@[simp] theorem State.setReg_queues (s : State) (d : Reg) (v : Word) : (s.setReg d v).queues = s.queues := rfl
@[simp] theorem State.setReg_domains (s : State) (d : Reg) (v : Word) : (s.setReg d v).domains = s.domains := rfl
@[simp] theorem State.setReg_sfus (s : State) (d : Reg) (v : Word) : (s.setReg d v).sfus = s.sfus := rfl
@[simp] theorem State.setReg_mem (s : State) (d : Reg) (v : Word) : (s.setReg d v).mem = s.mem := rfl
@[simp] theorem State.setReg_poison (s : State) (d : Reg) (v : Word) : (s.setReg d v).poison = s.poison := rfl
@[simp] theorem State.setReg_bus (s : State) (d : Reg) (v : Word) : (s.setReg d v).bus = s.bus := rfl
@[simp] theorem State.setReg_mmu (s : State) (d : Reg) (v : Word) : (s.setReg d v).mmu = s.mmu := rfl
@[simp] theorem State.setReg_link (s : State) (d : Reg) (v : Word) : (s.setReg d v).link = s.link := rfl
@[simp] theorem State.setReg_tree (s : State) (d : Reg) (v : Word) : (s.setReg d v).tree = s.tree := rfl
@[simp] theorem State.setReg_engines (s : State) (d : Reg) (v : Word) : (s.setReg d v).engines = s.engines := rfl
@[simp] theorem State.setReg_jobs (s : State) (d : Reg) (v : Word) : (s.setReg d v).jobs = s.jobs := rfl
@[simp] theorem State.setReg_graphs (s : State) (d : Reg) (v : Word) : (s.setReg d v).graphs = s.graphs := rfl
@[simp] theorem State.setReg_streams (s : State) (d : Reg) (v : Word) : (s.setReg d v).streams = s.streams := rfl
@[simp] theorem State.setReg_health (s : State) (d : Reg) (v : Word) : (s.setReg d v).health = s.health := rfl
@[simp] theorem State.setReg_boot (s : State) (d : Reg) (v : Word) : (s.setReg d v).boot = s.boot := rfl
@[simp] theorem State.setReg_dome (s : State) (d : Reg) (v : Word) : (s.setReg d v).dome = s.dome := rfl
@[simp] theorem State.setReg_stats (s : State) (d : Reg) (v : Word) : (s.setReg d v).stats = s.stats := rfl
@[simp] theorem State.setReg_loaded (s : State) (d : Reg) (v : Word) : (s.setReg d v).loaded = s.loaded := rfl
@[simp] theorem State.setReg_model (s : State) (d : Reg) (v : Word) : (s.setReg d v).model = s.model := rfl

/-! ### `State.setPair` changes `cpu` alone -/

@[simp] theorem State.setPair_part (s : State) (d : Reg) (v : BitVec 128) : (s.setPair d v).part = s.part := rfl
@[simp] theorem State.setPair_cycle (s : State) (d : Reg) (v : BitVec 128) : (s.setPair d v).cycle = s.cycle := rfl
@[simp] theorem State.setPair_pkgid (s : State) (d : Reg) (v : BitVec 128) : (s.setPair d v).pkgid = s.pkgid := rfl
@[simp] theorem State.setPair_pkgValid (s : State) (d : Reg) (v : BitVec 128) : (s.setPair d v).pkgValid = s.pkgValid := rfl
@[simp] theorem State.setPair_who (s : State) (d : Reg) (v : BitVec 128) : (s.setPair d v).who = s.who := rfl
@[simp] theorem State.setPair_ctxs (s : State) (d : Reg) (v : BitVec 128) : (s.setPair d v).ctxs = s.ctxs := rfl
@[simp] theorem State.setPair_gangs (s : State) (d : Reg) (v : BitVec 128) : (s.setPair d v).gangs = s.gangs := rfl
@[simp] theorem State.setPair_regions (s : State) (d : Reg) (v : BitVec 128) : (s.setPair d v).regions = s.regions := rfl
@[simp] theorem State.setPair_queues (s : State) (d : Reg) (v : BitVec 128) : (s.setPair d v).queues = s.queues := rfl
@[simp] theorem State.setPair_domains (s : State) (d : Reg) (v : BitVec 128) : (s.setPair d v).domains = s.domains := rfl
@[simp] theorem State.setPair_sfus (s : State) (d : Reg) (v : BitVec 128) : (s.setPair d v).sfus = s.sfus := rfl
@[simp] theorem State.setPair_mem (s : State) (d : Reg) (v : BitVec 128) : (s.setPair d v).mem = s.mem := rfl
@[simp] theorem State.setPair_poison (s : State) (d : Reg) (v : BitVec 128) : (s.setPair d v).poison = s.poison := rfl
@[simp] theorem State.setPair_bus (s : State) (d : Reg) (v : BitVec 128) : (s.setPair d v).bus = s.bus := rfl
@[simp] theorem State.setPair_mmu (s : State) (d : Reg) (v : BitVec 128) : (s.setPair d v).mmu = s.mmu := rfl
@[simp] theorem State.setPair_link (s : State) (d : Reg) (v : BitVec 128) : (s.setPair d v).link = s.link := rfl
@[simp] theorem State.setPair_tree (s : State) (d : Reg) (v : BitVec 128) : (s.setPair d v).tree = s.tree := rfl
@[simp] theorem State.setPair_engines (s : State) (d : Reg) (v : BitVec 128) : (s.setPair d v).engines = s.engines := rfl
@[simp] theorem State.setPair_jobs (s : State) (d : Reg) (v : BitVec 128) : (s.setPair d v).jobs = s.jobs := rfl
@[simp] theorem State.setPair_graphs (s : State) (d : Reg) (v : BitVec 128) : (s.setPair d v).graphs = s.graphs := rfl
@[simp] theorem State.setPair_streams (s : State) (d : Reg) (v : BitVec 128) : (s.setPair d v).streams = s.streams := rfl
@[simp] theorem State.setPair_health (s : State) (d : Reg) (v : BitVec 128) : (s.setPair d v).health = s.health := rfl
@[simp] theorem State.setPair_boot (s : State) (d : Reg) (v : BitVec 128) : (s.setPair d v).boot = s.boot := rfl
@[simp] theorem State.setPair_dome (s : State) (d : Reg) (v : BitVec 128) : (s.setPair d v).dome = s.dome := rfl
@[simp] theorem State.setPair_stats (s : State) (d : Reg) (v : BitVec 128) : (s.setPair d v).stats = s.stats := rfl
@[simp] theorem State.setPair_loaded (s : State) (d : Reg) (v : BitVec 128) : (s.setPair d v).loaded = s.loaded := rfl
@[simp] theorem State.setPair_model (s : State) (d : Reg) (v : BitVec 128) : (s.setPair d v).model = s.model := rfl

/-! ### `State.advance` changes `cpu` alone -/

@[simp] theorem State.advance_part (s : State) (n : Nat) : (s.advance n).part = s.part := rfl
@[simp] theorem State.advance_cycle (s : State) (n : Nat) : (s.advance n).cycle = s.cycle := rfl
@[simp] theorem State.advance_pkgid (s : State) (n : Nat) : (s.advance n).pkgid = s.pkgid := rfl
@[simp] theorem State.advance_pkgValid (s : State) (n : Nat) : (s.advance n).pkgValid = s.pkgValid := rfl
@[simp] theorem State.advance_who (s : State) (n : Nat) : (s.advance n).who = s.who := rfl
@[simp] theorem State.advance_ctxs (s : State) (n : Nat) : (s.advance n).ctxs = s.ctxs := rfl
@[simp] theorem State.advance_gangs (s : State) (n : Nat) : (s.advance n).gangs = s.gangs := rfl
@[simp] theorem State.advance_regions (s : State) (n : Nat) : (s.advance n).regions = s.regions := rfl
@[simp] theorem State.advance_queues (s : State) (n : Nat) : (s.advance n).queues = s.queues := rfl
@[simp] theorem State.advance_domains (s : State) (n : Nat) : (s.advance n).domains = s.domains := rfl
@[simp] theorem State.advance_sfus (s : State) (n : Nat) : (s.advance n).sfus = s.sfus := rfl
@[simp] theorem State.advance_mem (s : State) (n : Nat) : (s.advance n).mem = s.mem := rfl
@[simp] theorem State.advance_poison (s : State) (n : Nat) : (s.advance n).poison = s.poison := rfl
@[simp] theorem State.advance_bus (s : State) (n : Nat) : (s.advance n).bus = s.bus := rfl
@[simp] theorem State.advance_mmu (s : State) (n : Nat) : (s.advance n).mmu = s.mmu := rfl
@[simp] theorem State.advance_link (s : State) (n : Nat) : (s.advance n).link = s.link := rfl
@[simp] theorem State.advance_tree (s : State) (n : Nat) : (s.advance n).tree = s.tree := rfl
@[simp] theorem State.advance_engines (s : State) (n : Nat) : (s.advance n).engines = s.engines := rfl
@[simp] theorem State.advance_jobs (s : State) (n : Nat) : (s.advance n).jobs = s.jobs := rfl
@[simp] theorem State.advance_graphs (s : State) (n : Nat) : (s.advance n).graphs = s.graphs := rfl
@[simp] theorem State.advance_streams (s : State) (n : Nat) : (s.advance n).streams = s.streams := rfl
@[simp] theorem State.advance_health (s : State) (n : Nat) : (s.advance n).health = s.health := rfl
@[simp] theorem State.advance_boot (s : State) (n : Nat) : (s.advance n).boot = s.boot := rfl
@[simp] theorem State.advance_dome (s : State) (n : Nat) : (s.advance n).dome = s.dome := rfl
@[simp] theorem State.advance_stats (s : State) (n : Nat) : (s.advance n).stats = s.stats := rfl
@[simp] theorem State.advance_loaded (s : State) (n : Nat) : (s.advance n).loaded = s.loaded := rfl
@[simp] theorem State.advance_model (s : State) (n : Nat) : (s.advance n).model = s.model := rfl

/-! ### `State.jump` changes `cpu` alone -/

@[simp] theorem State.jump_part (s : State) (pc : Word) : (s.jump pc).part = s.part := rfl
@[simp] theorem State.jump_cycle (s : State) (pc : Word) : (s.jump pc).cycle = s.cycle := rfl
@[simp] theorem State.jump_pkgid (s : State) (pc : Word) : (s.jump pc).pkgid = s.pkgid := rfl
@[simp] theorem State.jump_pkgValid (s : State) (pc : Word) : (s.jump pc).pkgValid = s.pkgValid := rfl
@[simp] theorem State.jump_who (s : State) (pc : Word) : (s.jump pc).who = s.who := rfl
@[simp] theorem State.jump_ctxs (s : State) (pc : Word) : (s.jump pc).ctxs = s.ctxs := rfl
@[simp] theorem State.jump_gangs (s : State) (pc : Word) : (s.jump pc).gangs = s.gangs := rfl
@[simp] theorem State.jump_regions (s : State) (pc : Word) : (s.jump pc).regions = s.regions := rfl
@[simp] theorem State.jump_queues (s : State) (pc : Word) : (s.jump pc).queues = s.queues := rfl
@[simp] theorem State.jump_domains (s : State) (pc : Word) : (s.jump pc).domains = s.domains := rfl
@[simp] theorem State.jump_sfus (s : State) (pc : Word) : (s.jump pc).sfus = s.sfus := rfl
@[simp] theorem State.jump_mem (s : State) (pc : Word) : (s.jump pc).mem = s.mem := rfl
@[simp] theorem State.jump_poison (s : State) (pc : Word) : (s.jump pc).poison = s.poison := rfl
@[simp] theorem State.jump_bus (s : State) (pc : Word) : (s.jump pc).bus = s.bus := rfl
@[simp] theorem State.jump_mmu (s : State) (pc : Word) : (s.jump pc).mmu = s.mmu := rfl
@[simp] theorem State.jump_link (s : State) (pc : Word) : (s.jump pc).link = s.link := rfl
@[simp] theorem State.jump_tree (s : State) (pc : Word) : (s.jump pc).tree = s.tree := rfl
@[simp] theorem State.jump_engines (s : State) (pc : Word) : (s.jump pc).engines = s.engines := rfl
@[simp] theorem State.jump_jobs (s : State) (pc : Word) : (s.jump pc).jobs = s.jobs := rfl
@[simp] theorem State.jump_graphs (s : State) (pc : Word) : (s.jump pc).graphs = s.graphs := rfl
@[simp] theorem State.jump_streams (s : State) (pc : Word) : (s.jump pc).streams = s.streams := rfl
@[simp] theorem State.jump_health (s : State) (pc : Word) : (s.jump pc).health = s.health := rfl
@[simp] theorem State.jump_boot (s : State) (pc : Word) : (s.jump pc).boot = s.boot := rfl
@[simp] theorem State.jump_dome (s : State) (pc : Word) : (s.jump pc).dome = s.dome := rfl
@[simp] theorem State.jump_stats (s : State) (pc : Word) : (s.jump pc).stats = s.stats := rfl
@[simp] theorem State.jump_loaded (s : State) (pc : Word) : (s.jump pc).loaded = s.loaded := rfl
@[simp] theorem State.jump_model (s : State) (pc : Word) : (s.jump pc).model = s.model := rfl

/-! ### `State.waitFor` changes `cpu` alone -/

@[simp] theorem State.waitFor_part (s : State) (w : Wait) : (s.waitFor w).part = s.part := rfl
@[simp] theorem State.waitFor_cycle (s : State) (w : Wait) : (s.waitFor w).cycle = s.cycle := rfl
@[simp] theorem State.waitFor_pkgid (s : State) (w : Wait) : (s.waitFor w).pkgid = s.pkgid := rfl
@[simp] theorem State.waitFor_pkgValid (s : State) (w : Wait) : (s.waitFor w).pkgValid = s.pkgValid := rfl
@[simp] theorem State.waitFor_who (s : State) (w : Wait) : (s.waitFor w).who = s.who := rfl
@[simp] theorem State.waitFor_ctxs (s : State) (w : Wait) : (s.waitFor w).ctxs = s.ctxs := rfl
@[simp] theorem State.waitFor_gangs (s : State) (w : Wait) : (s.waitFor w).gangs = s.gangs := rfl
@[simp] theorem State.waitFor_regions (s : State) (w : Wait) : (s.waitFor w).regions = s.regions := rfl
@[simp] theorem State.waitFor_queues (s : State) (w : Wait) : (s.waitFor w).queues = s.queues := rfl
@[simp] theorem State.waitFor_domains (s : State) (w : Wait) : (s.waitFor w).domains = s.domains := rfl
@[simp] theorem State.waitFor_sfus (s : State) (w : Wait) : (s.waitFor w).sfus = s.sfus := rfl
@[simp] theorem State.waitFor_mem (s : State) (w : Wait) : (s.waitFor w).mem = s.mem := rfl
@[simp] theorem State.waitFor_poison (s : State) (w : Wait) : (s.waitFor w).poison = s.poison := rfl
@[simp] theorem State.waitFor_bus (s : State) (w : Wait) : (s.waitFor w).bus = s.bus := rfl
@[simp] theorem State.waitFor_mmu (s : State) (w : Wait) : (s.waitFor w).mmu = s.mmu := rfl
@[simp] theorem State.waitFor_link (s : State) (w : Wait) : (s.waitFor w).link = s.link := rfl
@[simp] theorem State.waitFor_tree (s : State) (w : Wait) : (s.waitFor w).tree = s.tree := rfl
@[simp] theorem State.waitFor_engines (s : State) (w : Wait) : (s.waitFor w).engines = s.engines := rfl
@[simp] theorem State.waitFor_jobs (s : State) (w : Wait) : (s.waitFor w).jobs = s.jobs := rfl
@[simp] theorem State.waitFor_graphs (s : State) (w : Wait) : (s.waitFor w).graphs = s.graphs := rfl
@[simp] theorem State.waitFor_streams (s : State) (w : Wait) : (s.waitFor w).streams = s.streams := rfl
@[simp] theorem State.waitFor_health (s : State) (w : Wait) : (s.waitFor w).health = s.health := rfl
@[simp] theorem State.waitFor_boot (s : State) (w : Wait) : (s.waitFor w).boot = s.boot := rfl
@[simp] theorem State.waitFor_dome (s : State) (w : Wait) : (s.waitFor w).dome = s.dome := rfl
@[simp] theorem State.waitFor_stats (s : State) (w : Wait) : (s.waitFor w).stats = s.stats := rfl
@[simp] theorem State.waitFor_loaded (s : State) (w : Wait) : (s.waitFor w).loaded = s.loaded := rfl
@[simp] theorem State.waitFor_model (s : State) (w : Wait) : (s.waitFor w).model = s.model := rfl

/-! ### `State.retire` changes `cpu` alone -/

@[simp] theorem State.retire_part (s : State) (n : Nat) : (s.retire n).part = s.part := rfl
@[simp] theorem State.retire_cycle (s : State) (n : Nat) : (s.retire n).cycle = s.cycle := rfl
@[simp] theorem State.retire_pkgid (s : State) (n : Nat) : (s.retire n).pkgid = s.pkgid := rfl
@[simp] theorem State.retire_pkgValid (s : State) (n : Nat) : (s.retire n).pkgValid = s.pkgValid := rfl
@[simp] theorem State.retire_who (s : State) (n : Nat) : (s.retire n).who = s.who := rfl
@[simp] theorem State.retire_ctxs (s : State) (n : Nat) : (s.retire n).ctxs = s.ctxs := rfl
@[simp] theorem State.retire_gangs (s : State) (n : Nat) : (s.retire n).gangs = s.gangs := rfl
@[simp] theorem State.retire_regions (s : State) (n : Nat) : (s.retire n).regions = s.regions := rfl
@[simp] theorem State.retire_queues (s : State) (n : Nat) : (s.retire n).queues = s.queues := rfl
@[simp] theorem State.retire_domains (s : State) (n : Nat) : (s.retire n).domains = s.domains := rfl
@[simp] theorem State.retire_sfus (s : State) (n : Nat) : (s.retire n).sfus = s.sfus := rfl
@[simp] theorem State.retire_mem (s : State) (n : Nat) : (s.retire n).mem = s.mem := rfl
@[simp] theorem State.retire_poison (s : State) (n : Nat) : (s.retire n).poison = s.poison := rfl
@[simp] theorem State.retire_bus (s : State) (n : Nat) : (s.retire n).bus = s.bus := rfl
@[simp] theorem State.retire_mmu (s : State) (n : Nat) : (s.retire n).mmu = s.mmu := rfl
@[simp] theorem State.retire_link (s : State) (n : Nat) : (s.retire n).link = s.link := rfl
@[simp] theorem State.retire_tree (s : State) (n : Nat) : (s.retire n).tree = s.tree := rfl
@[simp] theorem State.retire_engines (s : State) (n : Nat) : (s.retire n).engines = s.engines := rfl
@[simp] theorem State.retire_jobs (s : State) (n : Nat) : (s.retire n).jobs = s.jobs := rfl
@[simp] theorem State.retire_graphs (s : State) (n : Nat) : (s.retire n).graphs = s.graphs := rfl
@[simp] theorem State.retire_streams (s : State) (n : Nat) : (s.retire n).streams = s.streams := rfl
@[simp] theorem State.retire_health (s : State) (n : Nat) : (s.retire n).health = s.health := rfl
@[simp] theorem State.retire_boot (s : State) (n : Nat) : (s.retire n).boot = s.boot := rfl
@[simp] theorem State.retire_dome (s : State) (n : Nat) : (s.retire n).dome = s.dome := rfl
@[simp] theorem State.retire_stats (s : State) (n : Nat) : (s.retire n).stats = s.stats := rfl
@[simp] theorem State.retire_loaded (s : State) (n : Nat) : (s.retire n).loaded = s.loaded := rfl
@[simp] theorem State.retire_model (s : State) (n : Nat) : (s.retire n).model = s.model := rfl

/-! ### `State.finish` changes `cpu` alone -/

@[simp] theorem State.finish_part (s : State) (d : Reg) (v : Word) : (s.finish d v).part = s.part := rfl
@[simp] theorem State.finish_cycle (s : State) (d : Reg) (v : Word) : (s.finish d v).cycle = s.cycle := rfl
@[simp] theorem State.finish_pkgid (s : State) (d : Reg) (v : Word) : (s.finish d v).pkgid = s.pkgid := rfl
@[simp] theorem State.finish_pkgValid (s : State) (d : Reg) (v : Word) : (s.finish d v).pkgValid = s.pkgValid := rfl
@[simp] theorem State.finish_who (s : State) (d : Reg) (v : Word) : (s.finish d v).who = s.who := rfl
@[simp] theorem State.finish_ctxs (s : State) (d : Reg) (v : Word) : (s.finish d v).ctxs = s.ctxs := rfl
@[simp] theorem State.finish_gangs (s : State) (d : Reg) (v : Word) : (s.finish d v).gangs = s.gangs := rfl
@[simp] theorem State.finish_regions (s : State) (d : Reg) (v : Word) : (s.finish d v).regions = s.regions := rfl
@[simp] theorem State.finish_queues (s : State) (d : Reg) (v : Word) : (s.finish d v).queues = s.queues := rfl
@[simp] theorem State.finish_domains (s : State) (d : Reg) (v : Word) : (s.finish d v).domains = s.domains := rfl
@[simp] theorem State.finish_sfus (s : State) (d : Reg) (v : Word) : (s.finish d v).sfus = s.sfus := rfl
@[simp] theorem State.finish_mem (s : State) (d : Reg) (v : Word) : (s.finish d v).mem = s.mem := rfl
@[simp] theorem State.finish_poison (s : State) (d : Reg) (v : Word) : (s.finish d v).poison = s.poison := rfl
@[simp] theorem State.finish_bus (s : State) (d : Reg) (v : Word) : (s.finish d v).bus = s.bus := rfl
@[simp] theorem State.finish_mmu (s : State) (d : Reg) (v : Word) : (s.finish d v).mmu = s.mmu := rfl
@[simp] theorem State.finish_link (s : State) (d : Reg) (v : Word) : (s.finish d v).link = s.link := rfl
@[simp] theorem State.finish_tree (s : State) (d : Reg) (v : Word) : (s.finish d v).tree = s.tree := rfl
@[simp] theorem State.finish_engines (s : State) (d : Reg) (v : Word) : (s.finish d v).engines = s.engines := rfl
@[simp] theorem State.finish_jobs (s : State) (d : Reg) (v : Word) : (s.finish d v).jobs = s.jobs := rfl
@[simp] theorem State.finish_graphs (s : State) (d : Reg) (v : Word) : (s.finish d v).graphs = s.graphs := rfl
@[simp] theorem State.finish_streams (s : State) (d : Reg) (v : Word) : (s.finish d v).streams = s.streams := rfl
@[simp] theorem State.finish_health (s : State) (d : Reg) (v : Word) : (s.finish d v).health = s.health := rfl
@[simp] theorem State.finish_boot (s : State) (d : Reg) (v : Word) : (s.finish d v).boot = s.boot := rfl
@[simp] theorem State.finish_dome (s : State) (d : Reg) (v : Word) : (s.finish d v).dome = s.dome := rfl
@[simp] theorem State.finish_stats (s : State) (d : Reg) (v : Word) : (s.finish d v).stats = s.stats := rfl
@[simp] theorem State.finish_loaded (s : State) (d : Reg) (v : Word) : (s.finish d v).loaded = s.loaded := rfl
@[simp] theorem State.finish_model (s : State) (d : Reg) (v : Word) : (s.finish d v).model = s.model := rfl

/-! ### `State.finishStatus` changes `cpu` alone -/

@[simp] theorem State.finishStatus_part (s : State) (d : Reg) (v : BitVec 8) : (s.finishStatus d v).part = s.part := rfl
@[simp] theorem State.finishStatus_cycle (s : State) (d : Reg) (v : BitVec 8) : (s.finishStatus d v).cycle = s.cycle := rfl
@[simp] theorem State.finishStatus_pkgid (s : State) (d : Reg) (v : BitVec 8) : (s.finishStatus d v).pkgid = s.pkgid := rfl
@[simp] theorem State.finishStatus_pkgValid (s : State) (d : Reg) (v : BitVec 8) : (s.finishStatus d v).pkgValid = s.pkgValid := rfl
@[simp] theorem State.finishStatus_who (s : State) (d : Reg) (v : BitVec 8) : (s.finishStatus d v).who = s.who := rfl
@[simp] theorem State.finishStatus_ctxs (s : State) (d : Reg) (v : BitVec 8) : (s.finishStatus d v).ctxs = s.ctxs := rfl
@[simp] theorem State.finishStatus_gangs (s : State) (d : Reg) (v : BitVec 8) : (s.finishStatus d v).gangs = s.gangs := rfl
@[simp] theorem State.finishStatus_regions (s : State) (d : Reg) (v : BitVec 8) : (s.finishStatus d v).regions = s.regions := rfl
@[simp] theorem State.finishStatus_queues (s : State) (d : Reg) (v : BitVec 8) : (s.finishStatus d v).queues = s.queues := rfl
@[simp] theorem State.finishStatus_domains (s : State) (d : Reg) (v : BitVec 8) : (s.finishStatus d v).domains = s.domains := rfl
@[simp] theorem State.finishStatus_sfus (s : State) (d : Reg) (v : BitVec 8) : (s.finishStatus d v).sfus = s.sfus := rfl
@[simp] theorem State.finishStatus_mem (s : State) (d : Reg) (v : BitVec 8) : (s.finishStatus d v).mem = s.mem := rfl
@[simp] theorem State.finishStatus_poison (s : State) (d : Reg) (v : BitVec 8) : (s.finishStatus d v).poison = s.poison := rfl
@[simp] theorem State.finishStatus_bus (s : State) (d : Reg) (v : BitVec 8) : (s.finishStatus d v).bus = s.bus := rfl
@[simp] theorem State.finishStatus_mmu (s : State) (d : Reg) (v : BitVec 8) : (s.finishStatus d v).mmu = s.mmu := rfl
@[simp] theorem State.finishStatus_link (s : State) (d : Reg) (v : BitVec 8) : (s.finishStatus d v).link = s.link := rfl
@[simp] theorem State.finishStatus_tree (s : State) (d : Reg) (v : BitVec 8) : (s.finishStatus d v).tree = s.tree := rfl
@[simp] theorem State.finishStatus_engines (s : State) (d : Reg) (v : BitVec 8) : (s.finishStatus d v).engines = s.engines := rfl
@[simp] theorem State.finishStatus_jobs (s : State) (d : Reg) (v : BitVec 8) : (s.finishStatus d v).jobs = s.jobs := rfl
@[simp] theorem State.finishStatus_graphs (s : State) (d : Reg) (v : BitVec 8) : (s.finishStatus d v).graphs = s.graphs := rfl
@[simp] theorem State.finishStatus_streams (s : State) (d : Reg) (v : BitVec 8) : (s.finishStatus d v).streams = s.streams := rfl
@[simp] theorem State.finishStatus_health (s : State) (d : Reg) (v : BitVec 8) : (s.finishStatus d v).health = s.health := rfl
@[simp] theorem State.finishStatus_boot (s : State) (d : Reg) (v : BitVec 8) : (s.finishStatus d v).boot = s.boot := rfl
@[simp] theorem State.finishStatus_dome (s : State) (d : Reg) (v : BitVec 8) : (s.finishStatus d v).dome = s.dome := rfl
@[simp] theorem State.finishStatus_stats (s : State) (d : Reg) (v : BitVec 8) : (s.finishStatus d v).stats = s.stats := rfl
@[simp] theorem State.finishStatus_loaded (s : State) (d : Reg) (v : BitVec 8) : (s.finishStatus d v).loaded = s.loaded := rfl
@[simp] theorem State.finishStatus_model (s : State) (d : Reg) (v : BitVec 8) : (s.finishStatus d v).model = s.model := rfl

/-! ### `State.modCtx` changes `ctxs` alone -/

@[simp] theorem State.modCtx_part (s : State) (i : Nat) (f : Ctx → Ctx) : (s.modCtx i f).part = s.part := rfl
@[simp] theorem State.modCtx_cycle (s : State) (i : Nat) (f : Ctx → Ctx) : (s.modCtx i f).cycle = s.cycle := rfl
@[simp] theorem State.modCtx_pkgid (s : State) (i : Nat) (f : Ctx → Ctx) : (s.modCtx i f).pkgid = s.pkgid := rfl
@[simp] theorem State.modCtx_pkgValid (s : State) (i : Nat) (f : Ctx → Ctx) : (s.modCtx i f).pkgValid = s.pkgValid := rfl
@[simp] theorem State.modCtx_who (s : State) (i : Nat) (f : Ctx → Ctx) : (s.modCtx i f).who = s.who := rfl
@[simp] theorem State.modCtx_cpu (s : State) (i : Nat) (f : Ctx → Ctx) : (s.modCtx i f).cpu = s.cpu := rfl
@[simp] theorem State.modCtx_gangs (s : State) (i : Nat) (f : Ctx → Ctx) : (s.modCtx i f).gangs = s.gangs := rfl
@[simp] theorem State.modCtx_regions (s : State) (i : Nat) (f : Ctx → Ctx) : (s.modCtx i f).regions = s.regions := rfl
@[simp] theorem State.modCtx_queues (s : State) (i : Nat) (f : Ctx → Ctx) : (s.modCtx i f).queues = s.queues := rfl
@[simp] theorem State.modCtx_domains (s : State) (i : Nat) (f : Ctx → Ctx) : (s.modCtx i f).domains = s.domains := rfl
@[simp] theorem State.modCtx_sfus (s : State) (i : Nat) (f : Ctx → Ctx) : (s.modCtx i f).sfus = s.sfus := rfl
@[simp] theorem State.modCtx_mem (s : State) (i : Nat) (f : Ctx → Ctx) : (s.modCtx i f).mem = s.mem := rfl
@[simp] theorem State.modCtx_poison (s : State) (i : Nat) (f : Ctx → Ctx) : (s.modCtx i f).poison = s.poison := rfl
@[simp] theorem State.modCtx_bus (s : State) (i : Nat) (f : Ctx → Ctx) : (s.modCtx i f).bus = s.bus := rfl
@[simp] theorem State.modCtx_mmu (s : State) (i : Nat) (f : Ctx → Ctx) : (s.modCtx i f).mmu = s.mmu := rfl
@[simp] theorem State.modCtx_link (s : State) (i : Nat) (f : Ctx → Ctx) : (s.modCtx i f).link = s.link := rfl
@[simp] theorem State.modCtx_tree (s : State) (i : Nat) (f : Ctx → Ctx) : (s.modCtx i f).tree = s.tree := rfl
@[simp] theorem State.modCtx_engines (s : State) (i : Nat) (f : Ctx → Ctx) : (s.modCtx i f).engines = s.engines := rfl
@[simp] theorem State.modCtx_jobs (s : State) (i : Nat) (f : Ctx → Ctx) : (s.modCtx i f).jobs = s.jobs := rfl
@[simp] theorem State.modCtx_graphs (s : State) (i : Nat) (f : Ctx → Ctx) : (s.modCtx i f).graphs = s.graphs := rfl
@[simp] theorem State.modCtx_streams (s : State) (i : Nat) (f : Ctx → Ctx) : (s.modCtx i f).streams = s.streams := rfl
@[simp] theorem State.modCtx_health (s : State) (i : Nat) (f : Ctx → Ctx) : (s.modCtx i f).health = s.health := rfl
@[simp] theorem State.modCtx_boot (s : State) (i : Nat) (f : Ctx → Ctx) : (s.modCtx i f).boot = s.boot := rfl
@[simp] theorem State.modCtx_dome (s : State) (i : Nat) (f : Ctx → Ctx) : (s.modCtx i f).dome = s.dome := rfl
@[simp] theorem State.modCtx_stats (s : State) (i : Nat) (f : Ctx → Ctx) : (s.modCtx i f).stats = s.stats := rfl
@[simp] theorem State.modCtx_loaded (s : State) (i : Nat) (f : Ctx → Ctx) : (s.modCtx i f).loaded = s.loaded := rfl
@[simp] theorem State.modCtx_model (s : State) (i : Nat) (f : Ctx → Ctx) : (s.modCtx i f).model = s.model := rfl

/-! ### `State.modEngine` changes `engines` alone -/

@[simp] theorem State.modEngine_part (s : State) (d e : Nat) (f : Engine → Engine) : (s.modEngine d e f).part = s.part := rfl
@[simp] theorem State.modEngine_cycle (s : State) (d e : Nat) (f : Engine → Engine) : (s.modEngine d e f).cycle = s.cycle := rfl
@[simp] theorem State.modEngine_pkgid (s : State) (d e : Nat) (f : Engine → Engine) : (s.modEngine d e f).pkgid = s.pkgid := rfl
@[simp] theorem State.modEngine_pkgValid (s : State) (d e : Nat) (f : Engine → Engine) : (s.modEngine d e f).pkgValid = s.pkgValid := rfl
@[simp] theorem State.modEngine_who (s : State) (d e : Nat) (f : Engine → Engine) : (s.modEngine d e f).who = s.who := rfl
@[simp] theorem State.modEngine_cpu (s : State) (d e : Nat) (f : Engine → Engine) : (s.modEngine d e f).cpu = s.cpu := rfl
@[simp] theorem State.modEngine_ctxs (s : State) (d e : Nat) (f : Engine → Engine) : (s.modEngine d e f).ctxs = s.ctxs := rfl
@[simp] theorem State.modEngine_gangs (s : State) (d e : Nat) (f : Engine → Engine) : (s.modEngine d e f).gangs = s.gangs := rfl
@[simp] theorem State.modEngine_regions (s : State) (d e : Nat) (f : Engine → Engine) : (s.modEngine d e f).regions = s.regions := rfl
@[simp] theorem State.modEngine_queues (s : State) (d e : Nat) (f : Engine → Engine) : (s.modEngine d e f).queues = s.queues := rfl
@[simp] theorem State.modEngine_domains (s : State) (d e : Nat) (f : Engine → Engine) : (s.modEngine d e f).domains = s.domains := rfl
@[simp] theorem State.modEngine_sfus (s : State) (d e : Nat) (f : Engine → Engine) : (s.modEngine d e f).sfus = s.sfus := rfl
@[simp] theorem State.modEngine_mem (s : State) (d e : Nat) (f : Engine → Engine) : (s.modEngine d e f).mem = s.mem := rfl
@[simp] theorem State.modEngine_poison (s : State) (d e : Nat) (f : Engine → Engine) : (s.modEngine d e f).poison = s.poison := rfl
@[simp] theorem State.modEngine_bus (s : State) (d e : Nat) (f : Engine → Engine) : (s.modEngine d e f).bus = s.bus := rfl
@[simp] theorem State.modEngine_mmu (s : State) (d e : Nat) (f : Engine → Engine) : (s.modEngine d e f).mmu = s.mmu := rfl
@[simp] theorem State.modEngine_link (s : State) (d e : Nat) (f : Engine → Engine) : (s.modEngine d e f).link = s.link := rfl
@[simp] theorem State.modEngine_tree (s : State) (d e : Nat) (f : Engine → Engine) : (s.modEngine d e f).tree = s.tree := rfl
@[simp] theorem State.modEngine_jobs (s : State) (d e : Nat) (f : Engine → Engine) : (s.modEngine d e f).jobs = s.jobs := rfl
@[simp] theorem State.modEngine_graphs (s : State) (d e : Nat) (f : Engine → Engine) : (s.modEngine d e f).graphs = s.graphs := rfl
@[simp] theorem State.modEngine_streams (s : State) (d e : Nat) (f : Engine → Engine) : (s.modEngine d e f).streams = s.streams := rfl
@[simp] theorem State.modEngine_health (s : State) (d e : Nat) (f : Engine → Engine) : (s.modEngine d e f).health = s.health := rfl
@[simp] theorem State.modEngine_boot (s : State) (d e : Nat) (f : Engine → Engine) : (s.modEngine d e f).boot = s.boot := rfl
@[simp] theorem State.modEngine_dome (s : State) (d e : Nat) (f : Engine → Engine) : (s.modEngine d e f).dome = s.dome := rfl
@[simp] theorem State.modEngine_stats (s : State) (d e : Nat) (f : Engine → Engine) : (s.modEngine d e f).stats = s.stats := rfl
@[simp] theorem State.modEngine_loaded (s : State) (d e : Nat) (f : Engine → Engine) : (s.modEngine d e f).loaded = s.loaded := rfl
@[simp] theorem State.modEngine_model (s : State) (d e : Nat) (f : Engine → Engine) : (s.modEngine d e f).model = s.model := rfl

/-! ### `State.count` changes `stats` alone -/

@[simp] theorem State.count_part (s : State) (k : Nat) : (s.count k).part = s.part := rfl
@[simp] theorem State.count_cycle (s : State) (k : Nat) : (s.count k).cycle = s.cycle := rfl
@[simp] theorem State.count_pkgid (s : State) (k : Nat) : (s.count k).pkgid = s.pkgid := rfl
@[simp] theorem State.count_pkgValid (s : State) (k : Nat) : (s.count k).pkgValid = s.pkgValid := rfl
@[simp] theorem State.count_who (s : State) (k : Nat) : (s.count k).who = s.who := rfl
@[simp] theorem State.count_cpu (s : State) (k : Nat) : (s.count k).cpu = s.cpu := rfl
@[simp] theorem State.count_ctxs (s : State) (k : Nat) : (s.count k).ctxs = s.ctxs := rfl
@[simp] theorem State.count_gangs (s : State) (k : Nat) : (s.count k).gangs = s.gangs := rfl
@[simp] theorem State.count_regions (s : State) (k : Nat) : (s.count k).regions = s.regions := rfl
@[simp] theorem State.count_queues (s : State) (k : Nat) : (s.count k).queues = s.queues := rfl
@[simp] theorem State.count_domains (s : State) (k : Nat) : (s.count k).domains = s.domains := rfl
@[simp] theorem State.count_sfus (s : State) (k : Nat) : (s.count k).sfus = s.sfus := rfl
@[simp] theorem State.count_mem (s : State) (k : Nat) : (s.count k).mem = s.mem := rfl
@[simp] theorem State.count_poison (s : State) (k : Nat) : (s.count k).poison = s.poison := rfl
@[simp] theorem State.count_bus (s : State) (k : Nat) : (s.count k).bus = s.bus := rfl
@[simp] theorem State.count_mmu (s : State) (k : Nat) : (s.count k).mmu = s.mmu := rfl
@[simp] theorem State.count_link (s : State) (k : Nat) : (s.count k).link = s.link := rfl
@[simp] theorem State.count_tree (s : State) (k : Nat) : (s.count k).tree = s.tree := rfl
@[simp] theorem State.count_engines (s : State) (k : Nat) : (s.count k).engines = s.engines := rfl
@[simp] theorem State.count_jobs (s : State) (k : Nat) : (s.count k).jobs = s.jobs := rfl
@[simp] theorem State.count_graphs (s : State) (k : Nat) : (s.count k).graphs = s.graphs := rfl
@[simp] theorem State.count_streams (s : State) (k : Nat) : (s.count k).streams = s.streams := rfl
@[simp] theorem State.count_health (s : State) (k : Nat) : (s.count k).health = s.health := rfl
@[simp] theorem State.count_boot (s : State) (k : Nat) : (s.count k).boot = s.boot := rfl
@[simp] theorem State.count_dome (s : State) (k : Nat) : (s.count k).dome = s.dome := rfl
@[simp] theorem State.count_loaded (s : State) (k : Nat) : (s.count k).loaded = s.loaded := rfl
@[simp] theorem State.count_model (s : State) (k : Nat) : (s.count k).model = s.model := rfl

/-! ### `State.setSfu` changes `sfus` alone -/

@[simp] theorem State.setSfu_part (s : State) (u : UnitId) (q : List SfuReq) : (s.setSfu u q).part = s.part := rfl
@[simp] theorem State.setSfu_cycle (s : State) (u : UnitId) (q : List SfuReq) : (s.setSfu u q).cycle = s.cycle := rfl
@[simp] theorem State.setSfu_pkgid (s : State) (u : UnitId) (q : List SfuReq) : (s.setSfu u q).pkgid = s.pkgid := rfl
@[simp] theorem State.setSfu_pkgValid (s : State) (u : UnitId) (q : List SfuReq) : (s.setSfu u q).pkgValid = s.pkgValid := rfl
@[simp] theorem State.setSfu_who (s : State) (u : UnitId) (q : List SfuReq) : (s.setSfu u q).who = s.who := rfl
@[simp] theorem State.setSfu_cpu (s : State) (u : UnitId) (q : List SfuReq) : (s.setSfu u q).cpu = s.cpu := rfl
@[simp] theorem State.setSfu_ctxs (s : State) (u : UnitId) (q : List SfuReq) : (s.setSfu u q).ctxs = s.ctxs := rfl
@[simp] theorem State.setSfu_gangs (s : State) (u : UnitId) (q : List SfuReq) : (s.setSfu u q).gangs = s.gangs := rfl
@[simp] theorem State.setSfu_regions (s : State) (u : UnitId) (q : List SfuReq) : (s.setSfu u q).regions = s.regions := rfl
@[simp] theorem State.setSfu_queues (s : State) (u : UnitId) (q : List SfuReq) : (s.setSfu u q).queues = s.queues := rfl
@[simp] theorem State.setSfu_domains (s : State) (u : UnitId) (q : List SfuReq) : (s.setSfu u q).domains = s.domains := rfl
@[simp] theorem State.setSfu_mem (s : State) (u : UnitId) (q : List SfuReq) : (s.setSfu u q).mem = s.mem := rfl
@[simp] theorem State.setSfu_poison (s : State) (u : UnitId) (q : List SfuReq) : (s.setSfu u q).poison = s.poison := rfl
@[simp] theorem State.setSfu_bus (s : State) (u : UnitId) (q : List SfuReq) : (s.setSfu u q).bus = s.bus := rfl
@[simp] theorem State.setSfu_mmu (s : State) (u : UnitId) (q : List SfuReq) : (s.setSfu u q).mmu = s.mmu := rfl
@[simp] theorem State.setSfu_link (s : State) (u : UnitId) (q : List SfuReq) : (s.setSfu u q).link = s.link := rfl
@[simp] theorem State.setSfu_tree (s : State) (u : UnitId) (q : List SfuReq) : (s.setSfu u q).tree = s.tree := rfl
@[simp] theorem State.setSfu_engines (s : State) (u : UnitId) (q : List SfuReq) : (s.setSfu u q).engines = s.engines := rfl
@[simp] theorem State.setSfu_jobs (s : State) (u : UnitId) (q : List SfuReq) : (s.setSfu u q).jobs = s.jobs := rfl
@[simp] theorem State.setSfu_graphs (s : State) (u : UnitId) (q : List SfuReq) : (s.setSfu u q).graphs = s.graphs := rfl
@[simp] theorem State.setSfu_streams (s : State) (u : UnitId) (q : List SfuReq) : (s.setSfu u q).streams = s.streams := rfl
@[simp] theorem State.setSfu_health (s : State) (u : UnitId) (q : List SfuReq) : (s.setSfu u q).health = s.health := rfl
@[simp] theorem State.setSfu_boot (s : State) (u : UnitId) (q : List SfuReq) : (s.setSfu u q).boot = s.boot := rfl
@[simp] theorem State.setSfu_dome (s : State) (u : UnitId) (q : List SfuReq) : (s.setSfu u q).dome = s.dome := rfl
@[simp] theorem State.setSfu_stats (s : State) (u : UnitId) (q : List SfuReq) : (s.setSfu u q).stats = s.stats := rfl
@[simp] theorem State.setSfu_loaded (s : State) (u : UnitId) (q : List SfuReq) : (s.setSfu u q).loaded = s.loaded := rfl
@[simp] theorem State.setSfu_model (s : State) (u : UnitId) (q : List SfuReq) : (s.setSfu u q).model = s.model := rfl

/-! ### `State.cleanGranule` changes `poison` alone -/

@[simp] theorem State.cleanGranule_part (s : State) (g : Nat) : (s.cleanGranule g).part = s.part := rfl
@[simp] theorem State.cleanGranule_cycle (s : State) (g : Nat) : (s.cleanGranule g).cycle = s.cycle := rfl
@[simp] theorem State.cleanGranule_pkgid (s : State) (g : Nat) : (s.cleanGranule g).pkgid = s.pkgid := rfl
@[simp] theorem State.cleanGranule_pkgValid (s : State) (g : Nat) : (s.cleanGranule g).pkgValid = s.pkgValid := rfl
@[simp] theorem State.cleanGranule_who (s : State) (g : Nat) : (s.cleanGranule g).who = s.who := rfl
@[simp] theorem State.cleanGranule_cpu (s : State) (g : Nat) : (s.cleanGranule g).cpu = s.cpu := rfl
@[simp] theorem State.cleanGranule_ctxs (s : State) (g : Nat) : (s.cleanGranule g).ctxs = s.ctxs := rfl
@[simp] theorem State.cleanGranule_gangs (s : State) (g : Nat) : (s.cleanGranule g).gangs = s.gangs := rfl
@[simp] theorem State.cleanGranule_regions (s : State) (g : Nat) : (s.cleanGranule g).regions = s.regions := rfl
@[simp] theorem State.cleanGranule_queues (s : State) (g : Nat) : (s.cleanGranule g).queues = s.queues := rfl
@[simp] theorem State.cleanGranule_domains (s : State) (g : Nat) : (s.cleanGranule g).domains = s.domains := rfl
@[simp] theorem State.cleanGranule_sfus (s : State) (g : Nat) : (s.cleanGranule g).sfus = s.sfus := rfl
@[simp] theorem State.cleanGranule_mem (s : State) (g : Nat) : (s.cleanGranule g).mem = s.mem := rfl
@[simp] theorem State.cleanGranule_bus (s : State) (g : Nat) : (s.cleanGranule g).bus = s.bus := rfl
@[simp] theorem State.cleanGranule_mmu (s : State) (g : Nat) : (s.cleanGranule g).mmu = s.mmu := rfl
@[simp] theorem State.cleanGranule_link (s : State) (g : Nat) : (s.cleanGranule g).link = s.link := rfl
@[simp] theorem State.cleanGranule_tree (s : State) (g : Nat) : (s.cleanGranule g).tree = s.tree := rfl
@[simp] theorem State.cleanGranule_engines (s : State) (g : Nat) : (s.cleanGranule g).engines = s.engines := rfl
@[simp] theorem State.cleanGranule_jobs (s : State) (g : Nat) : (s.cleanGranule g).jobs = s.jobs := rfl
@[simp] theorem State.cleanGranule_graphs (s : State) (g : Nat) : (s.cleanGranule g).graphs = s.graphs := rfl
@[simp] theorem State.cleanGranule_streams (s : State) (g : Nat) : (s.cleanGranule g).streams = s.streams := rfl
@[simp] theorem State.cleanGranule_health (s : State) (g : Nat) : (s.cleanGranule g).health = s.health := rfl
@[simp] theorem State.cleanGranule_boot (s : State) (g : Nat) : (s.cleanGranule g).boot = s.boot := rfl
@[simp] theorem State.cleanGranule_dome (s : State) (g : Nat) : (s.cleanGranule g).dome = s.dome := rfl
@[simp] theorem State.cleanGranule_stats (s : State) (g : Nat) : (s.cleanGranule g).stats = s.stats := rfl
@[simp] theorem State.cleanGranule_loaded (s : State) (g : Nat) : (s.cleanGranule g).loaded = s.loaded := rfl
@[simp] theorem State.cleanGranule_model (s : State) (g : Nat) : (s.cleanGranule g).model = s.model := rfl

/-! ### The registers after an update of the loaded thread -/

@[simp] theorem State.setReg_cpu (s : State) (d : Reg) (v : Word) : (s.setReg d v).cpu = s.cpu.setReg d v := rfl
@[simp] theorem State.setPair_cpu (s : State) (d : Reg) (v : BitVec 128) : (s.setPair d v).cpu = s.cpu.setPair d v := rfl
@[simp] theorem State.advance_pc (s : State) (n : Nat) : (s.advance n).cpu.pc = s.cpu.pc + w64 (2 * n) := rfl
@[simp] theorem State.jump_pc (s : State) (pc : Word) : (s.jump pc).cpu.pc = pc := rfl
@[simp] theorem State.jump_buf (s : State) (pc : Word) : (s.jump pc).cpu.buf = [] := rfl
@[simp] theorem State.waitFor_wait (s : State) (w : Wait) : (s.waitFor w).cpu.wait = w := rfl
@[simp] theorem State.waitFor_pc (s : State) (w : Wait) : (s.waitFor w).cpu.pc = s.cpu.pc := rfl
@[simp] theorem State.retire_pc (s : State) (n : Nat) : (s.retire n).cpu.pc = s.cpu.pc + w64 (2 * n) := rfl
@[simp] theorem State.retire_wait (s : State) (n : Nat) : (s.retire n).cpu.wait = .none := rfl
@[simp] theorem State.retire_g (s : State) (n : Nat) : (s.retire n).cpu.g = s.cpu.g := rfl
@[simp] theorem State.modCtx_ctxs (s : State) (i : Nat) (f : Ctx → Ctx) :
    (s.modCtx i f).ctxs = modifyFirst (fun c => c.id == i) f s.ctxs := rfl
@[simp] theorem State.modEngine_engines (s : State) (d e : Nat) (f : Engine → Engine) :
    (s.modEngine d e f).engines = modifyFirst (fun x => x.die == d && x.eng == e) f s.engines := rfl

/-- g0 is the same register after any write to it. -/
@[simp] theorem State.setReg_zero (s : State) (v : Word) : s.setReg 0 v = s := rfl

/-- g0 reads as zero (R154). -/
@[simp] theorem State.reg_zero (s : State) : s.reg 0 = 0 := rfl

/-- The pair of g0 reads as zero (R155). -/
@[simp] theorem State.pair_zero (s : State) : s.pair 0 = 0 := rfl

/-- A write to the pair of g0 is discarded (R155). -/
@[simp] theorem State.setPair_zero (s : State) (v : BitVec 128) : s.setPair 0 v = s := rfl

end Sys2Proof.Machine
end

