-- ==== Sys2Proof/Laws/Translate.lean ====
section
/-! SUPPORT. What a translation can do to the state (R351, R352): it keeps copies of table entries, it draws free values, and it posts a record
when it meets poison. Nothing else changes. -/

namespace Sys2Proof.Machine

/-- `t` is `s` but for its translations, its fault tree and the free values used. -/
def State.Walks (s t : State) : Prop := ∃ (m : Mmu) (f : FaultTree) (k : Model), t = { s with mmu := m, tree := f, model := k }

theorem State.Walks.refl (s : State) : s.Walks s := ⟨s.mmu, s.tree, s.model, rfl⟩

theorem State.Walks.trans {s t u : State} : s.Walks t → t.Walks u → s.Walks u := by
  rintro ⟨_, _, _, rfl⟩ ⟨m, f, k, rfl⟩
  exact ⟨m, f, k, rfl⟩

/-- What a translation leaves alone. -/
theorem State.Walks.keeps {s t : State} : s.Walks t → t.mem = s.mem ∧ t.cpu = s.cpu ∧ t.ctxs = s.ctxs ∧ t.regions = s.regions ∧ t.bus = s.bus ∧
    t.link = s.link ∧ t.part = s.part ∧ t.who = s.who ∧ t.pkgid = s.pkgid ∧ t.pkgValid = s.pkgValid ∧ t.engines = s.engines := by
  rintro ⟨_, _, _, rfl⟩
  exact ⟨rfl, rfl, rfl, rfl, rfl, rfl, rfl, rfl, rfl, rfl, rfl⟩

theorem State.keepEntry_walks (s : State) (e : TlbEntry) : s.Walks (s.keepEntry e) := by
  unfold State.keepEntry
  dsimp only
  split
  · exact ⟨_, _, _, rfl⟩
  · split
    · exact ⟨_, _, _, rfl⟩
    · exact ⟨_, _, _, rfl⟩

theorem State.walkRead_walks (s : State) (u : UnitId) (asid level key addr n : Nat) : s.Walks (s.walkRead u asid level key addr n).1 := by
  have keep : ∀ (b : Bool) (t : State) (e : TlbEntry), s.Walks t → s.Walks (if b then t.keepEntry e else t) := by
    intro b t e h
    cases b
    · exact h
    · exact h.trans (t.keepEntry_walks e)
  unfold State.walkRead
  dsimp only
  split
  · exact keep _ _ _ (.refl s)
  · split
    · exact .refl s
    · split
      · exact ⟨_, _, _, rfl⟩
      · exact keep _ _ _ ⟨_, _, _, rfl⟩

theorem walkLevels_walks (u : UnitId) (asid va : Nat) (need : Need) (svc : Bool) (lev t : Nat) (s : State) :
    s.Walks (walkLevels u asid va need svc lev t s).1 := by
  induction lev generalizing t s with
  | zero =>
    unfold walkLevels
    have h := s.walkRead_walks u asid 0 (va >>> levelShift 0) (t + 8 * levelIndex va 0) 8
    dsimp only
    split
    · exact h.trans ⟨_, _, _, rfl⟩
    · split
      · exact h
      · split
        · exact h
        · split
          · split <;> (split <;> exact h)
          · exact h
  | succ lev ih =>
    unfold walkLevels
    have h := s.walkRead_walks u asid (lev + 1) (va >>> levelShift (lev + 1)) (t + 8 * levelIndex va (lev + 1)) 8
    dsimp only
    split
    · exact h.trans ⟨_, _, _, rfl⟩
    · split
      · exact h
      · split
        · exact h
        · split
          · split <;> (split <;> exact h)
          · exact h.trans (ih _ _)

theorem State.translate_walks (s : State) (u : UnitId) (asid va : Nat) (need : Need) (svc : Bool) :
    s.Walks (s.translate u asid va need svc).1 := by
  unfold State.translate
  dsimp only
  split
  · exact .refl s
  · have h := s.walkRead_walks u asid 4 0 (s.mmu.astbase.toNat + 16 * asid) 16
    split
    · exact h.trans ⟨_, _, _, rfl⟩
    · split
      · exact h
      · exact h.trans (walkLevels_walks _ _ _ _ _ _ _ _)

/-- Translating the pages of an area changes nothing else either. -/
theorem xlatePages_walks (u : UnitId) (asid : Nat) (need : Need) (svc : Bool) (n va : Nat) (s : State) :
    s.Walks (xlatePages u asid need svc n va s).1 := by
  induction n generalizing va s with
  | zero => exact .refl s
  | succ n ih =>
    unfold xlatePages
    have h := s.translate_walks u asid va need svc
    dsimp only
    split
    · exact h
    · exact h
    · exact h.trans (ih _ _)

end Sys2Proof.Machine
end

