-- ==== Sys2Proof/Laws/Traps.lean ====
section
/-! SUPPORT. What the shared operations of traps and of accesses can do, each said once: taking a trap (R387), returning from one (R389),
and how a thread's access goes on (R236, R206). -/

namespace Sys2Proof.Machine

/-- The thread as it enters its handler. -/
def Thr.inHandlerOf (t : Thr) (cls : Cls) (pc val vec : Word) : Thr :=
  ({ t with tpc := tpcOf pc, tcause := 1#1 ++ cls, tval := val, wait := .none, trapDue := none }).jump (vec &&& ~~~ 1#64)

/-- With no valid handler, or inside one, a trap ends the thread and its record is posted (R387). -/
theorem State.trapNow_ends {s : State} {cls : Cls} {pc val : Word} {g : Nat} (h : s.tvec.getLsbD 0 = false ∨ s.cpu.tcause.getLsbD 8 = true) :
    ∃ more, s.trapNow cls pc val g =
      { s.postThread s.who cls pc val more with cpu := { s.cpu with run := .ended, wait := .none, trapDue := none } } :=
  ⟨_, by rw [State.trapNow, if_pos h]; rfl⟩

/-- Otherwise it enters the handler, and only the thread changes (R387). -/
theorem State.trapNow_enters {s : State} {cls : Cls} {pc val : Word} {g : Nat} (hv : s.tvec.getLsbD 0 = true) (hc : s.cpu.tcause.getLsbD 8 = false) :
    s.trapNow cls pc val g = { s with cpu := s.cpu.inHandlerOf cls pc val s.tvec } := by
  rw [State.trapNow, if_neg (by rw [hv, hc]; decide)]
  rfl

/-- A trap taken while results are outstanding is kept, and the thread waits for them (R167). -/
theorem State.takeTrap_keeps {s : State} {cls : Cls} {pc val : Word} (h : s.resultsOut = true) :
    s.takeTrap cls pc val = { s with cpu := s.cpu.dueTrap ⟨s.model.nextId, cls, pc, val, 0⟩ }.waitResults := by
  rw [State.takeTrap, State.takeTrapAt, if_pos h]

/-- Otherwise it is taken now. -/
theorem State.takeTrap_now {s : State} {cls : Cls} {pc val : Word} (h : s.resultsOut = false) :
    s.takeTrap cls pc val = s.trapNow cls pc val 0 := by
  rw [State.takeTrap, State.takeTrapAt, if_neg (by simp [h])]

/-- A record changes the fault tree alone. -/
theorem State.postWith_eq (s : State) (cls : Cls) (kind source : Nat) (ctx : Option Ctx) (detail : BitVec 352)
    (note : Option (Nat × BitVec 128)) (sender : Option (BitVec 23)) :
    s.postWith cls kind source ctx detail note sender = { s with tree := (s.postWith cls kind source ctx detail note sender).tree } := rfl

@[simp] theorem State.postThread_cpu (s : State) (a : Actor) (cls : Cls) (pc val : Word) (more : List (Nat × Nat)) :
    (s.postThread a cls pc val more).cpu = s.cpu := rfl
@[simp] theorem State.postThread_mem (s : State) (a : Actor) (cls : Cls) (pc val : Word) (more : List (Nat × Nat)) :
    (s.postThread a cls pc val more).mem = s.mem := rfl
@[simp] theorem State.postThread_ctxs (s : State) (a : Actor) (cls : Cls) (pc val : Word) (more : List (Nat × Nat)) :
    (s.postThread a cls pc val more).ctxs = s.ctxs := rfl

/-- Keeping a trap leaves every register of the thread as it was. -/
theorem Thr.dueTrap_eq (t : Thr) (d : TrapDue) : t.dueTrap d = { t with trapDue := (t.dueTrap d).trapDue } := by
  rcases h : t.trapDue with _ | x
  · simp only [Thr.dueTrap, h]
  · by_cases k : x.key ≤ d.key <;> simp [Thr.dueTrap, h, k]
    rw [← h]

/-- Taking a trap writes the loaded thread's registers and the fault tree, and nothing else; the general registers stay. -/
theorem State.takeTrap_eq (s : State) (cls : Cls) (pc val : Word) :
    s.takeTrap cls pc val = { s with cpu := (s.takeTrap cls pc val).cpu, tree := (s.takeTrap cls pc val).tree }
      ∧ (s.takeTrap cls pc val).cpu.g = s.cpu.g := by
  cases h : s.resultsOut
  · rw [takeTrap_now h]
    by_cases e : s.tvec.getLsbD 0 = false ∨ s.cpu.tcause.getLsbD 8 = true
    · obtain ⟨m, x⟩ := trapNow_ends (g := 0) (cls := cls) (pc := pc) (val := val) e
      rw [x]; exact ⟨rfl, rfl⟩
    · simp only [not_or, Bool.not_eq_false, Bool.not_eq_true] at e
      rw [trapNow_enters e.1 e.2]; exact ⟨rfl, rfl⟩
  · rw [takeTrap_keeps h, Thr.dueTrap_eq]; exact ⟨rfl, rfl⟩

theorem State.takeTrap_mem (s : State) (cls : Cls) (pc val : Word) : (s.takeTrap cls pc val).mem = s.mem := by
  rw [(State.takeTrap_eq s cls pc val).1]

/-- Returning from a trap: the program counter of the trap, and the handler is left. -/
theorem State.returnTrap_some {s t : State} (h : s.returnTrap = some t) :
    s.cpu.tcause.getLsbD 8 = true ∧ t.cpu.pc = s.cpu.tpc ∧ t.cpu.tcause = s.cpu.tcause &&& 0xFF#9 ∧ t.mem = s.mem := by
  unfold State.returnTrap at h
  split at h
  · next hc =>
    cases h
    exact ⟨hc, rfl, rfl, rfl⟩
  · cases h

/-! ### How an access goes on (R236, R211-R213) -/

section
variable {s t : State} {ea : Word} {n : Nat} {need : Need} {at_ w : Bool} {hold : State → Nat → Bool} {body : State → Nat → Via → State}

theorem State.access_trap {cls : Cls} (h : s.checkAccess ea n need at_ = (t, .trap cls)) : s.access ea n need at_ w hold body = t.trap cls ea := by
  simp [State.access, h]

theorem State.access_page {tag} (h : s.checkAccess ea n need at_ = (t, .wait tag)) :
    s.access ea n need at_ w hold body = t.waitFor (.page tag ea) := by
  simp [State.access, h]

theorem State.access_held {pa : Nat} {via : Via} (h : s.checkAccess ea n need at_ = (t, .go pa via))
    (held : (t.fenced (t.home pa) w || hold t pa) = true) : s.access ea n need at_ w hold body = t.waitAccess := by
  simp only [State.access, h, held, if_true]

theorem State.access_go {pa : Nat} {via : Via} (h : s.checkAccess ea n need at_ = (t, .go pa via))
    (f : t.fenced (t.home pa) w = false) (hd : hold t pa = false) : s.access ea n need at_ w hold body = body t pa via := by
  simp [State.access, h, f, hd]

/-- Everything that an access can come to: a trap, a wait, or its own effect. -/
theorem State.access_cases (s : State) (ea : Word) (n : Nat) (need : Need) (at_ w : Bool) (hold : State → Nat → Bool)
    (body : State → Nat → Via → State) :
    ∃ t, (∃ cls, s.access ea n need at_ w hold body = t.trap cls ea) ∨ (∃ x, s.access ea n need at_ w hold body = t.waitFor x)
      ∨ ∃ pa via, s.checkAccess ea n need at_ = (t, .go pa via) ∧ s.access ea n need at_ w hold body = body t pa via := by
  rcases h : s.checkAccess ea n need at_ with ⟨t, x⟩
  refine ⟨t, ?_⟩
  cases x with
  | trap cls => exact Or.inl ⟨cls, access_trap h⟩
  | wait tag => exact Or.inr (Or.inl ⟨_, access_page h⟩)
  | go pa via =>
    by_cases held : (t.fenced (t.home pa) w || hold t pa) = true
    · exact Or.inr (Or.inl ⟨_, access_held h held⟩)
    · exact Or.inr (Or.inr ⟨pa, via, rfl, by simp only [State.access, h, held, if_false, Bool.false_eq_true]⟩)

end

end Sys2Proof.Machine
end

