-- ==== Sys2Proof/Tests/Slice0.lean ====
section
/-! SUPPORT. Tests: decoding against words written out from the manual's encodings, well-formedness, single steps against the manual's rules, and
states that meet the hypotheses of the statements. -/

open Sys2Proof

/-! ### Decoding (R62 to R75): fields d = g7, a = g21, b = g30, in their places of the opcode table -/

theorem test_decode_integer_1 :
    decodeWord 0xE01EBE00 = .ok (.add 7 21 30) ∧
    decodeWord 0xE01EBE01 = .ok (.sub 7 21 30) ∧
    decodeWord 0xE01EBE02 = .ok (.mul 7 21 30) ∧
    decodeWord 0xE01EBE03 = .ok (.mulh 7 21 30) ∧
    decodeWord 0xE01EBE04 = .ok (.mulhn 7 21 30) ∧
    decodeWord 0xE01EBE05 = .ok (.div 7 21 30) ∧
    decodeWord 0xE01EBE06 = .ok (.divn 7 21 30) ∧
    decodeWord 0xE01EBE07 = .ok (.and_ 7 21 30) ∧
    decodeWord 0xE01EBE08 = .ok (.or_ 7 21 30) ∧
    decodeWord 0xE01EBE09 = .ok (.xor_ 7 21 30) ∧
    decodeWord 0xE01EBE0A = .ok (.andn 7 21 30) ∧
    decodeWord 0xE01EBE0B = .ok (.sll 7 21 30) := by
  and_intros <;> rfl

theorem test_decode_integer_2 :
    decodeWord 0xE01EBE0C = .ok (.srl 7 21 30) ∧
    decodeWord 0xE01EBE0D = .ok (.sra 7 21 30) ∧
    decodeWord 0xE01EBE0E = .ok (.slt 7 21 30) ∧
    decodeWord 0xE01EBE0F = .ok (.sltn 7 21 30) ∧
    decodeWord 0xE01EBE10 = .ok (.min_ 7 21 30) ∧
    decodeWord 0xE01EBE11 = .ok (.max_ 7 21 30) ∧
    decodeWord 0xE01EA012 = .ok (.clz 7 21) ∧
    decodeWord 0xE01EA013 = .ok (.popc 7 21) := by
  and_intros <;> rfl

theorem test_decode_immediate :
    decodeWord 0xE09EB234 = .ok (.addi 7 21 0x1234) ∧
    decodeWord 0xE11EB234 = .ok (.andi 7 21 0x1234) ∧
    decodeWord 0xE19EA02B = .ok (.slli 7 21 0x2b) ∧
    decodeWord 0xE21EA02B = .ok (.srli 7 21 0x2b) ∧
    decodeWord 0xE29EA02B = .ok (.srai 7 21 0x2b) ∧
    decodeWord 0xE31EBCDE = .ok (.li 7 0x2bcde) ∧
    decodeWord 0xE39EBCDE = .ok (.lic 7 0x2bcde) ∧
    decodeWord 0xE41EBCDE = .ok (.addpc 7 0x2bcde) := by
  and_intros <;> rfl

theorem test_decode_packed :
    decodeWord 0xE49EBE00 = .ok (.padd .b 7 21 30) ∧
    decodeWord 0xE49EBE44 = .ok (.psub .h 7 21 30) ∧
    decodeWord 0xE49EBE88 = .ok (.padds .w 7 21 30) ∧
    decodeWord 0xE49EBE0C = .ok (.paddsn .b 7 21 30) ∧
    decodeWord 0xE49EBE50 = .ok (.psubs .h 7 21 30) ∧
    decodeWord 0xE49EBE94 = .ok (.psubsn .w 7 21 30) ∧
    decodeWord 0xE49EBE18 = .ok (.pmul .b 7 21 30) ∧
    decodeWord 0xE49EBE5C = .ok (.pmin .h 7 21 30) ∧
    decodeWord 0xE49EBEA0 = .ok (.pmax .w 7 21 30) := by
  and_intros <;> rfl

theorem test_decode_float :
    decodeWord 0xE51EBE80 = .ok (.fadd .f64 .rne 7 21 30) ∧
    decodeWord 0xE51EBEA1 = .ok (.fsub .f64 .up 7 21 30) ∧
    decodeWord 0xE51EBEC2 = .ok (.fmul .f64 .ta 7 21 30) ∧
    decodeWord 0xE51EBE93 = .ok (.fdiv .f64 .rtz 7 21 30) ∧
    decodeWord 0xE51EA0B4 = .ok (.fsqrt .f64 .down 7 21) ∧
    decodeWord 0xE51EBE85 = .ok (.fma .f64 .rne 7 21 30) ∧
    decodeWord 0xE51EBE86 = .ok (.fmin .f64 7 21 30) ∧
    decodeWord 0xE51EBE07 = .ok (.fmax .f32 7 21 30) ∧
    decodeWord 0xE51EBE88 = .ok (.fcmp .f64 7 21 30) ∧
    decodeWord 0xE51EA009 = .ok (.fcvti .f32 .rne 7 21) ∧
    decodeWord 0xE51EA02A = .ok (.fcvtf .f32 .up 7 21) ∧
    decodeWord 0xE51EA04B = .ok (.fcvtw .f32 .ta 7 21) := by
  and_intros <;> rfl

theorem test_decode_branch :
    decodeWord 0xE5D7D234 = .ok (.beq 21 30 0x1234) ∧
    decodeWord 0xE657D234 = .ok (.bne 21 30 0x1234) ∧
    decodeWord 0xE6D7D234 = .ok (.blt 21 30 0x1234) ∧
    decodeWord 0xE757D234 = .ok (.bge 21 30 0x1234) ∧
    decodeWord 0xE7D7D234 = .ok (.bltn 21 30 0x1234) ∧
    decodeWord 0xE857D234 = .ok (.bgen 21 30 0x1234) ∧
    decodeWord 0xE89EBCDE = .ok (.jal 7 0x2bcde) ∧
    decodeWord 0xE91EB234 = .ok (.jalr 7 21 0x1234) := by
  and_intros <;> rfl

theorem test_decode_memory :
    decodeWord 0xE99EBAA5 = .ok (.ld 7 21 .d64 0x2a5) ∧
    decodeWord 0xEA1EAAA5 = .ok (.st 7 21 .b16 0x2a5) ∧
    decodeWord 0xEA9EA00C = .ok (.ldaq 7 21 .s8 .pkg) ∧
    decodeWord 0xEB02BEE0 = .ok (.strl 21 30 .b128 .thr) ∧
    decodeWord 0xEB800005 = .ok (.fence .sta .rel) ∧
    decodeWord 0xEC02BEB0 = .ok (.sflag 21 30 .w32 .sys) ∧
    decodeWord 0xED1EBE04 = .ok (.cas .s64 true 7 21 30) := by
  and_intros <;> rfl

theorem test_decode_atomic :
    decodeWord 0xEC9EBE04 = .ok (.aadd .s32 true 7 21 30) ∧
    decodeWord 0xEC9EBE14 = .ok (.aand .s32 true 7 21 30) ∧
    decodeWord 0xEC9EBE24 = .ok (.aor .s32 true 7 21 30) ∧
    decodeWord 0xEC9EBE34 = .ok (.axor .s32 true 7 21 30) ∧
    decodeWord 0xEC9EBE44 = .ok (.amin .s32 true 7 21 30) ∧
    decodeWord 0xEC9EBE54 = .ok (.amax .s32 true 7 21 30) ∧
    decodeWord 0xEC9EBE64 = .ok (.aswap .s32 true 7 21 30) ∧
    decodeWord 0xEC9EBE70 = .ok (.afaddF32 false 7 21 30) ∧
    decodeWord 0xEC9EBE84 = .ok (.afaddBf16 true 7 21 30) := by
  and_intros <;> rfl

theorem test_decode_message :
    decodeWord 0xED9EA000 = .ok (.send 7 21) ∧
    decodeWord 0xED9EBE01 = .ok (.cset 7 21 30) ∧
    decodeWord 0xED9EA002 = .ok (.cget 7 21) ∧
    decodeWord 0xED9EBE03 = .ok (.cbind 7 21 30) ∧
    decodeWord 0xED9EBE04 = .ok (.cwait 7 21 30) ∧
    decodeWord 0xED9C1E05 = .ok (.mbwait 7 30) ∧
    decodeWord 0xED9C1E06 = .ok (.mbpop 7 30) ∧
    decodeWord 0xED9C1E07 = .ok (.mbpeek 7 30) := by
  and_intros <;> rfl

theorem test_decode_queue :
    decodeWord 0xEE1EA000 = .ok (.qdef 7 21) ∧
    decodeWord 0xEE1EBE01 = .ok (.qpush false 7 21 30) ∧
    decodeWord 0xEE1EBE02 = .ok (.qpop 7 21 30) ∧
    decodeWord 0xEE1EBE03 = .ok (.qpeek 7 21 30) ∧
    decodeWord 0xEE1EA004 = .ok (.qstat 7 21) ∧
    decodeWord 0xEE1EA005 = .ok (.qbind 7 21) ∧
    decodeWord 0xEE1EA006 = .ok (.qmark 7 21) := by
  and_intros <;> rfl

theorem test_decode_table :
    decodeWord 0xEE9EA000 = .ok (.tlook 7 21) ∧
    decodeWord 0xEE9EBE01 = .ok (.tins 7 21 30) ∧
    decodeWord 0xEE9EA002 = .ok (.tinv 7 21) ∧
    decodeWord 0xEE9EA003 = .ok (.tdef 7 21) ∧
    decodeWord 0xEE9EBE04 = .ok (.tstat 7 21 30) ∧
    decodeWord 0xEE9EA005 = .ok (.twait 7 21) ∧
    decodeWord 0xEE9EA006 = .ok (.agset 7 21) ∧
    decodeWord 0xEE9EBE07 = .ok (.agparm 7 21 30) ∧
    decodeWord 0xEE9C0008 = .ok (.sopen 7) ∧
    decodeWord 0xEE9EA009 = .ok (.sclose 7 21) ∧
    decodeWord 0xEE9EA00A = .ok (.sstat 7 21) := by
  and_intros <;> rfl

theorem test_decode_matrix :
    decodeWord 0xEF1EBE00 = .ok (.mload 7 21 30) ∧
    decodeWord 0xEF1EBE01 = .ok (.mrun 7 21 30) ∧
    decodeWord 0xEF1EBE02 = .ok (.mdrain 7 21 30) ∧
    decodeWord 0xEF1EA003 = .ok (.mstat 7 21) := by
  and_intros <;> rfl

theorem test_decode_scheduling :
    decodeWord 0xEF9EBE00 = .ok (.rarm 7 21 30) ∧
    decodeWord 0xEF9EA001 = .ok (.rdisarm 7 21) ∧
    decodeWord 0xEF9EBE02 = .ok (.cancelBlock 7 21 30) ∧
    decodeWord 0xEF9EBE03 = .ok (.rprio 7 21 30) ∧
    decodeWord 0xEF9EA005 = .ok (.thprio 7 21) ∧
    decodeWord 0xEF800004 = .ok .yield := by
  and_intros <;> rfl

theorem test_decode_barrier :
    decodeWord 0xF01EA000 = .ok (.bar 7 21) ∧
    decodeWord 0xF01EA001 = .ok (.barsnap 7 21) ∧
    decodeWord 0xF01EBE02 = .ok (.reduce 7 21 30) ∧
    decodeWord 0xF01EA003 = .ok (.done_ 7 21) := by
  and_intros <;> rfl

theorem test_decode_system_1 :
    decodeWord 0xF082A001 = .ok (.trap 21) ∧
    decodeWord 0xF09EBE03 = .ok (.ctxswOut 7 21 30) ∧
    decodeWord 0xF09EBE04 = .ok (.frzsave 7 21 30) ∧
    decodeWord 0xF09EBE05 = .ok (.drnsave 7 21 30) ∧
    decodeWord 0xF09EBE06 = .ok (.restore 7 21 30) ∧
    decodeWord 0xF09EA007 = .ok (.rdstate 7 21) ∧
    decodeWord 0xF09EBE08 = .ok (.tlbinv 7 21 30) ∧
    decodeWord 0xF09EBE09 = .ok (.capmintInstall 7 21 30) ∧
    decodeWord 0xF09EBE0A = .ok (.hdecl 7 21 30) ∧
    decodeWord 0xF09EBE0B = .ok (.hopen 7 21 30) ∧
    decodeWord 0xF09EA00C = .ok (.hclose 7 21) ∧
    decodeWord 0xF09EBE0D = .ok (.platerdHeader 7 21 30) := by
  and_intros <;> rfl

theorem test_decode_system_2 :
    decodeWord 0xF09EA00E = .ok (.hclear 7 21) ∧
    decodeWord 0xF0800000 = .ok .halt ∧
    decodeWord 0xF0800002 = .ok .tret := by
  and_intros <;> rfl

theorem test_decode_register_window :
    decodeWord 0xF11C1234 = .ok (.getk 7 0x1234) ∧
    decodeWord 0xF182A041 = .ok (.putk 21 0x41) ∧
    decodeWord 0xF182A052 = .ok (.putkEcomph 21) ∧
    decodeWord 0xF182A030 = .ok (.putkDom 21) ∧
    decodeWord 0xF182A060 = .ok (.putkLnack 21) ∧
    decodeWord 0xF21EA2A5 = .ok (.lld 7 21 0x2a5) ∧
    decodeWord 0xF29EA2A5 = .ok (.lst 7 21 0x2a5) := by
  and_intros <;> rfl

theorem test_decode_compact_1 :
    decodeCompact 0x05AF = .ok (.addCompact 5 10 15) ∧
    decodeCompact 0x15AF = .ok (.subCompact 5 10 15) ∧
    decodeCompact 0x25AF = .ok (.andCompact 5 10 15) ∧
    decodeCompact 0x35AF = .ok (.orCompact 5 10 15) ∧
    decodeCompact 0x45AF = .ok (.xorCompact 5 10 15) ∧
    decodeCompact 0x55AD = .ok (.addiCompact 5 10 0xd) ∧
    decodeCompact 0x65AD = .ok (.slliCompact 5 10 0xd) ∧
    decodeCompact 0x75AD = .ok (.srliCompact 5 10 0xd) ∧
    decodeCompact 0x859C = .ok (.liCompact 5 0x9c) ∧
    decodeCompact 0x95AD = .ok (.ld64Compact 5 10 0xd) ∧
    decodeCompact 0xA5AD = .ok (.st64Compact 5 10 0xd) ∧
    decodeCompact 0xBA9C = .ok (.beqCompact 10 0x9c) := by
  and_intros <;> rfl

theorem test_decode_compact_2 :
    decodeCompact 0xCA9C = .ok (.bneCompact 10 0x9c) ∧
    decodeCompact 0xD000 = .ok .haltCompact ∧
    decodeCompact 0xD001 = .ok .yieldCompact := by
  and_intros <;> rfl

theorem test_decode_block_1 :
    decodeBlock 0x0037F120C6000000 ⟨3, 4, 5, 6⟩ = .ok (.nodeFadd ⟨3, 4, 5, 6⟩ ⟨0x3, 1, 63, 0x24, 0x31, 0x2000000⟩) ∧
    decodeBlock 0x01200127FC800000 ⟨3, 4, 5, 6⟩ = .ok (.nodeFsub ⟨3, 4, 5, 6⟩ ⟨0x2, 0, 0, 0x24, 0x1ff, 0x800000⟩) ∧
    decodeBlock 0x02100120C4000000 ⟨3, 4, 5, 6⟩ = .ok (.nodeFmul ⟨3, 4, 5, 6⟩ ⟨0x1, 0, 0, 0x24, 0x31, 0x0⟩) ∧
    decodeBlock 0x03100127FE800000 ⟨3, 4, 5, 6⟩ = .ok (.nodeFma ⟨3, 4, 5, 6⟩ ⟨0x1, 0, 0, 0x24, 0x1ff, 0x2800000⟩) ∧
    decodeBlock 0x04280127FC000000 ⟨3, 4, 5, 6⟩ = .ok (.nodeFmin ⟨3, 4, 5, 6⟩ ⟨0x2, 2, 0, 0x24, 0x1ff, 0x0⟩) ∧
    decodeBlock 0x05300127FC000000 ⟨3, 4, 5, 6⟩ = .ok (.nodeFmax ⟨3, 4, 5, 6⟩ ⟨0x3, 0, 0, 0x24, 0x1ff, 0x0⟩) ∧
    decodeBlock 0x06100127FC000000 ⟨3, 4, 5, 6⟩ = .ok (.nodeFabs ⟨3, 4, 5, 6⟩ ⟨0x1, 0, 0, 0x24, 0x1ff, 0x0⟩) ∧
    decodeBlock 0x07200127FC000000 ⟨3, 4, 5, 6⟩ = .ok (.nodeFneg ⟨3, 4, 5, 6⟩ ⟨0x2, 0, 0, 0x24, 0x1ff, 0x0⟩) ∧
    decodeBlock 0x08300127FC000007 ⟨3, 4, 5, 6⟩ = .ok (.nodeFcmp ⟨3, 4, 5, 6⟩ ⟨0x3, 0, 0, 0x24, 0x1ff, 0x7⟩) ∧
    decodeBlock 0x09100127FD000000 ⟨3, 4, 5, 6⟩ = .ok (.nodeFrcp ⟨3, 4, 5, 6⟩ ⟨0x1, 0, 0, 0x24, 0x1ff, 0x1000000⟩) ∧
    decodeBlock 0x0A100127FC000000 ⟨3, 4, 5, 6⟩ = .ok (.nodeFrsq ⟨3, 4, 5, 6⟩ ⟨0x1, 0, 0, 0x24, 0x1ff, 0x0⟩) ∧
    decodeBlock 0x0B100127FD800000 ⟨3, 4, 5, 6⟩ = .ok (.nodeFsqrt ⟨3, 4, 5, 6⟩ ⟨0x1, 0, 0, 0x24, 0x1ff, 0x1800000⟩) ∧
    decodeBlock 0x0C100127FC000000 ⟨3, 4, 5, 6⟩ = .ok (.nodeFexp2 ⟨3, 4, 5, 6⟩ ⟨0x1, 0, 0, 0x24, 0x1ff, 0x0⟩) := by
  and_intros <;> rfl

theorem test_decode_block_2 :
    decodeBlock 0x0D100127FC000000 ⟨3, 4, 5, 6⟩ = .ok (.nodeFlog2 ⟨3, 4, 5, 6⟩ ⟨0x1, 0, 0, 0x24, 0x1ff, 0x0⟩) ∧
    decodeBlock 0x0E100127FC000000 ⟨3, 4, 5, 6⟩ = .ok (.nodeFsin ⟨3, 4, 5, 6⟩ ⟨0x1, 0, 0, 0x24, 0x1ff, 0x0⟩) ∧
    decodeBlock 0x0F100127FC000000 ⟨3, 4, 5, 6⟩ = .ok (.nodeFcos ⟨3, 4, 5, 6⟩ ⟨0x1, 0, 0, 0x24, 0x1ff, 0x0⟩) ∧
    decodeBlock 0x10100127FC000000 ⟨3, 4, 5, 6⟩ = .ok (.nodeFtanh ⟨3, 4, 5, 6⟩ ⟨0x1, 0, 0, 0x24, 0x1ff, 0x0⟩) ∧
    decodeBlock 0x20C00127FE000000 ⟨3, 4, 5, 6⟩ = .ok (.nodeIadd ⟨3, 4, 5, 6⟩ ⟨0xc, 0, 0, 0x24, 0x1ff, 0x2000000⟩) ∧
    decodeBlock 0x21D00127FC000000 ⟨3, 4, 5, 6⟩ = .ok (.nodeIsub ⟨3, 4, 5, 6⟩ ⟨0xd, 0, 0, 0x24, 0x1ff, 0x0⟩) ∧
    decodeBlock 0x22E00127FC000000 ⟨3, 4, 5, 6⟩ = .ok (.nodeImul ⟨3, 4, 5, 6⟩ ⟨0xe, 0, 0, 0x24, 0x1ff, 0x0⟩) ∧
    decodeBlock 0x23F00127FC000000 ⟨3, 4, 5, 6⟩ = .ok (.nodeImulh ⟨3, 4, 5, 6⟩ ⟨0xf, 0, 0, 0x24, 0x1ff, 0x0⟩) ∧
    decodeBlock 0x24A00127FC000000 ⟨3, 4, 5, 6⟩ = .ok (.nodeImin ⟨3, 4, 5, 6⟩ ⟨0xa, 0, 0, 0x24, 0x1ff, 0x0⟩) ∧
    decodeBlock 0x25B00127FC000000 ⟨3, 4, 5, 6⟩ = .ok (.nodeImax ⟨3, 4, 5, 6⟩ ⟨0xb, 0, 0, 0x24, 0x1ff, 0x0⟩) ∧
    decodeBlock 0x26C00127FC000000 ⟨3, 4, 5, 6⟩ = .ok (.nodeIabs ⟨3, 4, 5, 6⟩ ⟨0xc, 0, 0, 0x24, 0x1ff, 0x0⟩) ∧
    decodeBlock 0x27F00127FC000005 ⟨3, 4, 5, 6⟩ = .ok (.nodeIcmp ⟨3, 4, 5, 6⟩ ⟨0xf, 0, 0, 0x24, 0x1ff, 0x5⟩) ∧
    decodeBlock 0x28000127FC000000 ⟨3, 4, 5, 6⟩ = .ok (.nodeAnd ⟨3, 4, 5, 6⟩ ⟨0x0, 0, 0, 0x24, 0x1ff, 0x0⟩) := by
  and_intros <;> rfl

theorem test_decode_block_3 :
    decodeBlock 0x29000127FC000000 ⟨3, 4, 5, 6⟩ = .ok (.nodeOr ⟨3, 4, 5, 6⟩ ⟨0x0, 0, 0, 0x24, 0x1ff, 0x0⟩) ∧
    decodeBlock 0x2A000127FC000000 ⟨3, 4, 5, 6⟩ = .ok (.nodeXor ⟨3, 4, 5, 6⟩ ⟨0x0, 0, 0, 0x24, 0x1ff, 0x0⟩) ∧
    decodeBlock 0x2B000127FC000000 ⟨3, 4, 5, 6⟩ = .ok (.nodeNot ⟨3, 4, 5, 6⟩ ⟨0x0, 0, 0, 0x24, 0x1ff, 0x0⟩) ∧
    decodeBlock 0x2C000127FC000000 ⟨3, 4, 5, 6⟩ = .ok (.nodeShl ⟨3, 4, 5, 6⟩ ⟨0x0, 0, 0, 0x24, 0x1ff, 0x0⟩) ∧
    decodeBlock 0x2D000127FC000000 ⟨3, 4, 5, 6⟩ = .ok (.nodeShr ⟨3, 4, 5, 6⟩ ⟨0x0, 0, 0, 0x24, 0x1ff, 0x0⟩) ∧
    decodeBlock 0x2E000127FC000000 ⟨3, 4, 5, 6⟩ = .ok (.nodeShra ⟨3, 4, 5, 6⟩ ⟨0x0, 0, 0, 0x24, 0x1ff, 0x0⟩) ∧
    decodeBlock 0x2F000127FC000000 ⟨3, 4, 5, 6⟩ = .ok (.nodeClz ⟨3, 4, 5, 6⟩ ⟨0x0, 0, 0, 0x24, 0x1ff, 0x0⟩) ∧
    decodeBlock 0x30000127FC000000 ⟨3, 4, 5, 6⟩ = .ok (.nodePopc ⟨3, 4, 5, 6⟩ ⟨0x0, 0, 0, 0x24, 0x1ff, 0x0⟩) ∧
    decodeBlock 0x40100127FC80000C ⟨3, 4, 5, 6⟩ = .ok (.nodeCvt ⟨3, 4, 5, 6⟩ ⟨0x1, 0, 0, 0x24, 0x1ff, 0x80000c⟩) ∧
    decodeBlock 0x41900127FC000001 ⟨3, 4, 5, 6⟩ = .ok (.nodeQuant ⟨3, 4, 5, 6⟩ ⟨0x9, 0, 0, 0x24, 0x1ff, 0x1⟩) ∧
    decodeBlock 0x41800127FC400003 ⟨3, 4, 5, 6⟩ = .ok (.nodeQuantMx ⟨3, 4, 5, 6⟩ ⟨0x8, 0, 0, 0x24, 0x1ff, 0x400003⟩) ∧
    decodeBlock 0x42100127FC000009 ⟨3, 4, 5, 6⟩ = .ok (.nodeDequant ⟨3, 4, 5, 6⟩ ⟨0x1, 0, 0, 0x24, 0x1ff, 0x9⟩) ∧
    decodeBlock 0x42300127FC400008 ⟨3, 4, 5, 6⟩ = .ok (.nodeDequantMx ⟨3, 4, 5, 6⟩ ⟨0x3, 0, 0, 0x24, 0x1ff, 0x400008⟩) := by
  and_intros <;> rfl

theorem test_decode_block_4 :
    decodeBlock 0x48000127FC000000 ⟨3, 4, 5, 6⟩ = .ok (.nodeShuf ⟨3, 4, 5, 6⟩ ⟨0x0, 0, 0, 0x24, 0x1ff, 0x0⟩) ∧
    decodeBlock 0x49000127FC00000F ⟨3, 4, 5, 6⟩ = .ok (.nodeBcast ⟨3, 4, 5, 6⟩ ⟨0x0, 0, 0, 0x24, 0x1ff, 0xf⟩) ∧
    decodeBlock 0x4AC00127FC000005 ⟨3, 4, 5, 6⟩ = .ok (.nodeRed ⟨3, 4, 5, 6⟩ ⟨0xc, 0, 0, 0x24, 0x1ff, 0x5⟩) ∧
    decodeBlock 0x4B100127FC000002 ⟨3, 4, 5, 6⟩ = .ok (.nodeScan ⟨3, 4, 5, 6⟩ ⟨0x1, 0, 0, 0x24, 0x1ff, 0x2⟩) ∧
    decodeBlock 0x4C000127FC000006 ⟨3, 4, 5, 6⟩ = .ok (.nodePack ⟨3, 4, 5, 6⟩ ⟨0x0, 0, 0, 0x24, 0x1ff, 0x6⟩) ∧
    decodeBlock 0x4D000127FC000009 ⟨3, 4, 5, 6⟩ = .ok (.nodeUnpack ⟨3, 4, 5, 6⟩ ⟨0x0, 0, 0, 0x24, 0x1ff, 0x9⟩) ∧
    decodeBlock 0x60A00127FFE2F000 ⟨3, 4, 5, 6⟩ = .ok (.nodeLoad ⟨3, 4, 5, 6⟩ ⟨0xa, 0, 0, 0x24, 0x1ff, 0x3e2f000⟩) ∧
    decodeBlock 0x61100FFFFC600000 ⟨3, 4, 5, 6⟩ = .ok (.nodeStore ⟨3, 4, 5, 6⟩ ⟨0x1, 0, 0, 0x1ff, 0x1ff, 0x600000⟩) ∧
    decodeBlock 0x62400127FC0001FF ⟨3, 4, 5, 6⟩ = .ok (.nodeTload ⟨3, 4, 5, 6⟩ ⟨0x4, 0, 0, 0x24, 0x1ff, 0x1ff⟩) ∧
    decodeBlock 0x63500FFFFC200007 ⟨3, 4, 5, 6⟩ = .ok (.nodeTstore ⟨3, 4, 5, 6⟩ ⟨0x5, 0, 0, 0x1ff, 0x1ff, 0x200007⟩) ∧
    decodeBlock 0x64000127FC00BEEF ⟨3, 4, 5, 6⟩ = .ok (.nodeQin ⟨3, 4, 5, 6⟩ ⟨0x0, 0, 0, 0x24, 0x1ff, 0xbeef⟩) ∧
    decodeBlock 0x65000FFFFC001234 ⟨3, 4, 5, 6⟩ = .ok (.nodeQout ⟨3, 4, 5, 6⟩ ⟨0x0, 0, 0, 0x1ff, 0x1ff, 0x1234⟩) ∧
    decodeBlock 0x66000127FC000007 ⟨3, 4, 5, 6⟩ = .ok (.nodeSin ⟨3, 4, 5, 6⟩ ⟨0x0, 0, 0, 0x24, 0x1ff, 0x7⟩) := by
  and_intros <;> rfl

theorem test_decode_block_5 :
    decodeBlock 0x67000FFFFC000002 ⟨3, 4, 5, 6⟩ = .ok (.nodeSout ⟨3, 4, 5, 6⟩ ⟨0x0, 0, 0, 0x1ff, 0x1ff, 0x2⟩) ∧
    decodeBlock 0x70000127FC00001F ⟨3, 4, 5, 6⟩ = .ok (.nodeRead ⟨3, 4, 5, 6⟩ ⟨0x0, 0, 0, 0x24, 0x1ff, 0x1f⟩) ∧
    decodeBlock 0x71000FFFFC00001E ⟨3, 4, 5, 6⟩ = .ok (.nodeWrite ⟨3, 4, 5, 6⟩ ⟨0x0, 0, 0, 0x1ff, 0x1ff, 0x1e⟩) ∧
    decodeBlock 0x72000FFFFC00000F ⟨3, 4, 5, 6⟩ = .ok (.nodeBr ⟨3, 4, 5, 6⟩ ⟨0x0, 0, 0, 0x1ff, 0x1ff, 0xf⟩) ∧
    decodeBlock 0x73000127FC000000 ⟨3, 4, 5, 6⟩ = .ok (.nodeNull ⟨3, 4, 5, 6⟩ ⟨0x0, 0, 0, 0x24, 0x1ff, 0x0⟩) ∧
    decodeBlock 0x74100127FFFFFFFF ⟨3, 4, 5, 6⟩ = .ok (.nodeConst ⟨3, 4, 5, 6⟩ ⟨0x1, 0, 0, 0x24, 0x1ff, 0x3ffffff⟩) ∧
    decodeBlock 0x75000127FC000003 ⟨3, 4, 5, 6⟩ = .ok (.nodeCtr ⟨3, 4, 5, 6⟩ ⟨0x0, 0, 0, 0x24, 0x1ff, 0x3⟩) ∧
    decodeBlock 0x76000127FC000000 ⟨3, 4, 5, 6⟩ = .ok (.nodeFan ⟨3, 4, 5, 6⟩ ⟨0x0, 0, 0, 0x24, 0x1ff, 0x0⟩) ∧
    decodeBlock 0x77000127FC000000 ⟨3, 4, 5, 6⟩ = .ok (.nodeMerge ⟨3, 4, 5, 6⟩ ⟨0x0, 0, 0, 0x24, 0x1ff, 0x0⟩) ∧
    decodeBlock 0x80800127FC0001FF ⟨3, 4, 5, 6⟩ = .ok (.nodeWload ⟨3, 4, 5, 6⟩ ⟨0x8, 0, 0, 0x24, 0x1ff, 0x1ff⟩) ∧
    decodeBlock 0x81300127FC000000 ⟨3, 4, 5, 6⟩ = .ok (.nodeMacc ⟨3, 4, 5, 6⟩ ⟨0x3, 0, 0, 0x24, 0x1ff, 0x0⟩) ∧
    decodeBlock 0x82100127FC00000C ⟨3, 4, 5, 6⟩ = .ok (.nodeAccdrain ⟨3, 4, 5, 6⟩ ⟨0x1, 0, 0, 0x24, 0x1ff, 0xc⟩) := by
  and_intros <;> rfl

theorem test_decode_node_1 :
    decodeNode 0x0041800000000000 ⟨3, 4, 5⟩ = .ok (.snodePass ⟨3, 4, 5⟩ ⟨1, 0, 6, 0x0, 0x0⟩) ∧
    decodeNode 0x0441800000000003 ⟨3, 4, 5⟩ = .ok (.snodeSplit ⟨3, 4, 5⟩ ⟨1, 0, 6, 0x0, 0x3⟩) ∧
    decodeNode 0x088DA80000000804 ⟨3, 4, 5⟩ = .ok (.snodeMerge ⟨3, 4, 5⟩ ⟨2, 3, 6, 0xa, 0x804⟩) ∧
    decodeNode 0x204184053F800000 ⟨3, 4, 5⟩ = .ok (.snodeScale ⟨3, 4, 5⟩ ⟨1, 0, 6, 0x1, 0x53f800000⟩) ∧
    decodeNode 0x248DB04000000007 ⟨3, 4, 5⟩ = .ok (.snodeAdd ⟨3, 4, 5⟩ ⟨2, 3, 6, 0xc, 0x4000000007⟩) ∧
    decodeNode 0x2841880000003C00 ⟨3, 4, 5⟩ = .ok (.snodeMul ⟨3, 4, 5⟩ ⟨1, 0, 6, 0x2, 0x3c00⟩) ∧
    decodeNode 0x2C958C0000003F80 ⟨3, 4, 5⟩ = .ok (.snodeFma ⟨3, 4, 5⟩ ⟨2, 5, 6, 0x3, 0x3f80⟩) ∧
    decodeNode 0x3041B40000FF0001 ⟨3, 4, 5⟩ = .ok (.snodeClamp ⟨3, 4, 5⟩ ⟨1, 0, 6, 0xd, 0xff0001⟩) ∧
    decodeNode 0x3441B02800000002 ⟨3, 4, 5⟩ = .ok (.snodeCmpsel ⟨3, 4, 5⟩ ⟨1, 0, 6, 0xc, 0x2800000002⟩) ∧
    decodeNode 0x4041840000000012 ⟨3, 4, 5⟩ = .ok (.snodeCvt ⟨3, 4, 5⟩ ⟨1, 0, 6, 0x1, 0x12⟩) := by
  and_intros <;> rfl

theorem test_decode_node_2 :
    decodeNode 0x4441900000000051 ⟨3, 4, 5⟩ = .ok (.snodeQmx ⟨3, 4, 5⟩ ⟨1, 0, 6, 0x4, 0x51⟩) ∧
    decodeNode 0x4841840000000008 ⟨3, 4, 5⟩ = .ok (.snodeDqmx ⟨3, 4, 5⟩ ⟨1, 0, 6, 0x1, 0x8⟩) ∧
    decodeNode 0x5041A80000000003 ⟨3, 4, 5⟩ = .ok (.snodePackb ⟨3, 4, 5⟩ ⟨1, 0, 6, 0xa, 0x3⟩) ∧
    decodeNode 0x5441BC000000001F ⟨3, 4, 5⟩ = .ok (.snodeUnpackb ⟨3, 4, 5⟩ ⟨1, 0, 6, 0xf, 0x1f⟩) ∧
    decodeNode 0x5841B0000000FFFF ⟨3, 4, 5⟩ = .ok (.snodeDelta ⟨3, 4, 5⟩ ⟨1, 0, 6, 0xc, 0xffff⟩) ∧
    decodeNode 0x5C41AC0000000001 ⟨3, 4, 5⟩ = .ok (.snodeUndelta ⟨3, 4, 5⟩ ⟨1, 0, 6, 0xb, 0x1⟩) ∧
    decodeNode 0x6041840000000037 ⟨3, 4, 5⟩ = .ok (.snodeBfpc ⟨3, 4, 5⟩ ⟨1, 0, 6, 0x1, 0x37⟩) ∧
    decodeNode 0x6441880000000004 ⟨3, 4, 5⟩ = .ok (.snodeBfpd ⟨3, 4, 5⟩ ⟨1, 0, 6, 0x2, 0x4⟩) ∧
    decodeNode 0x7041A80000000000 ⟨3, 4, 5⟩ = .ok (.snodeExpand24 ⟨3, 4, 5⟩ ⟨1, 0, 6, 0xa, 0x0⟩) ∧
    decodeNode 0x7441880000000000 ⟨3, 4, 5⟩ = .ok (.snodeExpandbm ⟨3, 4, 5⟩ ⟨1, 0, 6, 0x2, 0x0⟩) := by
  and_intros <;> rfl

theorem test_decode_node_3 :
    decodeNode 0x7841840000000000 ⟨3, 4, 5⟩ = .ok (.snodeCompact ⟨3, 4, 5⟩ ⟨1, 0, 6, 0x1, 0x0⟩) ∧
    decodeNode 0x8041800000000044 ⟨3, 4, 5⟩ = .ok (.snodePerm ⟨3, 4, 5⟩ ⟨1, 0, 6, 0x0, 0x44⟩) ∧
    decodeNode 0x84418400000001FF ⟨3, 4, 5⟩ = .ok (.snodeLut ⟨3, 4, 5⟩ ⟨1, 0, 6, 0x1, 0x1ff⟩) ∧
    decodeNode 0xA042040000000000 ⟨3, 4, 5⟩ = .ok (.snodeSum ⟨3, 4, 5⟩ ⟨1, 0, 8, 0x1, 0x0⟩) ∧
    decodeNode 0xA442300000000000 ⟨3, 4, 5⟩ = .ok (.snodeMinmax ⟨3, 4, 5⟩ ⟨1, 0, 8, 0xc, 0x0⟩) ∧
    decodeNode 0xA842040000000017 ⟨3, 4, 5⟩ = .ok (.snodeHist ⟨3, 4, 5⟩ ⟨1, 0, 8, 0x1, 0x17⟩) ∧
    decodeNode 0xAC42302000000009 ⟨3, 4, 5⟩ = .ok (.snodeCount ⟨3, 4, 5⟩ ⟨1, 0, 8, 0xc, 0x2000000009⟩) ∧
    decodeNode 0xC042000000000000 ⟨3, 4, 5⟩ = .ok (.snodeCrc32c ⟨3, 4, 5⟩ ⟨1, 0, 8, 0x0, 0x0⟩) ∧
    decodeNode 0xE041C00000000000 ⟨3, 4, 5⟩ = .ok (.snodeUndo ⟨3, 4, 5⟩ ⟨1, 0, 7, 0x0, 0x0⟩) := by
  and_intros <;> rfl

/-! ### Well-formedness: each check refuses an ill-formed term -/

theorem test_wf_add : (Instr.add 1 2 3).wf = true := rfl

/-- k.ecomph, k.dom and k.lnack have PUTK rows of their own (R287, R295, R372). -/
theorem test_wf_putk_row : (Instr.putk 1 0x010).wf = true ∧ (Instr.putk 1 0x052).wf = false ∧ (Instr.putk 1 0x030).wf = false ∧
    (Instr.putk 1 0x060).wf = false := by decide

/-- The mx bit chooses the row of QUANT and DEQUANT (R71). -/
theorem test_wf_mx_row : (Instr.nodeQuant ⟨0, 0, 0, 0⟩ ⟨4, 0, 0, 0x024, 0x1FF, 0x400001⟩).wf = false ∧
    (Instr.nodeQuantMx ⟨0, 0, 0, 0⟩ ⟨4, 0, 0, 0x024, 0x1FF, 1⟩).wf = false ∧
    (Instr.nodeQuantMx ⟨0, 0, 0, 0⟩ ⟨4, 0, 0, 0x024, 0x1FF, 0x400001⟩).wf = true := by decide

/-- R72: FADD accepts f32, f16 and bf16, no s32. -/
theorem test_wf_type : (Instr.nodeFadd ⟨0, 0, 0, 0⟩ ⟨0xC, 0, 0, 0x024, 0x1FF, 0⟩).wordErr = some .unassignedType := by decide

/-- R69: predicate use 0b11 is unassigned. -/
theorem test_wf_predicate : (Instr.nodeFadd ⟨0, 0, 0, 0⟩ ⟨1, 3, 0, 0x024, 0x1FF, 0⟩).wordErr = some .badPredicate := by decide

/-- R69: position 0b11 is no target, and two targets may not name one position. -/
theorem test_wf_target : (Instr.nodeFadd ⟨0, 0, 0, 0⟩ ⟨1, 0, 0, 0x027, 0x1FF, 0⟩).wordErr = some .badTarget ∧
    (Instr.nodeFadd ⟨0, 0, 0, 0⟩ ⟨1, 0, 0, 0x024, 0x024, 0⟩).wordErr = some .badTarget := by decide

/-- R71: rounding codes 0b110 and 0b111 are unassigned. -/
theorem test_wf_immediate : (Instr.nodeFadd ⟨0, 0, 0, 0⟩ ⟨1, 0, 0, 0x024, 0x1FF, 0x3000000⟩).wordErr = some .badImmediate := by decide

/-- R73 to R75 and R189: a format, a route and a parameter that the operator does not take. -/
theorem test_wf_node : (Instr.snodeScale ⟨0, 0, 0⟩ ⟨1, 0, 6, 4, 0⟩).wordErr = some .badFormat ∧
    (Instr.snodePass ⟨0, 0, 0⟩ ⟨1, 0, 8, 0, 0⟩).wordErr = some .badRoute ∧
    (Instr.snodePass ⟨0, 0, 0⟩ ⟨1, 0, 6, 0, 1⟩).wordErr = some .badParameter := by decide

/-! ### Words that are no instruction (R76) -/

theorem test_refuse_major : decodeWord 0xF3000000 = .error .unassignedMajor := rfl
theorem test_refuse_subop : decodeWord 0xE0000014 = .error .unassignedSubop := rfl
theorem test_refuse_reserved : decodeWord 0xE0000112 = .error .reservedBits := rfl
theorem test_refuse_compact : decodeCompact 0xD002 = .error .unassignedCompact := rfl
theorem test_refuse_block : decodeBlock 0x1100000000000000 ⟨0, 0, 0, 0⟩ = .error .unassignedOp := rfl

/-! ### The rows that share a word, chosen by the operand register (R332, R364, R401, R430) -/

theorem test_refine : refine 0 1 (.cancelBlock 1 2 3) = .cancelCommand 1 2 3 ∧ refine 0 2 (.cancelBlock 1 2 3) = .cancelHungRegion 1 2 3 ∧
    refine 0x1000 0 (.ctxswOut 1 2 3) = .ctxswIn 1 2 3 ∧ refine 0x2000 0 (.ctxswOut 1 2 3) = .ctxswKill 1 2 3 ∧
    refine 0x80000000 0 (.capmintInstall 1 2 3) = .capmintAdvance 1 2 3 ∧ refine 1 0 (.platerdHeader 1 2 3) = .platerdEntry 1 2 3 := by decide

namespace Sys2Proof.Tests

set_option Elab.async false

open Machine Claims

/-! ### States for the witnesses -/

/-- A booted part with one service context on station 0, whose thread is loaded and runs nothing. -/
def m0 : State :=
  { State.reset.withFetchWord 16 0xD000 with model := { run := none, agenda := [], arg := .none, freeCount := 0, nextId := 50, owned := false, slow := false, ahead := false } }
def c0 : Ctx := (m0.myCtx).getD (newCtx probeDecl probeReq 0 0 0 0 0 0 0 [0])
def withRegs (s : State) (l : List (Reg × Word)) : State := l.foldl (fun s p => s.setReg p.1 p.2) s
def withArg (s : State) (a : Arg) : State := { s with model := { s.model with arg := a } }
/-- The loaded thread's registers changed. -/
def withThr (s : State) (f : Thr → Thr) : State := { s with cpu := f s.cpu }
/-- The context changed. -/
def withCtx (s : State) (f : Ctx → Ctx) : State := { s with ctxs := s.ctxs.map f }
/-- The hart of copy engine 0 of die 0 is loaded. -/
def e0 : State := m0.load (.engine 0 0)

def readyB (f : Form) (s : State) : Bool :=
  f.gate.open_ s && (!f.service || s.service) && f.regs.all (fun r => decide (r.toNat < s.regCount)) &&
    f.pairs.all (fun r => decide (r.toNat % 2 = 0 ∧ r.toNat + 1 < s.regCount)) && (s.pendingSfu s.who).isEmpty && s.cpu.pend.isEmpty

theorem ready_of {f : Form} {s : State} (h : readyB f s = true) : Ready f s := by
  simp only [readyB, Bool.and_eq_true, Bool.or_eq_true, Bool.not_eq_true', List.all_eq_true, decide_eq_true_eq, List.isEmpty_iff] at h
  obtain ⟨⟨⟨⟨⟨h1, h2⟩, h3⟩, h4⟩, h5⟩, h6⟩ := h
  refine ⟨h1, fun e => h2.resolve_left (by simp [e]), h3, h4, ?_, ?_⟩
  · simp [h5]
  · simp [h6]

theorem c0_mine : m0.myCtx = some c0 := by decide +kernel

/-! ### Witnesses: concrete states that meet the hypotheses of the statements -/

theorem wit_ready3 : Ready (.plain [1, 2, 31]) m0 := ready_of (by decide +kernel)
theorem wit_ready_compact : Ready (.plain [creg 15, creg 1, creg 2]) m0 := ready_of (by decide +kernel)

theorem pair_eq {α β : Type} {p : α × β} {x : β} (h : p.2 = x) : p = (p.1, x) := h ▸ rfl



/-! #### Steps -/

/-- ADD g7, g21, g30 next in the buffer of the thread that holds the issue slot. -/
def addWord : State := withRegs (State.reset.withFetchWord 32 0xE01EBE00) [(21, 5), (30, 7)]

theorem wit_StepRunsDecoded : addWord.model.run = some addWord.who ∧ addWord.cpu.trapDue = none ∧ Sequencer (.add 7 21 30) ∧
    (Instr.add 7 21 30).wf = true ∧ addWord.cpu.buffered = parcelsOfBytes (encode (.add 7 21 30)) ++ [] := by
  refine ⟨by decide +kernel, by decide +kernel, trivial, by decide +kernel, by decide +kernel⟩

/-- The code under the two parcels is what they are. -/
theorem wit_StepRunsDecoded_code : (List.range 2).all (fun k => (addWord.cpu.buffered[k]?).any fun p =>
    ({ addWord with model := { addWord.model with run := none } } : State).codeNow (addWord.cpu.pc + w64 (2 * k)) == some p) = true := by
  decide +kernel

/-- The same thread past its last parcel: at the scratchpad. -/
def emptyBuf : State := withThr addWord fun t => { t with buf := [] }
def emptyBufT : State := (emptyBuf.checkAccess emptyBuf.cpu.pc 2 .x false).1

theorem wit_FetchBuffer : emptyBuf.who.isEngine = false ∧ emptyBuf.cpu.run = .running ∧ emptyBuf.cpu.wait = .none ∧
    emptyBuf.cpu.hasNext = false ∧ emptyBuf.cpu.trapDue = none ∧ emptyBuf.cpu.fetching = none ∧
    (emptyBuf.checkAccess (emptyBuf.cpu.pc + w64 (2 * emptyBuf.cpu.buffered.length)) 2 .x false).2 = .go 0x10000000000 ⟨1, 0, 2 ^ 30⟩ ∧
    emptyBufT.fetchFenced (emptyBufT.home 0x10000000000) = false ∧ emptyBufT.home 0x10000000000 = .spad 0 0x10000000000 ∧
    emptyBufT.poisoned 0x10000000000 2 = false := by decide +kernel

/-- The same with its page mapped to HBM, and with the read under way. -/
def hbmBuf : State := { emptyBuf with mem := memWrite emptyBuf.mem 0x2000 (bytesOf 8 0x1F) }
def hbmBufT : State := (hbmBuf.checkAccess hbmBuf.cpu.pc 2 .x false).1

theorem wit_FetchBuffer_hbm : hbmBuf.cpu.hasNext = false ∧ hbmBuf.cpu.fetching = none ∧
    (hbmBuf.checkAccess (hbmBuf.cpu.pc + w64 (2 * hbmBuf.cpu.buffered.length)) 2 .x false).2 = .go 0 ⟨1, 0, 2 ^ 30⟩ ∧
    hbmBufT.fetchFenced (hbmBufT.home 0) = false ∧ hbmBufT.home 0 = .hbm 0 ∧ hbmBuf.refill.cpu.fetching = some hbmBuf.model.nextId := by
  decide +kernel

theorem wit_AgendaSteps : m0.model.run = none ∧ m0.model.agenda = [] ∧ m0.halted = false ∧ m0.round ≠ [] ∧
    State.reset.model.run = none ∧ State.reset.model.agenda = [] ∧
    { State.reset with boot := { State.reset.boot with stage := 15 } }.halted = true := by decide +kernel

/-- The step of a placed ADD writes gd: 5 + 7 = 12 (R160). -/
theorem test_step_add : (match step addWord with | .next t => some (t.reg 7, t.cpu.pc) | _ => none) = some (12, 4) := by decide +kernel

/-! #### Integer, packed and floating-point instructions -/

theorem wit_IntegerResults : Ready (.plain [0, 2, 31]) m0 ∧ Ready (.plain [31, 1]) m0 :=
  ⟨ready_of (by decide +kernel), ready_of (by decide +kernel)⟩
theorem wit_ImmediateAndCompactResults : Ready (.plain [31, 0]) m0 ∧ Ready (.plain [31]) m0 ∧ Ready (.plain [creg 0, creg 15, creg 2]) m0 ∧
    Ready (.plain [creg 15, creg 1]) m0 ∧ Ready (.plain [creg 15]) m0 := by
  and_intros <;> first | decide +kernel | exact ready_of (by decide +kernel)
theorem wit_ImmediateAndConstantForms : Ready (.plain [31, 0]) m0 ∧ Ready (.plain [0]) m0 ∧ (0x1040#13).extractLsb' 6 7 ≠ 0 := by
  and_intros <;> first | decide +kernel | exact ready_of (by decide +kernel)
/-- A shift word with bit 12 of its amount field set, next in the buffer of the thread that holds the issue slot. -/
def badShift : BitVec 32 := 0b111#3 ++ 0b000011#6 ++ 7#5 ++ 21#5 ++ 0x1000#13
def shiftWord : State := State.reset.withFetchWord 32 badShift.toNat
theorem wit_UndecodedTraps : shiftWord.model.run = some shiftWord.who ∧ shiftWord.cpu.trapDue = none ∧ shiftWord.resultsOut = false ∧
    badShift.extractLsb' 29 3 = 7#3 ∧ (match decodeWord badShift with | .ok _ => false | .error _ => true) = true ∧
    shiftWord.cpu.buffered = [badShift.extractLsb' 16 16, badShift.extractLsb' 0 16] ∧
    ((List.range 2).all fun k => (shiftWord.cpu.buffered[k]?).any fun p =>
      ({ shiftWord with model := { shiftWord.model with run := none } } : State).codeNow (shiftWord.cpu.pc + w64 (2 * k)) == some p) = true := by
  decide +kernel
theorem wit_PackedResults : Ready (.plain [31, 0, 7]) m0 := ready_of (by decide +kernel)

/-- A request of the loaded thread that has not completed. -/
def pending (s : State) : SfuReq := ⟨s.who, 5, 12, 1, s.ctxIdOf s.who⟩

theorem wit_FloatResults : SfuRoom m0 ∧ Ready (.plain [31, 0, 7]) m0 ∧ Ready (.plain [31, 0]) m0 :=
  ⟨by and_intros <;> decide +kernel, ready_of (by decide +kernel), ready_of (by decide +kernel)⟩

/-- Three requests of the thread leave room for a fourth. -/
theorem wit_FloatResults_room : SfuRoom (m0.setSfu m0.who.unit (List.replicate 3 (pending m0))) := by and_intros <;> decide +kernel

def sfu0 : State := withArg (m0.setSfu m0.who.unit [pending m0]) (.unit m0.who.unit)
theorem wit_FloatResults_delivered : sfu0.model.arg = .unit sfu0.who.unit ∧ sfu0.sfuOf sfu0.who.unit = [pending m0] ∧
    (pending m0).who = sfu0.who ∧ sfu0.myCtx = some c0 ∧ (pending m0).ctx = c0.id ∧ sfu0.ctxOf c0.id = some c0 := by decide +kernel

/-- R160: MULHN and DIV at their corners. -/
theorem test_mulhn : (match execMulhn 1 2 3 (withRegs m0 [(2, 0xFFFFFFFFFFFFFFFF), (3, 2)]) with | .next t => some (t.reg 1) | _ => none)
    = some 1 := by decide +kernel
theorem test_div_negative : (match execDiv 1 2 3 (withRegs m0 [(2, 0xFFFFFFFFFFFFFFF9), (3, 2)]) with | .next t => some (t.reg 1) | _ => none)
    = some 0xFFFFFFFFFFFFFFFD := by decide +kernel
/-- A write to g0 is discarded (R154). -/
theorem test_g0 : (match execAddi 0 0 5 m0 with | .next t => some (t.reg 0) | _ => none) = some 0 := by decide +kernel
/-- R163: PADDS in bytes clamps 0x7F + 1 to 0x7F and leaves the next lane alone. -/
theorem test_padds : (match execPadds .b 1 2 3 (withRegs m0 [(2, 0x017F), (3, 0x0001)]) with | .next t => some (t.reg 1) | _ => none)
    = some 0x017F := by decide +kernel
/-- R169: 1.5 + 0.25 in binary32, delivered as 1.75. -/
theorem test_fadd : (match execFadd .f32 .rne 1 2 3 (withRegs m0 [(2, 0x3FC00000), (3, 0x3E800000)]) with
    | .next t => (t.sfuOf t.who.unit).map (·.value) | _ => []) = [0x3FE00000] := by decide +kernel

/-! #### Control flow and traps -/

theorem wit_BranchesAndJumps : Ready (.plain [0, 31]) m0 ∧ Ready (.plain [creg 15]) m0 ∧ Ready (.plain [31]) m0 ∧ Ready (.plain [1, 2]) m0 ∧
    ((withRegs m0 [(2, 0x100)]).reg 2 + 2 * (0x1FFF : BitVec 13).signExtend 64).getLsbD 0 = false ∧
    ((withRegs m0 [(2, 0x101)]).reg 2 + 2 * (0x1FFF : BitVec 13).signExtend 64).getLsbD 0 = true := by
  and_intros <;> first | decide +kernel | exact ready_of (by decide +kernel)

/-- A thread with a handler, outside it and in it. -/
def handled : State := withCtx m0 fun c => { c with tvec := 0x401 }
def inTrap : State := withThr handled fun t => { t with tcause := 0x128, tpc := 0x80 }

/-- A context at user level, with 16 registers. -/
def user : State := withCtx m0 fun c => { c with service := false, regs := 16 }

theorem wit_TrapsAndReturns : handled.resultsOut = false ∧ Ready (.plain [1]) handled ∧ handled.tvec.getLsbD 0 = true ∧
    handled.cpu.tcause.getLsbD 8 = false ∧ m0.resultsOut = false ∧ Ready (.plain [1]) m0 ∧ m0.tvec.getLsbD 0 = false := by
  and_intros <;> first | decide +kernel | exact ready_of (by decide +kernel)
theorem wit_TrapsAndReturns_checks : user.resultsOut = false ∧ ¬((16 : Reg).toNat < user.regCount) ∧ user.who.isEngine = false ∧
    e0.resultsOut = false ∧ e0.who.isEngine = true ∧ user.service = false := by decide +kernel
theorem wit_TrapsAndReturns_return : Ready (.plain []) inTrap ∧ inTrap.cpu.tcause.getLsbD 8 = true ∧ Ready (.plain []) m0 ∧
    m0.cpu.tcause.getLsbD 8 = false ∧ m0.sfuBusy = false ∧ inTrap.cpu.pend = [] ∧ m0.cpu.pend = [] :=
  ⟨ready_of (by decide +kernel), by decide +kernel, ready_of (by decide +kernel), by decide +kernel⟩

/-- A trap met while a result of the special-function unit, or a load, is outstanding; and one that is due. -/
def busySfu : State := handled.setSfu handled.who.unit [⟨handled.who, 5, 12, 1, handled.ctxIdOf handled.who⟩]
def busyLoad : State := withThr handled fun t => { t with pend := [⟨3, 0, [5], none, false, true⟩] }
def due0 : State :=
  { withThr handled fun t => { t with trapDue := some ⟨3, 0x28, 8, 9, 0⟩ } with model := { handled.model with run := some handled.who } }

theorem wit_TrapsAndReturns_wait : busySfu.resultsOut = true ∧ busySfu.cpu.trapDue = none ∧ Ready (.plain [1]) busySfu ∧
    busyLoad.resultsOut = true ∧ busyLoad.cpu.trapDue = none ∧ Ready (.plain [1]) busyLoad := by
  refine ⟨by decide +kernel, by decide +kernel, ⟨by decide +kernel, by decide +kernel, by decide +kernel, by decide +kernel, ?_, ?_⟩,
    by decide +kernel, by decide +kernel, ⟨by decide +kernel, by decide +kernel, by decide +kernel, by decide +kernel, ?_, ?_⟩⟩ <;>
    decide +kernel
theorem wit_TrapsAndReturns_due : due0.model.run = some due0.who ∧ due0.cpu.trapDue = some ⟨3, 0x28, 8, 9, 0⟩ ∧
    due0.resultsOut = false := by decide +kernel
theorem wit_TrapsAndReturns_access : Ready (.plain [1, 2, 3]) m0 ∧
    ((withRegs m0 [(2, 0x100000000000000)]).reg 2 + (0 : BitVec 10).signExtend 64 * 8).extractLsb' 56 8 ≠ 0 ∧
    ((withRegs m0 [(2, 0xFFFFFFFFFFFFFF)]).reg 2 + (0 : BitVec 10).signExtend 64 * 8).extractLsb' 56 8 = 0 ∧
    ((withRegs m0 [(2, 0xFFFFFFFFFFFFFF)]).reg 2 + (0 : BitVec 10).signExtend 64 * 8).toNat % 8 ≠ 0 ∧
    ((withRegs m0 [(2, 2)]).reg 2).toNat % 4 ≠ 0 :=
  ⟨ready_of (by decide +kernel), by and_intros <;> decide +kernel⟩

/-- R387: TRAP enters the handler with USER-TRAP, the next address and ga. -/
theorem test_trap : (match execTrap 2 (withRegs handled [(2, 77)]) with
    | .next t => some (t.cpu.pc, t.cpu.tpc, t.cpu.tcause, t.cpu.tval) | _ => none) = some (0x400, 4, 0x128, 77) := by decide +kernel
/-- R389: TRET goes back and leaves the handler. -/
theorem test_tret : (match execTret inTrap with | .next t => some (t.cpu.pc, t.cpu.tcause) | _ => none) = some (0x80, 0x028) := by decide +kernel
/-- R172: BLT is signed. -/
theorem test_blt : (match execBlt 1 2 8 (withRegs m0 [(1, 0xFFFFFFFFFFFFFFFF), (2, 0)]) with | .next t => some t.cpu.pc | _ => none)
    = some 16 := by decide +kernel

/-! #### Threads and scheduling -/

def bound : Counter := { (c0.counter 0) with enabled := true, pending := true, thread := 0, entry := 0x20, landing := 64 }
def bound0 : State := withCtx m0 fun c => { c with counters := bound :: c.counters.tail }

theorem wit_ThreadScheduling_halt : Ready (.plain []) m0 ∧ m0.resultsOut = false ∧ m0.closing = false ∧ m0.who = .thread 0 0 0 ∧
    m0.myCtx = some c0 ∧ (c0.counters.any fun x => x.enabled && x.pending) = false :=
  ⟨ready_of (by decide +kernel), by and_intros <;> decide +kernel⟩
theorem wit_ThreadScheduling_engine : Ready (.plain []) e0 ∧ e0.resultsOut = false ∧ e0.closing = false ∧ e0.who.isEngine = true :=
  ⟨ready_of (by decide +kernel), by and_intros <;> decide +kernel⟩
theorem wit_ThreadScheduling_bound : Ready (.plain []) bound0 ∧ bound0.who = .thread 0 0 0 ∧ bound0.myCtx.isSome = true ∧
    (bound0.myCtx.bind fun c => c.counters[0]?) = some bound ∧ bound.enabled = true ∧ bound.pending = true ∧ bound.thread = 0 := by
  and_intros <;> first | decide +kernel | exact ready_of (by decide +kernel)

def prio1 : State := withRegs (withCtx m0 fun c => { c with prio := 1 }) [(2, 0x100), (3, 0x200)]
theorem wit_ThreadScheduling_prio : Ready ⟨.sched, false, [31, 2], []⟩ prio1 ∧ prio1.inHandler = false ∧ prio1.myCtx.isSome = true ∧
    wbits (prio1.reg 2) 63 10 = 0 ∧ wbits (prio1.reg 2) 7 3 = 0 ∧
    (prio1.myCtx.map fun c => decide (wbits (prio1.reg 2) 2 0 < c.threads.length ∧ wbits (prio1.reg 2) 9 8 ≤ c.prio ∧
      c.prio < wbits (prio1.reg 3) 9 8)) = some true ∧ Ready ⟨.sched, false, [], []⟩ prio1 := by
  and_intros <;> first | decide +kernel | exact ready_of (by decide +kernel)

/-- The loaded thread is ready and owns the slots of hardware thread 0; in cycle 1 another thread's slot is free for it. -/
def slot0 : State := withArg { m0 with cycle := 0 } (.n1 0)
def slot1 : State := withArg { m0 with cycle := 1 } (.n1 0)
def hart0 : State := withArg (m0.modEngine 0 0 fun x => { x with loaded := true, thr := { x.thr with run := .running, buf := [0xD000] } }) (.actor (.engine 0 0))
theorem wit_ThreadScheduling_slots : slot0.model.arg = .n1 0 ∧ slot0.slotTaker 0 = some (.thread 0 0 0, true) ∧
    slot1.slotTaker 0 = some (.thread 0 0 0, false) ∧ slot0.readyAt 1 = [] ∧
    (slot0.readyAt 0).find? (fun p => p.2 == slot0.cycle.toNat % 8) = some (.thread 0 0 0, 0) ∧
    hart0.model.arg = .actor (.engine 0 0) ∧ hart0.ready (.engine 0 0) = true := by decide +kernel

/-! #### Blocks of a region -/

def blockOfWords (ws : List (BitVec 64)) : Block :=
  { header := 0, words := ws, spans := ws.map fun _ => none, armedQs := [], queueArmed := false, home := 0,
    disp := { Dispatch.zero with pending := 1 } }
/-- A region of 2 × 2 pages of the loaded context: block 0 by count, block 1 on queues, block 2 with a full count and block 3 without one. -/
def r0 : Region :=
  { newRegion probeDecl c0.id 0 5 0 (2, 2) none with
    matrix := true
    blocks := [blockOfWords [], { blockOfWords [] with queueArmed := true, armedQs := [3] },
      { blockOfWords [] with disp := { Dispatch.zero with pending := 65535 } }, { blockOfWords [] with disp := Dispatch.zero }] }
def queue16 : Queue :=
  { id := 9, ty := 0, size := 16, cap := 8, prio := 0, gang := some 0, homes := [⟨.ctx c0.id, [], [], [], []⟩], seqs := [], epoch := 0 }
def mr : State :=
  { withCtx m0 (fun c => { c with bindings := [(3, ⟨9, some 4, some (.ctx c.id), none⟩), (4, ⟨9, none, some (.ctx c.id), none⟩)], prio := 1,
                                  caps := [(7, 0x01100000000000000000000000000005)] }) with
    regions := [r0], queues := [queue16] }
def cr : Ctx := (mr.myCtx).getD c0

theorem cr_mine : mr.myCtx = some cr := by decide +kernel

/-- Names block `k` of the region, by its handle (R330). -/
theorem wit_SchedulingForms_names : ∀ k : Fin 4, NamesBlock mr (BitVec.ofNat 64 (5 + 2 ^ 16 * k.val)) cr r0 (r0.blocks[k]) := by
  have h : ∀ k : Fin 4, mr.inHandler = false ∧ wbits (BitVec.ofNat 64 (5 + 2 ^ 16 * k.val)) 63 23 = 0 ∧
      mr.regionOf (wbits (BitVec.ofNat 64 (5 + 2 ^ 16 * k.val)) 15 0) = some r0 ∧ r0.ctx = cr.id ∧
      r0.blocks[wbits (BitVec.ofNat 64 (5 + 2 ^ 16 * k.val)) 22 16]? = some r0.blocks[k] := by decide +kernel
  exact fun k => ⟨(h k).1, cr_mine, (h k).2.1, (h k).2.2.1, (h k).2.2.2.1, (h k).2.2.2.2⟩

theorem wit_SchedulingForms_ready : Ready ⟨.sched, false, [31, 1, 2], []⟩ mr ∧ Ready ⟨.sched, false, [0, 1], []⟩ mr :=
  ⟨ready_of (by decide +kernel), ready_of (by decide +kernel)⟩

/-- A count to add to, a full count, a queue block with its threshold at the capacity, and priorities up to the context's and past it. -/
theorem wit_SchedulingForms_arm : r0.stopped = false ∧ (r0.blocks[0]'(by decide)).disp.pending = 1 ∧
    (r0.blocks[2]'(by decide)).disp.pending = 65535 ∧ (r0.blocks[1]'(by decide)).armedQs = [3] ∧ 7 + 1 ≤ mr.capacityOf cr 3 ∧
    (1 : Word).toNat ≤ cr.prio ∧ cr.prio < (3 : Word).toNat ∧ (3 : Word).toNat < 4 := by decide +kernel

/-- The region with an invocation of block 3, which has no pending dispatch; and a hung region. -/
def started : State := { mr with regions := [{ r0 with invs := [Inv.start 1 (.block 3) cr r0 []] }] }
def hung : State := { mr with regions := [{ r0 with freeze := .hung }] }
theorem wit_SchedulingForms_cancel : (r0.blocks[3]'(by decide)).disp.pending = 0 ∧ (r0.invs.any fun x => x.work == .block 3) = false ∧
    ((started.regionOf 5).map fun r => r.invs.any fun x => x.work == .block 3) = some true ∧ Ready ⟨.sched, false, [0, 1, 2], []⟩ hung ∧
    hung.inHandler = false ∧ hung.myCtx = some cr ∧ ((hung.regionOf 5).map fun r => (r.ctx, r.freeze)) = some (cr.id, .hung) ∧
    mr.matrixCap cr 7 = some r0 ∧ mr.passesAllowance [mr.regionDie r0] = false ∧ wbits (0x1200000001 : Word) 31 0 = 1 :=
  ⟨by decide +kernel, by decide +kernel, by decide +kernel, ready_of (by decide +kernel), by and_intros <;> decide +kernel⟩

/-- R331: RARM counts one more dispatch. -/
theorem test_rarm : (match execRarm 3 1 0 (withRegs mr [(1, 5)]) with
    | .next t => some (t.reg 3, t.regions.map fun r => (r.blocks.map (·.disp.pending)).take 1) | _ => none) = some (0, [[2]]) := by decide +kernel

/-! #### Loads, stores and atomics -/

/-- The last byte, half, word, doubleword and pair of the partition are in its scratchpad. -/
def edge : State := withRegs m0 [(2, 0x3FFFF), (3, 0x3FFFE), (4, 0x3FFFC), (5, 0x3FFF8), (6, 0x3FFF0)]
def checked (s : State) (ea : Word) (n : Nat) (k : Need) (a : Bool) : State := (s.checkAccess ea n k a).1
def gib0 : Via := ⟨1, 0, 2 ^ 30⟩
theorem at_scratchpad {s : State} {ea : Word} {n l : Nat} {k : Need} {a : Bool}
    (h : ((s.checkAccess ea n k a).2 = .go l gib0 ∧ (checked s ea n k a).fenced ((checked s ea n k a).home l) (k != .r) = false) ∧
      (checked s ea n k a).home l = .spad 0 l ∧ (checked s ea n k a).goesSlow 96 = false) : AtScratchpad s (checked s ea n k a) ea n k a l :=
  ⟨l, 0, gib0, pair_eq h.1.1, h.1.2, h.2⟩

theorem wit_LoadsAndStores : AtScratchpad edge (checked edge (edge.reg 2) 1 .r false) (edge.reg 2) 1 .r false 0x1000003FFFF ∧
    AtScratchpad edge (checked edge (edge.reg 3) 2 .r false) (edge.reg 3) 2 .r false 0x1000003FFFE ∧
    AtScratchpad edge (checked edge (edge.reg 4) 4 .w false) (edge.reg 4) 4 .w false 0x1000003FFFC ∧
    AtScratchpad edge (checked edge (edge.reg 5) 8 .w false) (edge.reg 5) 8 .w false 0x1000003FFF8 ∧
    AtScratchpad edge (checked edge (edge.reg 6) 16 .w false) (edge.reg 6) 16 .w false 0x1000003FFF0 := by
  and_intros <;> first | decide +kernel | exact at_scratchpad (by decide +kernel)
theorem wit_LoadsAndStores_ready : Ready (ldForm 8 6 .q128) edge ∧ Ready (ldForm 7 2 .n8) edge ∧ Ready (stForm 8 6 .b128) edge ∧
    Ready (stForm 7 4 .b32) edge ∧ Ready (.plain [4, 7]) edge ∧ (checked edge (edge.reg 6) 16 .r false).poisoned 0x1000003FFF0 16 = false ∧
    (checked edge (edge.reg 4) 4 .w false).pendingOf (checked edge (edge.reg 4) 4 .w false).who = [] := by
  and_intros <;> first | decide +kernel | exact ready_of (by decide +kernel)
theorem wit_WriteFrame : Memory.wf m0.mem = true ∧ m0.ctxs.all (fun c => !c.isProt) = true ∧ m0.health.dead = [] ∧ m0.health.deadPch = [] := by
  decide +kernel

/-- A store of the thread to HBM that has not been performed. -/
def owed : State := { m0 with bus := { m0.bus with
  reqs := [⟨40, 0, 0, false, .actor m0.who, m0.ctxIdOf m0.who, 0, none, 0x1000, 0, none, .store 1 [1], .none⟩] } }
theorem wit_AtomicsAndFences_fence : Ready (.plain []) m0 ∧ m0.pendingOf m0.who = [] ∧ Ready (.plain []) owed ∧ (owed.pendingOf owed.who).isEmpty = false :=
  ⟨ready_of (by decide +kernel), by decide +kernel, ready_of (by decide +kernel), by decide +kernel⟩
theorem wit_AtomicsAndFences : Ready (.plain [0, 4, 7]) edge ∧ Ready ⟨.all, false, [6], [8, 10]⟩ edge ∧
    AtScratchpad edge (checked edge (edge.reg 4) 4 .rw true) (edge.reg 4) 4 .rw true 0x1000003FFFC ∧
    AtScratchpad edge (checked edge (edge.reg 5) 8 .rw true) (edge.reg 5) 8 .rw true 0x1000003FFF8 ∧
    AtScratchpad edge (checked edge (edge.reg 6) 16 .rw true) (edge.reg 6) 16 .rw true 0x1000003FFF0 ∧
    (checked edge (edge.reg 6) 16 .rw true).poisoned 0x1000003FFF0 16 = false := by
  and_intros <;> first | decide +kernel | exact ready_of (by decide +kernel) | exact at_scratchpad (by decide +kernel)

/-- R235: LD of n8 and s8 at the last byte. -/
theorem test_ld : (match execLd 7 2 .s8 0 { edge with mem := memWrite edge.mem 0x1000003FFFF [0x80] } with | .next t => some (t.reg 7) | _ => none)
    = some 0xFFFFFFFFFFFFFF80 := by decide +kernel
/-- R235: ST writes little-endian. -/
theorem test_st : (match execSt 7 4 .b32 0 (withRegs edge [(7, 0x11223344)]) with | .next t => memBytes t.mem 0x1000003FFFC 4 | _ => [])
    = [0x44, 0x33, 0x22, 0x11] := by decide +kernel
/-- R240: AMIN compares signed. -/
theorem test_amin : (match execAmin .s32 false 7 4 8 (withRegs { edge with mem := memWrite edge.mem 0x1000003FFFC [1] } [(8, 0xFFFFFFFF)]) with
    | .next t => some (t.reg 7, memBytes t.mem 0x1000003FFFC 4) | _ => none) = some (1, [0xFF, 0xFF, 0xFF, 0xFF]) := by decide +kernel

/-! #### Accesses on their way -/

/-- The context's address space with a page of HBM at its second GiB. -/
def hbm0 : State := withRegs { m0 with mem := memWrite m0.mem 0x2008 (bytesOf 8 (0x40000000 + 0x1F)) } [(2, 0x40001000)]
theorem wit_RemoteAccessEvents_load : Ready (ldForm 7 2 .d64) hbm0 ∧
    (hbm0.checkAccess (hbm0.reg 2) 8 .r false).2 = .go 0x40001000 ⟨1, 0x40000000, 2 ^ 30⟩ ∧
    (checked hbm0 (hbm0.reg 2) 8 .r false).fenced ((checked hbm0 (hbm0.reg 2) 8 .r false).home 0x40001000) false = false ∧
    (checked hbm0 (hbm0.reg 2) 8 .r false).home 0x40001000 = .hbm 0x40001000 :=
  ⟨ready_of (by decide +kernel), by and_intros <;> decide +kernel⟩

def loadReq : MemReq :=
  ⟨41, hbmCtl 0x40001000, 0, false, .actor m0.who, m0.ctxIdOf m0.who, 0, none, 0x40001000, 0, none, .load 8, .load 7 .d64⟩
def queued : State := withArg { m0 with bus := { m0.bus with reqs := [loadReq] } } (.n1 (hbmCtl 0x40001000))
def refusedReq : State := withArg { m0 with bus := { m0.bus with reqs := [{ loadReq with refused := true }] } } (.n1 41)
theorem wit_RemoteAccessEvents_select : (queued.nextRequest (hbmCtl 0x40001000)).2 = some (.req loadReq) ∧
    (queued.nextRequest (hbmCtl 0x40001000)).1.pchHeld loadReq.pa = false ∧
    (refusedReq.bus.reqs.find? fun r => r.id == 41 && r.refused) = some { loadReq with refused := true } ∧ refusedReq.pchHeld loadReq.pa = false := by
  decide +kernel

/-- Every order kind holds back a later store behind the pending store of 30, and LDAQ behind a pending load of its own. -/
def ordered : State := withThr owed fun t => { t with fences := [⟨.release, .sta, 41⟩, ⟨.full, .pkg, 41⟩] }
def acquired : State := withThr { m0 with bus := { m0.bus with reqs := [loadReq] } } fun t =>
  { t with fences := [⟨.acquire, .pkg, 42⟩, ⟨.ldaq 41, .pkg, 42⟩] }
/-- A later request is not held by a fence before it (R212): what holds is strictly older. -/
theorem test_fence_later : (withThr owed fun t => { t with fences := [⟨.full, .pkg, 40⟩] }).fenced (.hbm 64) true = false ∧
    ordered.fenced (.hbm 64) true = true ∧ ordered.fenced (.spad 0 0) false = true ∧ acquired.fenced (.hbm 64) false = true := by decide +kernel

/-- The thread owes the answer to a load and to an atomic. -/
def answered (ans : Answer) : State :=
  withArg (withThr { m0 with bus := { m0.bus with
    answers := [⟨41, .actor m0.who, 0, 0, ans, m0.ctxIdOf m0.who, 5, stOK, 0, false⟩] } } fun t =>
    { t with pend := [⟨41, 0, [7], none, !ans.isLoad, true⟩] }) (.actor m0.who)
theorem wit_RemoteAccessEvents_answer :
    [Answer.load 7 .d64, .atomic 7 false].all (fun a =>
      ((answered a).bus.answers.find? fun y => y.who.isOf m0.who && (y.ans.isLoad == a.isLoad)).any fun x =>
        x.who == .actor m0.who && x.status == stOK && !x.poisoned && ((answered a).cpu.pend.find? fun q => q.id == x.id).isSome &&
        (answered a).model.arg == .actor (answered a).who) = true := by
  decide +kernel

def outReq (ans : Answer) : OutReq :=
  ⟨42, 0, .actor m0.who, m0.ctxIdOf m0.who, none, 0, 0x1000, 0, none, if ans = .none then .store 8 [] else .load 8, ans⟩
def outState (ans : Answer) (sent : List OutReq) : State :=
  withThr (withArg { m0 with bus := { m0.bus with outs := [outReq ans], sent := sent } } (.n4 0 0 0 0)) fun t =>
    { t with pend := [⟨42, 8, [7], none, false, true⟩] }
theorem wit_RemoteAccessEvents_outbound : (outState .none []).nextOut (.actor (.thread 0 0 0)) 0 = some (outReq .none) ∧
    (outState (.load 7 .d64) []).nextOut (.actor (.thread 0 0 0)) 0 = some (outReq (.load 7 .d64)) ∧
    ((outState (.load 7 .d64) [outReq (.load 7 .d64)]).bus.outs.find? fun r => r.id == 42 && r.pkg == none && r.ans != .none &&
      (outState (.load 7 .d64) [outReq (.load 7 .d64)]).hasLeft r) = some (outReq (.load 7 .d64)) ∧
    ((outState (.load 7 .d64) []).cpu.pend.find? fun q => q.id == 42) = some ⟨42, 8, [7], none, false, true⟩ ∧
    (outState (.load 7 .d64) []).cpu.trapDue = none := by decide +kernel

/-! #### Messages, counters, mailboxes and queues -/

theorem wit_in_ctx : InCtx m0 c0 := ⟨by decide +kernel, c0_mine⟩

/-- A header for counter 63, with 8 words of payload, to the own station's context; and one to a station without any. -/
def sender : State := withRegs m0 [(2, 0x8_00013F00), (3, 0x8_0000005F)]
theorem wit_Messages_send : Ready (.plain [7, 2]) sender ∧ Ready (.plain [7, 3]) sender ∧ sender.inHandler = false ∧ sender.myCtx = some c0 ∧
    sendReserved (sender.reg 2) = false ∧ wbits (sender.reg 2) 6 0 ≤ 95 ∧ wbits (sender.reg 2) 35 32 = 8 ∧
    (sender.gangCtxs c0.gang 0)[0]? = some c0 ∧ (sender.gangCtxs c0.gang 95)[0]? = none ∧ wbits (sender.reg 3) 6 0 = 95 ∧
    lookupD sender.cpu.outstanding 0 0 < 16 ∧ sender.mustRelease .pkg (stationHome 5) = false ∧ AtStation sender c0 :=
  by
    refine ⟨ready_of (by decide +kernel), ready_of (by decide +kernel), ?_⟩
    and_intros <;> decide +kernel
theorem wit_Messages_busy : 16 ≤ lookupD (withThr sender fun t => { t with outstanding := [(0, 16)] }).cpu.outstanding 0 0 := by decide +kernel

def msg0 : Msg := ⟨44, (c0.id, 0), 0, 0, c0.id, 63, 1, [1, 2, 3, 4, 5, 6, 7, 8], 0⟩
def arriving : State := withArg { m0 with bus := { m0.bus with msgs := [msg0] } } (.n1 0)
def mailed : State := withArg { m0 with bus := { m0.bus with mails := [(c0.id, 5)] } } (.n1 c0.id)
/-- An entry spilled while the context was out. -/
def spilt : State := withArg (withCtx m0 fun c => { c with spill := [.entry 5] }) (.n1 c0.id)
theorem wit_Messages_arrive : arriving.bus.msgs[0]? = some msg0 ∧ arriving.firstOfPair msg0 = true ∧ arriving.ctxOf msg0.dest = some c0 ∧
    c0.resident = true ∧ c0.spill = [] ∧ (arriving.arrive msg0).isSome = true ∧ (mailed.bus.mails.find? fun m => m.1 == c0.id) = some (c0.id, 5) ∧
    mailed.ctxOf c0.id = some c0 ∧ c0.mailbox.length < 256 ∧
    (spilt.bus.mails.find? fun m => m.1 == c0.id) = none ∧ (spilt.ctxOf c0.id).map (fun c => (c.resident, c.spill)) = some (true, [.entry 5]) := by decide +kernel

/-- The highest counter; a layout that reaches the end of the partition: base 0x3FFF0, one slot of 16 bytes; and a CBIND at thread 0. -/
def counters : State := withRegs m0 [(2, 63), (4, 0), (5, 0x83F), (6, 0)]
def counters' : State := withRegs counters [(3, w64 (1 + 0x3FFF0 * 2 ^ 16 + 1 * 2 ^ 39))]
theorem wit_Waiting_counters : AtStation counters' c0 ∧ Ready (.plain [7, 2, 3]) counters' ∧ Ready (.plain [7, 5, 6]) counters' ∧
    (counters'.reg 2).toNat % 256 < 64 ∧ (counters'.reg 2).toNat < 64 ∧ (counters'.reg 3).toNat < 2 ^ 53 ∧
    wbits (counters'.reg 3) 38 16 % 16 = 0 ∧ wbits (counters'.reg 3) 41 39 ≤ 4 ∧
    wbits (counters'.reg 3) 38 16 + 16 * wbits (counters'.reg 3) 41 39 * (wbits (counters'.reg 3) 51 42 + 1) = c0.partSize ∧
    (counters'.reg 5).toNat % 256 < 64 ∧ wbits (counters'.reg 5) 63 11 = 1 ∧ wbits (counters'.reg 5) 10 8 < c0.threads.length ∧
    (counters'.reg 6).getLsbD 0 = false ∧ (c0.counter 63).count = 0 ∧ counters'.cpu.wait = .none :=
  ⟨⟨by and_intros <;> decide +kernel, by decide +kernel⟩, ready_of (by decide +kernel), ready_of (by decide +kernel),
    by decide +kernel⟩
/-- What CBIND refuses: a thread index at the count of threads, an odd entry, an entry at the size of the code, and an unbinding that still names
a thread or an entry. -/
def badBinds : State := withRegs counters [(1, 0x93F), (2, 1), (3, w64 (c0.code.getD 0 (0, 0)).2), (4, 0x13F), (8, 63)]
theorem wit_Waiting_bad_binds : AtStation badBinds c0 ∧ Ready (.plain [7, 1, 6]) badBinds ∧ Ready (.plain [7, 5, 2]) badBinds ∧
    Ready (.plain [7, 4, 6]) badBinds ∧ (wbits (badBinds.reg 1) 63 11 = 1 ∧ c0.threads.length = wbits (badBinds.reg 1) 10 8) ∧
    (wbits (badBinds.reg 5) 63 11 = 1 ∧ (badBinds.reg 2).getLsbD 0 = true) ∧
    (c0.code.getD (wbits (badBinds.reg 5) 10 8) (0, 0)).2 = (badBinds.reg 3).toNat ∧
    (wbits (badBinds.reg 4) 63 11 = 0 ∧ wbits (badBinds.reg 4) 10 8 ≠ 0) ∧ (wbits (badBinds.reg 8) 63 11 = 0 ∧ badBinds.reg 2 ≠ 0) ∧
    (badBinds.reg 1).toNat % 256 < 64 ∧ (badBinds.reg 4).toNat % 256 < 64 ∧ (badBinds.reg 8).toNat % 256 < 64 := by
  and_intros <;> first | decide +kernel | exact ready_of (by decide +kernel)

/-- A code section that an entry can lie in, and a counter above zero. -/
def coded : State := withCtx m0 fun c => { c with code := [(0, 0x100)], counters := c.counters.modify 0 fun x => { x with count := 2 } }
theorem wit_Waiting_code : (coded.myCtx.map fun c => decide (0xFE < (c.code.getD 0 (0, 0)).2 ∧ (c.counter 0).count ≠ 0)) = some true := by decide +kernel

def boxed : State := withCtx m0 fun c => { c with mailbox := [17, 18] }
theorem wit_Waiting_mailbox : Ready ⟨.all, false, [7], [30]⟩ boxed ∧ Ready (.plain [7, 2]) boxed ∧ boxed.inHandler = false ∧
    (boxed.myCtx.map (·.mailbox)) = some [17, 18] ∧ Ready ⟨.all, false, [7], [30]⟩ m0 ∧ c0.mailbox = [] ∧ m0.cpu.wait = .none := by
  and_intros <;> first | decide +kernel | exact ready_of (by decide +kernel)
def waited (w : Wait) : State := withArg (withThr { m0 with cycle := 100 } fun t => { t with wait := w }) (.actor m0.who)
theorem wit_Waiting_timeout : (waited (.counter 7 63 90 10)).model.arg = .actor (waited (.counter 7 63 90 10)).who ∧
    (waited (.counter 7 63 90 10)).myCtx = some c0 ∧ 90 + 10 ≤ (waited (.counter 7 63 90 10)).cycle.toNat ∧
    (waited (.mailbox 7 90 10)).cpu.wait = .mailbox 7 90 10 ∧ (c0.counter 63).count = 0 ∧
    ((withCtx (waited (.mailbox 7 90 10)) fun c => { c with mailbox := [1] }).myCtx.map (·.mailbox)) = some [1] ∧
    ((withCtx (waited (.counter 7 63 90 10)) fun c => { c with counters := c.counters.map fun x => { x with count := 3 } }).myCtx.map
      fun c => (c.counter 63).count) = some 3 := by decide +kernel

/-- R285: MBPOP takes the oldest entry. -/
theorem test_mbpop : (match execMbpop 7 30 boxed with | .next t => some (t.reg 7, t.pair 30, (t.myCtx.map (·.mailbox))) | _ => none)
    = some (0x10000, 17, some [18]) := by decide +kernel
/-- R278 and R280: a message decrements its counter and lands; 5 − 1 = 4. -/
theorem test_arrive : (arriveCounter { (c0.counter 0) with count := 5, stride := 1, slots := 2, base := 0x100, next := 1 } 1 8).2.1 = some 0x110 ∧
    (arriveCounter { (c0.counter 0) with count := 5 } 1 0).1.count = 4 := by decide +kernel

/-- A push handle and a pop handle of one queue. -/
def item0 : QItem := ⟨0x40, c0.id, 3, List.replicate 16 7, false, none⟩
def qs (es : List QEntry) (used : List (Nat × Nat)) : State :=
  withRegs { mr with queues := [{ queue16 with homes := [⟨.ctx c0.id, es, used, [], []⟩] }] } [(2, 3), (3, 4)]
theorem wit_QueueForms_push : Ready (.plain [7, 2, 30]) (qs [] []) ∧ (qs [] []).inHandler = false ∧
    (qs [] []).bindOf ((qs [] []).reg 2) = some ⟨9, some 4, some (.ctx c0.id)⟩ ∧ (qs [] []).myCtx = some cr ∧
    ((qs [] []).queueOf 9).map (fun q => (q.id, q.size, (qs [] []).pairWait q 30, (q.homes.filter fun h => (qs [] []).homeAlive h.at_).length,
      (qs [] []).windowFree q cr.id 4, (qs [] []).holdsPush cr q)) = some (9, 16, false, 1, true, false) ∧
    ((qs [] [(c0.id, 4)]).queueOf 9).map (fun q => (qs [] [(c0.id, 4)]).windowFree q cr.id 4) = some false ∧
    (qs [] []).pendingIn .pkg = false ∧
    ((qs [] []).queueOf 9).map (fun q => (qs [] []).queueFenced q ((qs [] []).liveHomes q)) = some false :=
  ⟨ready_of (by decide +kernel), by and_intros <;> decide +kernel⟩
theorem wit_QueueForms_pop : (qs [] []).bindOf ((qs [] []).reg 3) = some ⟨9, none, some (.ctx c0.id)⟩ ∧ cr.isProt = false ∧
    (qs [] []).who.isEngine = false ∧ headOf [] = none ∧ headOf [.marker 2, .item item0] = some (.marker 2) ∧
    headOf [.item { item0 with reserved := some (5, 1) }, .item item0] = some (.item item0) ∧ item0.poison = false ∧
    ((qs [] []).queueOf 9).map (fun q => (q.home (.ctx c0.id)).isSome && !(qs [] []).queueFenced q [.ctx c0.id]) = some true := by decide +kernel
theorem wit_QueueForms_tables : Ready (.plain [7, 3]) (qs [] []) ∧ Ready ⟨.all, true, [7, 3], []⟩ (qs [] []) ∧
    (qs [] []).freeHandle cr = some 0 ∧ ((qs [] []).ctxBySlot 0 0) = some cr ∧
    (qdescOf fun i => if i = 0 then w64 (7 * 2 ^ 16) else 0).map (·.consumers) = some [(0, 0)] ∧
    (qdescOf fun i => if i = 0 then w64 (7 * 2 ^ 16) else 0).map (·.cap) = some 8 :=
  ⟨ready_of (by decide +kernel), ready_of (by decide +kernel), by and_intros <;> decide +kernel⟩
/-- A capability for consuming from the queue through handle 3 of the context, and its gang. -/
def capped : State := { withCtx (qs [] []) (fun c => { c with caps := [(7, 0x02800000000000000000000000000003)] }) with
  gangs := [{ id := 0, name := [], version := 0, asid := 1, service := true, qstate := 0, qnumber := 0, graphs := [], queues := 2, epoch := 0 }] }
theorem wit_QueueForms_bind : (capped.myCtx.bind fun c => capped.useCap c 7) = some (0x02800000000000000000000000000003, .queue 9 (.ctx c0.id)) ∧
    capS 0x02800000000000000000000000000003 = false ∧ (capped.myCtx.bind fun c => capped.freeHandle c) = some 2 ∧
    (capped.gangOf 0).map (·.qstate) = some 0 ∧
    (capped.queueOf 9).map (fun y => decide (capped.windowSum 9 + (capParam 0x02800000000000000000000000000003 % 2 ^ 12 + 1) ≤ y.cap)) =
      some true ∧
    ((withCtx capped fun c => { c with caps := [(8, 0x03200000000000000000000000000000), (9, 0x03000000000000000000000000000000)] }).myCtx.map
      fun c => [capped.useCap c 8, capped.useCap c 9].map fun p => p.map fun x => (capX x.1, x.2)) =
      some [some (true, .gang 0), some (false, .gang 0)] := by decide +kernel

/-- R265: QPOP of a marker answers EMPTY with bit 8. -/
theorem test_qpop_marker : (match execQpop 7 3 30 (qs [.marker 2] []) with | .next t => some (t.reg 7) | _ => none) = some 0x102 := by decide +kernel

/-! #### Tags, tiles and address generators -/

/-- A tag in the last entry of the partition's table, and one tile in each state. -/
def tabled : State :=
  { withCtx m0 (fun c => { c with
      tags := [(127, ⟨true, false, 15, 3⟩)]
      tiles := [(0, ⟨.empty, 0, 1, false, [4], 0, 0⟩), (1, ⟨.ready, 0, 1, false, [4], 0, 0⟩), (15, ⟨.filling, 0, 1, false, [4], 0, 0⟩)] }) with
    regions := [r0] }
def ct : Ctx := (tabled.myCtx).getD c0
theorem wit_LocalTables_tags : InCtx tabled ct ∧ Ready (.plain [7, 2, 3]) tabled ∧ ct.findTag 15 = some 127 ∧ ct.findTag 14 = none ∧
    wbits (w64 127) 11 0 < 128 * ct.partUnits ∧ wbits (w64 (127 * 2 ^ 32 + 63)) 43 32 / 8 = 15 % ct.tagSets ∧
    wbits (w64 (127 * 2 ^ 32 + 63)) 10 0 < 64 * ct.partUnits ∧ wbits (w64 (15 * 2 ^ 12)) 11 0 = 0 :=
  ⟨by and_intros <;> decide +kernel, ready_of (by decide +kernel), by and_intros <;> decide +kernel⟩
theorem wit_LocalTables_tiles : (ct.tileAt 0).map (fun t => (t.state, t.pins)) = some (.empty, 0) ∧
    (ct.tileAt 1).map (fun t => (t.state, t.pins)) = some (.ready, 0) ∧ (ct.tileAt 15).map (·.state) = some .filling ∧
    (tileOfDesc (w64 (0x3FFC0 + 1 * 2 ^ 32 + 1 * 2 ^ 37)) 16 0 0).map (fun t => (t.base + t.bytes, t.scale + t.scaleBytes)) = some (0x40000, 0) ∧
    ct.partSize = 0x40000 ∧ tabled.mustRelease .pkg (stationHome ct.station) = false := by decide +kernel
theorem wit_LocalTables_generators : tabled.regionOf 5 = some r0 ∧ r0.ctx = ct.id ∧
    (agOfDesc fun i => if i = 1 then w64 (1 + 2 ^ 8 + 4 * 2 ^ 32) else if i = 4 then 1 else 0).map (·.rank) = some 1 ∧
    wbits (w64 (5 + 7 * 2 ^ 16)) 18 16 = 7 ∧ (w64 (5 + 7 * 2 ^ 16)).toNat < 2 ^ 19 := by decide +kernel
/-- R252: TLOOK of a present granule is a hit. -/
theorem test_tlook : (match execTlook 7 2 (withRegs tabled [(2, 0xF000)]) with | .next t => some ((t.reg 7).getLsbD 63) | _ => none)
    = some true := by decide +kernel

/-! #### Control registers and harts -/

theorem wit_ControlRegisters : Ready (.plain [31]) m0 ∧ m0.resultsOut = false ∧ m0.part ≠ 2 ∧ m0.who = .thread 0 0 0 ∧ m0.myCtx = some c0 ∧
    m0.getK 0x006 = none ∧ (31 : Word).toNat < 32 ∧ (0x400 : Word).toNat < 2 ^ 56 ∧ (m0.putDom c0 c0.dom).isSome = true :=
  ⟨ready_of (by decide +kernel), by and_intros <;> decide +kernel⟩

/-- The hart works for an item of the context and reaches its partition's first line. -/
def working : State := { m0 with engines := m0.engines.map fun x => { x with producer := some c0.id, asid := some (1, true) } }
def he : State := withRegs (working.load (.engine 0 0)) [(2, 0)]
theorem wit_ControlRegisters_hart : he.who = .engine 0 0 ∧ Ready ⟨.engine, false, [2], []⟩ he ∧ Ready (.plain [2]) he ∧ (3 : Reg).toNat < 4 ∧
    (he.checkAccess (he.reg 2) 256 .r false).2 = .go 0x10000000000 gib0 ∧
    (checked he (he.reg 2) 256 .r false).fenced ((checked he (he.reg 2) 256 .r false).home 0x10000000000) false = false ∧
    (∀ q : Fin 4, (checked he (he.reg 2) 256 .r false).home (0x10000000000 + 64 * q.val) = .spad 0 (0x10000000000 + 64 * q.val)) ∧
    (he.checkAccess (he.reg 2) 256 .w false).2 = .go 0x10000000000 gib0 ∧
    (checked he (he.reg 2) 256 .w false).fenced ((checked he (he.reg 2) 256 .w false).home 0x10000000000) true = false ∧
    he.pendingOf he.who = [] ∧ he.cpu.linePending 3 = false ∧ (checked he (he.reg 2) 256 .r false).cpu.hart.got = [] ∧
    he.health.dead = [] ∧ he.health.deadPch = [] ∧ (he.bus.mails.any fun m => m.1 == c0.id) = false ∧ c0.spill = [] ∧
    c0.mailbox.length < 256 ∧ (checked he (he.reg 2) 256 .w false).who = he.who ∧ he.ctxs.all (fun c => !c.isProt) = true ∧ ((he.engineAt 0 0).map (·.producer)) = some (some c0.id) ∧ (he.ctxOf c0.id).isSome = true :=
  ⟨by decide +kernel, ready_of (by decide +kernel), ready_of (by decide +kernel), by decide, by decide +kernel⟩

/-! #### Matrix commands and streams -/

theorem wit_MatrixCommands : InCtx mr cr ∧ mr.matrixCap cr 7 = some r0 ∧ mr.passesAllowance [mr.regionDie r0] = false ∧
    mr.mustRelease .pkg (stationHome cr.station) = false ∧ [7].map (mr.matrixCap cr) = [r0].map some ∧ Ready ⟨.matrix, false, [7, 2, 3], []⟩ mr ∧ Ready ⟨.matrix, false, [7, 2], []⟩ mr ∧
    badDesc 0 (fun i => if i = 1 then w64 (2 * 2 ^ 24) else 0) = false ∧ badDesc 1 (fun i => if i = 1 then w64 (2 * 2 ^ 24) else 0) = false ∧
    badDesc 2 (fun i => if i = 1 then w64 (1 * 2 ^ 24) else 0) = false :=
  ⟨⟨by decide +kernel, cr_mine⟩, by decide +kernel, by decide +kernel, by decide +kernel, by decide +kernel, ready_of (by decide +kernel),
    ready_of (by decide +kernel), by decide +kernel⟩
/-- Five regions, through one capability named five times. -/
theorem wit_MatrixCommands_five : ([7, 7, 7, 7, 7].map (mr.matrixCap cr)) = [r0, r0, r0, r0, r0].map some ∧
    mr.passesAllowance ([r0, r0, r0, r0, r0].map mr.regionDie) = false ∧ wbits (w64 (7 + 4 * 2 ^ 16)) 18 16 = 4 := by decide +kernel
def cmd0 : CmdMsg := ⟨45, (c0.id, 0), 0, 5, c0.id, 0, .command 2 (Vector.replicate 8 0), false⟩
def cmdState (refused : Bool) (n : Nat) : State :=
  withArg { mr with
    bus := { mr.bus with cmds := [{ cmd0 with refused := refused }] }
    regions := [{ r0 with cmds := List.replicate n (.stat (c0.id, 0) 0) }] } (.n1 45)
theorem wit_MatrixCommands_arrive : ((cmdState false 63).bus.cmds.find? fun m => m.id == 45 && !m.refused) = some cmd0 ∧
    (cmdState false 63).firstCmd cmd0 = true ∧ ((cmdState false 63).cmdRegion cmd0).isSome = true ∧ ((cmdState false 63).regionOf 5).map (·.queueFill) = some 63 ∧
    ((cmdState true 64).bus.cmds.find? fun m => m.id == 45 && m.refused) = some { cmd0 with refused := true } ∧
    ((cmdState true 64).regionOf 5).map (·.queueFill) = some 64 := by decide +kernel

/-! #### Streams of a controller -/

/-- A graph word: operator, then the fields. -/
def snode (op : Nat) (w : NodeWord) : BitVec 64 := BitVec.ofNat 6 op ++ w.inA ++ w.inB ++ w.out ++ w.fmt ++ w.params
/-- Takes the head, sends to the east, width of 8 bits; takes from the west, sends to the tail. -/
def wHead : NodeWord := ⟨1#4, 0#4, 3#4, 13#4, 0⟩
def wTail : NodeWord := ⟨5#4, 0#4, 6#4, 13#4, 0⟩
def gang0 : Gang := { id := 0, name := [], version := 0, asid := 1, service := true, qstate := 0, qnumber := 0, graphs := [(0, 0)], queues := 2, epoch := 0 }
/-- A gang with a graph of two nodes, the second of operator `op`; a descriptor for tile 0 and one granule. -/
def gs (op : Nat) (w : NodeWord) : State :=
  withRegs (withThr { tabled with gangs := [gang0], graphs := [⟨0, 0, 0, [snode 0 wHead, snode op w]⟩] } fun t =>
    { t with m := (((t.m.set 0 0x77).set 2 1).set 3 0).set 5 0 }) [(2, 0)]
def openD : OpenDesc := ⟨0x77, 0, false, false, .tile 0 0, 0, 1, 0, 0, 0, 0⟩
def graphOf (op : Nat) (w : NodeWord) : Graph := ⟨0, 0, 0, [snode 0 wHead, snode op w]⟩
theorem wit_StreamControl_open : InCtx (gs 0 wTail) ct ∧ Ready ⟨.hbm, false, [7], []⟩ (gs 0 wTail) ∧ openDescOf (gs 0 wTail).cpu.m = some openD ∧
    ((gs 0 wTail).gangOf ct.gang).map (·.graphs) = some [(0, 0)] ∧
    ((gs 0 wTail).graphs.find? fun g => g.ctl == 0 && g.slot == 0) = some (graphOf 0 wTail) ∧
    ((graphOf 0 wTail).words.any fun v => snodeOp v == 0x38) = false ∧ (gs 0 wTail).requesterOk ct openD = true ∧
    (gs 0 wTail).freeRow 0 (graphRows 2) = some 0 ∧ (gs 0 wTail).freeStr 0 = some 0 ∧
    ((gs 0 wTail).streams.any fun x => x.ctl == 0 && x.graphSlot == 0) = false ∧ (gs 0 wTail).slotBound openD = false ∧
    (gs 0 wTail).mustRelease .pkg (stationHome ct.station) = false :=
  ⟨by and_intros <;> decide +kernel, ready_of (by decide +kernel), by and_intros <;> decide +kernel⟩
/-- The stream open, with its second node as `f` makes it. -/
def streamed (op : Nat) (w : NodeWord) (f : SNode → SNode) : State :=
  let s := (gs op w).openAt ct openD (graphOf op w) 0 0
  { s with streams := s.streams.map fun x => { x with nodes := x.nodes.modify 1 f } }
def stream0 (s : State) : Option Stream := s.openStream 0 0
def st0 : State := streamed 0 wTail id
theorem wit_StreamControl_forms : Ready ⟨.hbm, false, [7, 2], []⟩ st0 ∧ (st0.reg 2).toNat = 0 ∧
    (stream0 st0).map (fun x => (x.ctx, x.ctl, x.str)) = some (ct.id, 0, 0) ∧ InCtx st0 ((st0.myCtx).getD c0) :=
  ⟨ready_of (by decide +kernel), by and_intros <;> decide +kernel⟩
def over_ : State := { st0 with streams := st0.streams.map fun x => { x with aborted := true } }
/-- A read stream of a region's slot whose tail has ended. -/
def fromRegion : State := { st0 with streams := st0.streams.map fun x => { x with
  requester := .region 5 0, tailEnded := true, headDone := true, nodes := x.nodes.map fun n => { n with ended := true } } }
theorem wit_StreamControl_ends : (stream0 over_).map (fun x => (x.exceeds false, x.poisoned, x.requester, x.ctx)) = some (true, 0, .tile 0 0, ct.id) ∧
    (over_.ctxOf ct.id).map (·.rolling) = some false ∧ (stream0 fromRegion).map (fun x => (x.exceeds false, x.write, x.tailEnded, x.aborted)) =
      some (true, false, true, false) ∧ (fromRegion.ctxOf ct.id).isSome = true ∧
    (stream0 over_).map (fun x => (over_.graphWords x).all fun v => !isReducing (snodeOp v)) = some true := by decide +kernel

/-- A flit of 128 bytes of 1, clean. -/
def flit1 : List SBit := (List.replicate 128 ((true, false) :: List.replicate 7 (false, false))).flatten
/-- The second node can work: on a flit of input, and at the end of its input. -/
def canWork (op : Nat) (w : NodeWord) (s : State) : Bool :=
  match s.openStream 0 0 with
  | none => false
  | some x => match x.nodes[1]?, (s.graphWords x)[1]? with
    | some n, some v => headNode (s.graphWords x) != 1 && !x.aborted && !n.ended && decide (n.out.length < 1024) && snodeOp v == op && decide (nodeFields v = w)
    | _, _ => false
def fed (op : Nat) (w : NodeWord) : State := streamed op w fun n => { n with inA := flit1, inB := flit1 }
theorem wit_StreamValueNodes : canWork 0x00 wTail (fed 0x00 wTail) = true ∧ canWork 0x09 wTail (fed 0x09 wTail) = true ∧
    canWork 0x21 wTail (fed 0x21 wTail) = true ∧
    ((stream0 (fed 0x00 wTail)).bind fun x => (x.nodes[1]?).bind fun n => (n.unit 1024).map fun p => p.1.length) = some 1024 ∧
    ((stream0 (fed 0x09 { wTail with inB := 2#4 })).bind fun x => (x.nodes[1]?).bind fun n =>
      (sMap2 8 (fun x p a b => wTail.arith fAddVal (· + ·) (srDraw (x.seed ^^^ BitVec.ofNat 32 p) 1 0) a b) x n).map fun r => (r.2.1.length, natOfS (r.2.1.take 8))) = some (1024, 2) := by
  decide +kernel
theorem wit_StreamUnitNodes : canWork 0x1E wTail (streamed 0x1E wTail fun n => { n with inA := (List.replicate 8 flit1).flatten }) = true ∧
    ((stream0 (streamed 0x1E wTail fun n => { n with inA := (List.replicate 8 flit1).flatten })).bind fun x =>
      (x.nodes[1]?).bind fun n => (n.unit (1024 * wTail.width)).map fun p => (p.1.length, p.2.inA.length)) = some (8192, 0) := by decide +kernel
theorem wit_StreamReducers : canWork 0x28 wTail (fed 0x28 wTail) = true ∧ isFlt wTail.fmt.toNat = false ∧ isFlt (8 : BitVec 4).toNat = true ∧
    ((stream0 (fed 0x28 wTail)).bind fun x => (x.nodes[1]?).bind fun n => (n.unit 1024).map fun p => p.2.inA) = some [] := by decide +kernel
theorem wit_StreamFlow_end : canWork 0x00 wTail (streamed 0x00 wTail fun n => { n with endA := true }) = true ∧ wTail.inB = 0#4 ∧
    wTail.out.toNat = 6 := by decide +kernel
theorem wit_StreamFlow_route : (stream0 (streamed 0x00 wTail fun n => n)).map (fun x => ((st0.graphWords x).length, x.nodes.length)) = some (2, 2) ∧
    snodeAt 0 wHead.out.toNat = some 1 ∧ wHead.out.toNat ≠ 6 ∧ takesAtA wTail wHead.out.toNat = true := by decide +kernel
/-- UNDO with a journal of one granule in a page of HBM. -/
def undoS (full : Bool) : State :=
  let s := fed 0x38 wTail
  { s with mem := memWrite s.mem 0x2008 (bytesOf 8 (0x40000000 + 0x1F))
           streams := s.streams.map fun x => { x with base := 0x40042000, journal := 0x400A7000, jgranules := 1, write := true, jovf := full } }
theorem wit_StreamFlow_undo : canWork 0x38 wTail (undoS true) = true ∧ canWork 0x38 wTail (undoS false) = true ∧
    (match stream0 (undoS false) with
      | none => false
      | some x => match (undoS false).seek x x.undo x.base x.granules .w with
        | (s1, p, .at_ pa) => match (s1.modStream 0 0 fun x => { x with undo := p }).openStream 0 0 with
          | none => false
          | some y => match (s1.modStream 0 0 fun x => { x with undo := p }).seek y y.jour y.journal y.jgranules .w with
            | (s2, _, .at_ ja) => !s2.rangeHeld ja 256 && !s2.rangeHeld pa 128 && !y.prot && x.page.isNone && Memory.wf s2.mem &&
                s2.ctxs.all (fun c => !c.isProt) && s2.health.dead.isEmpty && s2.health.deadPch.isEmpty
            | _ => false
        | _ => false) = true := by decide +kernel

/-! #### Barriers -/

def dom0 : Domain := freshDomain 0 c0.id [c0.id]
theorem wit_Barriers : InCtx m0 c0 ∧ m0.who = .thread 0 0 0 ∧ Ready (.plain [7, 2]) m0 ∧ Ready (.plain [7, 2, 3]) m0 ∧ m0.reg 2 = 0 ∧
    m0.myDomain c0 0 0 = some dom0 ∧ m0.domains = [dom0] ∧ dom0.members = [c0.id] ∧ c0.threads.length = 1 ∧ c0.snap = none ∧
    m0.ctxOf c0.id = some c0 ∧ m0.mustRelease .sta .none = false ∧ dom0.episodes = [] ∧ dom0.broken = false ∧ dom0.joined = [] ∧ m0.myIndex = 0 ∧ badReduce (m0.reg 2) = false :=
  ⟨⟨by decide +kernel, c0_mine⟩, by decide +kernel, ready_of (by decide +kernel), ready_of (by decide +kernel), by and_intros <;> decide +kernel⟩
/-- R290: in a domain of one member REDUCE gives the member's own value. -/
theorem test_reduce : (match execReduce 7 2 3 (withRegs m0 [(3, 42)]) with | .next t => some (t.reg 7, t.cpu.wait) | _ => none)
    = some (42, .none) := by decide +kernel

/-! #### Service software -/

/-- A capability of epoch 0 for the matrix region 5 of the context, in g30 and g31, to entry 7 of the context in slot 0 of station 0; and the
same object to advance. -/
def minting (v : Word) (hi : Word) : State := withRegs mr [(2, v), (30, 5), (31, hi)]
theorem wit_ServiceForms_clear : (minting 0x70000 0).ctxBySlot (wbits (0x70000 : Word) 6 0) (wbits (0x70000 : Word) 9 8) = some cr ∧
    Ready ⟨.all, true, [7, 2], [4]⟩ (minting 0x70000 0) ∧ (minting 0x70000 0).pair 4 = 0 :=
  ⟨by decide +kernel, ready_of (by decide +kernel), by decide +kernel⟩
theorem wit_ServiceForms_capmint : Ready ⟨.all, true, [7, 2], [30]⟩ (minting 0x70000 0x0110000000000000) ∧
    (wbits (0x70000 : Word) 23 16) = 7 ∧ ((0x70000 : Word) &&& 0xFFFFFFFFFF00FC80#64) = 0 ∧
    capWellFormed ((minting 0x70000 0x0110000000000000).pair 30) = true ∧ capKind ((minting 0x70000 0x0110000000000000).pair 30) = 1 ∧
    (minting 0x70000 0x0110000000000000).ctxBySlot 0 0 = some cr ∧
    (minting 0x70000 0x0110000000000000).capObj ((minting 0x70000 0x0110000000000000).pair 30) = some (.region 5) ∧
    (minting 0x70000 0x0110000000000000).epochOf (.region 5) = capEpoch ((minting 0x70000 0x0110000000000000).pair 30) ∧
    (minting 0x70000 0x0110000100000000).epochOf (.region 5) ≠ capEpoch ((minting 0x70000 0x0110000100000000).pair 30) ∧
    advanceWellFormed ((minting 0x80000000 0x0100000000000000).pair 30) = true ∧
    (minting 0x80000000 0x0100000000000000).capObj ((minting 0x80000000 0x0100000000000000).pair 30) = some (.region 5) :=
  ⟨ready_of (by decide +kernel), by and_intros <;> decide +kernel⟩
/-- All of ASID 1 in the package, with and without an access under way; an entry of another ASID stays. -/
def invs (busy : Bool) : State :=
  withRegs { owed with
    bus := { owed.bus with reqs := if busy then owed.bus.reqs.map fun q => { q with via := some ⟨1, 0, 2 ^ 30⟩ } else [] }
    mmu := { owed.mmu with tlb := [⟨.station 0, 1, 1, 0, 0x1F⟩, ⟨.station 0, 2, 1, 0, 0x1F⟩] } } [(2, 0), (3, 0x130001)]
theorem wit_ServiceForms_tlbinv : Ready ⟨.all, true, [7, 2, 3], []⟩ (invs true) ∧ Ready ⟨.all, true, [7, 2, 3], []⟩ (invs false) ∧
    (∀ b : Bool, ((tlbOpOf ((invs b).reg 2) ((invs b).reg 3)).map fun m =>
      ((invs b).tlbDrop m).mmu.tlb.map (·.asid)) = some [2]) ∧ (∀ b : Bool, (invs b).cpu.wait = .none) ∧
    (∀ b : Bool, ((tlbOpOf ((invs b).reg 2) ((invs b).reg 3)).map fun m => ((invs b).tlbDrop m).tlbPending m ((invs b).tlbDrop m).model.nextId)
      = some b) :=
  ⟨ready_of (by decide +kernel), ready_of (by decide +kernel), by and_intros <;> decide +kernel⟩
theorem wit_ServiceForms_rdstate : Ready ⟨.all, true, [2], [30]⟩ m0 ∧ m0.readItem 0x0100000000000000 = .val 0 true ∧
    m0.readItem 0x0101000000000000 = .absent :=
  ⟨ready_of (by decide +kernel), by decide +kernel, by decide +kernel⟩

/-! #### Switching and saving -/

/-- A second page of 1 GiB of HBM at the second GiB, a context to switch in slot 1, and a save area there. -/
def c1 : Ctx := { c0 with id := 38, slot := 1, hold := false }
def swap (v x : Word) : State :=
  withRegs { hbm0 with ctxs := m0.ctxs ++ [c1], regions := [{ r0 with ctx := c1.id, freeze := .saved false }, { r0 with handle := 6 }] } [(3, v), (4, x)]
/-- The area's pages translate to local memory. -/
def areaOk (s : State) (n need : Nat) : Bool :=
  match xlatePages (.station 0) 1 (if need = 0 then .r else .w) true (pagesOf 0x40000000 n) 0x40000000 s with
  | (s', .ok fs) => fs.all fun f => (s'.home f).isMem
  | _ => false
theorem wit_Preemption_out : Ready ⟨.all, true, [7, 3, 4], []⟩ (swap 0x100 0x40000000) ∧ (swap 0x100 0x40000000).space (swap 0x100 0x40000000).who
    = some (1, true, .station 0) ∧ wbits (0x40000000 : Word) 15 0 = 0 ∧ ((0x100 : Word) &&& 0xFFFFFFFFFFFFFC80#64) = 0 ∧
    sysWait (swap 0x100 0x40000000).cpu.wait = false ∧ areaOk (swap 0x100 0x40000000) 0x40000 1 = true ∧
    (swap 0x100 0x40000000).ctxAt 0 1 = some c1 ∧ c1.swapping = none ∧
    ((swap 0x100 0x40000000).regions.all fun r => r.ctx != c1.id || r.freeze == .saved false) = true ∧
    ((0x2100 : Word) &&& 0xFFFFFFFFFFFFFC80#64) = 0x2000 ∧ (swap 0x100 0x40000000).ctxIdOf (swap 0x100 0x40000000).who ≠ c1.id ∧
    areaOk (swap 0x100 0x40000000) 0x40000 0 = true :=
  ⟨ready_of (by decide +kernel), by and_intros <;> decide +kernel⟩
theorem wit_Preemption_save : badSave (w64 6) 0x40000000 63 = false ∧ badSave (w64 6) 0x40000000 31 = false ∧
    ((swap 6 0x40000000).regionNamed 6).map (fun p => (p.1.handle, p.2.id, p.1.invs.length)) = some (6, c0.id, 0) ∧
    (swap 6 0x40000000).regionPending { r0 with handle := 6 } = false ∧ areaOk (swap 6 0x40000000) (imageSize 4 true) 1 = true ∧ areaOk (swap 6 0x40000000) (imageSize 4 false) 1 = true := by decide +kernel
def swapping : State := withArg { (swap 0x100 0) with ctxs := m0.ctxs ++ [{ c1 with swapping := some 0, hold := true }] } (.n1 38)
def draining : State := withArg { (swap 6 0) with cycle := 50, regions := [{ r0 with drain := some (40, 10) }] } (.n1 5)
theorem wit_Preemption_events : ((swapping.ctxOf 38).map fun c => swapping.mayCapture c) = some true ∧
    (draining.regionOf 5).bind (·.drain) = some (40, 10) ∧ 40 + 10 ≤ draining.cycle.toNat := by decide +kernel

/-! #### Dome-close forms -/

/-- The last 64 bytes of the partition as segment 15 of class 1. -/
def holding (b : Word) : State := withRegs { m0 with dome := { m0.dome with checking := false } } [(2, 0x3FFC0), (3, b)]
def segWord : Word := 0x4 * 2 ^ 32 + 0xF * 2 ^ 36 + 64
def holdSwap (s : State) : Nat × Nat × State := s.swapSegment c0.id 15 (some ⟨15, true, 0x3FFC0, 64, 0, 0, segCharge true 0 64⟩)
theorem wit_HoldUp_declare : Ready ⟨.holdup, false, [7, 2, 3], []⟩ (holding segWord) ∧ (holding segWord).myCtx = some c0 ∧
    hdeclBad c0 0x3FFC0 segWord = false ∧ (holding segWord).closing = false ∧ segWord.getLsbD 63 = false ∧ segWord.getLsbD 34 = true ∧
    c0.segments = [] ∧ c0.opens = [] ∧ (holdSwap (holding segWord)).1 ≤ (holding segWord).dome.hbudget + (holdSwap (holding segWord)).2.1 ∧
    (holdSwap (holding segWord)).2.2.roomFor = true :=
  ⟨ready_of (by decide +kernel), by and_intros <;> decide +kernel⟩
/-- 64 bytes of HBM as segment 15, and the removal of a segment without open ranges. -/
def dramWord : Word := 0xF * 2 ^ 36 + 64
def inDram : State := withRegs hbm0 [(2, 0x40000000), (3, dramWord)]
def removing : State := withRegs (withCtx m0 fun c => { c with segments := [⟨15, true, 0x3FFC0, 64, 0, 0, 1⟩] }) [(2, 0), (3, 0x800000F000000000)]
theorem wit_HoldUp_dram : hdeclBad c0 0x40000000 dramWord = false ∧ dramWord.getLsbD 63 = false ∧ dramWord.getLsbD 34 = false ∧
    (match xlatePages (.station 0) 1 .r true (pagesOf 0x40000000 64) 0x40000000 inDram with
      | (t, .ok fs) =>
        let p := t.swapSegment c0.id 15 (some ⟨15, false, 0x40000000, 64, 0, 0, segCharge false 0 64⟩)
        fs.all (fun f => match t.home f with | .hbm _ => true | _ => false) && decide (p.1 ≤ t.dome.hbudget + p.2.1) && p.2.2.roomFor
      | _ => false) = true := by decide +kernel
theorem wit_HoldUp_remove : ((removing.reg 3) &&& 0x7FFFFF0FFFFFFFFF#64) = 0 ∧ (removing.reg 3).getLsbD 63 = true ∧ removing.closing = false ∧
    (removing.myCtx.map fun c => c.opens.any fun o => o.index == wbits (removing.reg 3) 39 36) = some false ∧
    Ready ⟨.holdup, false, [7, 2, 3], []⟩ removing := by
  and_intros <;> first | decide +kernel | exact ready_of (by decide +kernel)
/-- Segment 15 with three open ranges. -/
def opened : State :=
  withRegs (withCtx m0 fun c => { c with segments := [⟨15, true, 0x3FFC0, 64, 0, 0, 1⟩], opens := [⟨0, 15, 0, 64⟩, ⟨1, 15, 0, 64⟩, ⟨2, 15, 0, 64⟩] })
    [(2, 15), (3, 0), (4, 2), (5, 3)]
theorem wit_HoldUp_open : Ready ⟨.holdup, false, [7, 2, 3], []⟩ opened ∧ Ready ⟨.holdup, false, [7, 4], []⟩ opened ∧
    ((opened.myCtx).bind fun c => (c.segments.find? fun y => y.index == 15).bind fun x => openLen x 0 0) = some 64 ∧
    ((opened.myCtx).bind fun c => (List.range 4).find? fun t => c.opens.all fun o => o.token != t) = some 3 ∧ (opened.reg 2).toNat < 16 ∧
    ((opened.myCtx).map fun c => (c.opens.any (fun o => o.token == 2), c.opens.any fun o => o.token == 3)) = some (true, false) :=
  ⟨ready_of (by decide +kernel), ready_of (by decide +kernel), by and_intros <;> decide +kernel⟩
/-- A store whose newer copy lists one plate of the context. -/
def plate0 : Plate :=
  { event := 1, loc := 1, sealed := true, torn := [], cls := 1, spad := true, handler := false, index := 3, order := 0, base := 0, version := 1,
    slot := 0, station := 0, len := 64, name := [], logical := 0, sub := 0, body := List.replicate 64 7, failed := [], sealBad := false,
    owner := some c0.id }
def plated (a : Word) : State :=
  withRegs { hbm0 with dome := { hbm0.dome with checking := false, dirs := [Directory.blank, ⟨true, 4, 1, true, true, [plate0], []⟩] } }
    [(2, a), (3, 0x40000000)]
/-- Where `n` bytes go: a page of local memory that nothing holds, with no access under way. -/
def plateOut (s : State) (n : Nat) : Bool :=
  match xlatePages (.station 0) 1 .w true (pagesOf 0x40000000 n) 0x40000000 s with
  | (s', .ok fs) => fs.all (fun f => (s'.home f).isMem) && !((List.range (n / 64)).any fun k => s'.rangeHeld (fs.getD 0 0 + 64 * k) 64) &&
      (s'.pendingOf s'.who).isEmpty
  | _ => false
theorem wit_HoldUp_plates : Ready ⟨.holdup, false, [7, 2, 3], []⟩ (plated 7) ∧ Ready ⟨.holdup, false, [7, 2], []⟩ (plated 7) ∧
    (plated 7).closing = false ∧ (plated 7).directory = some ⟨true, 4, 1, true, true, [plate0], []⟩ ∧ c0.service = true ∧
    (∀ k : Fin 4, platerdBad (w64 (4 + k.val)) 0x40000000 = false) ∧ platerdBad 0 0x40000000 = false ∧ plateOut (plated 7) 64 = true ∧
    plateOut (plated 7) 128 = true ∧ plate0.state ≠ 2 ∧ (plated 7).myCtx.map (·.bodyWrite) = some none ∧
    ((1 : Word) &&& 0xFFFFFFFFC000FFFA#64) = 0 ∧ ((0x10000 : Word) &&& 0xFFFFFFFFC000FFFA#64) = 0 ∧ wbits (0x10000 : Word) 29 16 = 1 ∧
    (plate0.report.length, (Directory.header ⟨true, 4, 1, true, true, [plate0], []⟩ 1).length) = (128, 64) :=
  ⟨ready_of (by decide +kernel), ready_of (by decide +kernel), by and_intros <;> decide +kernel⟩

/-! #### Monitors, quiesce and the control window -/

def monitored (n : Nat) (a : Arg) : State := withArg { withCtx mr (fun c => { c with hangiv := 1 }) with regions := [{ r0 with idle := n }] } a
theorem wit_RegionEvents_hang : ((monitored 1024 (.n1 5)).regionOf 5).map (fun r => (r.freeze, r.idle, r.w * r.h)) = some (.running, 1024, 4) ∧
    (((monitored 1024 (.n1 5)).regionOf 5).bind fun r => (monitored 1024 (.n1 5)).owner r).map (·.hangiv) = some 1 ∧
    ((monitored 1023 (.n1 5)).regionOf 5).map (·.idle) = some 1023 := by decide +kernel
/-- Element 2 of page 3 is shadowed, until cycle `m0.cycle` + 8; `n` mismatches so far. -/
def blinking (n : Nat) (ok : Bool) : State :=
  withArg { started with regions := started.regions.map fun r => { r with invs := r.invs.map fun i => { i with
    mismatches := n, shadowed := [((elemXY 2 3 2).1, (elemXY 2 3 2).2, started.cycle.toNat + 8)] } } } (.blink 5 1 3 2 0 ok)
def shadowedAt (n q e : Nat) : Option (Nat × Bool) :=
  ((blinking n true).regionOf 5).bind fun r => (r.inv 1).map fun i => (i.mismatches, i.shadowed.any fun x =>
    x.1 == (elemXY r.w q e).1 && x.2.1 == (elemXY r.w q e).2 && decide ((blinking n true).cycle.toNat ≤ x.2.2))
theorem wit_RegionEvents_blink : shadowedAt 1 3 2 = some (1, true) ∧ shadowedAt 0 3 2 = some (0, true) ∧ shadowedAt 0 3 15 = some (0, false) := by
  decide +kernel
def quiet (g : Gang) : State := withArg { mr with
    gangs := [g]
    queues := [{ queue16 with homes := [⟨.ctx c0.id, [.marker 1], [], [], []⟩] }]
    regions := [{ r0 with cmds := [.marker 1] }] } (.n1 5)
theorem wit_RegionEvents_stop : ((quiet { gang0 with qstate := 1, qnumber := 1 }).regionOf 5).map (fun r =>
      (r.stopped, r.freeze, r.invs.length, (quiet { gang0 with qstate := 1, qnumber := 1 }).inputsMarked r,
        r.blocks.all fun b => b.nodes.all fun x => x.2.1 != 0x65)) = some (false, .running, 0, true, true) ∧
    (quiet { gang0 with qstate := 1, qnumber := 1 }).gangOf cr.gang = some { gang0 with qstate := 1, qnumber := 1 } ∧
    ((withArg (quiet { gang0 with qstate := 2 }) (.n1 0)).gangOf 0).map (·.qstate) = some 2 := by decide +kernel

theorem wit_ControlWindow : m0.part ≠ 2 ∧ m0.ctxAt (0 / 4) (0 % 4) = some c0 ∧ State.reset.userExists = false ∧ user.userExists = true ∧
    m0.pkgValid = false ∧ m0.boot.log.length < 1024 ∧ m0.boot.attStat ≠ 1 ∧ (m0.engineAt 3 8).map (·.mcstat) = some 0 ∧
    (m0.healthOf 95).retiring = none ∧ (m0.localHome 0x3F00000000).isMem = true := by decide +kernel
def fenced : State := { m0 with health := { m0.health with stfence := [(3, 2 ^ 23)] } }
theorem wit_ControlWindow_calibration : (lookupD fenced.health.stfence 3 0).testBit (wbits (0x117 : Word) 4 0) = true ∧
    (0x117 : Word).getLsbD 8 = true ∧ lookup fenced.health.calctl 3 = none := by decide +kernel
theorem wit_ControlWindow_tables : ((5 : BitVec 32).toNat + 2 ^ 32 - m0.tree.lftail) % 2 ^ 32 = 5 ∧ (m0.tree.lfhead + 2 ^ 32 - m0.tree.lftail) % 2 ^ 32 < 5 ∧
    wbits (0x400000000000 : Word) 47 46 = 1 ∧ wbits (0x800000000000 : Word) 47 46 = 2 := by decide +kernel
/-- A level-3 domain without an episode, and an empty work queue and one that holds an item. -/
def tables : State := { m0 with domains := m0.domains ++ [freshDomain 3 5 [c0.id]] }
theorem wit_ControlWindow_define : (tables.domainAt 3 5).map (·.episodes.length) = some 0 ∧ tables.domainAt 4 1 = none ∧
    ((tables.queues.find? fun q => q.homes.any fun h => h.at_ == .engine 3 8).map fun q =>
      (q.homes.all (fun h => h.entries.isEmpty), tables.windowSum q.id)) = some (true, 0) := by decide +kernel

/-! #### Nodes of a block -/

/-- A word of a block node: op, then the fields. -/
def bnode (op : Nat) (w : BlockWord) : BitVec 64 := BitVec.ofNat 8 op ++ w.ty ++ w.pred ++ w.repl ++ w.t1 ++ w.t2 ++ w.imm
/-- Sends to position a of node 1 alone. -/
def bw (ty : BitVec 4) (imm : BitVec 26) : BlockWord := ⟨ty, 0, 0, 4, 0x1FF, imm⟩
def ones : Token := Token.of 0 fun l => some (BitVec.ofNat 32 (l + 1))
/-- Node 0 is `op`; its operands stand in its slot buffers; node 1 is a NULL. -/
def fires (op : Nat) (w : BlockWord) (a b : Token) (base : State) : State :=
  let blk := blockOfWords [bnode op w, bnode 0x73 { w with t1 := 0x1FF }]
  let i : Inv := { Inv.start 1 (.block 0) cr r0 [] with
    started := 1, tokens := [⟨.slot 0 0 0, 0, 0, a⟩, ⟨.slot 0 0 1, 0, 1, b⟩, ⟨.slot 0 0 2, 0, 2, a⟩] }
  { base with regions := [{ r0 with blocks := [blk], invs := [i] }] }
def at0 : FireAt := ⟨5, 1, 0, 0⟩
def fire0 (op : Nat) (w : BlockWord) : Option Firing := (fires op w ones ones mr).firing at0 op w
def mayFire (s : State) (op : Nat) (w : BlockWord) : Bool :=
  match s.regionOf 5 with
  | none => false
  | some r => match r.inv 1 with
    | none => false
    | some i => match r.blockOf i with
      | none => false
      | some b => s.regionRuns r && b.node 0 == some (op, w) && decide (0 < i.started) && i.fired.isEmpty && i.failures.isEmpty &&
          (i.worst (some b)).isNone && r.hasRoom i (r.firstPlaces b 0 0 w) && lookupD r.busy (copyXY r.w b.home 0 (b.copyOf r.w 0 0)) 0 == 0 &&
          b.copyOf r.w 0 0 == 0 && usesA op w (b.targeted 0 0) && usesB op w && !usesP op w
theorem wit_FiringRules : mayFire (fires 0 (bw 1 0) ones ones mr) 0 (bw 1 0) = true := by decide +kernel
/-- Every kind of node with all its operands. -/
theorem wit_FloatNodes : ((List.range 17).all fun op => (fire0 op (bw 1 0)).isSome) = true := by decide +kernel
theorem wit_IntegerNodes : ((List.range 17).all fun k => (fire0 (0x20 + k) (bw 12 0)).isSome) = true := by decide +kernel
theorem wit_ConversionNodes : ([0x40, 0x41, 0x42].all fun op => (fire0 op (bw 1 0)).isSome) = true ∧
    ((fire0 0x41 (bw 4 0)).map fun f => f.whole f.ta && f.whole f.tb) = some true ∧
    ((List.range 26).filter fun k => (bw 4 (BitVec.ofNat 26 (2 ^ k))).mx).length = 1 := by decide +kernel
theorem wit_LaneNodes : ((List.range 6).all fun k => (fire0 (0x48 + k) (bw 12 0)).isSome) = true ∧
    ((fires 0x48 (bw 12 0) (Token.null 0) ones mr).firing at0 0x48 (bw 12 0)).map (fun f => f.ta.isNull) = some true := by decide +kernel
theorem wit_ControlNodes : ((List.range 8).all fun k => (fire0 (0x70 + k) (bw 12 0)).isSome) = true ∧
    ((fire0 0x70 (bw 12 0)).map fun f => f.r.frameWait f.i.id 0) = some false := by decide +kernel
/-- An earlier invocation whose block writes f0. -/
def waitsFrame : State :=
  { mr with regions := (fires 0x70 (bw 12 0) ones ones mr).regions.map fun r => { r with
      blocks := r.blocks ++ [blockOfWords [bnode 0x71 { bw 12 0 with t1 := 0x1FF }]]
      invs := { Inv.start 0 (.block 1) cr r0 [] with started := 1 } :: r.invs } }
theorem wit_ControlNodes_wait : ((waitsFrame.firing at0 0x70 (bw 12 0)).map fun f => f.r.frameWait f.i.id (bw 12 0).frame) = some true := by
  decide +kernel
/-- R121 and R123: FADD of the patterns 1.0 and 1.0; a full shift by 32 gives 0. -/
theorem test_fadd_node : (match exec (.nodeFadd at0 (bw 1 0)) (fires 0 (bw 1 0) (Token.of 0 fun _ => some 0x3F800000) (Token.of 0 fun _ => some 0x3F800000) mr) with
    | .next t => (t.regionOf 5).bind fun r => (r.inv 1).map fun i => i.tokens.filterMap fun x => if x.due = 0 then none else x.tok.lane 15
    | _ => none) = some [0x40000000] := by decide +kernel
theorem test_shl_node : (match exec (.nodeShl at0 (bw 12 0)) (fires 0x2C (bw 12 0) ones (Token.of 0 fun l => some (BitVec.ofNat 32 (31 + l))) mr) with
    | .next t => (t.regionOf 5).bind fun r => (r.inv 1).map fun i => (i.tokens.filter fun x => x.due != 0).map fun x => (x.tok.lane 0, x.tok.lane 1)
    | _ => none) = some [(some 0x80000000, some 0)] := by decide +kernel

/-- Loads and stores of one byte: offset 63 for lane 0 alone (its other lanes are null), at a partition with a tile. -/
def lane0 (v : BitVec 32) : Token := Token.of 0 fun l => if l = 0 then some v else none
def memS (op : Nat) (w : BlockWord) (a b : Token) : State :=
  let s := fires op w a b { mr with ctxs := mr.ctxs.map fun c => { c with tiles := [(0, ⟨.ready, 0x3FFC0, 2, false, [32], 0, 0⟩)] } }
  { s with regions := s.regions.map fun r => { r with blocks := r.blocks.map fun b => { b with spans := b.spans.map fun _ => some (0, 0x40000) } } }
def memF (op : Nat) (w : BlockWord) (a b : Token) : Option (Firing × Ctx) :=
  ((memS op w a b).firing at0 op w).bind fun f => ((memS op w a b).owner f.r).map fun c => (f, c)
/-- The node's turn has come, and its lanes' accesses pass. -/
def memOk (op : Nat) (w : BlockWord) (a b : Token) : Bool :=
  match memF op w a b with
  | none => false
  | some (f, c) => f.predDone && !f.r.rangeWait f && !f.i.waitsPage 0 0 && !f.noAg && !f.virtual &&
      (f.laneAddrs.all fun p => f.inSpan p.2 (valueBytes w.ty) && decide (0 ≤ p.2 ∧ p.2 < c.partSize ∧ p.2.toNat % valueBytes w.ty = 0) &&
        !(memS op w a b).noWindow (c.partAddr p.2.toNat) && f.seen.isEmpty && f.i.accs.isEmpty &&
        (match (memS op w a b).home (c.partAddr p.2.toNat) with
          | .spad _ x => !(memS op w a b).poisoned x (valueBytes w.ty)
          | _ => false)) && f.laneAddrs.length == 1
theorem wit_MemoryNodes : memOk 0x60 (bw 13 0) (lane0 0x3FFFF) (lane0 0) = true ∧ memOk 0x61 (bw 13 0) (lane0 7) (lane0 0x3FFFF) = true ∧
    ((memF 0x61 (bw 13 0) (lane0 7) (lane0 0x3FFFF)).map fun p => decide (p.1.i.heldBytes + 64 ≤ p.1.r.holdLimit)) = some true := by decide +kernel
theorem wit_MemoryNodes_tiles : ((memF 0x62 (bw 2 0) (lane0 31) (lane0 0)).bind fun p => (p.2.tileAt (bw 2 0).tile).bind p.1.elements).map (fun ps =>
      ps.map fun q => (q.1, q.2.1)) = some [(0, 0x3FFFE)] ∧
    ((memF 0x63 (bw 2 0) (lane0 31) (lane0 9)).bind fun p => (p.2.tileAt (bw 2 0).tile).bind p.1.elements).isSome = true ∧
    ((memF 0x63 (bw 2 0) (lane0 31) (lane0 9)).map fun p => (p.1.predDone, p.1.r.rangeWait p.1)) = some (true, false) := by decide +kernel

/-- A node of one lane whose generator gives a virtual address of HBM, before its read is sent and with the answer there. -/
def wAg : BlockWord := bw 13 0x8000
def virt (op : Nat) (w : BlockWord) (remote : List RemoteRead) : State :=
  let s := fires op w (lane0 7) ones { mr with mem := hbm0.mem }
  { s with regions := s.regions.map fun r => { r with invs := r.invs.map fun i => { i with
      ags := [⟨1, false, 0x40001000, [1], [4]⟩], remote := remote } } }
def virtPasses (op : Nat) (w : BlockWord) (need : Need) (remote : List RemoteRead) : Option (List Bool × Nat) :=
  let s := virt op w remote
  match s.firing at0 op w with
  | none => none
  | some f =>
    match s.owner f.r with
    | none => none
    | some c =>
      match State.laneChecks f c f.virtual 1 need f.laneAddrs s with
      | (u, ls, none) =>
        some ([f.virtual, f.predDone, !f.r.rangeWait f, !f.i.waitsPage 0 0, !f.noAg, ls.all fun p => !u.cutOff p.2.1 && !u.noWindow p.2.1,
          (u.laterLanes ls).all fun p => ((f.sentRead p.1).bind (·.answer)).isSome], (u.laterLanes ls).length)
      | _ => none
theorem wit_MemoryNodes_virtual : virtPasses 0x60 wAg .r [] = some ([true, true, true, true, true, true, false], 1) ∧
    virtPasses 0x60 wAg .r [⟨60, 0, 0, 0, 0x40001000, some (5, false)⟩] = some ([true, true, true, true, true, true, true], 1) ∧
    virtPasses 0x61 wAg .w [] = some ([true, true, true, true, true, true, false], 1) := by decide +kernel

/-! #### Queue, stream and matrix nodes -/

/-- Queue handle 0 of the context both ways, and two streams bound to slot 0 of the region. -/
def busy0 : State :=
  { mr with
    ctxs := mr.ctxs.map fun c => { c with bindings := [(0, ⟨9, some 4, some (.ctx c.id), none⟩)] }
    queues := [{ queue16 with homes := [⟨.ctx c0.id, [.item item0], [], [], []⟩] }]
    streams := [false, true].map fun wr =>
      { ctl := 0, str := if wr then 1 else 0, ctx := c0.id, graphSlot := 0, row := 0, write := wr, prot := false, requester := .region 5 0, moving := false
        base := 0, granules := 1, result := 0, journal := 0, jgranules := 0, table := [], tableBad := [], tag := 0, seed := 0, nodes := []
        dram := SeqPos.zero, undo := SeqPos.zero, jour := SeqPos.zero, done := 0, reqDone := 0, tailed := 0, entries := 0, asked := 0, tail := []
        headDone := false, tailEnded := false, wbuf := [], halves := [⟨false, List.replicate 64 9, none⟩], flags := 0, poisoned := 0
        trunc := false, jovf := false, aborted := false, page := none } }
def qsF (op : Nat) : Option Firing := (fires op (bw 12 0) ones ones busy0).firing at0 op (bw 12 0)
theorem wit_QueueAndStreamNodes : ([0x64, 0x65, 0x66, 0x67].all fun op => match qsF op with
      | some f => f.predDone && !f.r.rangeWait f && f.inOrder && ((fires op (bw 12 0) ones ones busy0).owner f.r).isSome && (op % 2 == 0 || !f.masked.isNull) &&
          decide (f.i.heldBytes + 128 ≤ f.r.holdLimit)
      | none => false) = true := by decide +kernel
theorem wit_QueueAndStreamNodes_ends : (busy0.nodeQueue cr 0).isSome = false ∧
    (((busy0.myCtx).bind fun c => busy0.nodeQueue c 0).map fun p => (p.2.id, p.1.window, ((p.1.consumer.bind p.2.home).bind fun h =>
      (reserveNext (5, 1) h.entries).map fun e => e.2.map (·.data.length)), busy0.windowFree p.2 c0.id 4)) =
      some (9, some 4, some (some 16), true) ∧
    ((busy0.streamAt 5 0 false).bind fun x => x.halves.find? fun h => h.taker.isNone).map (·.bad) = some false ∧
    ((busy0.streamAt 5 0 false).map fun x => x.halves.countP fun h => h.taker == some 1) = some 0 ∧
    ((busy0.streamAt 5 0 true).map fun x => x.wbuf.length) = some 0 := by decide +kernel

/-- Tile 0 holds weights or rows of S8, tile 1 accumulators; `rows` of the source tile have been read. -/
def arrayS (op : Nat) (w : BlockWord) (a : Token) (rows : Nat) : State :=
  let s := fires op w a ones { mr with
    gangs := [gang0]
    ctxs := mr.ctxs.map fun c => { c with tiles := [(0, ⟨.ready, 0, 10, false, [r0.depthK 10, r0.columns], 0, 0⟩),
                                                    (1, ⟨.ready, 0x10000, 1, false, [r0.columns, 4], 0, 0⟩)] } }
  { s with regions := s.regions.map fun r => { r with
    wtype := some 10, invs := r.invs.map fun i => { i with rows := List.replicate rows [] } } }
def params (l : List Nat) : Token := Token.of 0 fun k => (l[k]?).map (BitVec.ofNat 32)
def arrayF (op : Nat) (w : BlockWord) (a : Token) (rows : Nat) : Option (State × Firing) :=
  ((arrayS op w a rows).firing at0 op w).map fun f => (arrayS op w a rows, f)
/-- Array work has read a row more, or is done. -/
def isMore (x : Work2) : Bool := match x with | .more _ => true | _ => false
def isDone (x : Work2) : Bool := match x with | .ok _ _ => true | _ => false
def loads (rows : Nat) : Option Work2 :=
  (arrayF 0x80 (bw 10 0) (params [0]) rows).bind fun p => (p.1.arrayTile p.2.r 0 (bw 10 0).tile).map fun t => p.1.wload p.2.r p.2.i 10 t
def accumulates (rows count : Nat) : Option Work2 :=
  (arrayF 0x81 (bw 10 0) (params [0, 0, 1, 0, count, 1]) rows).bind fun p => (p.1.arrayTile p.2.r 0 0).bind fun t =>
    (p.1.ownTile p.2.r 1).map fun o => p.1.macc p.2.r p.2.i 10 t o 0 count true
theorem wit_MatrixNodes : (arrayF 0x80 (bw 10 0) (params [0]) 0).map (fun p => (p.2.matrixTurn, p.2.acts 1)) = some (true, true) ∧
    (loads (r0.columns - 1)).map isMore = some true ∧ (loads r0.columns).map isDone = some true ∧
    ((arrayF 0x80 (bw 10 0) (Token.null 0) 0).map fun p => p.2.acts 1) = some false ∧
    (accumulates 0 1).map isMore = some true ∧ (accumulates 0 0).map isDone = some true ∧
    (arrayF 0x81 (bw 10 0) (params [0, 0, 1, 0, 1, 1]) 0).map (fun p => (p.2.acts 6, (opA p.2 5).toNat)) = some (true, 1) := by decide +kernel
/-- An ACCDRAIN of tile 1: the last row of sixteen columns that a parameter names. -/
def wDrain : BlockWord := bw 1 (((List.range 26).map fun k => BitVec.ofNat 26 (2 ^ k)).find? (fun v => (bw 1 v).tile == 1) |>.getD 0)
theorem wit_MatrixNodes_drain : wDrain.tile = 1 ∧ ((arrayF 0x82 wDrain (params [3, 0, 1]) 0).bind fun p => (p.1.ownTile p.2.r 1).map fun o =>
      (p.2.acts 3, o.2.fits 1 p.2.r.columns 4 false,
        match p.1.accRun p.2.i (o.1.partAddr o.2.base + 3 * 4 * p.2.r.columns) (List.range 16) with
        | .ok vs => vs.length
        | .error _ => 0)) = some (true, true, 16) := by decide +kernel

/-! #### Dispatch to discard -/

/-- Station 0 decides between blocks 0 to 2 of the region. -/
def deciding : State := withArg { mr with cycle := 9 } (.n1 0)
def marked : State := { deciding with
  regions := modifyAll (fun r => match deciding.owner r with | some c => c.station == 0 | none => false) deciding.markRegion deciding.regions }
theorem wit_DispatchDecisions : ((marked.stationRegions 0).flatMap marked.candsOf).map (fun p => (p.region, p.index)) = [(5, 0), (5, 1), (5, 2)] ∧
    (match (marked.stationRegions 0).flatMap marked.candsOf with
      | [p, q, r] => p.before q && !q.before p && p.before r && !r.before p && decide (q ≠ p ∧ r ≠ p)
      | _ => false) = true ∧
    ((withArg m0 (.n1 1)).stationRegions 1) = [] ∧ (blockOfWords []).tiles = [] := by decide +kernel
/-- An invocation of a block without nodes, as `f` makes it. -/
def ran (f : Inv → Inv) : State :=
  withArg { mr with regions := [{ r0 with invs := [f (Inv.start 1 (.block 0) cr r0 [])] }] } (.n2 5 1)
theorem wit_IterationStarts : ((ran fun i => { i with trips := some [3], started := 2, brs := [(0, 0), (1, 0)] }).regionOf 5).bind (fun r => (r.inv 1).map fun i =>
      (i.work, i.started, (i.worst (some (blockOfWords []))).isNone, i.openIters (blockOfWords []), r.sourcesFree i (blockOfWords []) 2)) =
      some (.block 0, 2, true, 0, true) ∧
    ((ran id).regionOf 5).bind (fun r => (r.inv 1).map fun i => (i.trips, i.started)) = some (none, 0) ∧ (blockOfWords []).depth = 0 ∧
    (({ blockOfWords [] with header := 1#128 <<< 110 } : Block).depth, (r0.tripsOf { blockOfWords [] with header := 1#128 <<< 110 })) = (1, [0]) := by
  decide +kernel
/-- A blink element shadows a result until cycle 12; the verdict is out in cycle 3 and in by cycle 12; and an invocation that must run again. -/
def verified (n : Nat) (f : Inv → Inv) : State :=
  { ran fun i => f { i with trips := some [], started := 1, brs := [(0, 0)], shadowed := [(0, 0, 12)] } with cycle := w64 n }
theorem wit_CommitsAndDiscards_blink : ((verified 3 id).regionOf 5).bind (fun r => (r.inv 1).map fun i =>
      (i.unverified (verified 3 id).cycle.toNat, i.counted (r.blockOf i), (verified 3 id).regionRuns r)) = some (true, true, true) ∧
    ((verified 12 fun i => { i with stale := true }).regionOf 5).bind (fun r => (r.inv 1).map fun i => (i.unverified 12, i.stale)) =
      some (false, true) := by decide +kernel
theorem wit_CommitsAndDiscards : ((ran fun i => { i with trips := some [], started := 1, brs := [(0, 0)] }).regionOf 5).bind (fun r => (r.inv 1).map fun i =>
      (i.counted (r.blockOf i), i.stale, i.items.length, i.stores.length)) = some (true, false, 0, 0) ∧
    (((ran fun i => { i with trips := some [], started := 1, brs := [(0, 0)], failures := [⟨0, 0, .permission, 64⟩] }).regionOf 5).bind fun r => (r.inv 1).bind fun i =>
      (ran fun i => { i with trips := some [], started := 1, brs := [(0, 0)], failures := [⟨0, 0, .permission, 64⟩] }).discardCause r i) =
        some ⟨0, 0, .permission, 64⟩ := by decide +kernel
/-- A command at work: MRUN of one row, or MDRAIN of none, behind an earlier invocation or not. -/
def cmdOf (kind : Nat) : Command :=
  ⟨kind, 4, (c0.id, 0), 0, if kind = 1 then #v[0, w64 (10 * 2 ^ 24), 1, w64 (2 ^ 32), 0, 0, 0, 0] else #v[0, w64 (2 ^ 24 + 1), 1, 0, 0, 0, 0, 0]⟩
def commanded (kind : Nat) (before : List Inv) : State :=
  withArg { arrayS 0x80 (bw 10 0) (params [0]) 0 with
    regions := (arrayS 0x80 (bw 10 0) (params [0]) 0).regions.map fun r => { r with
      invs := before ++ [Inv.start 1 (.command (cmdOf kind)) cr r0 []] } } (.n2 5 1)
theorem wit_IterationStarts_command : ((commanded 1 [Inv.start 0 (.block 0) cr r0 []]).regionOf 5).map (fun r => (r.earlier 1).length) = some 1 ∧
    (((commanded 1 []).regionOf 5).bind fun r => (r.inv 1).map fun i =>
      (commanded 1 []).regionRuns r && decide (i.started = 0) && isMore ((commanded 1 []).commandWork r i (cmdOf 1))) = some true ∧
    (((commanded 2 []).regionOf 5).bind fun r => (r.inv 1).map fun i => match (commanded 2 []).commandWork r i (cmdOf 2) with
      | .ok _ x => x.first.isNone
      | _ => false) = some true := by decide +kernel
/-- A token of node 1 in the router of element (1, 0), on its way to element (0, 0) of a region with a free way. -/
def hopping (n : Nat) : State :=
  withArg { fires 0 (bw 1 0) ones ones mr with
    regions := (fires 0 (bw 1 0) ones ones mr).regions.map fun r => { r with invs := r.invs.map fun i => { i with
      tokens := [⟨.router 1 1 3 n 0 0, 0, 9, ones⟩] } } } (.n4 5 1 1 3)
theorem wit_TokenHops : ((hopping 0).regionOf 5).bind (fun r => (r.routerHead 1 1 3).map fun p => (p.2.due, (r.hopTo p).isSome)) = some (0, true) := by
  decide +kernel

/-! #### Faults and health -/

def record0 (laneR : Bool) : Record := ⟨laneR, 3, 0, 7, 0, 1, 0, 0, 0, none, none, none⟩
def recorded (laneR : Bool) : State := { m0 with tree := { m0.tree with recs := [record0 laneR], lfbase := 0x4000 } }
def tagged : State := withArg { m0 with mmu := { m0.mmu with faults := [⟨.station 0, 1, 4, 0xFFFFFFFF⟩] } } (.tag (.station 0) 0xFFFFFFFF)
theorem wit_FaultEvents : tagged.tagPending (.station 0) 0xFFFFFFFF = true ∧ m0.tagPending (.station 0) 0 = false ∧
    (∀ b : Bool, (recorded b).heldRecord false = none ∧ (recorded b).heldRecord true = none ∧ (recorded b).nextRecord b = some (record0 b)) ∧
    (recorded true).nextRecord false = none ∧ (recorded false).laneFull false = false ∧ Memory.wf m0.mem = true ∧ m0.health.dead = [] ∧
    m0.health.deadPch = [] ∧ m0.ctxs.all (fun c => !c.isProt) = true ∧ (m0.localHome (64 * 0x1000)).isMem = true := by decide +kernel
theorem wit_FaultEvents_poison : ((busy0.queueOf 9).bind fun q => (q.homes[0]?).map fun h => h.entries) = some [.item item0] := by decide +kernel
def snap0 : Snapshot :=
  { episode := 1, level := 0, number := 0, threads := [], counters := [], mailbox := [], tiles := [], tags := [], recency := [], vflags := 0
    regions := [], qseqs := [], doms := [] }
def rolled : State := withArg (withCtx m0 fun c => { c with rolling := true, snap := some snap0 }) (.n1 c0.id)
theorem wit_FaultEvents_rollback : ((rolled.ctxOf c0.id).map fun c => (c.snap == some snap0, c.rolling, rolled.rollReady (rolled.rollingWith snap0))) =
    some (true, true, true) := by decide +kernel

def bank0 : Bank := m0.bankOf 95 31 0
theorem wit_HealthEvents : m0.part ≠ 2 ∧ (m0.healthOf 95).htrain.toNat ≠ 0 ∧ 5 ∉ bank0.exhausted ∧ 0 < bank0.remaps ∧ 0 < bank0.granules ∧
    0 < bank0.rows ∧ (bank0.weak.filter fun x => x.1 == 5).length < 3 ∧ (95, 31) ∉ m0.health.deadPch := by decide +kernel
def retiring : State := withArg (m0.modHealth 95 fun h => { h with retiring := some (31, 1) }) (.n1 95)
theorem wit_HealthEvents_switch : (retiring.healthOf 95).retiring = some (31, 1) ∧ retiring.freeSpare (95 / 12) = some 0 ∧
    (retiring.healthOf 95).buffer = [] := by
  decide +kernel
/-- A test of station 23 of die 3 runs, with a suspect element of that station. -/
def testing : State := { m0 with health := { m0.health with calctl := [(3, 0x1700)], suspects := [(4 * 95, 3)] } }
theorem wit_HealthEvents_test : testing.part ≠ 2 ∧ (lookup testing.health.calctl 3).map (fun v => (wbits v 1 0, wbits v 12 8)) = some (0, 23) ∧
    testing.closing = false ∧ testing.boot.log.length < 1024 ∧ (testing.health.suspects.map fun p => p.1 / 4) = [24 * 3 + 23] := by decide +kernel
def bursting : State := withArg (m0.modHealth 95 fun h => { h with refresh := [(31, 0xFFFF)], failed := [(31, 2)] }) (.burst 95 31 false)
/-- The third failure in a row while the controller retires another pseudo-channel. -/
def waitingFailure : State := bursting.modHealth 95 fun h => { h with retiring := some (4, 0) }
theorem wit_HealthEvents_busy : (waitingFailure.healthOf 95).retiring = some (4, 0) ∧ lookupD (waitingFailure.healthOf 95).failed 31 0 = 2 ∧
    (95, 31) ∉ bursting.health.deadPch := by decide +kernel
theorem wit_HealthEvents_burst : (bursting.healthOf 95).htrain.toNat ≤ lookupD (bursting.healthOf 95).refresh 31 0 ∧
    2 ≤ lookupD (bursting.healthOf 95).failed 31 0 ∧ (bursting.healthOf 95).retiring = none ∧
    lookupD (m0.healthOf 95).refresh 31 0 < (m0.healthOf 95).htrain.toNat := by decide +kernel

/-! #### Engines -/

/-- A work item with the bytes at the given places. -/
def item (l : List (Nat × Byte)) : List Byte := (List.range 64).map fun k => lookupD l k 0
/-- A copy of 64 bytes of HBM at 0x40000000 to 0x40000040 (R296), and a multicast. -/
def copyItem (op : Byte) : List Byte := item [(4, op), (11, 0x40), (16, 0x40), (19, 0x40), (24, 0x40)]
def workItem (b : List Byte) : QItem := ⟨0, c0.id, 0, b, false, none⟩
def putItem (d e : Nat) (b : List Byte) (h : QHome) : QHome := if h.at_ = .engine d e then { h with entries := [.item (workItem b)] } else h
def enqueued (d e : Nat) (b : List Byte) : State :=
  withArg { hbm0 with queues := hbm0.queues.map fun q => { q with homes := q.homes.map (putItem d e b) } } (.n2 d e)
def finds (d e : Nat) (b : List Byte) : Bool :=
  let s := enqueued d e b
  (s.jobOf d e).isNone && ((s.engineAt d e).map fun x => x.loaded) == some false && (s.workHead d e).map (·.2) == some (workItem b) &&
    (s.ctxOf c0.id).isSome
theorem wit_CopyEngineEvents_takes : finds 3 7 (copyItem 1) = true ∧ finds 0 0 (copyItem 2) = true ∧ itemBits (copyItem 2) 39 32 = 2 ∧
    itemBits (copyItem 1) 39 32 ≠ 2 := by decide +kernel
def job0 (d e : Nat) (b : List Byte) : Job := Job.start d e c0.id b
def jobbed (j : Job) : State := withArg { hbm0 with jobs := [j] } (.n2 j.die j.eng)
theorem wit_CopyEngineEvents : ((jobbed (job0 0 0 (copyItem 1))).jobOf 0 0) = some (job0 0 0 (copyItem 1)) ∧ (job0 0 0 (copyItem 1)).op = 1 ∧
    (match (jobbed (job0 0 0 (copyItem 1))).acceptCopy (job0 0 0 (copyItem 1)) c0 with | .ok _ => true | .error _ => false) = true ∧
    (match (jobbed (job0 0 0 (copyItem 3))).acceptCopy (job0 0 0 (copyItem 3)) c0 with | .ok _ => true | .error _ => false) = false := by
  decide +kernel
/-- A copy of 64 bytes of the partition, and the places of its piece: source and destination. -/
def padItem : List Byte := item [(4, 1), (16, 0x40), (24, 0x40)]
def placeAt (j : Job) (dst : Bool) : Option (Home × Bool) :=
  match (jobbed j).jobPlace j (if dst then itemBits j.item 191 128 else itemBits j.item 127 64) none 0 (if dst then .w else .r) with
  | (t, .ok pa _) => some (t.home pa, Memory.wf t.mem && t.ctxs.all (fun c => !c.isProt) && t.health.dead.isEmpty && t.health.deadPch.isEmpty)
  | _ => none
theorem wit_CopyEngineEvents_move : placeAt (job0 0 0 (copyItem 1)) false = some (.hbm 0x40000000, true) ∧
    placeAt (job0 0 0 (copyItem 1)) true = some (.hbm 0x40000040, true) ∧ placeAt (job0 0 0 padItem) false = some (.spad 0 0x10000000000, true) ∧
    placeAt (job0 0 0 padItem) true = some (.spad 0 0x10000000040, true) := by decide +kernel
/-- A multicast of its bytes to package 3, without a capability for the group and with one. -/
def castS (caps : List (Nat × BitVec 128)) : State :=
  { withCtx (jobbed (job0 0 0 (copyItem 2))) (fun c => { c with caps := caps }) with
    link := { hbm0.link with groups := [((job0 0 0 (copyItem 2)).group, ⟨1#1024 <<< 3 ||| 1#1024 <<< 575 ||| 0xFFFFFFFF#1024 <<< 576, 0⟩)] } }
def castOk (caps : List (Nat × BitVec 128)) : Option Status :=
  ((castS caps).ctxOf c0.id).bind fun c => ((castS caps).acceptMcast (job0 0 0 (copyItem 2)) c).2
theorem wit_CopyEngineEvents_mcast : castOk [] = some stDenied ∧
    castOk [(0, BitVec.ofNat 128 (0x0540000000000000 * 2 ^ 64 + (job0 0 0 (copyItem 2)).group))] = some stOK := by decide +kernel
def lateJob : Job := { job0 0 0 (copyItem 2) with step := 1, left := [(60, 3, 0)] }
def late : State := withArg { hbm0 with
  jobs := [lateJob]
  cycle := 2 ^ 20
  bus := { hbm0.bus with outs := [⟨60, 0, .job 0 0, c0.id, some 3, 0, 0, 0, none, .line [] false, .none⟩] } } (.n3 0 0 3)
theorem wit_CopyEngineEvents_timeout : late.jobOf 0 0 = some lateJob ∧ late.bus.outs.any (fun r => r.id == 60) = true ∧
    0 + 2 ^ 20 ≤ late.cycle.toNat := by decide +kernel

/-- A collective item of two ranks that waits for its turn. -/
def collItem (op : Byte) : List Byte := item [(4, op), (28, 1)]
def waitingJob : Job := { job0 0 8 (collItem 0x12) with peers := [0, 0], step := 1, status := stOK }
theorem wit_CollectiveEvents : (∀ k : Fin 5, finds 0 8 (collItem (BitVec.ofNat 8 (0x10 + k.val))) = true ∧
      (job0 0 8 (collItem (BitVec.ofNat 8 (0x10 + k.val)))).op = 0x10 + k.val) ∧ (job0 0 8 (collItem 0x15)).op = 0x15 ∧
    waitingJob.ranks = 2 ∧ ((List.range 8).any fun k => ({ waitingJob with step := k }).awaits) = true ∧
    waitingJob.since + waitingJob.limit ≤ 2 ^ 32 := by decide +kernel
def micro (l : Nat) : State :=
  withArg { m0 with engines := m0.engines.map fun x => { x with mcstat := 1, mcbase := 0x1000, mclen := w64 l } } (.micro 0 0 true 0)
theorem wit_CollectiveEvents_microcode : ((micro 66).engineAt 0 0).map (·.mcstat) = some 1 ∧ (micro 66).engineIdle 0 0 = true ∧
    (micro 66).inHbm 0x1000 66 = true ∧ (micro 66).poisoned 0x1000 66 = false ∧ wbits (w64 65) 16 0 < 66 := by decide +kernel
def stalled : State := withArg { jobbed { job0 0 0 (copyItem 1) with held := some 0 } with cycle := 1024 } (.n2 0 0)
theorem wit_CollectiveEvents_staging : (stalled.jobOf 0 0).bind (·.held) = some 0 ∧ 0 + 1024 ≤ stalled.cycle.toNat := by decide +kernel

/-! #### Link, host, power and boot -/

theorem wit_LinkEvents : m0.linkUp 3 = true ∧ m0.linked = true ∧ m0.linkUp 32 = false ∧ inboundCheck m0.link.peers 7 0 (true, false) = stPermission ∧ inCtlWindow 0 = false ∧ (m0.localHome 0).isMem = true ∧
    m0.stagingFull 0 = false ∧ m0.closing = false ∧ m0.boot.acc1.getLsbD 3 = true ∧ m0.part ≠ 2 := by decide +kernel
/-- Entries that pass requester 7 to the first 64 KiB, its last byte for a read and its first for a write; one that is revoked; a window whose
home is no memory. -/
def passing : List (Nat × Staged 128) := [(0, ⟨BitVec.ofNat 128 (7 * 2 ^ 112 + 3 * 2 ^ 108 + 2 ^ 64 + 2 ^ 110), 0⟩)]
def revoking : List (Nat × Staged 128) := [(0, ⟨BitVec.ofNat 128 (7 * 2 ^ 112 + 3 * 2 ^ 108 + 2 ^ 64 + 2 * 2 ^ 110), 0⟩)]
theorem wit_LinkEvents_pass : inboundCheck passing 7 0xFFFF (remoteNeed (.load 1)) = stOK ∧ inboundCheck passing 7 0 (remoteNeed (.store 1 [1])) = stOK ∧
    inboundCheck passing 7 0x10000 (remoteNeed (.load 1)) = stPermission ∧ inboundCheck revoking 7 0 (remoteNeed (.load 1)) = stNackRevoked ∧
    inCtlWindow 0x2C000000000 = false ∧ (m0.localHome 0x8000000000).isMem = false ∧ pcieOp (.load 4) = true ∧ pcieStore (.store 1 [1]) = true ∧
    pcieOp (.atomic 0 4 0) = false ∧ (3 : Nat) ∉ m0.link.portsDown ∧ m0.bus.outs = [] := by decide +kernel
def refusing : State := { m0 with bus := { m0.bus with outs := [outReq (.load 7 .d64) |> fun r => { r with pkg := some 3 }] } }
theorem wit_LinkEvents_refusal : (refusing.bus.outs.find? fun r => r.id == 42 && r.pkg.isSome).map (·.id) = some 42 := by decide +kernel

theorem wit_DomeEvents : m0.boot.acc0.getLsbD 1 = true ∧ m0.dome.phase = .idle ∧ m0.part ≠ 2 ∧
    ({ m0 with boot := { m0.boot with acc0 := 0 } } : State).boot.acc0.getLsbD 1 = false ∧ m0.frozen = true := by decide +kernel
def phased (p : Dome) : State := withArg { (withCtx opened fun c => { c with handler := some 0, hentry := 1, allowance := 5 }) with
  cycle := 5, dome := { opened.dome with phase := p } } (.actor m0.who)
theorem wit_DomeEvents_handler : (phased .frozen).ctxs.filterMap (fun c => c.handlerActor) = [m0.who] ∧
    ((phased (.handlers [(m0.who, 0)])).actorCtx m0.who).map (·.allowance) = some 5 ∧
    ((phased .copying).closeOrder.map fun p => p.2.index) = [15] ∧ (m0.closeOrder[m0.dome.plates.length]?).isNone = true := by decide +kernel

theorem wit_BootEvents : State.reset.part ≠ 2 ∧ ({ State.reset with boot := { State.reset.boot with stage := 1 } } : State).boot.stage = 1 ∧
    m0.boot.stage = 6 ∧ m0.closing = false := by decide +kernel
def decl1 : CtxDecl := { probeDecl with code := [⟨true, [0, 0], 0, 0x3000⟩] }
/-- An entry of a section table, and an image of one context with the code of its thread. -/
def section_ (kind size off : Nat) : BitVec 256 := BitVec.ofNat 256 (kind + size * 2 ^ 64 + off * 2 ^ 96)
def image1 : Image :=
  { header := BitVec.ofNat 512 (0x57535A4E + 0x41 * 2 ^ 32 + 2 ^ 128 + 2 ^ 144 + 2 * 2 ^ 160 + 256 * 2 ^ 192)
    table := [section_ 10 32 128, section_ 1 2 160], stations := [none], ctxs := [decl1], queues := [], graphs := [], relocs := [], syms := [] }
def request1 (a : Nat) : ActReq := { probeReq with asid := a, place := [1], service := false }
def imaged (a : Nat) : State :=
  withArg { m0 with dome := { m0.dome with checking := false } }
    (.activate image1 (request1 a))
theorem wit_BootEvents_activation : (imaged 2).dome.checking = false ∧ (imaged 2).asidBusy 2 = false ∧
    (match (imaged 2).flush.activate image1 (request1 2) with
      | .ok t => t.ctxs.length == 2
      | .error _ => false) = true ∧
    (match (imaged 1).flush.activate image1 (request1 1) with
      | .ok _ => false
      | .error p => decide (0 < p.1)) = true ∧
    ({ imaged 2 with bus := { (imaged 2).bus with reqs := [{ loadReq with via := some ⟨2, 0, 2 ^ 30⟩ }] } } : State).asidBusy 2 = true := by
  decide +kernel
def plating : State := withArg { m0 with dome := { m0.dome with checking := true, dirs := [⟨true, 4, 1, true, true, [plate0], []⟩] } } (.plates [(0, 0)])
theorem wit_BootEvents_plates : plating.newest = some 0 ∧ plating.dome.checking = true ∧ m0.newest = none := by decide +kernel
def writing : BodyWrite := ⟨plate0, [], 0, 0, 1, 64, [], []⟩
def bodyDone : State := withArg (withCtx m0 fun c => { c with bodyWrite := some writing }) (.n1 c0.id)
theorem wit_BootEvents_body : (bodyDone.ctxOf c0.id).bind (·.bodyWrite) = some writing ∧ writing.begin.pend = [] ∧ bodyDone.mailReady c0.id = true := by decide +kernel

/-! #### Memory and encodings -/

theorem wit_MemoryKept : Memory.wf m0.mem = true ∧ (match step (m0.withFetchWord 16 0xD000) with | .next _ => true | _ => false) = true := by
  decide +kernel
theorem wit_SequencerRoundTrip : (Instr.add 31 0 7).wf = true ∧ (Instr.ld 31 0 .s8 0x7FF).wf = true := by decide +kernel
theorem wit_NodeWordsRoundTrip : (Instr.nodeFadd at0 (bw 1 0)).wf = true ∧ (Instr.nodeFadd at0 (bw 1 0)).enc = .block 0 at0 (bw 1 0) ∧
    (Instr.snodePass ⟨0, 0, 1⟩ wTail).wf = true ∧ (Instr.snodePass ⟨0, 0, 1⟩ wTail).enc = .node 0 ⟨0, 0, 1⟩ wTail := by decide +kernel
theorem wit_WordsHaveOneMeaning : (match decodeParcels [0xE00C, 0x2206] with | .ok (_, n) => n | _ => 0) = 2 ∧
    (match decodeParcels [0xD000, 0] with | .ok (_, n) => n | _ => 0) = 1 := by decide +kernel

/-! #### Images that RESTORE and CTXSW in take -/

/-- Bytes as cells from an address upward. -/
def cellsAt (a : Nat) (bs : List Byte) : List Host.Cell := (bs.zipIdx a).map fun p => (p.2, p.1)

theorem memByte_cellsAt (bs : List Byte) (a i : Nat) (h : i < bs.length) : memByte (cellsAt a bs) (a + i) = bs.getD i 0 := by
  induction bs generalizing a i with
  | nil => cases h
  | cons b bs ih =>
    rcases i with _ | i
    · simp [cellsAt, memByte]
    · have := ih (a + 1) i (by simpa using h)
      simp only [cellsAt, List.zipIdx_cons, List.map_cons, memByte] at this ⊢
      rw [if_neg (by omega), if_neg (by omega), show a + (i + 1) = a + 1 + i by omega, this]
      simp

theorem memByte_above {m : List Host.Cell} (r : List Host.Cell) {x : Nat} (h : m.all (fun c => decide (c.1 < x)) = true) :
    memByte (m ++ r) x = memByte r x := by
  induction m with
  | nil => rfl
  | cons c m ih =>
    obtain ⟨k, v⟩ := c
    simp only [List.all_cons, Bool.and_eq_true, decide_eq_true_eq] at h
    simp only [List.cons_append, memByte]
    rw [if_neg (by omega), if_neg (by omega), ih h.2]

/-- The tables of the context's space, and an image at 0x40000000, which its space maps to that page of HBM. -/
def tablesBelow : List Host.Cell := hbm0.mem.filter fun c => decide (c.1 < 0x40000000)
def imageMem (bs : List Byte) : List Host.Cell := tablesBelow ++ cellsAt 0x40000000 bs

theorem memByte_imageMem (bs : List Byte) (i : Nat) (h : i < bs.length) : memByte (imageMem bs) (0x40000000 + i) = bs.getD i 0 := by
  have below : tablesBelow.all (fun c => decide (c.1 < 0x40000000 + i)) = true := by
    have : tablesBelow.all (fun c => decide (c.1 < 0x40000000)) = true := by decide +kernel
    rw [List.all_eq_true] at this ⊢
    intro c hc
    have := this c hc
    simp only [decide_eq_true_eq] at this ⊢
    omega
  rw [imageMem, memByte_above _ below, memByte_cellsAt _ _ _ h]

/-- Reading an image page by page gives its bytes. -/
theorem readPaged_image {s : State} {bs : List Byte} {fs : List Nat} {off n : Nat} (hm : s.mem = imageMem bs) (hn : off + n ≤ bs.length)
    (hf : ∀ k, 0x10000 * k < off + n → fs.getD k 0 = 0x40000000 + 0x10000 * k) : s.readPaged fs off n = (bs.drop off).take n := by
  apply List.ext_getElem
  · simp [State.readPaged]
    omega
  · intro i h1 h2
    simp only [State.readPaged, List.length_map, List.length_range] at h1
    have e : fs.getD ((off + i) / 0x10000) 0 + (off + i) % 0x10000 = 0x40000000 + (off + i) := by
      rw [hf _ (by omega)]
      omega
    simp only [State.readPaged, List.getElem_map, List.getElem_range, List.getElem_take, List.getElem_drop]
    rw [e, hm, memByte_imageMem _ _ (by omega)]
    simp [List.getD, show off + i < bs.length by omega]

theorem leNat_append (xs ys : List Byte) : leNat (xs ++ ys) = leNat xs + 256 ^ xs.length * leNat ys := by
  induction xs with
  | nil => simp [leNat]
  | cons x xs ih =>
    rw [List.cons_append, leNat, ih, leNat, List.length_cons, Nat.pow_succ, Nat.mul_add, Nat.mul_comm (256 ^ _) 256, Nat.mul_assoc, Nat.add_assoc]

theorem leNat_leBytes (n v : Nat) : leNat (leBytes n v) = v % 256 ^ n := by
  induction n generalizing v with
  | zero => simp [leBytes, leNat, Nat.mod_one]
  | succ n ih =>
    have h : leBytes (n + 1) v = BitVec.ofNat 8 v :: leBytes n (v >>> 8) := by
      simp [leBytes, List.range_succ_eq_map, ← Nat.shiftRight_add, Nat.mul_add, Nat.add_comm]
    have e : v >>> 8 = v / 256 := Nat.shiftRight_eq_div_pow v 8
    have m : v % 256 ^ (n + 1) = v % 256 + 256 * (v / 256 % 256 ^ n) := by rw [Nat.pow_succ, Nat.mul_comm (256 ^ n), Nat.mod_mul]
    rw [h, leNat, ih, BitVec.toNat_ofNat, e, m]

@[irreducible] def zeros (n : Nat) : List Byte := List.replicate n 0

theorem zeros_length (n : Nat) : (zeros n).length = n := by rw [zeros, List.length_replicate]

theorem leNat_zeros (n : Nat) : leNat (zeros n) = 0 := by
  induction n with
  | zero => simp [zeros, leNat]
  | succ n ih => rw [zeros, List.replicate_succ, leNat, ← zeros, ih]; rfl

theorem bytesOf_length (n v : Nat) : (bytesOf n v).length = n := by simp [bytesOf, leBytes]

/-- A region of one page that is saved, and a drain-save of it whose body is zero. -/
def oneByOne : Region := { newRegion probeDecl c0.id 0 5 0 (1, 1) none with freeze := .saved false }
def restBody : List Byte := zeros 0x7FC0
theorem restBody_length : restBody.length = 0x7FC0 := zeros_length _
def restCrc : BitVec 32 := crc32c restBody
def restFields : Nat := 0x52454753 + 2 * 2 ^ 32 + 5 * 2 ^ 48 + 0x8000 * 2 ^ 96
def headWith (crc : Nat) : List Byte := bytesOf 20 restFields ++ (bytesOf 4 crc ++ zeros 40)
def restHead : List Byte := headWith restCrc.toNat
def restImage : List Byte := restHead ++ restBody
def restoring : State := withRegs { hbm0 with mem := imageMem restImage, regions := [oneByOne] } [(3, 0), (4, 0x40000000)]
def restRead (s : State) : State × Pages := xlatePages (.station 0) 1 .r true 1 0x40000000 s

theorem restRead_mem (s : State) : (restRead s).1.mem = s.mem := (xlatePages_walks (.station 0) 1 .r true 1 0x40000000 s).keeps.1

theorem headWith_length (crc : Nat) : (headWith crc).length = 64 := by
  rw [headWith, List.length_append, List.length_append, bytesOf_length, bytesOf_length, zeros_length]

theorem restHead_length : restHead.length = 64 := headWith_length _

theorem restImage_length : restImage.length = 0x8000 := by
  rw [restImage, List.length_append, restHead_length, restBody_length]

theorem headWith_value (crc : Nat) (h : crc < 2 ^ 32) : leNat ((headWith crc).take 64) = restFields + 2 ^ 160 * crc := by
  have e : restFields % 256 ^ 20 = restFields := by decide
  have c : crc % 256 ^ 4 = crc := Nat.mod_eq_of_lt h
  have p : (2 : Nat) ^ 160 = 256 ^ 20 := by decide
  rw [p, List.take_of_length_le (Nat.le_of_eq (headWith_length crc)), headWith, leNat_append, leNat_append, bytesOf_length, leNat_zeros, bytesOf,
    bytesOf, leNat_leBytes, leNat_leBytes, e, c, Nat.mul_zero, Nat.add_zero]

/-- A field of the header below its CRC. -/
theorem headWith_field {crc hi lo : Nat} (hc : crc < 2 ^ 32) (h : hi + 1 ≤ 160) (hl : lo ≤ hi + 1) :
    headerField (headWith crc) hi lo = bitsOf restFields hi lo := by
  have e : 2 ^ 160 * crc = 2 ^ lo * (2 ^ (hi + 1 - lo) * (2 ^ (160 - (hi + 1)) * crc)) := by
    rw [← Nat.mul_assoc, ← Nat.mul_assoc, ← Nat.pow_add, ← Nat.pow_add, show lo + (hi + 1 - lo) + (160 - (hi + 1)) = 160 by omega]
  rw [headerField, headWith_value _ hc, bitsOf, bitsOf, e, Nat.shiftRight_eq_div_pow, Nat.shiftRight_eq_div_pow,
    Nat.add_mul_div_left _ _ (Nat.two_pow_pos lo), Nat.add_mul_mod_self_left]

theorem headWith_crc {crc : Nat} (h : crc < 2 ^ 32) : headerField (headWith crc) 191 160 = crc := by
  have e : restFields / 2 ^ 160 = 0 := by decide
  rw [headerField, headWith_value _ h, bitsOf, Nat.shiftRight_eq_div_pow, Nat.add_mul_div_left _ _ (Nat.two_pow_pos 160), e, Nat.zero_add]
  exact Nat.mod_eq_of_lt h

theorem restHead_field {hi lo : Nat} (h : hi + 1 ≤ 160) (hl : lo ≤ hi + 1) : headerField restHead hi lo = bitsOf restFields hi lo :=
  headWith_field restCrc.isLt h hl

theorem restHead_crc : headerField restHead 191 160 = restCrc.toNat := headWith_crc restCrc.isLt

theorem rest_body : (restImage.drop 64).take (0x8000 - 64) = restBody := by
  have h : restImage.drop 64 = restBody := List.drop_left' restHead_length
  rw [h]
  exact List.take_of_length_le (Nat.le_of_eq restBody_length)

/-- Both translations of RESTORE give the page of the image, and its bytes are read there. -/
theorem rest_read {s : State} {n off : Nat} (hm : s.mem = imageMem restImage) (hn : off + n ≤ 0x8000) :
    s.readPaged [0x40000000] off n = (restImage.drop off).take n := by
  refine readPaged_image hm (by rw [restImage_length]; exact hn) fun k h => ?_
  obtain rfl : k = 0 := by omega
  rfl

theorem wit_Preemption_restore : Ready ⟨.all, true, [7, 3, 4], []⟩ restoring ∧ restoring.space restoring.who = some (1, true, .station 0) ∧
    (restRead restoring).2 = .ok [0x40000000] ∧ ((restRead restoring).1.home 0x40000000).isMem = true ∧
    (restRead restoring).1.space (restRead restoring).1.who = some (1, true, .station 0) ∧
    (restRead (restRead restoring).1).2 = .ok [0x40000000] ∧ ((restRead (restRead restoring).1).1.home 0x40000000).isMem = true ∧
    (restRead (restRead restoring).1).1.regionOf 5 = some oneByOne ∧
    ((restRead (restRead restoring).1).1.findRect (restRead (restRead restoring).1).1.regions 0 1 1).isSome = true ∧
    imageSize 1 false = 0x8000 := by
  and_intros <;> first | decide +kernel | exact ready_of (by decide +kernel)

theorem wit_Preemption_restore_image :
    (restRead restoring).1.readPaged [0x40000000] 0 64 = restHead ∧
    headerField restHead 31 0 = 0x52454753 ∧ headerField restHead 39 32 = 2 ∧ headerField restHead 43 40 = 0 ∧ headerField restHead 46 44 = 0 ∧
    headerField restHead 127 96 = 0x8000 ∧ headerField restHead 63 48 = 5 ∧
    (crc32c ((restRead (restRead restoring).1).1.readPaged [0x40000000] 64 (0x8000 - 64))).toNat = headerField restHead 191 160 := by
  have h1 : (restRead restoring).1.mem = imageMem restImage := (restRead_mem _).trans rfl
  have h2 : (restRead (restRead restoring).1).1.mem = imageMem restImage := (restRead_mem _).trans h1
  have body : (crc32c ((restRead (restRead restoring).1).1.readPaged [0x40000000] 64 (0x8000 - 64))).toNat = headerField restHead 191 160 := by
    rw [restHead_crc, rest_read h2 (by decide), rest_body, restCrc]
  refine ⟨?_, ?_, ?_, ?_, ?_, ?_, ?_, body⟩
  · rw [rest_read h1 (by decide), restImage, List.drop_zero, List.take_left' restHead_length]
  all_goals rw [restHead_field (by decide) (by decide)]; rfl

/-- A save area whose body is the head of context 38, and nothing else. -/
def areaBody : List Byte := bytesOf 8 0x57534358 ++ (bytesOf 8 (Config.ctxHead 0 1 1).toNat ++ zeros (areaCheck - 16))
def areaTail : List Byte := zeros (areaChecked - areaCheck - 8)
def areaWith (crc : Nat) : List Byte := areaBody ++ (bytesOf 8 crc ++ areaTail)
def parked : Ctx := { c1 with resident := false }
def areaPages : List Nat := [0x40000000, 0x40010000, 0x40020000, 0x40030000]
def areaSums : BitVec 32 := areaCrc (areaWith 0)
def switchingIn : State := withRegs { hbm0 with mem := imageMem (areaWith areaSums.toNat), ctxs := m0.ctxs ++ [parked] } [(3, 0x1100), (4, 0x40000000)]
def areaRead (s : State) : State × Pages := xlatePages (.station 0) 1 .r true 4 0x40000000 s

theorem areaRead_keeps (s : State) : (areaRead s).1.mem = s.mem ∧ (areaRead s).1.ctxs = s.ctxs := by
  have h := (xlatePages_walks (.station 0) 1 .r true 4 0x40000000 s).keeps
  exact ⟨h.1, h.2.2.1⟩

theorem areaBody_length : areaBody.length = areaCheck := by
  rw [areaBody, List.length_append, List.length_append, bytesOf_length, bytesOf_length, zeros_length]
  rfl

theorem areaTail_length : areaTail.length = areaChecked - areaCheck - 8 := zeros_length _

theorem areaWith_length (n : Nat) : (areaWith n).length = areaChecked := by
  rw [areaWith, List.length_append, List.length_append, areaBody_length, bytesOf_length, areaTail_length]
  rfl

/-- The check does not depend on the word that holds it. -/
theorem areaWith_crc (n : Nat) : areaCrc (areaWith n) = crc32c (areaBody ++ List.replicate 8 0 ++ areaTail) := by
  have t : (areaWith n).take areaCheck = areaBody := List.take_left' areaBody_length
  have d : ((areaWith n).take areaChecked).drop (areaCheck + 8) = areaTail := by
    rw [List.take_of_length_le (Nat.le_of_eq (areaWith_length n)), areaWith, ← List.append_assoc]
    exact List.drop_left' (by rw [List.length_append, areaBody_length, bytesOf_length])
  rw [areaCrc, t, d]

/-- A field of eight bytes between others. -/
theorem wordAt_mid (pre post : List Byte) (v : Nat) (h : v < 2 ^ 64) : wordAt (pre ++ (bytesOf 8 v ++ post)) pre.length = w64 v := by
  have e : v % 256 ^ 8 = v := Nat.mod_eq_of_lt h
  rw [wordAt, List.drop_left, List.take_left' (bytesOf_length 8 v), bytesOf, leNat_leBytes, e]

theorem areaWith_check (n : Nat) (h : n < 2 ^ 64) : wordAt (areaWith n) areaCheck = w64 n := by
  have := wordAt_mid areaBody areaTail n h
  rwa [areaBody_length] at this

theorem areaWith_head (n : Nat) : wordAt (areaWith n) 8 = Config.ctxHead 0 1 1 := by
  have := wordAt_mid (bytesOf 8 0x57534358) (zeros (areaCheck - 16) ++ (bytesOf 8 n ++ areaTail)) _ (Config.ctxHead 0 1 1).isLt
  rw [bytesOf_length] at this
  rw [areaWith, areaBody, List.append_assoc, List.append_assoc, this]
  exact BitVec.ofNat_toNat _ _

theorem areaWith_magic (n : Nat) : wordAt (areaWith n) 0 = 0x57534358 := by
  rw [areaWith, areaBody, List.append_assoc]
  exact wordAt_mid [] _ 0x57534358 (by decide)

theorem areaWith_sums (n : Nat) : areaCrc (areaWith n) = areaSums := (areaWith_crc n).trans (areaWith_crc 0).symm

theorem w64_toNat (c : BitVec 32) : w64 c.toNat = c.setWidth 64 := BitVec.eq_of_toNat_eq (by simp [w64])

/-- An area whose check is that of its bytes, in the state after its translation, and the context it is of. -/
theorem area_words {s : State} {c : BitVec 32} (hm : s.mem = imageMem (areaWith c.toNat)) (hs : areaCrc (areaWith c.toNat) = c)
    (hc : s.ctxs = m0.ctxs ++ [parked]) :
    let bs := s.readPaged areaPages 0 areaChecked
    wordAt bs 0 = 0x57534358 ∧ wordAt bs areaCheck = (areaCrc bs).setWidth 64 ∧
    (s.ctxs.find? fun c => !c.resident && c.swapping.isNone && Config.ctxHead c.station c.slot c.asid == wordAt bs 8) = some parked := by
  have hb : s.readPaged areaPages 0 areaChecked = areaWith c.toNat := by
    rw [readPaged_image hm (by rw [areaWith_length]; decide), List.drop_zero, List.take_of_length_le (Nat.le_of_eq (areaWith_length _))]
    intro k hk
    have : k < 2 := by simp only [areaChecked] at hk; omega
    rcases k with _ | _ | _ <;> first | rfl | omega
  have r : ∀ x ∈ m0.ctxs, x.resident = true := by decide +kernel
  dsimp only
  rw [hb, hc, areaWith_magic, areaWith_check _ (Nat.lt_trans c.isLt (by decide)), areaWith_head, hs]
  refine ⟨rfl, w64_toNat c, ?_⟩
  rw [List.find?_append, List.find?_eq_none.2 (by intro x hx; simp [r x hx]), Option.none_or]
  have e : parked.station = 0 ∧ parked.slot = 1 ∧ parked.asid = 1 ∧ parked.resident = false ∧ parked.swapping.isNone = true := by decide +kernel
  simp [e]

theorem wit_Preemption_in_words :
    let bs := (areaRead switchingIn).1.readPaged areaPages 0 areaChecked
    wordAt bs 0 = 0x57534358 ∧ wordAt bs areaCheck = (areaCrc bs).setWidth 64 ∧
    ((areaRead switchingIn).1.ctxs.find? fun c => !c.resident && c.swapping.isNone && Config.ctxHead c.station c.slot c.asid == wordAt bs 8) =
      some parked :=
  area_words ((areaRead_keeps _).1.trans rfl) (areaWith_sums _) ((areaRead_keeps _).2.trans rfl)

theorem wit_Preemption_in : Ready ⟨.all, true, [7, 3, 4], []⟩ switchingIn ∧ switchingIn.space switchingIn.who = some (1, true, .station 0) ∧
    ((0x1100 : Word) &&& 0xFFFFFFFFFFFFFC80#64) = 0x1000 ∧ (areaRead switchingIn).2 = .ok areaPages ∧
    (areaPages.all fun f => ((areaRead switchingIn).1.home f).isMem) = true ∧ (areaRead switchingIn).1.ctxAt 0 1 = none ∧
    (((areaRead switchingIn).1.freeHw 0).take parked.threads.length).length = parked.threads.length ∧
    ((areaRead switchingIn).1.bus.outs.any fun r => r.ctx == parked.id) = false := by
  refine ⟨ready_of (by decide +kernel), by and_intros <;> decide +kernel⟩

/-! #### Further clauses -/

/-- A thread whose access to its scratchpad takes a time, and a request that waits at that home. -/
def slowed : State := { edge with model := { edge.model with slow := true } }
def nearReq : MemReq := { loadReq with ctl := 96, pa := 0x10000000000 }
theorem wit_RemoteAccessEvents_slow : (slowed.checkAccess (slowed.reg 5) 8 .r false).2 = .go 0x1000003FFF8 gib0 ∧
    (checked slowed (slowed.reg 5) 8 .r false).fenced ((checked slowed (slowed.reg 5) 8 .r false).home 0x1000003FFF8) true = false ∧
    (checked slowed (slowed.reg 5) 8 .r false).home 0x1000003FFF8 = .spad 0 0x1000003FFF8 ∧
    (checked slowed (slowed.reg 5) 8 .r false).goesSlow 96 = true ∧ 96 ≤ nearReq.ctl ∧ nearReq.due ≤ m0.cycle.toNat := by decide +kernel

/-- Values at the edges of what the registers take; a hart's k.lcomb; and numbers that name no register. -/
theorem wit_ControlRegisters_refused : Ready (.plain [2]) m0 ∧ c0.isProt = false ∧ c0.handler = none ∧ m0.getK 0xFF = none ∧
    (0x7FFFC0 : Word).toNat < 2 ^ 23 ∧ (0x7FFFC0 : Word).toNat % 64 = 0 ∧ ((1 : Word) &&& 0xFF0000000000FFFE#64) = 0 ∧
    ((2 : Word) &&& 0xFF0000000000FFFE#64) ≠ 0 ∧ he.resultsOut = false ∧ (0x43 : Word).toNat % 16 < 4 ∧ (0x43 : Word).toNat / 16 < 5 ∧
    5 ≤ (0x50 : Word).toNat / 16 :=
  ⟨ready_of (by decide +kernel), by and_intros <;> decide +kernel⟩

/-- The context of slot 1 has been captured, and the thread waits for its switch. -/
def captured : State :=
  withThr { swap 0x100 0x40000000 with ctxs := m0.ctxs ++ [{ c1 with resident := false, swapping := some 0, hold := true }] } fun t =>
    { t with wait := .system 0 }
theorem wit_Preemption_finish : Ready ⟨.all, true, [7, 3, 4], []⟩ captured ∧ areaOk captured 0x40000 1 = true ∧ sysWait captured.cpu.wait = true ∧
    ((captured.swapped 0 1).map fun c => (c.id, captured.sfuOfCtx c.id)) = some (38, false) ∧
    (match xlatePages (.station 0) 1 .w true (pagesOf 0x40000000 0x40000) 0x40000000 captured with
      | (s', .ok fs) => fs.length == 4 && fs.eraseDups.length == 4 && (fs.all fun f => f % 0x10000 == 0) && Memory.wf s'.mem &&
          s'.health.dead.isEmpty && s'.health.deadPch.isEmpty && s'.ctxs.all fun c => !c.isProt
      | _ => false) = true :=
  ⟨ready_of (by decide +kernel), by and_intros <;> decide +kernel⟩
theorem wit_Preemption_capture : (swapping.ctxOf 38).isSome = true ∧ swapping.ctxIdOf swapping.who ≠ 38 ∧ swapping.who = .thread 0 0 0 ∧
    swapping.myCtx.map (·.id) = some c0.id ∧ (r0.w, r0.h) = (2, 2) ∧ (2 * 2 ≤ 128) := by decide +kernel

/-- An index at the count and past it; and a context with a body write. -/
theorem wit_HoldUp_empty : [plate0].length ≤ wbits (0x10001 : Word) 29 16 ∧ wbits (0x10000 : Word) 29 16 ≠ 0 ∧
    platerdBad 0x10001 0x40000000 = false ∧ platerdBad 0x10000 0x40000000 = false ∧ platerdBad 0x10002 0x40000000 = false ∧
    platerdBad 0x10007 0x40000000 = false ∧
    ((withCtx (plated 7) fun c => { c with bodyWrite := some writing }).myCtx.map fun c => c.bodyWrite.isSome) = some true := by decide +kernel

/-- An invocation that ends with nothing waiting for it. -/
def ending : State := ran fun i => { i with trips := some [], started := 1, brs := [(0, 0)] }
theorem wit_CommitsAndDiscards_results : (ending.regionOf 5).map (fun r => (r.handle, r.cmds.length)) = some (5, 0) ∧ (ending.ctxOf cr.id) = some cr ∧
    (ending.domains.all fun d => d.episodes.isEmpty) = true ∧ Memory.wf ending.mem = true ∧ ending.health.dead = [] ∧ ending.health.deadPch = [] ∧
    (ending.ctxs.all fun c => !c.isProt) = true ∧ cr.resident = true ∧ cr.spill = [] ∧ cr.mailbox.length < 256 ∧
    (ending.bus.mails.any fun m => m.1 == cr.id) = false ∧ (ending.home 0x10000000000).isMem = true := by decide +kernel

/-- A region whose QOUT names handle 0 stops; and a gang at rest without an MSTAT. -/
def quietOut : State := { quiet { gang0 with qstate := 1, qnumber := 1 } with
  ctxs := mr.ctxs.map fun c => { c with bindings := [(0, ⟨9, some 4, some (.ctx c.id), none⟩)] }
  regions := [{ r0 with cmds := [.marker 1], blocks := [blockOfWords [bnode 0x65 (bw 12 0)]] }] }
theorem wit_RegionEvents_qout : (quietOut.regionOf 5).map (fun r => (r.stopped, r.invs.length, quietOut.regionRuns r, quietOut.inputsMarked r,
      r.blocks.any fun b => b.nodes.any fun x => x.2.1 == 0x65 && ((quietOut.owner r).any fun c => (quietOut.nodeQueue c x.2.2.queue).any fun p => p.2.id == 9))) =
      some (false, 0, true, true, true) ∧
    (quietOut.regions.all fun r => r.cmds.all fun e => match e with | .stat _ _ => false | _ => true) = true := by decide +kernel

/-! #### The head of a graph -/

/-- A graph of one node, and a write stream of tile 1 whose head waits for its first flit; the same at its end, and on the SOUT buffer. -/
def wLone : NodeWord := ⟨1#4, 0#4, 6#4, 13#4, 0⟩
def lone (op : Nat) (f : Stream → Stream) : State :=
  let s := gs op wLone
  let s := { s with graphs := [⟨0, 0, 0, [snode op wLone]⟩] }
  let s := s.openAt ct { openD with write := true, requester := .tile 0 1 } ⟨0, 0, 0, [snode op wLone]⟩ 0 0
  { s with streams := s.streams.map fun x => f { x with nodes := x.nodes.map fun n => { n with hungry := true } } }
theorem wit_StreamFlow_head : (stream0 (lone 0 id)).map (fun x => (x.moving, x.write, x.headDone, x.aborted, x.fromTile)) = some (false, true, false, false, true) ∧
    (stream0 (lone 0 id)).map (fun x => x.nodes.map fun n => (n.hungry, n.out.length)) = some [(true, 0)] ∧
    ((stream0 (lone 0 id)).bind fun x => ((lone 0 id).streamTile x).map fun p => decide (x.reqDone < p.2.flits)) = some true ∧
    ((stream0 (lone 0 fun x => { x with reqDone := 99 })).bind fun x => ((lone 0 id).streamTile x).map fun p => decide (p.2.flits ≤ x.reqDone)) =
      some true ∧
    (stream0 (lone 0 fun x => { x with requester := .region 5 0, wbuf := [List.replicate 64 1, List.replicate 64 2] })).map (fun x => (x.fromTile, x.wbuf.length)) =
      some (false, 2) := by decide +kernel
/-- The head has taken its flit, and can work. -/
theorem wit_StreamValueNodes_head : ((stream0 (lone 0 id)).map fun x => headNode ((lone 0 id).graphWords x)) = some 0 ∧
    ((stream0 (lone 0 id)).bind fun x => ((lone 0 id).takeHead x).openStream 0 0).map (fun y =>
      (y.aborted, y.nodes.map fun n => (n.inA.length, n.ended, n.out.length))) = some (false, [(1024, false, 0)]) := by decide +kernel
theorem wit_StreamControl_mail : over_.mailReady ct.id = true ∧
    ({ over_ with bus := { over_.bus with mails := [(ct.id, 0)] } } : State).mailReady ct.id = false := by decide +kernel

/-! #### Engines, collectives and boot -/

/-- A copy from tile 0 to tile 1 of the context, accepted; and the same engine without power. -/
def tileJob : Job := { job0 0 0 (item [(4, 1), (24, 0x40)]) with step := 1, srcTile := some (c0.id, 0), dstTile := some (c0.id, 1) }
def copying : State :=
  { withCtx (jobbed tileJob) fun c => { c with tiles := [(0, ⟨.ready, 0, 1, false, [64], 0, 0⟩), (1, ⟨.ready, 0x1000, 1, false, [64], 0, 0⟩)] } with
    mem := memWrite hbm0.mem 0x10000000000 [1, 2, 3] }
def unpowered : State := { copying with dome := { copying.dome with phase := .frozen } }
theorem wit_CopyEngineEvents_steps : copying.jobOf 0 0 = some tileJob ∧ tileJob.page = none ∧ tileJob.status = stOK ∧ tileJob.moving = false ∧
    tileJob.pend = [] ∧ tileJob.next = 0 ∧ tileJob.length = 64 ∧ copying.engineRuns 0 0 = true ∧ unpowered.engineRuns 0 0 = false ∧
    Memory.wf copying.mem = true ∧ copying.health.dead = [] ∧ copying.health.deadPch = [] ∧ (copying.ctxs.all fun c => !c.isProt) = true ∧
    ((copying.ctxOf c0.id).bind fun c => (c.tileAt 0).map fun t => copying.home (c.partAddr t.base)) = some (.spad 0 0x10000000000) ∧
    ((copying.ctxOf c0.id).bind fun c => (c.tileAt 1).map fun t => copying.home (c.partAddr t.base)) = some (.spad 0 0x10000001000) ∧
    copying.poisoned 0x10000000000 64 = false := by decide +kernel
/-- A multicast of the partition's first 64 bytes to packages 3 and 4, of which 4 cannot be reached. -/
def castJob : Job := { job0 0 0 (item [(4, 2), (24, 0x40)]) with step := 1 }
def casting : State :=
  { jobbed castJob with
    pkgValid := true
    link := { hbm0.link with
      unreachable := [4]
      groups := [(castJob.group, ⟨1#1024 <<< 3 ||| 1#1024 <<< 4 ||| 1#1024 <<< 575 ||| 0xFFFFFFFF#1024 <<< 576, 0⟩)] } }
theorem wit_CopyEngineEvents_cast : casting.jobOf 0 0 = some castJob ∧ castJob.moving = false ∧ castJob.next < castJob.length ∧
    (match casting.jobPlace castJob (itemBits castJob.item 127 64) castJob.srcTile castJob.next .r with
      | (u, .ok pa _) => decide (u.home pa = .spad 0 0x10000000000) && !u.poisoned 0x10000000000 64 && u.pkgValid &&
          (u.groupOf castJob.group).cur.getLsbD 575 && (groupMembers (u.groupOf castJob.group).cur).getLsbD 3 && !u.link.unreachable.contains 3 &&
          (groupMembers (u.groupOf castJob.group).cur).getLsbD 4
      | _ => false) = true := by decide +kernel

/-- A reduction of two ranks in the partition: buffer at 0, exchange areas at 0x1000 and 0x2000, of blocks of 64 bytes. -/
def ringItem (op : Byte) : List Byte := item [(4, op), (5, 1), (17, 0x30), (24, 0x40), (28, 1), (33, 0x10)]
def ringJob (op : Byte) (step : Nat) : Job := { job0 0 8 (ringItem op) with peers := [0x1000, 0x2000], step := step }
/-- The job's access at a virtual address reaches 64 aligned bytes of the scratchpad. -/
def reaches (s : State) (j : Job) (va : Nat) (need : Need) : Option (State × Nat) :=
  match s.jobAccess j va need with
  | (u, .ok pa _) => match u.home pa with
    | .spad _ l => if l % 64 = 0 ∧ Memory.wf u.mem ∧ u.health.dead = [] ∧ u.health.deadPch = [] ∧ (u.ctxs.all fun c => !c.isProt) then some (u, l) else none
    | _ => none
  | _ => none
def stepKind : CStep → Nat
  | .send _ _ _ _ _ => 0
  | .recv _ _ => 1
  | .combine _ l => if l then 3 else 2
  | .place _ => 4
  | .own | .scan _ | .zero _ => 5
theorem wit_CollectiveEvents_steps : collBad (ringJob 0x10 0) = false ∧ (ringJob 0x10 0).peers.length = (ringJob 0x10 0).ranks ∧
    (ringJob 0x10 0).next < (ringJob 0x10 0).blockBytes ∧ (ringJob 0x10 0).held = none ∧ (ringJob 0x10 0).page = none ∧
    (ringJob 0x10 0).status = stOK ∧ (jobbed (ringJob 0x10 0)).jobOf 0 8 = some (ringJob 0x10 0) ∧
    ((reaches (jobbed (ringJob 0x10 0)) (ringJob 0x10 0) 0x40 .r).bind fun p => (reaches p.1 (ringJob 0x10 0) 0x2000 .w).map fun q =>
      (p.1.poisoned p.2 64, p.2, q.2, q.1.stagingFull q.2)) = some (false, 0x10000000040, 0x10000002000, false) ∧
    (ringJob 0x10 0).steps.1.map stepKind = [0, 1, 3, 0, 1, 4] ∧
    (ringJob 0x11 0).steps.2.length = 1 ∧
    (jobbed (ringJob 0x10 0)).engineRuns 0 8 = true := by decide +kernel

/-- A boot at hand in stage `n`; an image with the fused key, as far as the die has it. -/
def bootWith (failure die : Nat) : BootInput :=
  { failure := failure, die := die, digest := 5, keyDigest := Config.fusedKey, version := Config.fusedVersion, bankOk := true, services := [] }
def booting (n : Nat) (x : BootInput) : State :=
  withArg { State.reset with boot := { State.reset.boot with stage := n, input := some x } } (.boot x)
theorem code_of (failure die : Nat) (h : failure ≠ 1 ∧ failure ≠ 2) : bootCode (bootWith failure die) = failure := by
  simp [bootCode, bootWith, h]
theorem wit_BootEvents_stages : bootCode (bootWith 0 0) = 0 ∧ bootCode (bootWith 5 0) = 5 ∧ bootCode (bootWith 6 0) = 6 ∧ bootCode (bootWith 7 0) = 7 ∧
    bootCode (bootWith 1 0) = 1 ∧ (bootWith 1 1).die ≠ 0 ∧ (booting 1 (bootWith 0 0)).boot.log = [] ∧ (booting 4 (bootWith 0 0)).dome.checking = false :=
  ⟨code_of 0 0 (by decide), code_of 5 0 (by decide), code_of 6 0 (by decide), code_of 7 0 (by decide), by simp [bootCode, bootWith], by decide,
    rfl, rfl⟩
theorem wit_BootEvents_installs : (match applyRelocs (request1 2).place (lowestFree ((imaged 2).flush.regions.map (·.handle)) image1.regions.length) []
      image1.relocs image1 with | .ok p => p.ctxs.length == 1 | .error _ => false) = true ∧ (request1 2).replace = none ∧
    ((imaged 2).flush.ctxs.all fun c => decide (c.id < (imaged 2).flush.model.nextId ∧ c.gang < (imaged 2).flush.model.nextId)) = true ∧
    ((imaged 2).flush.gangs.all fun g => decide (g.id < (imaged 2).flush.model.nextId)) = true := by decide +kernel
theorem wit_BootEvents_mail : ({ bodyDone with bus := { bodyDone.bus with mails := [(c0.id, 0)] } } : State).mailReady c0.id = false := by
  decide +kernel

/-- In some step of a gather, a block that the rank has received is not yet placed. -/
theorem wit_LinkEvents_busy : ((List.range 8).any fun k =>
      ({ jobbed (ringJob 0x12 0) with jobs := [{ ringJob 0x12 0 with step := k }] } : State).stagingFull 0x10000001000 ||
      ({ jobbed (ringJob 0x12 0) with jobs := [{ ringJob 0x12 0 with step := k }] } : State).stagingFull 0x10000001040) = true ∧
    transferOp (.line [] false) = true ∧ transferOp (.load 8) = false ∧ ¬((2 = 4 ∨ 2 = 8) ∧ 0 % 2 = 0) ∧ ¬((4 = 4 ∨ 4 = 8) ∧ 0x42 % 4 = 0) := by
  decide +kernel

end Sys2Proof.Tests
end

section
/-! SUPPORT and PROOFS. What a store to the control window leaves (R30, R78, R159, R319, R329, R368-R373, R380, R394, R407, R436, R441, R442,
R452-R456): the facts about tables and bit fields first, then one lemma per register or table and case, then the obligation. -/

namespace Sys2Proof.Machine

open Claims

/-! ### Tables and lists -/

theorem lookup_assign {κ α : Type} [DecidableEq κ] (t : List (κ × α)) (k j : κ) (v : α) :
    lookup (assign t k v) j = if k = j then some v else lookup t j := by
  induction t with
  | nil => rfl
  | cons p r ih =>
    obtain ⟨k', v'⟩ := p
    by_cases hk : k' = k
    · subst hk
      by_cases hj : k' = j <;> simp [assign, lookup, hj]
    · by_cases hj : k' = j
      · subst hj
        simp [assign, lookup, hk, Ne.symm hk]
      · simp [assign, lookup, hk, hj, ih]

theorem lookupD_assign {κ α : Type} [DecidableEq κ] (t : List (κ × α)) (k j : κ) (v d : α) :
    lookupD (assign t k v) j d = if k = j then v else lookupD t j d := by
  unfold lookupD
  rw [lookup_assign]
  split <;> rfl

@[simp] theorem lookupD_assign_self {κ α : Type} [DecidableEq κ] (t : List (κ × α)) (k : κ) (v d : α) :
    lookupD (assign t k v) k d = v := by
  rw [lookupD_assign, if_pos rfl]

theorem lookupD_assign_ne {κ α : Type} [DecidableEq κ] {k j : κ} (h : j ≠ k) (t : List (κ × α)) (v d : α) :
    lookupD (assign t k v) j d = lookupD t j d := by
  rw [lookupD_assign, if_neg h.symm]

/-- A key that a table does not hold is the key of none of its rows. -/
theorem any_key_of_lookup_none {κ α : Type} [DecidableEq κ] {t : List (κ × α)} {k : κ} (h : lookup t k = none) :
    (t.any fun p => p.1 == k) = false := by
  induction t with
  | nil => rfl
  | cons p r ih =>
    obtain ⟨k', v'⟩ := p
    by_cases hk : k' = k
    · simp [lookup, hk] at h
    · simp only [lookup, if_neg hk] at h
      simp [hk, ih h]

/-- Only the first element that satisfies the predicate is looked at. -/
theorem modifyFirst_congr {α : Type} {p : α → Bool} {f g : α → α} {l : List α} (h : ∀ a, l.find? p = some a → f a = g a) :
    modifyFirst p f l = modifyFirst p g l := by
  induction l with
  | nil => rfl
  | cons a r ih =>
    cases hp : p a with
    | true => simp only [modifyFirst, hp, if_true, h a (List.find?_cons_of_pos hp)]
    | false =>
      have hr := ih fun b hb => h b ((List.find?_cons_of_neg (by simp [hp])).trans hb)
      simp [modifyFirst, hp, hr]

theorem find?_modifyFirst {α : Type} {p : α → Bool} {f : α → α} (hf : ∀ a, p (f a) = p a) (l : List α) :
    (modifyFirst p f l).find? p = (l.find? p).map f := by
  induction l with
  | nil => rfl
  | cons a r ih => cases hp : p a <;> simp [modifyFirst, hp, hf, ih]

/-! ### Bit fields -/

theorem testBit_bitsOf (x hi lo i : Nat) : (bitsOf x hi lo).testBit i = (decide (i < hi + 1 - lo) && x.testBit (lo + i)) := by
  rw [bitsOf, Nat.testBit_mod_two_pow, Nat.testBit_shiftRight]

/-- The number made of the bits `b 0` to `b (n - 1)`. -/
theorem foldl_bits_testBit (b : Nat → Bool) (n : Nat) :
    ((List.range n).foldl (fun a i => a + boolNat (b i) * 2 ^ i) 0) < 2 ^ n ∧
      ∀ i, i < n → ((List.range n).foldl (fun a i => a + boolNat (b i) * 2 ^ i) 0).testBit i = b i := by
  induction n with
  | zero => simp
  | succ n ih =>
    obtain ⟨hlt, hbit⟩ := ih
    rw [List.range_succ, List.foldl_append, List.foldl_cons, List.foldl_nil]
    generalize (List.range n).foldl (fun a i => a + boolNat (b i) * 2 ^ i) 0 = low at hlt hbit ⊢
    constructor
    · have : boolNat (b n) * 2 ^ n ≤ 1 * 2 ^ n := Nat.mul_le_mul_right _ (by cases b n <;> decide)
      omega
    · intro i hi
      rw [Nat.add_comm, Nat.mul_comm, Nat.testBit_two_pow_mul_add _ hlt]
      by_cases h : i < n
      · rw [if_pos h, hbit i h]
      · obtain rfl : i = n := by omega
        rw [if_neg h, Nat.sub_self]
        cases b i <;> rfl

theorem wbits_high_eq_zero_iff (v : Word) : wbits v 63 7 = 0 ↔ v.toNat < 128 := by
  have := v.isLt
  simp only [wbits, bitsOf, Nat.shiftRight_eq_div_pow]
  omega

/-- Word `k` of a wide register that has just been written. -/
theorem putWord_getLsbD {w : Nat} (x : BitVec w) (k : Nat) (v : Word) {i : Nat} (hi : i < 64) (hw : 64 * k + i < w) :
    (putWord x k v).getLsbD (64 * k + i) = v.getLsbD i := by
  have here : ¬ 64 * k + i < 64 * k := by omega
  have inside : i < w := by omega
  simp only [putWord, BitVec.getLsbD_or, BitVec.getLsbD_and, BitVec.getLsbD_not, BitVec.getLsbD_shiftLeft, BitVec.getLsbD_setWidth,
    BitVec.getLsbD_allOnes, Nat.add_sub_cancel_left, hw, hi, here, inside, decide_true, decide_false, Bool.not_true, Bool.not_false,
    Bool.true_and, Bool.and_false, Bool.false_or]

/-- The state field of a peer entry whose bytes 8-15 have just been written (R370). -/
theorem peerState_putWord (x : BitVec 128) (v : Word) : peerState (putWord x 1 (v &&& peerMask)) = wbits v 47 46 := by
  refine Nat.eq_of_testBit_eq fun i => ?_
  rw [peerState, wbits, testBit_bitsOf, testBit_bitsOf]
  by_cases hi : i < 2
  · have kept : peerMask.getLsbD (46 + i) = true := by
      obtain rfl | rfl : i = 0 ∨ i = 1 := by omega
      · decide
      · decide
    have written := putWord_getLsbD x 1 (v &&& peerMask) (i := 46 + i) (by omega) (by omega)
    rw [BitVec.getLsbD_and, kept, Bool.and_true, show 64 * 1 + (46 + i) = 110 + i by omega] at written
    simp only [BitVec.testBit_toNat, written, hi, Nat.reduceAdd, Nat.reduceSub]
  · simp [hi]

/-- Bits [1] and [2] are cleared together unless they are equal (R452). -/
theorem pairedBits_getLsbD (x : Word) {i : Nat} (hi : i < 64) :
    (if x.getLsbD 1 ≠ x.getLsbD 2 then x &&& ~~~ 6#64 else x).getLsbD i =
      if i = 1 ∨ i = 2 then x.getLsbD 1 && x.getLsbD 2 else x.getLsbD i := by
  have six : ∀ i : Fin 64, (6#64).getLsbD i = decide (i.val = 1 ∨ i.val = 2) := by decide
  by_cases hx : x.getLsbD 1 = x.getLsbD 2
  · rw [if_neg (not_not_intro hx), hx, Bool.and_self]
    split
    · next h =>
      obtain rfl | rfl := h
      · exact hx
      · rfl
    · rfl
  · have apart : (x.getLsbD 1 && x.getLsbD 2) = false := by
      rw [Bool.eq_not_of_ne hx, Bool.not_and_self]
    rw [if_pos hx, apart, BitVec.getLsbD_and, BitVec.getLsbD_not, six ⟨i, hi⟩]
    by_cases h : i = 1 ∨ i = 2
    · rw [if_pos h, decide_eq_true h, Bool.not_true, Bool.and_false, Bool.and_false]
    · rw [if_neg h, decide_eq_false h, Bool.not_false, decide_eq_true hi, Bool.and_true, Bool.and_true]

/-! ### Registers of a station and of a die -/

/-- R319: a slot table word reads as written. -/
theorem slotTableWrite_stores {s : State} {c k : Nat} {v : Word} (h : s.model.arg = .store2 c k v)
    (hc : c < (if s.part = 2 then 24 else 96)) (hk : k < 4) :
    ∃ t, exec .slotTableWrite s = .next t ∧ t.slotWritten c k = v ∧ (∀ j, j ≠ k → t.slotWritten c j = s.slotWritten c j) ∧
      t = { s with bus := { s.bus with slotNew := t.bus.slotNew } } := by
  refine ⟨s.slotTableWrite c k v, ?_, lookupD_assign_self .., fun j hj => ?_, rfl⟩
  · change execSlotTableWrite s = _
    simp only [execSlotTableWrite, h, hc, hk, and_self, if_true]
  · exact lookupD_assign_ne (fun e => hj (Prod.mk.inj e).2) ..

theorem exec_mclsWrite {s : State} {n : Nat} {v : Word} (h : s.model.arg = .store1 n v) :
    exec .mclsWrite s = .next (s.mclsWrite (n / 4) (n % 4) v) := by
  change execMclsWrite s = _
  simp only [execMclsWrite, h]

/-- R329: MCLS takes a value of 7 bits whose bit [3] is clear. -/
theorem mclsWrite_taken {s : State} {st slot : Nat} {v : Word} {c : Ctx} (h : s.ctxAt st slot = some c)
    (hv : v.getLsbD 3 = false ∧ v.toNat < 128) : s.mclsWrite st slot v = s.modCtx c.id fun c => { c with mcls := v.setWidth 7 } := by
  have none_set : ¬(wbit v 3 = true ∨ wbits v 63 7 ≠ 0) := by
    rw [wbit, hv.1, (wbits_high_eq_zero_iff v).2 hv.2]
    decide
  rw [State.mclsWrite, h]
  exact if_neg none_set

theorem mclsWrite_ignored {s : State} {st slot : Nat} {v : Word} (hv : v.getLsbD 3 = true ∨ 128 ≤ v.toNat) : s.mclsWrite st slot v = s := by
  have some_set : wbit v 3 = true ∨ wbits v 63 7 ≠ 0 := hv.imp id fun big small => Nat.not_lt.2 big ((wbits_high_eq_zero_iff v).1 small)
  rw [State.mclsWrite]
  split
  · rfl
  · exact if_pos some_set

theorem exec_blinkivWrite {s : State} {n : Nat} {v : Word} (h : s.model.arg = .store1 n v) :
    exec .blinkivWrite s = .next (s.blinkivWrite n v) := by
  change execBlinkivWrite s = _
  simp only [execBlinkivWrite, h]

/-- R407: BLINKIV takes 16 to 30. -/
theorem blinkivWrite_taken {s : State} {n : Nat} {v : Word} (hv : 16 ≤ v.toNat ∧ v.toNat ≤ 30) : (s.blinkivWrite n v).blinkiv n = v.toNat := by
  rw [State.blinkivWrite, if_pos hv]
  exact lookupD_assign_self ..

theorem blinkivWrite_ignored {s : State} {n : Nat} {v : Word} (hv : v.toNat < 16 ∨ 30 < v.toNat) : s.blinkivWrite n v = s :=
  if_neg (by omega)

/-- Changing what a health block holds changes what it reads. -/
theorem healthOf_modHealth (s : State) (c : Nat) {f : Health → Health} (hf : ∀ x, (f x).ctl = x.ctl) :
    (s.modHealth c f).healthOf c = f (s.healthOf c) := by
  unfold State.modHealth State.healthOf
  split
  · next h =>
    obtain ⟨x, hx⟩ := Option.isSome_iff_exists.1 (List.find?_isSome.2 (List.any_eq_true.1 h))
    have found := find?_modifyFirst (p := fun h : Health => h.ctl == c) (f := f) (fun a => by rw [hf]) s.health.ctls
    rw [hx, Option.map_some] at found
    simp only [found, hx, Option.getD_some]
  · next h =>
    have absent : s.health.ctls.find? (fun h => h.ctl == c) = none := by
      rw [List.find?_eq_none]
      exact fun x hx e => h (List.any_eq_true.2 ⟨x, hx, e⟩)
    simp only [List.find?_append, absent, Option.none_or, Option.getD_none]
    rw [List.find?_cons_of_pos (by simp [hf, Health.zero]), Option.getD_some]

theorem exec_htrainWrite {s : State} {n : Nat} {v : Word} (h : s.model.arg = .store1 n v) (hp : s.part ≠ 2) :
    exec .htrainWrite s = .next (s.htrainWrite n v) := by
  change execHtrainWrite s = _
  simp only [execHtrainWrite, h, if_neg hp]

/-- R436: HTRAIN takes its 16 bits, unless they are zero. -/
theorem htrainWrite_taken {s : State} {n : Nat} {v : Word} (hv : wbits v 15 0 ≠ 0) :
    ((s.htrainWrite n v).healthOf n).htrain = v.setWidth 16 := by
  rw [State.htrainWrite, if_neg hv, healthOf_modHealth]
  exact fun _ => rfl

theorem htrainWrite_ignored {s : State} {n : Nat} {v : Word} (hv : wbits v 15 0 = 0) : s.htrainWrite n v = s := if_pos hv

/-- R442: a bit of STFENCE changes only for a station without a station context. -/
theorem stfenceWrite_stores {s : State} {n : Nat} {v : Word} (h : s.model.arg = .store1 n v) (hp : s.part ≠ 2) :
    ∃ t, exec .stfenceWrite s = .next t ∧ ∀ i, i < 24 → (lookupD t.health.stfence n 0).testBit i =
      if s.ctxs.any (fun c => c.station == 24 * n + i) then (lookupD s.health.stfence n 0).testBit i else v.getLsbD i := by
  refine ⟨s.stfenceWrite n v, ?_, fun i hi => ?_⟩
  · change execStfenceWrite s = _
    simp only [execStfenceWrite, h, if_neg hp]
  · simp only [State.stfenceWrite, lookupD_assign_self]
    exact (foldl_bits_testBit _ 24).2 i hi

theorem exec_calibrationStart {s : State} {n : Nat} {v : Word} (h : s.model.arg = .store1 n v) (hp : s.part ≠ 2) :
    exec .calibrationStart s = .next (s.calibrationStart n v) := by
  change execCalibrationStart s = _
  simp only [execCalibrationStart, h, if_neg hp]

/-- R442: a start of a fenced station while no test runs is taken. -/
theorem calibrationStart_taken {s : State} {n : Nat} {v : Word} (go : v.getLsbD 8 = true)
    (fenced : (lookupD s.health.stfence n 0).testBit (wbits v 4 0) = true) (idle : lookup s.health.calctl n = none) :
    lookupD (s.calibrationStart n v).health.calctl n 0 = w64 (wbits v 4 0 * 2 ^ 8) := by
  simp only [State.calibrationStart, wbit, go, fenced, any_key_of_lookup_none idle, Bool.false_and, Bool.not_false, and_self, if_true,
    lookupD_assign_self]

theorem calibrationStart_ignored {s : State} {n : Nat} {v : Word} (go : v.getLsbD 8 = false) : s.calibrationStart n v = s := by
  simp only [State.calibrationStart, wbit, go, Bool.false_eq_true, false_and, if_false]

theorem exec_microcodeStart {s : State} {d e : Nat} (h : s.model.arg = .n2 d e) : exec .microcodeStart s = .next (s.microcodeStart d e) := by
  change execMicrocodeStart s = _
  simp only [execMicrocodeStart, h]

/-- R300: a start while nothing is being verified begins a verification. -/
theorem microcodeStart_taken {s : State} {d e : Nat} {x : Engine} (hx : s.engineAt d e = some x) (idle : x.mcstat ≠ 1) :
    s.microcodeStart d e = s.modEngine d e fun x => { x with mcstat := 1, mccause := 0 } := by
  unfold State.microcodeStart State.modEngine
  rw [modifyFirst_congr fun a ha => ?_]
  obtain rfl : x = a := Option.some.inj (hx.symm.trans ha)
  exact if_neg idle

theorem exec_pchRetireStart {s : State} {c p r : Nat} (h : s.model.arg = .n3 c p r) (hp : s.part ≠ 2) :
    exec .pchRetireStart s = .next (s.pchRetireStart c p r) := by
  change execPchRetireStart s = _
  simp only [execPchRetireStart, h, if_neg hp]

/-- R441: a retirement starts unless the controller has one under way. -/
theorem pchRetireStart_taken {s : State} {c p r : Nat} (free : (s.healthOf c).retiring = none) :
    s.pchRetireStart c p r = s.modHealth c fun h => { h with hretire := 1, retiring := some (p, r) } := if_neg (by simp [free])

theorem pchRetireStart_ignored {s : State} {c p r : Nat} (busy : (s.healthOf c).retiring ≠ none) : s.pchRetireStart c p r = s :=
  if_pos (Option.isSome_iff_ne_none.2 busy)

/-! ### Registers of the package -/

theorem exec_accWrite {s : State} {n : Nat} {v : Word} (h : s.model.arg = .store1 n v) : exec .accWrite s = .next (s.accWrite n v) := by
  change execAccWrite s = _
  simp only [execAccWrite, h]

/-- R452: ACC0 takes the bits that the part has, bits [1] and [2] together or not at all. -/
theorem accWrite_zero {s : State} {v : Word} (h : s.userExists = false) :
    s.accWrite 0 v = { s with boot := { s.boot with acc0 := (s.accWrite 0 v).boot.acc0 } } ∧ ∀ i, i < 64 →
      (s.accWrite 0 v).boot.acc0.getLsbD i =
        if i = 1 ∨ i = 2 then v.getLsbD 1 && v.getLsbD 2 && s.boot.feat0.getLsbD 1 && s.boot.feat0.getLsbD 2
        else v.getLsbD i && s.boot.feat0.getLsbD i := by
  have e : s.accWrite 0 v = { s with boot := { s.boot with acc0 :=
      (if (v &&& s.boot.feat0).getLsbD 1 ≠ (v &&& s.boot.feat0).getLsbD 2 then v &&& s.boot.feat0 &&& ~~~ 6#64
       else v &&& s.boot.feat0) } } := by
    simp only [State.accWrite, h, State.feat, Bool.false_eq_true, if_false]
  rw [e]
  refine ⟨rfl, fun i hi => (pairedBits_getLsbD _ hi).trans ?_⟩
  simp only [BitVec.getLsbD_and]
  split
  · ac_rfl
  · rfl

theorem accWrite_one {s : State} {v : Word} (h : s.userExists = false) :
    s.accWrite 1 v = { s with boot := { s.boot with acc1 := v &&& s.boot.feat1 } } := by
  simp only [State.accWrite, h, State.feat, Bool.false_eq_true, if_false]

/-- There is no third ACC word. -/
theorem accWrite_other {s : State} {n : Nat} {v : Word} (h : 2 ≤ n) : s.accWrite n v = s := by
  obtain ⟨m, rfl⟩ : ∃ m, n = m + 2 := ⟨n - 2, by omega⟩
  simp only [State.accWrite, ite_self]

/-- R78: ACC words are fixed once a user context exists. -/
theorem accWrite_user {s : State} {n : Nat} {v : Word} (h : s.userExists = true) : s.accWrite n v = s := if_pos h

theorem exec_pkgidWrite {s : State} {v : Word} (h : s.model.arg = .value v) : exec .pkgidWrite s = .next (s.pkgidWrite v) := by
  change execPkgidWrite s = _
  simp only [execPkgidWrite, h]

/-- R159: PKGID is written once, while no user context exists. -/
theorem pkgidWrite_taken {s : State} {v : Word} (unset : s.pkgValid = false) (hu : s.userExists = false) :
    s.pkgidWrite v = { s with pkgid := wbits v 8 0, pkgValid := true } := if_neg (by simp [unset, hu])

theorem pkgidWrite_ignored {s : State} {v : Word} (fixed : s.pkgValid = true ∨ s.userExists = true) : s.pkgidWrite v = s := if_pos fixed

theorem exec_pwrcapWrite {s : State} {v : Word} (h : s.model.arg = .value v) : exec .pwrcapWrite s = .next (s.pwrcapWrite v) := by
  change execPwrcapWrite s = _
  simp only [execPwrcapWrite, h]

/-- R456: PWRCAP takes 600 to 2600. -/
theorem pwrcapWrite_taken {s : State} {v : Word} (hv : 600 ≤ wbits v 15 0 ∧ wbits v 15 0 ≤ 2600) :
    s.pwrcapWrite v = { s with boot := { s.boot with pwrcap := wbits v 15 0 } } := if_pos hv

theorem pwrcapWrite_ignored {s : State} {v : Word} (hv : wbits v 15 0 < 600 ∨ 2600 < wbits v 15 0) : s.pwrcapWrite v = s :=
  if_neg (by omega)

theorem exec_logExtend {s : State} {v : Word} (h : s.model.arg = .value v) : exec .logExtend s = .next (s.logExtend v) := by
  change execLogExtend s = _
  simp only [execLogExtend, h]

theorem measure_room {s : State} {d : BitVec 256} {k : Nat} (h : s.boot.log.length < 1024) :
    s.measure d k = { s with boot := { s.boot with
      log := s.boot.log ++ [logEntry d k s.boot.log.length], logFull := decide (s.boot.log.length = 1023) } } := by
  rw [State.measure, if_pos h]
  simp only [show (1023 ≤ s.boot.log.length) ↔ s.boot.log.length = 1023 by omega]

theorem measure_full {s : State} {d : BitVec 256} {k : Nat} (h : 1024 ≤ s.boot.log.length) :
    s.measure d k = { s with boot := { s.boot with logFull := true } } := if_neg (by omega)

theorem exec_attestStart {s : State} {v : Word} (h : s.model.arg = .value v) : exec .attestStart s = .next (s.attestStart v) := by
  change execAttestStart s = _
  simp only [execAttestStart, h]

theorem attestStart_taken {s : State} {v : Word} (go : v.getLsbD 0 = true) (idle : s.boot.attStat ≠ 1) (acc : s.boot.acc0.getLsbD 4 = true) :
    s.attestStart v = { s with boot := { s.boot with attStat := 1, attCount := s.boot.log.length } } :=
  if_neg (by simp [wbit, go, idle, acc])

theorem attestStart_ignored {s : State} {v : Word} (h : v.getLsbD 0 = false ∨ s.boot.attStat = 1 ∨ s.boot.acc0.getLsbD 4 = false) :
    s.attestStart v = s := if_pos (by simpa [wbit] using h)

/-- R454: ATTCTL reads 3 while attestation is not accepted. -/
theorem attctl_notAccepted {s : State} (h : s.boot.acc0.getLsbD 4 = false) : wbits s.attctl 31 0 = 3 := by
  simp only [State.attctl, h, Bool.false_eq_true, if_false, wbits, bitsOf, w64, BitVec.toNat_ofNat, Nat.shiftRight_zero]
  omega

theorem exec_laneTailWrite {s : State} {r : Bool} {x : BitVec 32} (h : s.model.arg = .tail r x) :
    exec .laneTailWrite s = .next (s.laneTailWrite r x) := by
  change execLaneTailWrite s = _
  simp only [execLaneTailWrite, h]

/-- R394: the tail of a lane moves up to its HEAD. -/
theorem laneTailWrite_laneR {s : State} {x : BitVec 32}
    (ok : (x.toNat + 2 ^ 32 - s.tree.lrtail) % 2 ^ 32 ≤ (s.tree.lrhead + 2 ^ 32 - s.tree.lrtail) % 2 ^ 32) :
    s.laneTailWrite true x = { s with tree := { s.tree with lrtail := x.toNat } } := by
  simp only [State.laneTailWrite, if_true, decide_eq_true_eq, if_pos ok]

theorem laneTailWrite_past {s : State} {x : BitVec 32}
    (past : (s.tree.lrhead + 2 ^ 32 - s.tree.lrtail) % 2 ^ 32 < (x.toNat + 2 ^ 32 - s.tree.lrtail) % 2 ^ 32) :
    s.laneTailWrite true x = s := by
  simp only [State.laneTailWrite, if_true, decide_eq_true_eq, if_neg (Nat.not_le.2 past)]

theorem laneTailWrite_laneF {s : State} {x : BitVec 32}
    (ok : (x.toNat + 2 ^ 32 - s.tree.lftail) % 2 ^ 32 ≤ (s.tree.lfhead + 2 ^ 32 - s.tree.lftail) % 2 ^ 32) :
    s.laneTailWrite false x = { s with tree := { s.tree with lftail := x.toNat } } := by
  simp only [State.laneTailWrite, Bool.false_eq_true, if_false, decide_eq_true_eq, if_pos ok]

/-! ### Peer, group and bus-window entries -/

/-- R368 and R380: bytes 8-15 make an entry current, unless their state field is 0b11. -/
theorem stagePut_last {e : Staged 128} {v mask : Word} (h : wbits v 47 46 ≠ 3) :
    stagePut e 1 v mask = ⟨putWord e.stg 1 (v &&& mask), putWord e.stg 1 (v &&& mask)⟩ := by
  rw [stagePut, if_neg Nat.one_ne_zero, if_neg h]

theorem peerOf_peerWrite (s : State) (n k m : Nat) (v : Word) :
    (s.peerWrite n k v).peerOf m = if n = m then stagePut (s.peerOf n) k v peerMask else s.peerOf m := by
  simp only [State.peerWrite]
  split <;> exact lookupD_assign ..

/-- R370: a revocation advances the epoch of the window. -/
theorem linkEpoch_peerWrite {s : State} {n : Nat} {v : Word} (h : wbits v 47 46 ≠ 3) :
    (s.peerWrite n 1 v).linkEpoch 4 n = s.linkEpoch 4 n + if wbits v 47 46 = 2 ∧ peerState (s.peerOf n).cur ≠ 2 then 1 else 0 := by
  simp only [State.peerWrite, stagePut_last h, peerState_putWord]
  split
  · exact lookupD_assign_self ..
  · exact (BitVec.add_zero _).symm

/-- What each of the three peer events does with a store of its own state. -/
theorem peerEvent_enters {i : Instr} {s : State} {n : Nat} {v : Word} (hi : exec i s = peerEvent (wbits v 47 46) s)
    (h : s.model.arg = .store1 n v) (hn : n < 4096) (h3 : wbits v 47 46 ≠ 3) :
    ∃ t, exec i s = .next t ∧ (t.peerOf n).cur = putWord (s.peerOf n).stg 1 (v &&& peerMask) ∧ (t.peerOf n).stg = (t.peerOf n).cur ∧
      peerState (t.peerOf n).cur = wbits v 47 46 ∧ (∀ m, m ≠ n → t.peerOf m = s.peerOf m) ∧
      t.linkEpoch 4 n = s.linkEpoch 4 n + if wbits v 47 46 = 2 ∧ peerState (s.peerOf n).cur ≠ 2 then 1 else 0 := by
  have entry : (s.peerWrite n 1 v).peerOf n = _ := (peerOf_peerWrite s n 1 n v).trans ((if_pos rfl).trans (stagePut_last h3))
  refine ⟨s.peerWrite n 1 v, ?_, ?_, ?_, ?_, fun m hm => ?_, linkEpoch_peerWrite h3⟩
  · rw [hi, peerEvent]
    simp only [h, hn, and_self, if_true]
  · rw [entry]
  · rw [entry]
  · rw [entry, peerState_putWord]
  · rw [peerOf_peerWrite, if_neg hm.symm]

/-- R373: word 8 makes a group entry current. -/
theorem groupEntryCommit_enters {s : State} {n : Nat} {v : Word} (h : s.model.arg = .store1 n v) (hn : n < 1024) :
    ∃ t, exec .groupEntryCommit s = .next t ∧ (t.groupOf n).cur = putWord (s.groupOf n).stg 8 (v &&& 0x80003FFFFFFFFFC0#64) ∧
      (t.groupOf n).stg = (t.groupOf n).cur ∧ ∀ m, m ≠ n → t.groupOf m = s.groupOf m := by
  have entry : (s.groupWrite n 8 v).groupOf n = ⟨putWord (s.groupOf n).stg 8 (v &&& groupMask 8), _⟩ := lookupD_assign_self ..
  refine ⟨s.groupWrite n 8 v, ?_, ?_, ?_, fun m hm => lookupD_assign_ne hm ..⟩
  · change execGroupEntryCommit s = _
    simp only [execGroupEntryCommit, h, if_pos hn]
  · rw [entry]
    rfl
  · rw [entry]

theorem busWindowCommit_enters {s : State} {n : Nat} {v : Word} (h : s.model.arg = .store1 n v) (hn : n < 1024) (h3 : wbits v 47 46 ≠ 3) :
    ∃ t, exec .busWindowCommit s = .next t ∧ (t.busOf n).cur = putWord (s.busOf n).stg 1 (v &&& busMask) ∧
      (t.busOf n).stg = (t.busOf n).cur ∧ ∀ m, m ≠ n → t.busOf m = s.busOf m := by
  have entry : (s.busWrite n 1 v).busOf n = _ := (lookupD_assign_self ..).trans (stagePut_last h3)
  refine ⟨s.busWrite n 1 v, ?_, ?_, ?_, fun m hm => lookupD_assign_ne hm ..⟩
  · change execBusWindowCommit s = _
    simp only [execBusWindowCommit, h, if_pos hn]
  · rw [entry]
  · rw [entry]

/-! ### What service software writes (R287, R296, log 71) -/

theorem exec_registerWrite_store {s : State} {pa : Nat} {v : Word} (h : s.model.arg = .store1 pa v) (hc : (s.localHome pa).isCtl = true)
    (hp : pa % 8 = 0) : exec .registerWrite s = .next (s.ctlWrite (s.localHome pa) 8 v.toNat) := by
  change execRegisterWrite s = _
  simp only [execRegisterWrite, h, hc, hp, and_self, if_true]

/-- Contexts of this package join a domain under their own identities. -/
theorem foldl_addMember_here (cs : List Nat) (s : State) (d : Domain) :
    (cs.map DomMember.here).foldl State.addMember (s, d) = (s, { d with members := d.members ++ cs }) := by
  induction cs generalizing d with
  | nil => simp
  | cons c cs ih => simp [State.addMember, ih]

theorem defineDomain_here {s : State} {level n : Nat} {cs : List Nat} (h1 : 1 ≤ level) (h4 : level ≤ 4)
    (idle : ∀ d, s.domainAt level n = some d → d.episodes = []) :
    s.defineDomain level n (cs.map .here) =
      { s with domains := (s.domains.filter fun x => !(x.level == level && x.number == n)) ++ [freshDomain level n cs] } := by
  have free : (match s.domainAt level n with | some d => !d.episodes.isEmpty | none => false) = false := by
    cases hd : s.domainAt level n with
    | none => rfl
    | some d => simp [idle d hd]
  have taken : ¬(level = 0 ∨ 4 < level ∨ (match s.domainAt level n with | some d => !d.episodes.isEmpty | none => false) = true) := by
    simp only [free, Bool.false_eq_true, or_false]
    omega
  refine (if_neg taken).trans ?_
  rw [foldl_addMember_here]
  rfl

/-- Another element than the one replaced is found as before. -/
theorem find?_filter_not_append {α : Type} {p q : α → Bool} {d : α} (hd : q d = false) (apart : ∀ a, q a = true → p a = false)
    (l : List α) : ((l.filter fun a => !p a) ++ [d]).find? q = l.find? q := by
  have last : [d].find? q = none := by simp [hd]
  have same : (fun a => decide ((!p a) = true ∧ q a = true)) = q := by
    funext a
    cases hq : q a with
    | false => simp
    | true => simp [apart a hq]
  rw [List.find?_append, last, Option.or_none, List.find?_filter, same]

theorem domainDefinition_enters {s : State} {level n : Nat} {cs : List Nat} (h : s.model.arg = .domain level n (cs.map .here))
    (h1 : 1 ≤ level) (h4 : level ≤ 4) (idle : ∀ d, s.domainAt level n = some d → d.episodes = []) :
    ∃ t, exec .registerWrite s = .next t ∧ t.domainAt level n = some (freshDomain level n cs) ∧
      (∀ l m, ¬(l = level ∧ m = n) → t.domainAt l m = s.domainAt l m) ∧ t = { s with domains := t.domains } := by
  refine ⟨s.defineDomain level n (cs.map .here), ?_, ?_, fun l m hlm => ?_, ?_⟩
  · change execRegisterWrite s = _
    simp only [execRegisterWrite, h]
  · have gone : (s.domains.filter fun x => !(x.level == level && x.number == n)).find? (fun d => d.level == level && d.number == n) = none := by
      rw [List.find?_eq_none]
      intro x hx
      rw [Bool.not_eq_true, ← Bool.not_eq_true']
      exact (List.mem_filter.1 hx).2
    rw [defineDomain_here h1 h4 idle, State.domainAt, List.find?_append, gone, Option.none_or]
    exact List.find?_cons_of_pos (by simp [freshDomain])
  · rw [defineDomain_here h1 h4 idle]
    refine find?_filter_not_append ?_ (fun a ha => ?_) _
    · simp only [freshDomain, Bool.and_eq_false_iff, beq_eq_false_iff_ne]
      omega
    · simp only [Bool.and_eq_true, beq_iff_eq, Bool.and_eq_false_iff, beq_eq_false_iff_ne] at ha ⊢
      omega
  · rw [defineDomain_here h1 h4 idle]

theorem exec_registerWrite_workQueue {s : State} {d e cap : Nat} (h : s.model.arg = .workQueue d e cap) :
    exec .registerWrite s = .next (s.sizeWorkQueue d e cap) := by
  change execRegisterWrite s = _
  simp only [execRegisterWrite, h]

/-- R296: an engine's work queue takes a capacity while it is empty and its windows fit. -/
theorem sizeWorkQueue_found {s : State} {d e cap : Nat} {q : Queue}
    (hq : (s.queues.find? fun q => q.homes.any fun h => h.at_ == .engine d e) = some q) :
    s.sizeWorkQueue d e cap = if cap = 0 ∨ 65536 < cap ∨ (∃ h ∈ q.homes, h.entries ≠ []) ∨ cap < s.windowSum q.id then s
      else s.modQueue q.id fun q => { q with cap := cap } := by
  have holds : (q.homes.any fun h => !h.entries.isEmpty) = true ↔ ∃ h ∈ q.homes, h.entries ≠ [] := by simp
  simp only [State.sizeWorkQueue, hq, holds]

/-! ### The obligation -/

theorem controlWindowWrites : ControlWindowWrites := by
  intro s v n k
  refine ⟨slotTableWrite_stores, fun h => ⟨fun c hc => ?mcls, ?blinkivTaken, ?blinkivIgnored, ?htrainTaken, ?htrainIgnored, ?acc0, ?acc1, ?noAcc,
    ?accFixed, stfenceWrite_stores h, ?calibrationTaken, ?calibrationIgnored⟩, fun h => ⟨?pkgidTaken, ?pkgidIgnored, ?pwrcapTaken,
    ?pwrcapIgnored, ?logRoom, ?logFull, ?attestTaken, ?attestIgnored⟩, attctl_notAccepted, ?attestDone, fun h x hx idle => ?microcode,
    fun r h hp => ?retirement⟩
  case mcls =>
    rw [exec_mclsWrite h]
    exact ⟨fun hv => by rw [mclsWrite_taken hc hv], fun hv => by rw [mclsWrite_ignored hv]⟩
  case blinkivTaken => exact fun hv => ⟨_, exec_blinkivWrite h, blinkivWrite_taken hv⟩
  case blinkivIgnored => exact fun hv => by rw [exec_blinkivWrite h, blinkivWrite_ignored hv]
  case htrainTaken => exact fun hp hv => ⟨_, exec_htrainWrite h hp, htrainWrite_taken hv⟩
  case htrainIgnored => exact fun hp hv => by rw [exec_htrainWrite h hp, htrainWrite_ignored hv]
  case acc0 =>
    rintro rfl hu
    exact ⟨_, exec_accWrite h, accWrite_zero hu⟩
  case acc1 =>
    rintro rfl hu
    rw [exec_accWrite h, accWrite_one hu]
  case noAcc => exact fun hn => by rw [exec_accWrite h, accWrite_other hn]
  case accFixed => exact fun hu => by rw [exec_accWrite h, accWrite_user hu]
  case calibrationTaken => exact fun hp go fenced idle => ⟨_, exec_calibrationStart h hp, calibrationStart_taken go fenced idle⟩
  case calibrationIgnored => exact fun hp go => by rw [exec_calibrationStart h hp, calibrationStart_ignored go]
  case pkgidTaken => exact fun unset hu => by rw [exec_pkgidWrite h, pkgidWrite_taken unset hu]
  case pkgidIgnored => exact fun fixed => by rw [exec_pkgidWrite h, pkgidWrite_ignored fixed]
  case pwrcapTaken => exact fun hv => by rw [exec_pwrcapWrite h, pwrcapWrite_taken hv]
  case pwrcapIgnored => exact fun hv => by rw [exec_pwrcapWrite h, pwrcapWrite_ignored hv]
  case logRoom =>
    exact fun kind room => by
      rw [exec_logExtend h, State.logExtend, if_pos kind, measure_room room]
      rfl
  case logFull => exact fun kind full => by rw [exec_logExtend h, State.logExtend, if_pos kind, measure_full full]
  case attestTaken => exact fun go idle acc => by rw [exec_attestStart h, attestStart_taken go idle acc]
  case attestIgnored => exact fun off => by rw [exec_attestStart h, attestStart_ignored off]
  case attestDone => exact fun busy => ⟨_, if_pos busy, rfl, rfl⟩
  case microcode => rw [exec_microcodeStart h, microcodeStart_taken hx idle]
  case retirement =>
    rw [exec_pchRetireStart h hp]
    exact ⟨fun free => by rw [pchRetireStart_taken free], fun busy => by rw [pchRetireStart_ignored busy]⟩

theorem tableWrites : TableWrites := by
  intro s v n
  refine ⟨fun x h => ⟨fun ok => ?laneR, fun past => ?laneRPast⟩, fun x h ok => ?laneF, fun h => ⟨fun hn => ⟨?validate, ?revoke, ?free⟩,
    groupEntryCommit_enters h, busWindowCommit_enters h, exec_registerWrite_store h⟩, fun level cs h h1 h4 idle => ?domain,
    fun e cap q h hq => ?workQueue⟩
  case laneR => rw [exec_laneTailWrite h, laneTailWrite_laneR ok]
  case laneRPast => rw [exec_laneTailWrite h, laneTailWrite_past past]
  case laneF => rw [exec_laneTailWrite h, laneTailWrite_laneF ok]
  case validate => exact fun hv => peerEvent_enters (by rw [hv]; rfl) h hn (by omega)
  case revoke => exact fun hv => peerEvent_enters (by rw [hv]; rfl) h hn (by omega)
  case free => exact fun hv => peerEvent_enters (by rw [hv]; rfl) h hn (by omega)
  case domain => exact domainDefinition_enters h h1 h4 idle
  case workQueue =>
    rw [exec_registerWrite_workQueue h, sizeWorkQueue_found hq]
    refine ⟨fun low high empty fits => ?_, fun refused => by rw [if_pos refused]⟩
    have taken : ¬(cap = 0 ∨ 65536 < cap ∨ (∃ h ∈ q.homes, h.entries ≠ []) ∨ cap < s.windowSum q.id) := by
      rintro (zero | large | ⟨x, hx, full⟩ | tight)
      · omega
      · omega
      · exact full (empty x hx)
      · omega
    rw [if_neg taken]

/-- Settles O59: each clause is the lemma of its register or table. -/
theorem controlWindow : Obligations.ControlWindow := by
  unfold Obligations.ControlWindow
  exact ⟨controlWindowWrites, tableWrites⟩

end Sys2Proof.Machine
end

section
/-! SUPPORT and PROOFS. The formats of R62-R76: the decoder and the encoder as inverses of each other, for sequencer words and parcels, then for
block and stream node words. -/

namespace Sys2Proof

open Claims Laws

/-! ### Parcels and bytes (R62) -/

/-- The two halves of a parcel or word. -/
theorem halves {n : Nat} (x : BitVec (n + n)) : x.extractLsb' n n ++ x.extractLsb' 0 n = x := by
  rw [BitVec.extractLsb'_append_extractLsb'_eq_extractLsb' (Nat.zero_add n).symm, BitVec.extractLsb'_eq_self]

theorem parcelsOfBytes_bytesOfParcel (p : BitVec 16) : parcelsOfBytes (bytesOfParcel p) = [p] := congrArg (fun x => [x]) (halves (n := 8) p)

theorem parcelsOfBytes_append {n : Nat} {bs : List Byte} (h : bs.length = 2 * n) (r : List Byte) :
    parcelsOfBytes (bs ++ r) = parcelsOfBytes bs ++ parcelsOfBytes r := by
  induction n generalizing bs with
  | zero => rw [List.eq_nil_of_length_eq_zero h]; rfl
  | succ n ih =>
    match bs, h with
    | lo :: hi :: bs, h => exact congrArg (_ :: ·) (ih (by simpa [Nat.mul_succ] using h))

theorem parcelsOfBytes_bytesOfWord (w : BitVec 32) : parcelsOfBytes (bytesOfWord w) = [w.extractLsb' 16 16, w.extractLsb' 0 16] := by
  rw [bytesOfWord, parcelsOfBytes_append (n := 1) rfl, parcelsOfBytes_bytesOfParcel, parcelsOfBytes_bytesOfParcel]
  rfl

/-- The bits that mark a first parcel are those that mark a word (R62, R63). -/
theorem isFirstParcel_iff (p q : BitVec 16) : isFirstParcel p = true ↔ (p ++ q).extractLsb' 29 3 = 7#3 := by
  rw [isFirstParcel, beq_iff_eq, BitVec.extractLsb'_append_eq_of_le (by decide)]

theorem decodeParcels_word {p q : BitVec 16} (h : isFirstParcel p = true) (r : List (BitVec 16)) :
    decodeParcels (p :: q :: r) = (decodeWord (p ++ q)).map fun i => (i, 2) := by
  simp only [decodeParcels, h, if_true]

theorem decodeParcels_parcel {p : BitVec 16} (h : isFirstParcel p = false) (r : List (BitVec 16)) :
    decodeParcels (p :: r) = (decodeCompact p).map fun i => (i, 1) := by
  simp only [decodeParcels, h, Bool.false_eq_true, if_false]

/-! ### Decoding what is encoded -/

/-- The rows of the sequencer together: each is decoded from its encoding. -/
theorem roundTrip_of_sequencer {i : Instr} (h : Sequencer i) : RoundTrip.Statement i := by
  cases i with
  | add => apply RoundTrip.add | sub => apply RoundTrip.sub | mul => apply RoundTrip.mul | mulh => apply RoundTrip.mulh
  | mulhn => apply RoundTrip.mulhn | div => apply RoundTrip.div | divn => apply RoundTrip.divn | and_ => apply RoundTrip.and_
  | or_ => apply RoundTrip.or_ | xor_ => apply RoundTrip.xor_ | andn => apply RoundTrip.andn | sll => apply RoundTrip.sll
  | srl => apply RoundTrip.srl | sra => apply RoundTrip.sra | slt => apply RoundTrip.slt | sltn => apply RoundTrip.sltn
  | min_ => apply RoundTrip.min_ | max_ => apply RoundTrip.max_ | clz => apply RoundTrip.clz | popc => apply RoundTrip.popc
  | addi => apply RoundTrip.addi | andi => apply RoundTrip.andi | slli => apply RoundTrip.slli | srli => apply RoundTrip.srli
  | srai => apply RoundTrip.srai | li => apply RoundTrip.li | lic => apply RoundTrip.lic | addpc => apply RoundTrip.addpc
  | padd => apply RoundTrip.padd | psub => apply RoundTrip.psub | padds => apply RoundTrip.padds
  | paddsn => apply RoundTrip.paddsn | psubs => apply RoundTrip.psubs | psubsn => apply RoundTrip.psubsn
  | pmul => apply RoundTrip.pmul | pmin => apply RoundTrip.pmin | pmax => apply RoundTrip.pmax | fadd => apply RoundTrip.fadd
  | fsub => apply RoundTrip.fsub | fmul => apply RoundTrip.fmul | fdiv => apply RoundTrip.fdiv | fsqrt => apply RoundTrip.fsqrt
  | fma => apply RoundTrip.fma | fmin => apply RoundTrip.fmin | fmax => apply RoundTrip.fmax | fcmp => apply RoundTrip.fcmp
  | fcvti => apply RoundTrip.fcvti | fcvtf => apply RoundTrip.fcvtf | fcvtw => apply RoundTrip.fcvtw
  | beq => apply RoundTrip.beq | bne => apply RoundTrip.bne | blt => apply RoundTrip.blt | bge => apply RoundTrip.bge
  | bltn => apply RoundTrip.bltn | bgen => apply RoundTrip.bgen | jal => apply RoundTrip.jal | jalr => apply RoundTrip.jalr
  | ld => apply RoundTrip.ld | st => apply RoundTrip.st | ldaq => apply RoundTrip.ldaq | strl => apply RoundTrip.strl
  | fence => apply RoundTrip.fence | sflag => apply RoundTrip.sflag | aadd => apply RoundTrip.aadd
  | aand => apply RoundTrip.aand | aor => apply RoundTrip.aor | axor => apply RoundTrip.axor | amin => apply RoundTrip.amin
  | amax => apply RoundTrip.amax | aswap => apply RoundTrip.aswap | afaddF32 => apply RoundTrip.afaddF32
  | afaddBf16 => apply RoundTrip.afaddBf16 | cas => apply RoundTrip.cas | send => apply RoundTrip.send
  | cset => apply RoundTrip.cset | cget => apply RoundTrip.cget | cbind => apply RoundTrip.cbind
  | cwait => apply RoundTrip.cwait | mbwait => apply RoundTrip.mbwait | mbpop => apply RoundTrip.mbpop
  | mbpeek => apply RoundTrip.mbpeek | qdef => apply RoundTrip.qdef | qpush => apply RoundTrip.qpush
  | qpop => apply RoundTrip.qpop | qpeek => apply RoundTrip.qpeek | qstat => apply RoundTrip.qstat
  | qbind => apply RoundTrip.qbind | qmark => apply RoundTrip.qmark | tlook => apply RoundTrip.tlook
  | tins => apply RoundTrip.tins | tinv => apply RoundTrip.tinv | tdef => apply RoundTrip.tdef | tstat => apply RoundTrip.tstat
  | twait => apply RoundTrip.twait | agset => apply RoundTrip.agset | agparm => apply RoundTrip.agparm
  | sopen => apply RoundTrip.sopen | sclose => apply RoundTrip.sclose | sstat => apply RoundTrip.sstat
  | mload => apply RoundTrip.mload | mrun => apply RoundTrip.mrun | mdrain => apply RoundTrip.mdrain
  | mstat => apply RoundTrip.mstat | rarm => apply RoundTrip.rarm | rdisarm => apply RoundTrip.rdisarm
  | cancelBlock => apply RoundTrip.cancelBlock | cancelCommand => apply RoundTrip.cancelCommand
  | cancelHungRegion => apply RoundTrip.cancelHungRegion | rprio => apply RoundTrip.rprio | thprio => apply RoundTrip.thprio
  | bar => apply RoundTrip.bar | barsnap => apply RoundTrip.barsnap | reduce => apply RoundTrip.reduce
  | done_ => apply RoundTrip.done_ | trap => apply RoundTrip.trap | ctxswOut => apply RoundTrip.ctxswOut
  | ctxswIn => apply RoundTrip.ctxswIn | ctxswKill => apply RoundTrip.ctxswKill | frzsave => apply RoundTrip.frzsave
  | drnsave => apply RoundTrip.drnsave | restore => apply RoundTrip.restore | rdstate => apply RoundTrip.rdstate
  | tlbinv => apply RoundTrip.tlbinv | capmintInstall => apply RoundTrip.capmintInstall
  | capmintAdvance => apply RoundTrip.capmintAdvance | hdecl => apply RoundTrip.hdecl | hopen => apply RoundTrip.hopen
  | hclose => apply RoundTrip.hclose | platerdHeader => apply RoundTrip.platerdHeader
  | platerdEntry => apply RoundTrip.platerdEntry | hclear => apply RoundTrip.hclear | getk => apply RoundTrip.getk
  | putk => apply RoundTrip.putk | putkEcomph => apply RoundTrip.putkEcomph | putkDom => apply RoundTrip.putkDom
  | putkLnack => apply RoundTrip.putkLnack | lld => apply RoundTrip.lld | lst => apply RoundTrip.lst
  | addCompact => apply RoundTrip.addCompact | subCompact => apply RoundTrip.subCompact | andCompact => apply RoundTrip.andCompact
  | orCompact => apply RoundTrip.orCompact | xorCompact => apply RoundTrip.xorCompact | addiCompact => apply RoundTrip.addiCompact
  | slliCompact => apply RoundTrip.slliCompact | srliCompact => apply RoundTrip.srliCompact
  | liCompact => apply RoundTrip.liCompact | ld64Compact => apply RoundTrip.ld64Compact
  | st64Compact => apply RoundTrip.st64Compact | beqCompact => apply RoundTrip.beqCompact
  | bneCompact => apply RoundTrip.bneCompact | platerdBody => apply RoundTrip.platerdBody
  | platerdRecords => apply RoundTrip.platerdRecords | yield => apply RoundTrip.yield | halt => apply RoundTrip.halt
  | tret => apply RoundTrip.tret | haltCompact => apply RoundTrip.haltCompact | yieldCompact => apply RoundTrip.yieldCompact
  | _ => exact h.elim

/-- An operation of the sequencer is a word or a parcel. -/
theorem sequencer_iff (i : Instr) : Sequencer i ↔ (∃ w, i.enc = .word w) ∨ ∃ p, i.enc = .parcel p := by
  rw [Sequencer]
  cases i.enc <;> simp

section
variable {i : Instr}

theorem encode_word {w : BitVec 32} (e : i.enc = .word w) : encode i = bytesOfWord w ∧ i.parcels = 2 := by
  simp only [encode, Instr.parcels, e, and_self]

theorem encode_parcel {p : BitVec 16} (e : i.enc = .parcel p) : encode i = bytesOfParcel p ∧ i.parcels = 1 := by
  simp only [encode, Instr.parcels, e, and_self]

theorem length_encode (h : Sequencer i) : (encode i).length = 2 * i.parcels := by
  obtain ⟨w, e⟩ | ⟨p, e⟩ := (sequencer_iff i).1 h
  · rw [(encode_word e).1, (encode_word e).2]
    rfl
  · rw [(encode_parcel e).1, (encode_parcel e).2]
    rfl

/-- The decoder reads the parcels of an operation as the operation, whatever parcels follow. -/
theorem decodeParcels_encode (h : Sequencer i) (ok : i.wf = true) (r : List (BitVec 16)) :
    decodeParcels (parcelsOfBytes (encode i) ++ r) = .ok (i.base, i.parcels) := by
  have back := roundTrip_of_sequencer h ok
  obtain ⟨w, e⟩ | ⟨p, e⟩ := (sequencer_iff i).1 h
  · obtain ⟨top, dec⟩ : w.extractLsb' 29 3 = 7#3 ∧ decodeWord w = .ok i.base := by rwa [e] at back
    have whole : w.extractLsb' 16 16 ++ w.extractLsb' 0 16 = w := halves (n := 16) w
    have first := (isFirstParcel_iff (w.extractLsb' 16 16) (w.extractLsb' 0 16)).2 (whole.symm ▸ top)
    rw [(encode_word e).1, (encode_word e).2, parcelsOfBytes_bytesOfWord, List.cons_append, List.cons_append, decodeParcels_word first, whole, dec]
    rfl
  · obtain ⟨top, dec⟩ : p.extractLsb' 13 3 ≠ 7#3 ∧ decodeCompact p = .ok i.base := by rwa [e] at back
    rw [(encode_parcel e).1, (encode_parcel e).2, parcelsOfBytes_bytesOfParcel, List.cons_append,
      decodeParcels_parcel (beq_eq_false_iff_ne.2 top), dec]
    rfl

end

/-- Settles O4: the bytes are the operation's parcels, and the round trip of its row gives it back. -/
theorem sequencerRoundTrip : Obligations.SequencerRoundTrip := by
  unfold Obligations.SequencerRoundTrip
  intro i r h ok
  rw [decodeBytes, parcelsOfBytes_append (length_encode h), decodeParcels_encode h ok, Except.map, ← length_encode h, List.drop_left]

/-! ### Block words and node words (R69-R75) -/

/-- The opcode of a block node names its row; the mx bit parts the rows that share one (R71). -/
theorem mkNode_of_enc {i : Instr} {op : BitVec 8} {at_ : FireAt} {w : BlockWord} (h : i.enc = .block op at_ w) (row : i.rowOk = true) :
    mkNode op.toNat at_ w = some i := by
  cases i with
  | nodeQuant | nodeQuantMx | nodeDequant | nodeDequantMx =>
    cases h
    simpa [mkNode, Instr.rowOk] using row
  | _ => cases h <;> rfl

theorem mkSNode_of_enc {i : Instr} {op : BitVec 6} {at_ : SFireAt} {w : NodeWord} (h : i.enc = .node op at_ w) :
    mkSNode op.toNat at_ w = some i := by
  cases i with
  | _ => cases h <;> rfl

/-- Settles O6: the word has no error, and its opcode names its row. -/
theorem nodeWordsRoundTrip : Obligations.NodeWordsRoundTrip := by
  unfold Obligations.NodeWordsRoundTrip
  intro i ok
  obtain ⟨row, good⟩ := Bool.and_eq_true_iff.1 ok
  refine ⟨fun op at_ w h => decodeBlock_bits ?_ (mkNode_of_enc h row), fun op at_ w h => decodeNode_bits ?_ (mkSNode_of_enc h)⟩
  · rwa [Instr.wordErr, h] at good
  · rwa [Instr.wordErr, h] at good

/-! ### Words written out -/

/-- Settles O7: each of them is the encoding of its instruction. -/
theorem decodeWords : Obligations.DecodeWords := by
  unfold Obligations.DecodeWords
  exact ⟨(RoundTrip.fadd .f64 .rne 7 8 9 rfl).2, (RoundTrip.blt 3 4 0x1FFA rfl).2, (RoundTrip.trap 5 rfl).2, (RoundTrip.jal 0 0x3FFF8 rfl).2,
    (RoundTrip.divn 3 1 2 rfl).2, (RoundTrip.getk 13 0x010 rfl).2, (RoundTrip.halt rfl).2, (RoundTrip.tret rfl).2,
    (RoundTrip.liCompact 5 0x3F rfl).2, (RoundTrip.beqCompact 2 0x0A rfl).2, (RoundTrip.haltCompact rfl).2⟩

end Sys2Proof
end

section
/-! SUPPORT and PROOFS. The decoder reads every bit (R62-R67, R76): what it answers for a word or parcel is encoded as that word or parcel. Each
of its parts is stated over the fields that it reads, and the fields make up the word. -/

namespace Sys2Proof

/-! ### The answers of a decoder and their encodings -/

/-- Whatever a decoder answers is encoded as `e`. -/
def Reads (r : Except DecodeErr Instr) (e : Enc) : Prop := ∀ i, r = .ok i → i.enc = e

section
variable {i : Instr} {x : DecodeErr} {e : Enc}

@[simp] theorem reads_ok : Reads (.ok i) e ↔ i.enc = e := by
  simp [Reads]

@[simp] theorem reads_error : Reads (.error x) e := by
  simp [Reads]

@[simp] theorem reads_need {c : Bool} : Reads (need c x i) e ↔ (c = true → i.enc = e) := by
  cases c <;> simp [need]

theorem reads_field {α : Type} {o : Option α} {k : α → Except DecodeErr Instr} (h : ∀ a, o = some a → Reads (k a) e) :
    Reads (field o k) e := by
  cases o with
  | some a => exact h a rfl
  | none => exact reads_error

theorem Reads.congr_word {r : Except DecodeErr Instr} {v w : BitVec 32} (h : Reads r (.word v)) (same : v = w) : Reads r (.word w) := same ▸ h

end

/-- A field whose value is known. -/
theorem ofNat_of_toNat {k n : Nat} {x : BitVec k} (h : x.toNat = n) : BitVec.ofNat k n = x := by
  rw [← h, BitVec.ofNat_toNat, BitVec.setWidth_eq]

/-! ### Field codes (R63, R66) -/

@[simp] theorem LdW.code_ofCode (c : BitVec 3) : (LdW.ofCode c).code = c := by
  revert c
  decide

@[simp] theorem FFmt.code_ofCode (c : BitVec 1) : (FFmt.ofCode c).code = c := by
  revert c
  decide

@[simp] theorem ASize.code_ofCode (c : BitVec 1) : (ASize.ofCode c).code = c := by
  revert c
  decide

@[simp] theorem ASize.ofCode_eq_s32 (c : BitVec 1) : ASize.ofCode c = .s32 ↔ c = 0#1 := by
  revert c
  decide

@[simp] theorem CSize.code_ofCode (c : BitVec 1) : (CSize.ofCode c).code = c := by
  revert c
  decide

@[simp] theorem boolBit_eq_one (c : BitVec 1) : boolBit (c == 1#1) = c := by
  revert c
  decide

theorem StW.code_of_ofCode {c : BitVec 3} {x : StW} : StW.ofCode c = some x → x.code = c := by
  revert c
  cases x <;> decide

theorem Scope.code_of_ofCode {c : BitVec 3} {x : Scope} : Scope.ofCode c = some x → x.code = c := by
  revert c
  cases x <;> decide

theorem FenceKind.code_of_ofCode {c : BitVec 2} {x : FenceKind} : FenceKind.ofCode c = some x → x.code = c := by
  revert c
  cases x <;> decide

theorem FlagW.code_of_ofCode {c : BitVec 3} {x : FlagW} : FlagW.ofCode c = some x → x.code = c := by
  revert c
  cases x <;> decide

theorem PLane.code_of_ofCode {c : BitVec 2} {x : PLane} : PLane.ofCode c = some x → x.code = c := by
  revert c
  cases x <;> decide

theorem SRnd.code_rne : SRnd.rne.code = 0#3 := rfl

theorem SRnd.code_of_ofCode {c : BitVec 3} {x : SRnd} : SRnd.ofCode c = some x → x.code = c := by
  revert c
  cases x <;> decide

/-! ### A word from its fields (R63) -/

/-- Two fields that lie side by side. -/
theorem fields_append {n : Nat} (x : BitVec n) (k a b : Nat) : x.extractLsb' (k + b) a ++ x.extractLsb' k b = x.extractLsb' k (a + b) :=
  BitVec.extractLsb'_append_extractLsb'_eq_extractLsb' rfl

section
variable {w : BitVec 32} {major : Nat} (top : w.extractLsb' 29 3 = 7#3) (hm : (fMajor w).toNat = major)

include top hm

theorem wordR_fields : wordR (.ofNat 6 major) (fD w) (fA w) (fB w) (fSub w) = w := by
  rw [wordR, ofNat_of_toNat hm, ← top, fMajor, fD, fA, fB, fSub, fields_append w 23 3 6, fields_append w 18 9 5, fields_append w 13 14 5,
    fields_append w 8 19 5, fields_append w 0 24 8, BitVec.extractLsb'_eq_self]

theorem wordI13_fields : wordI13 (.ofNat 6 major) (fD w) (fA w) (fImm13 w) = w := by
  rw [wordI13, ofNat_of_toNat hm, ← top, fMajor, fD, fA, fImm13, fields_append w 23 3 6, fields_append w 18 9 5, fields_append w 13 14 5,
    fields_append w 0 19 13, BitVec.extractLsb'_eq_self]

/-- A shift amount is the low six bits of an immediate whose others are zero. -/
theorem wordShamt_fields (zero : w.extractLsb' 6 7 = 0#7) : wordI13 (.ofNat 6 major) (fD w) (fA w) (0#7 ++ w.extractLsb' 0 6) = w := by
  rw [← zero, fields_append w 0 7 6]
  exact wordI13_fields top hm

theorem wordI18_fields : wordI18 (.ofNat 6 major) (fD w) (fImm18 w) = w := by
  rw [wordI18, ofNat_of_toNat hm, ← top, fMajor, fD, fImm18, fields_append w 23 3 6, fields_append w 18 9 5, fields_append w 0 14 18,
    BitVec.extractLsb'_eq_self]

theorem wordM_fields : wordM (.ofNat 6 major) (fD w) (fA w) (fWidth w) (fOff10 w) = w := by
  rw [wordM, ofNat_of_toNat hm, ← top, fMajor, fD, fA, fWidth, fOff10, fields_append w 23 3 6, fields_append w 18 9 5,
    fields_append w 13 14 5, fields_append w 10 19 3, fields_append w 0 22 10, BitVec.extractLsb'_eq_self]

end

/-! The sub-op byte from its parts. The part by which a decoder chooses the row is written through its number, which each arm of the choice
knows. -/

section
variable (w : BitVec 32)

theorem fSub_whole : BitVec.ofNat 8 (fSub w).toNat = fSub w := ofNat_of_toNat rfl

theorem fSub_packed : w.extractLsb' 6 2 ++ BitVec.ofNat 4 (w.extractLsb' 2 4).toNat ++ w.extractLsb' 0 2 = fSub w := by
  rw [ofNat_of_toNat rfl, fields_append w 2 2 4, fields_append w 0 6 2, fSub]

theorem fSub_float : w.extractLsb' 7 1 ++ w.extractLsb' 4 3 ++ BitVec.ofNat 4 (w.extractLsb' 0 4).toNat = fSub w := by
  rw [ofNat_of_toNat rfl, fields_append w 4 1 3, fields_append w 0 4 4, fSub]

theorem fSub_access : w.extractLsb' 5 3 ++ w.extractLsb' 2 3 ++ w.extractLsb' 0 2 = fSub w := by
  rw [fields_append w 2 3 3, fields_append w 0 6 2, fSub]

theorem fSub_atomic :
    BitVec.ofNat 4 (w.extractLsb' 4 4).toNat ++ w.extractLsb' 3 1 ++ w.extractLsb' 2 1 ++ w.extractLsb' 0 2 = fSub w := by
  rw [ofNat_of_toNat rfl, fields_append w 3 4 1, fields_append w 2 5 1, fields_append w 0 6 2, fSub]

end

/-! ### The majors (R65, R66)

In each arm the row's encoding puts back the number that chose the arm, and zero where the decoder has found a field zero. -/

section
variable (w : BitVec 32)

theorem decInt_reads : Reads (decInt w) (.word (wordR 0x00 (fD w) (fA w) (fB w) (fSub w))) := by
  rw [← fSub_whole, decInt]
  split <;> simp +contextual [*, Instr.enc]

theorem decPacked_reads : Reads (decPacked w) (.word (wordR 0x09 (fD w) (fA w) (fB w) (fSub w))) := by
  rw [← fSub_packed, decPacked]
  split
  · exact reads_error
  · next low =>
    refine reads_field fun l lane => ?_
    have low : w.extractLsb' 0 2 = 0#2 := by simpa using low
    split <;> simp [*, Instr.enc, subPacked, PLane.code_of_ofCode lane]

theorem decFloat_reads : Reads (decFloat w) (.word (wordR 0x0A (fD w) (fA w) (fB w) (fSub w))) := by
  rw [← fSub_float, decFloat]
  refine reads_field fun r rnd => ?_
  rw [← SRnd.code_of_ofCode rnd]
  split <;> simp +contextual [*, Instr.enc, subFloat, SRnd.code_rne]

theorem decLdaq_reads : Reads (decLdaq w) (.word (wordR 0x15 (fD w) (fA w) (fB w) (fSub w))) := by
  rw [← fSub_access, decLdaq]
  refine reads_field fun sc scope => ?_
  simp +contextual [Instr.enc, subAcc, Scope.code_of_ofCode scope]

theorem decStrl_reads : Reads (decStrl w) (.word (wordR 0x16 (fD w) (fA w) (fB w) (fSub w))) := by
  rw [← fSub_access, decStrl]
  refine reads_field fun sc scope => reads_field fun x width => ?_
  simp +contextual [Instr.enc, subAcc, Scope.code_of_ofCode scope, StW.code_of_ofCode width]

theorem decFence_reads : Reads (decFence w) (.word (wordR 0x17 (fD w) (fA w) (fB w) (fSub w))) := by
  rw [← fSub_access, decFence]
  refine reads_field fun sc scope => reads_field fun k kind => ?_
  simp +contextual [Instr.enc, subFence, Scope.code_of_ofCode scope, FenceKind.code_of_ofCode kind]

theorem decSflag_reads : Reads (decSflag w) (.word (wordR 0x18 (fD w) (fA w) (fB w) (fSub w))) := by
  rw [← fSub_access, decSflag]
  refine reads_field fun sc scope => reads_field fun x width => ?_
  simp +contextual [Instr.enc, subAcc, Scope.code_of_ofCode scope, FlagW.code_of_ofCode width]

theorem decAtomic_reads : Reads (decAtomic w) (.word (wordR 0x19 (fD w) (fA w) (fB w) (fSub w))) := by
  rw [← fSub_atomic, decAtomic]
  split
  · exact reads_error
  · next low =>
    have low : w.extractLsb' 0 2 = 0#2 := by simpa using low
    split <;> simp +contextual [*, Instr.enc, subAtomic]

theorem decCas_reads : Reads (decCas w) (.word (wordR 0x1A (fD w) (fA w) (fB w) (fSub w))) := by
  rw [← fSub_atomic, ofNat_of_toNat rfl, decCas]
  simp +contextual [Instr.enc, subAtomic]

theorem decMsg_reads : Reads (decMsg w) (.word (wordR 0x1B (fD w) (fA w) (fB w) (fSub w))) := by
  rw [← fSub_whole, decMsg]
  split <;> simp +contextual [*, Instr.enc]

theorem decQueue_reads : Reads (decQueue w) (.word (wordR 0x1C (fD w) (fA w) (fB w) (fSub w))) := by
  rw [← fSub_whole, decQueue]
  split <;> simp +contextual [*, Instr.enc, subQueue, boolBit]

theorem decTable_reads : Reads (decTable w) (.word (wordR 0x1D (fD w) (fA w) (fB w) (fSub w))) := by
  rw [← fSub_whole, decTable]
  split <;> simp +contextual [*, Instr.enc]

theorem decMatrix_reads : Reads (decMatrix w) (.word (wordR 0x1E (fD w) (fA w) (fB w) (fSub w))) := by
  rw [← fSub_whole, decMatrix]
  split <;> simp +contextual [*, Instr.enc]

theorem decSched_reads : Reads (decSched w) (.word (wordR 0x1F (fD w) (fA w) (fB w) (fSub w))) := by
  rw [← fSub_whole, decSched]
  split <;> simp +contextual [*, Instr.enc]

theorem decBar_reads : Reads (decBar w) (.word (wordR 0x20 (fD w) (fA w) (fB w) (fSub w))) := by
  rw [← fSub_whole, decBar]
  split <;> simp +contextual [*, Instr.enc]

theorem decSys_reads : Reads (decSys w) (.word (wordR 0x21 (fD w) (fA w) (fB w) (fSub w))) := by
  rw [← fSub_whole, decSys]
  split <;> simp +contextual [*, Instr.enc]

theorem decPutk_reads : Reads (decPutk w) (.word (wordI13 0x23 (fD w) (fA w) (fImm13 w))) := by
  simp only [decPutk, reads_need, beq_iff_eq]
  intro zero
  split
  · next dom => simp [zero, dom, Instr.enc]
  · split
    · next ecomph => simp [zero, ecomph, Instr.enc]
    · split
      · next lnack => simp [zero, lnack, Instr.enc]
      · simp [zero, Instr.enc]

end

/-- R65: the major chooses a decoder, and the word is that major with the fields that the decoder reads. -/
theorem decodeWord_reads {w : BitVec 32} (top : w.extractLsb' 29 3 = 7#3) : Reads (decodeWord w) (.word w) := by
  rw [decodeWord]
  split
  case h_1 hm => exact (decInt_reads w).congr_word (wordR_fields top hm)
  case h_10 hm => exact (decPacked_reads w).congr_word (wordR_fields top hm)
  case h_11 hm => exact (decFloat_reads w).congr_word (wordR_fields top hm)
  case h_22 hm => exact (decLdaq_reads w).congr_word (wordR_fields top hm)
  case h_23 hm => exact (decStrl_reads w).congr_word (wordR_fields top hm)
  case h_24 hm => exact (decFence_reads w).congr_word (wordR_fields top hm)
  case h_25 hm => exact (decSflag_reads w).congr_word (wordR_fields top hm)
  case h_26 hm => exact (decAtomic_reads w).congr_word (wordR_fields top hm)
  case h_27 hm => exact (decCas_reads w).congr_word (wordR_fields top hm)
  case h_28 hm => exact (decMsg_reads w).congr_word (wordR_fields top hm)
  case h_29 hm => exact (decQueue_reads w).congr_word (wordR_fields top hm)
  case h_30 hm => exact (decTable_reads w).congr_word (wordR_fields top hm)
  case h_31 hm => exact (decMatrix_reads w).congr_word (wordR_fields top hm)
  case h_32 hm => exact (decSched_reads w).congr_word (wordR_fields top hm)
  case h_33 hm => exact (decBar_reads w).congr_word (wordR_fields top hm)
  case h_34 hm => exact (decSys_reads w).congr_word (wordR_fields top hm)
  case h_36 hm => exact (decPutk_reads w).congr_word (wordI13_fields top hm)
  case h_2 hm | h_3 hm | h_12 hm | h_13 hm | h_14 hm | h_15 hm | h_16 hm | h_17 hm | h_19 hm =>
    exact reads_ok.2 (congrArg Enc.word (wordI13_fields top hm))
  case h_7 hm | h_8 hm | h_9 hm | h_18 hm => exact reads_ok.2 (congrArg Enc.word (wordI18_fields top hm))
  case h_4 hm | h_5 hm | h_6 hm => exact reads_need.2 fun zero => congrArg Enc.word (wordShamt_fields top hm (eq_of_beq zero))
  case h_35 hm => exact reads_need.2 fun zero => congrArg Enc.word (eq_of_beq zero ▸ wordI13_fields top hm)
  case h_20 hm => exact reads_ok.2 (congrArg Enc.word ((LdW.code_ofCode _).symm ▸ wordM_fields top hm))
  case h_21 hm => exact reads_field fun x width => reads_ok.2 (congrArg Enc.word (StW.code_of_ofCode width ▸ wordM_fields top hm))
  case h_37 hm | h_38 hm => exact reads_need.2 fun zero => congrArg Enc.word (eq_of_beq zero ▸ wordM_fields top hm)
  case h_39 => exact reads_error

/-! ### Compact parcels (R64) -/

theorem parcel3_fields (p : BitVec 16) : p.extractLsb' 12 4 ++ p.extractLsb' 8 4 ++ p.extractLsb' 4 4 ++ p.extractLsb' 0 4 = p := by
  rw [fields_append p 8 4 4, fields_append p 4 8 4, fields_append p 0 12 4, BitVec.extractLsb'_eq_self]

theorem parcel2_fields (p : BitVec 16) : p.extractLsb' 12 4 ++ p.extractLsb' 8 4 ++ p.extractLsb' 0 8 = p := by
  rw [fields_append p 8 4 4, fields_append p 0 8 8, BitVec.extractLsb'_eq_self]

theorem parcel1_fields (p : BitVec 16) : p.extractLsb' 12 4 ++ p.extractLsb' 0 12 = p := by
  rw [fields_append p 0 4 12, BitVec.extractLsb'_eq_self]

theorem decodeCompact_reads (p : BitVec 16) : Reads (decodeCompact p) (.parcel p) := by
  rw [decodeCompact]
  have operands3 := parcel3_fields p
  have operands2 := parcel2_fields p
  have rest := parcel1_fields p
  split
  case h_14 hc =>
    rw [← ofNat_of_toNat hc] at rest
    split
    case h_3 => exact reads_error
    all_goals
      next hr =>
        rw [← ofNat_of_toNat hr] at rest
        exact reads_ok.2 (congrArg Enc.parcel rest)
  case h_15 => exact reads_error
  case h_9 hc | h_12 hc | h_13 hc =>
    rw [← ofNat_of_toNat hc] at operands2
    exact reads_ok.2 (congrArg Enc.parcel operands2)
  all_goals
    next hc =>
      rw [← ofNat_of_toNat hc] at operands3
      exact reads_ok.2 (congrArg Enc.parcel operands3)

/-! ### The obligation -/

/-- What the decoder reads from two parcels: both of them as a word, or the first as a compact form (R62). -/
theorem decodeParcels_pair {p q : BitVec 16} {i : Instr} {n : Nat} (h : decodeParcels [p, q] = .ok (i, n)) :
    (n = 2 ∧ isFirstParcel p = true ∧ decodeWord (p ++ q) = .ok i) ∨ (n = 1 ∧ decodeCompact p = .ok i) := by
  cases first : isFirstParcel p with
  | true =>
    rw [decodeParcels_word first] at h
    cases dec : decodeWord (p ++ q) <;> rw [dec] at h <;> cases h
    exact .inl ⟨rfl, rfl, rfl⟩
  | false =>
    rw [decodeParcels_parcel first] at h
    cases dec : decodeCompact p <;> rw [dec] at h <;> cases h
    exact .inr ⟨rfl, rfl⟩

/-- Settles O5: a word and a parcel are each made up of the fields that the decoder reads. -/
theorem wordsHaveOneMeaning : Obligations.WordsHaveOneMeaning := by
  unfold Obligations.WordsHaveOneMeaning
  refine ⟨fun p q i h => ?_, fun p q i h => ?_⟩
  · obtain ⟨-, first, dec⟩ | ⟨⟨⟩, -⟩ := decodeParcels_pair h
    exact decodeWord_reads ((isFirstParcel_iff p q).1 first) i dec
  · obtain ⟨⟨⟩, -⟩ | ⟨-, dec⟩ := decodeParcels_pair h
    exact decodeCompact_reads p i dec

end Sys2Proof
end

section
/-! SUPPORT and PROOFS. A step runs what is decoded (R62, R67, R174, R317): the code under the fetch buffer does not depend on the registers of the
loaded thread, a buffer whose code has not changed is fetched as it stands, and the slot is passed on only by a thread that waits. -/

namespace Sys2Proof.Machine

open Claims

/-! ### The loaded registers take no part in a translation (R351) -/

/-- The state with other registers loaded. -/
def State.withCpu (s : State) (c : Thr) : State := { s with cpu := c }

/-- `y` is `x` with other registers loaded. -/
def Agree {α : Type} (c : Thr) (x y : State × α) : Prop := y = (x.1.withCpu c, x.2)

theorem Agree.ite {α : Type} {c : Thr} {P : Prop} {d₁ d₂ : Decidable P} {x x' y y' : State × α} (hx : Agree c x y) (hx' : Agree c x' y') :
    Agree c (@ite _ P d₁ x x') (@ite _ P d₂ y y') := by
  by_cases h : P
  · rwa [if_pos h, if_pos h]
  · rwa [if_neg h, if_neg h]

section
variable (s : State) (c : Thr)

theorem State.withCpu_mmu : (s.withCpu c).mmu = s.mmu := rfl
theorem State.withCpu_freeWord : (s.withCpu c).freeWord = (s.freeWord.1, s.freeWord.2.withCpu c) := rfl

theorem State.keepEntry_withCpu (e : TlbEntry) : (s.withCpu c).keepEntry e = (s.keepEntry e).withCpu c := by
  simp only [State.keepEntry, State.withCpu_mmu, State.withCpu_freeWord]
  split
  · next room => exact if_pos room
  · next full =>
    refine (if_neg full).trans ?_
    split <;> rfl

theorem State.walkRead_agrees (u : UnitId) (asid level key addr n : Nat) :
    Agree c (s.walkRead u asid level key addr n) ((s.withCpu c).walkRead u asid level key addr n) := by
  have keep : ∀ (b : Bool) (t : State) (e : TlbEntry),
      (if b then (t.withCpu c).keepEntry e else t.withCpu c) = (if b then t.keepEntry e else t).withCpu c := by
    intro b t e
    cases b
    · rfl
    · exact t.keepEntry_withCpu c e
  simp only [State.walkRead, State.withCpu_mmu]
  split
  · exact Prod.ext (keep _ s _) rfl
  · exact .ite rfl (.ite rfl (Prod.ext (keep _ s.freeBit.2 _) rfl))

theorem walkLevels_agrees (u : UnitId) (asid va : Nat) (need : Need) (svc : Bool) (lev t : Nat) :
    Agree c (walkLevels u asid va need svc lev t s) (walkLevels u asid va need svc lev t (s.withCpu c)) := by
  induction lev generalizing t s with
  | zero =>
    unfold walkLevels
    dsimp only
    rw [State.walkRead_agrees]
    exact .ite rfl (.ite rfl (.ite rfl (.ite (.ite rfl rfl) rfl)))
  | succ lev ih =>
    unfold walkLevels
    dsimp only
    rw [State.walkRead_agrees]
    exact .ite rfl (.ite rfl (.ite rfl (.ite (.ite rfl rfl) (ih _ _))))

theorem State.translate_agrees (u : UnitId) (asid va : Nat) (need : Need) (svc : Bool) :
    Agree c (s.translate u asid va need svc) ((s.withCpu c).translate u asid va need svc) := by
  simp only [State.translate]
  refine .ite rfl ?_
  rw [State.walkRead_agrees]
  exact .ite rfl (.ite rfl (walkLevels_agrees _ _ _ _ _ _ _ _ _))

theorem State.pageAbsent_withCpu (u : UnitId) (asid va kind : Nat) (x : Option Ctx) :
    (s.withCpu c).pageAbsent u asid va kind x =
      ((s.pageAbsent u asid va kind x).1, (s.pageAbsent u asid va kind x).2.withCpu c) := by
  simp only [State.pageAbsent, State.withCpu_mmu]
  split <;> rfl

/-- The checks of an access do not look at the registers. -/
theorem State.checkAccess_agrees (ea : Word) (n : Nat) (need : Need) (at_ : Bool) :
    Agree c (s.checkAccess ea n need at_) ((s.withCpu c).checkAccess ea n need at_) := by
  have space : (s.withCpu c).space (s.withCpu c).who = s.space s.who := rfl
  unfold State.checkAccess
  refine .ite rfl (.ite rfl ?_)
  rw [space]
  rcases s.space s.who with _ | ⟨asid, svc, u⟩
  · rfl
  · dsimp only
    rw [State.translate_agrees]
    rcases s.translate u asid ea.toNat need svc with ⟨t, ⟨pa, via⟩ | _ | _⟩
    · exact .ite rfl (.ite rfl (.ite rfl (.ite rfl rfl)))
    · rfl
    · dsimp only
      rw [State.pageAbsent_withCpu]
      rfl

/-- The code that stands in memory now does not depend on the registers. -/
theorem State.codeNow_withCpu (ea : Word) : (s.withCpu c).codeNow ea = s.codeNow ea := by
  have who : (s.withCpu c).who = s.who := rfl
  unfold State.codeNow
  rw [State.checkAccess_agrees, who]
  rcases s.who with _ | _
  · rcases s.checkAccess ea 2 .x false with ⟨t, _ | _ | _⟩ <;> rfl
  · rfl

end

/-! ### The fetch of unchanged code (R174) -/

theorem State.oldOrNew_unchanged {s : State} {ea : Word} {p : BitVec 16} (same : ∀ q, s.codeNow ea = some q → q = p) :
    s.oldOrNew ea p = (p, s) := by
  unfold State.oldOrNew
  split
  · next q now => rw [if_pos (same q now)]
  · rfl

/-- Parcels that decode make a whole instruction. -/
theorem wholeInstr_of_decodes {ps : List (BitVec 16)} {r : Instr × Nat} (h : decodeParcels ps = .ok r) : wholeInstr ps = true := by
  match ps with
  | [] => cases h
  | [p] =>
    cases first : isFirstParcel p with
    | true => simp [decodeParcels, first] at h
    | false => simp [wholeInstr, first]
  | _ :: _ :: _ => rfl

/-- No store has changed the code under the first two parcels of the buffer. -/
def State.CodeUnchanged (s : State) : Prop :=
  ∀ k p q, k < 2 → s.cpu.buffered[k]? = some p → s.codeNow (s.cpu.pc + w64 (2 * k)) = some q → q = p

theorem State.fetch_unchanged {s : State} (whole : wholeInstr s.cpu.buffered = true) (same : s.CodeUnchanged) :
    s.fetch = (s, some s.cpu.buffered) := by
  have here : s.cpu.pc + w64 (2 * 0) = s.cpu.pc := BitVec.add_zero _
  have first : ∀ p, s.cpu.buffered[0]? = some p → s.oldOrNew s.cpu.pc p = (p, s) := fun p hp =>
    State.oldOrNew_unchanged fun q hq => same 0 p q (by decide) hp (by rwa [here])
  have second : ∀ p, s.cpu.buffered[1]? = some p → s.oldOrNew (s.cpu.pc + 2) p = (p, s) := fun p hp =>
    State.oldOrNew_unchanged fun q hq => same 1 p q (by decide) hp hq
  rw [State.fetch, Thr.hasNext, whole]
  match buffer : s.cpu.buffered with
  | [] => simp [buffer, wholeInstr] at whole
  | [p] =>
    have compact : isFirstParcel p = false := by simpa [buffer, wholeInstr] using whole
    simp [first p (by rw [buffer]; rfl), compact]
  | p :: q :: r =>
    simp only [first p (by rw [buffer]; rfl), second q (by rw [buffer]; rfl), Bool.not_true, Bool.false_eq_true, if_false]

/-- A thread with no trap due runs the row that its unchanged buffer decodes to. -/
theorem runThread_decodes {s : State} {r : Instr × Nat} (due : s.cpu.trapDue = none) (same : s.CodeUnchanged)
    (dec : decodeParcels s.cpu.buffered = .ok r) : runThread s = exec (s.rowOf r.1) s := by
  simp only [runThread, due, State.fetch_unchanged (wholeInstr_of_decodes dec) same, dec]

/-! ### The slot (R317, R333) -/

/-- The tasks by which a thread that was not ready gives its slot to another. -/
def State.slotAgain (t : State) : List Task :=
  match t.who with
  | .thread st _ _ => [⟨.issueSlot, .n1 st⟩]
  | .engine _ _ => []

theorem State.passSlot_ready {t : State} (y : Bool) (h : notReady t.cpu.wait = false) : t.passSlot y = t := by
  unfold State.passSlot
  split
  case h_4 => rfl
  all_goals
    next waits =>
      rw [waits] at h
      cases h

theorem State.passSlot_notReady {t : State} (y : Bool) (h : notReady t.cpu.wait = true) :
    t.passSlot y = { t with
      cpu := { t.cpu with yielded := y }
      model := { t.model with agenda := t.slotAgain ++ t.model.agenda } } := by
  unfold State.passSlot
  split
  case h_4 => simp_all [notReady]
  all_goals rfl

/-- The thread as it runs in its slot: one that it owns makes it eligible again. -/
def State.inSlot (s : State) : State := if s.model.owned then s.withCpu { s.cpu with yielded := false } else s

theorem State.inSlot_cpu (s : State) : s.inSlot.cpu.trapDue = s.cpu.trapDue ∧ s.inSlot.cpu.buffered = s.cpu.buffered := by
  unfold State.inSlot
  split <;> exact ⟨rfl, rfl⟩

theorem State.inSlot_unchanged {s : State} (same : s.CodeUnchanged) : s.inSlot.CodeUnchanged := by
  unfold State.inSlot
  split
  · intro k p q hk hp hq
    rw [State.codeNow_withCpu] at hq
    exact same k p q hk hp hq
  · exact same

/-- The state in which the thread that holds the slot runs: the slot is taken. -/
def State.slotTaken (s : State) : State := { s with model := { s.model with run := none } }

theorem step_runs_slot {s : State} (slot : s.model.run = some s.who) : step s = runSlot s.slotTaken := by
  rw [step, slot]
  exact if_pos rfl

section
variable {s : State}

theorem runSlot_next {t : State} (h : runThread s.inSlot = .next t) : runSlot s = .next (t.passSlot s.cpu.yielded) := by
  rw [State.inSlot, State.withCpu] at h
  simp only [runSlot, h]

theorem runSlot_fault {f : Fault} (h : runThread s.inSlot = .fault f) : runSlot s = .fault f := by
  rw [State.inSlot, State.withCpu] at h
  simp only [runSlot, h]

theorem runSlot_refused {f : Refusal} (h : runThread s.inSlot = .refused f) : runSlot s = .refused f := by
  rw [State.inSlot, State.withCpu] at h
  simp only [runSlot, h]

end

/-- Settles O8: the buffer is fetched as it stands and decodes to the operation, and the slot is passed on as the outcome says. -/
theorem stepRunsDecoded : Obligations.StepRunsDecoded := by
  unfold Obligations.StepRunsDecoded
  intro s i r slot due seq ok buffer u same v
  have dec : decodeParcels s.slotTaken.inSlot.cpu.buffered = .ok (i.base, i.parcels) := by
    rw [(State.inSlot_cpu _).2]
    exact (congrArg decodeParcels buffer).trans (decodeParcels_encode seq ok r)
  have run := runThread_decodes ((State.inSlot_cpu s.slotTaken).1.trans due) (State.inSlot_unchanged (s := s.slotTaken) same) dec
  rw [step_runs_slot slot]
  refine ⟨fun t h ready => ?_, fun t h waits => ?_, fun f h => runSlot_fault (run.trans h), fun f h => runSlot_refused (run.trans h)⟩
  · rw [runSlot_next (run.trans h), State.passSlot_ready _ ready]
  · rw [runSlot_next (run.trans h), State.passSlot_notReady _ waits]
    rfl

end Sys2Proof.Machine
end

section
/-! SUPPORT and PROOFS. The matrix nodes in their turn (R139 to R141, R150): how a node that acts, or has nothing to do, ends its firing, then
the cases of each node. -/

namespace Sys2Proof.Machine

open Claims

/-! ### A matrix node in its turn -/

theorem laneZero_lane (tag v l : Nat) (h : l < 16) : (laneZero tag v).lane l = if l = 0 then some (BitVec.ofNat 32 v) else none :=
  Token.of_lane tag _ l h

theorem Firing.param_eq (f : Firing) (l : Nat) : f.param l = (opA f l).toNat := rfl

section
variable {s t : State} {at_ : FireAt} {op params : Nat} {w : BlockWord} {f : Firing} {body : Firing → State → State × Shot}

/-- A node without a valid parameter, or whose predicate fails, sends null tokens. -/
theorem State.fireMatrix_null (hf : s.firing at_ op w = some f) (turn : f.matrixTurn = true) (idle : f.acts params = false) :
    s.fireMatrix at_ op w params body = s.sendTokens f (Token.null at_.iter) (Token.null at_.iter) 0 := by
  obtain ⟨-, place, -⟩ := State.firing_word hf
  simp [State.fireMatrix, State.fireWith, hf, turn, idle, Firing.nullShot, place]

theorem State.fireMatrix_sent {a b : Token} {fl : Flags} (hf : s.firing at_ op w = some f) (turn : f.matrixTurn = true)
    (acts : f.acts params = true) (shot : body f s = (t, .sent a b fl)) :
    s.fireMatrix at_ op w params body = t.sendTokens f a b fl := by
  simp [State.fireMatrix, State.fireWith, hf, turn, acts, shot]

theorem State.fireMatrix_wait (hf : s.firing at_ op w = some f) (turn : f.matrixTurn = true)
    (acts : f.acts params = true) (shot : body f s = (t, .wait)) : s.fireMatrix at_ op w params body = t := by
  simp [State.fireMatrix, State.fireWith, hf, turn, acts, shot]

/-- Array work that is done enters the invocation of the firing, whose node sends its token. -/
theorem State.arrayShot_ok (place : f.at_ = at_) (j : Inv) (x : Raised) (a : Token) :
    s.arrayShot f (.ok j x) a = (s.modInv at_.region at_.inv (takeArray j x), .sent a a x.flags) := by
  subst place
  rfl

/-- Array work that has read one more row goes on in a later cycle. -/
theorem State.arrayShot_more (place : f.at_ = at_) (j : Inv) (a : Token) :
    s.arrayShot f (.more j) a = (s.modInv at_.region at_.inv fun y => { y with rows := j.rows }, .wait) := by
  subst place
  rfl

end

/-! ### WLOAD -/

section
variable {s : State} {at_ : FireAt} {w : BlockWord} {f : Firing} {t : Ctx × Tile} {j : Inv} {x : Raised}
  (hf : s.firing at_ 0x80 w = some f) (turn : f.matrixTurn = true) (acts : f.acts 1 = true)
  (station : (opA f 0).toNat ≤ 95) (tile : s.arrayTile f.r (opA f 0).toNat w.tile = some t)
include hf turn acts station tile

theorem exec_nodeWload_more (work : s.wload f.r f.i w.ty.toNat t = .more j) :
    exec (.nodeWload at_ w) s = .next (s.modInv at_.region at_.inv fun y => { y with rows := j.rows }) := by
  refine congrArg Host.Outcome.next (State.fireMatrix_wait hf turn acts ?_)
  simp only [Firing.param_eq, station, if_true, tile, work]
  exact State.arrayShot_more (State.firing_word hf).2.1 j _

theorem exec_nodeWload_ok (work : s.wload f.r f.i w.ty.toNat t = .ok j x) :
    exec (.nodeWload at_ w) s =
      .next (((s.modRegion f.r.handle fun r => { r with staging := (j.staged.map (·.1)).getD r.staging }).modInv
        at_.region at_.inv (takeArray j x)).sendTokens f (laneZero at_.iter (256 * f.r.w * f.r.h))
          (laneZero at_.iter (256 * f.r.w * f.r.h)) x.flags) := by
  refine congrArg Host.Outcome.next (State.fireMatrix_sent hf turn acts ?_)
  simp only [Firing.param_eq, station, if_true, tile, work, State.arrayShot_ok (State.firing_word hf).2.1]
  cases j.staged <;> rfl

end

/-! ### MACC -/

/-- The ZERO parameter as a number and as a lane. -/
theorem toNat_beq_one (v : Lane) : (v.toNat == 1) = (v == 1) := by
  rw [Bool.eq_iff_iff, beq_iff_eq, beq_iff_eq, BitVec.toNat_eq]
  rfl

section
variable {s : State} {at_ : FireAt} {w : BlockWord} {f : Firing} {t o : Ctx × Tile} {j : Inv} {x : Raised}
  (hf : s.firing at_ 0x81 w = some f) (turn : f.matrixTurn = true) (acts : f.acts 6 = true)
  (zero : (opA f 5).toNat ≤ 1) (station : (opA f 1).toNat ≤ 95)
  (source : s.arrayTile f.r (opA f 1).toNat (opA f 0).toNat = some t) (sums : s.ownTile f.r (opA f 2).toNat = some o)
include hf turn acts zero station source sums

theorem exec_nodeMacc_more
    (work : s.macc f.r f.i w.ty.toNat t o (opA f 3).toNat (opA f 4).toNat (opA f 5 == 1) = .more j) :
    exec (.nodeMacc at_ w) s = .next (s.modInv at_.region at_.inv fun y => { y with rows := j.rows }) := by
  refine congrArg Host.Outcome.next (State.fireMatrix_wait hf turn acts ?_)
  have inRange : ¬ (1 < (opA f 5).toNat ∨ 95 < (opA f 1).toNat) := by omega
  simp only [Firing.param_eq, inRange, if_false, toNat_beq_one, source, sums, work, State.arrayShot_more (State.firing_word hf).2.1]

theorem exec_nodeMacc_ok
    (work : s.macc f.r f.i w.ty.toNat t o (opA f 3).toNat (opA f 4).toNat (opA f 5 == 1) = .ok j x) :
    exec (.nodeMacc at_ w) s =
      .next (((s.modInv at_.region at_.inv (takeArray j x)).shadowArray at_.region at_.inv).sendTokens f
        (laneZero at_.iter (opA f 4).toNat) (laneZero at_.iter (opA f 4).toNat) x.flags) := by
  refine congrArg Host.Outcome.next (State.fireMatrix_sent hf turn acts ?_)
  have inRange : ¬ (1 < (opA f 5).toNat ∨ 95 < (opA f 1).toNat) := by omega
  simp only [Firing.param_eq, inRange, if_false, toNat_beq_one, source, sums, work, State.arrayShot_ok (State.firing_word hf).2.1]

end

/-! ### ACCDRAIN -/

/-- What an ACCDRAIN leaves held of a run of sixteen values: they stay as they are, or become +0 (R139). -/
def Inv.drained (i : Inv) (clear pa : Nat) : Inv := if clear = 1 then i.clearRun pa (List.range 16) else i

/-- The token that delivers a run of sixteen accumulator values. -/
def drainToken (tag : Nat) (vs : List Nat) : Token := Token.of tag fun l => some (BitVec.ofNat 32 (vs.getD l 0))

theorem drainToken_lane (tag : Nat) (vs : List Nat) (l : Nat) (h : l < 16) :
    (drainToken tag vs).lane l = some (BitVec.ofNat 32 (vs.getD l 0)) := Token.of_lane tag _ l h

theorem exec_nodeAccdrain_ok {s : State} {at_ : FireAt} {w : BlockWord} {f : Firing} {c : Ctx} {t : Tile} {vs : List Nat} {pa : Nat}
    (hf : s.firing at_ 0x82 w = some f) (turn : f.matrixTurn = true) (acts : f.acts 3 = true) (tile : s.ownTile f.r w.tile = some (c, t))
    (clear : (opA f 2).toNat ≤ 1) (run : (opA f 1).toNat < 4 * f.r.w) (fits : t.fits 1 f.r.columns ((opA f 0).toNat + 1) false = true)
    (start : pa = c.partAddr t.base + (opA f 0).toNat * 4 * f.r.columns + 64 * (opA f 1).toNat)
    (room : (f.i.drained (opA f 2).toNat pa).heldBytes ≤ f.r.holdLimit) (read : s.accRun f.i pa (List.range 16) = .ok vs) :
    exec (.nodeAccdrain at_ w) s =
      .next ((s.modInv at_.region at_.inv (takeArray (f.i.drained (opA f 2).toNat pa) Raised.zero)).sendTokens f
        (drainToken at_.iter vs) (drainToken at_.iter vs) 0) := by
  subst start
  refine congrArg Host.Outcome.next (State.fireMatrix_sent hf turn acts ?_)
  have inRange : ¬ (1 < (opA f 2).toNat ∨ 4 * f.r.w ≤ (opA f 1).toNat) := by omega
  simp only [tile, Firing.param_eq, fits, Bool.not_true, Bool.false_eq_true, or_false, inRange, if_false, read]
  exact (if_neg (Nat.not_lt.2 room)).trans (State.arrayShot_ok (State.firing_word hf).2.1 _ Raised.zero _)

/-- Settles O20: a node that does not act sends null tokens, and each way to go on of one that acts is a lemma of its own. -/
theorem matrixNodes : Obligations.MatrixNodes := by
  unfold Obligations.MatrixNodes
  intro s at_ w f turn z lane0
  have lane0_laneZero (v : Nat) : lane0 v (laneZero at_.iter v) := ⟨rfl, laneZero_lane at_.iter v⟩
  refine ⟨fun wload => ⟨fun idle => ?_, fun t j acts station tile work => ?_, fun t j x acts station tile work => ?_⟩,
    fun macc => ⟨fun idle => ?_, fun t o j x acts zero station source sums => ⟨fun work => ?_, fun work => ?_⟩⟩,
    fun accdrain => ⟨fun idle => ?_, ?_⟩⟩
  · exact congrArg Host.Outcome.next (State.fireMatrix_null wload turn idle)
  · exact exec_nodeWload_more wload turn acts station tile work
  · exact ⟨_, lane0_laneZero _, exec_nodeWload_ok wload turn acts station tile work⟩
  · exact congrArg Host.Outcome.next (State.fireMatrix_null macc turn idle)
  · exact exec_nodeMacc_more macc turn acts zero station source sums work
  · exact ⟨_, lane0_laneZero _, exec_nodeMacc_ok macc turn acts zero station source sums work⟩
  · exact congrArg Host.Outcome.next (State.fireMatrix_null accdrain turn idle)
  · intro c t vs acts tile clear run fits pa j room read
    exact ⟨_, ⟨rfl, drainToken_lane at_.iter vs⟩, exec_nodeAccdrain_ok accdrain turn acts tile clear run fits rfl room read⟩

end Sys2Proof.Machine
end

section
/-! SUPPORT and PROOFS. Matrix commands (R142 to R145): what a sender that passes its checks puts on its way, and what becomes of a command
at its region. -/

namespace Sys2Proof.Machine

open Claims

/-! ### Sending -/

/-- In a context, outside a dome-close handler, a form runs its effect (R422). -/
theorem State.withCtx_run {s : State} {c : Ctx} (h : InCtx s c) (d : Reg) (harts : State → State) (body : Ctx → State → State) :
    s.withCtx d harts body = body c s := by
  obtain ⟨outside, mine⟩ := h
  simp [State.withCtx, outside, mine]

/-- The capabilities that the operands of a matrix command name: one, and up to four more (R144). -/
def commandCaps (v x : Word) : List Nat :=
  wbits v 15 0 :: (List.range (wbits v 18 16)).map fun k => wbits x (16 * k + 15) (16 * k)

theorem wbits_above_19 {v : Word} (h : v.toNat < 2 ^ 19) : wbits v 63 19 = 0 := by
  rw [wbits, bitsOf, Nat.shiftRight_eq_div_pow, Nat.div_eq_of_lt h, Nat.zero_mod]

/-- An operand of MSTAT names one capability alone. -/
theorem wbits_low_16 {v : Word} (h : v.toNat < 2 ^ 19) (one : wbits v 18 16 = 0) : wbits v 15 0 = v.toNat := by
  simp only [wbits, bitsOf, Nat.shiftRight_eq_div_pow] at one ⊢
  omega

/-- A matrix command that passes its checks is sent to every region that its capabilities name. -/
theorem opMatrix_sends {i : Instr} {kind : Nat} {d a b : Reg} {s : State} {c : Ctx} {rs : List Region}
    (ready : Ready ⟨.matrix, false, if kind = 3 then [d, a] else [d, a, b], []⟩ s) (ctx : InCtx s c) (narrow : (s.reg a).toNat < 2 ^ 19)
    (five : wbits (s.reg a) 18 16 ≤ 4) (single : kind = 3 → wbits (s.reg a) 18 16 = 0)
    (rest : (s.reg b).toNat < 2 ^ (16 * wbits (s.reg a) 18 16)) (desc : badDesc kind s.msg = false)
    (caps : (commandCaps (s.reg a) (s.reg b)).map (s.matrixCap c) = rs.map some) (allowed : s.passesAllowance (rs.map s.regionDie) = false)
    (free : s.mustRelease .pkg (stationHome c.station) = false) :
    opMatrix i kind d a b s =
      .next ((rs.foldl (fun s r => s.sendCmd c r (.command kind s.cpu.m)) s).finishStatus d stOK) := by
  have wellFormed : ¬ (wbits (s.reg a) 63 19 ≠ 0 ∨ 4 < wbits (s.reg a) 18 16 ∨ (kind = 3 ∧ wbits (s.reg a) 18 16 ≠ 0) ∨
      (s.reg b).toNat >>> (16 * wbits (s.reg a) 18 16) ≠ 0 ∨ badDesc kind s.msg = true) := by
    have beyond : (s.reg b).toNat >>> (16 * wbits (s.reg a) 18 16) = 0 := by
      rw [Nat.shiftRight_eq_div_pow, Nat.div_eq_of_lt rest]
    rintro (high | many | ⟨stat, more⟩ | other | bad)
    · exact high (wbits_above_19 narrow)
    · exact absurd many (Nat.not_lt.2 five)
    · exact more (single stat)
    · exact other beyond
    · exact Bool.false_ne_true (desc.symm.trans bad)
  have granted : ((rs.map some).any fun x : Option Region => x.isNone) = false := by simp
  have named : (rs.map some).filterMap id = rs := by simp
  rw [commandCaps] at caps
  rw [opMatrix, issue_ready ready, State.withCtx_run ctx]
  simp only [wellFormed, if_false, caps, granted, named, allowed, free, Bool.false_eq_true]

/-- MLOAD, MRUN and MDRAIN go to up to five regions, MSTAT to one (R144, R149). -/
theorem matrixSends : MatrixSends := by
  intro s d a b c rs ctx narrow e ids sent free
  refine ⟨fun ready five rest caps allowed => ?_, fun r ready one cap allowed => ?_⟩
  · have sends (i : Instr) (kind : Nat) (small : kind < 3) (desc : badDesc kind s.msg = false) : opMatrix i kind d a b s = sent kind rs :=
      have notStat : kind ≠ 3 := Nat.ne_of_lt small
      opMatrix_sends (by rwa [if_neg notStat]) ctx narrow five (absurd · notStat) rest desc caps allowed free
    exact ⟨sends _ 0 (by decide), sends _ 1 (by decide), sends _ 2 (by decide)⟩
  · have none_more : (s.reg 0).toNat < 2 ^ (16 * wbits (s.reg a) 18 16) := Nat.two_pow_pos _
    have caps : (commandCaps (s.reg a) (s.reg 0)).map (s.matrixCap c) = [r].map some := by
      rw [commandCaps, show wbits (s.reg a) 18 16 = 0 from one, wbits_low_16 narrow one]
      simp [cap]
    exact opMatrix_sends (kind := 3) ready ctx narrow (Nat.le_trans (Nat.le_of_eq one) (Nat.zero_le 4)) (fun _ => one) none_more rfl caps allowed free

/-! ### Arriving -/

/-- A change of a region depends only on the region that its handle names. -/
theorem State.modRegion_congr {s : State} {h : Nat} {f g : Region → Region} (e : ∀ r, s.regionOf h = some r → f r = g r) :
    s.modRegion h f = s.modRegion h g := by
  rw [State.modRegion, State.modRegion, modifyFirst_congr e]

/-- The region that a command was sent to is the one that its handle names. -/
theorem State.regionOf_cmdRegion {s : State} {m : CmdMsg} {r : Region} (h : s.cmdRegion m = some r) : s.regionOf r.handle = some r := by
  obtain ⟨found, -⟩ := Option.filter_eq_some_iff.1 h
  have named : r.handle = m.region := eq_of_beq (List.find?_some (p := fun r : Region => r.handle == m.region) found)
  rwa [named]

section
variable {s : State} {kind : Nat} {m : CmdMsg} {desc : Vector Word 8} {r : Region}

/-- A full queue refuses a command. -/
theorem State.arriveCmd_full (cmd : m.kind = .command kind desc) (region : s.cmdRegion m = some r) (full : 64 ≤ r.queueFill) :
    s.arriveCmd m = none := by
  simp only [State.arriveCmd, region, cmd, full, if_true]

/-- A queue with room takes a command, which gets the region's next number. -/
theorem State.arriveCmd_queued (work : kind < 3) (cmd : m.kind = .command kind desc) (region : s.cmdRegion m = some r)
    (room : r.queueFill < 64) :
    s.arriveCmd m = some (s.modRegion r.handle fun r =>
      { r with cmds := r.cmds ++ [.cmd ⟨kind, r.nextCmd, m.sender, m.source, desc⟩], nextCmd := (r.nextCmd + 1) % 2 ^ 32 }) := by
  simp only [State.arriveCmd, region, cmd, Nat.not_le.2 room, Nat.ne_of_lt work, if_false]
  refine congrArg some (State.modRegion_congr fun x hx => ?_)
  obtain rfl : r = x := Option.some.inj ((State.regionOf_cmdRegion region).symm.trans hx)
  rfl

/-- A command that is admitted leaves its way, and its sender has one less outstanding. -/
theorem State.cmdArrives_admitted {t : State} (first : s.firstCmd m = true) (h : s.arriveCmd m = some t) :
    s.cmdArrives m = { t.creditBack m.sender m.die with bus := { t.bus with cmds := t.bus.cmds.filter fun x => x.id != m.id } } := by
  simp [State.cmdArrives, first, h]

/-- A command that is refused stays on its way, to be sent again. -/
theorem State.cmdArrives_refused (first : s.firstCmd m = true) (h : s.arriveCmd m = none) :
    s.cmdArrives m = { s with bus := { s.bus with
      cmds := modifyFirst (fun x => x.id == m.id) (fun x => { x with refused := true }) s.bus.cmds } } := by
  simp [State.cmdArrives, first, h]

end

/-- The first arrival of a command and a retry do the same with it. -/
theorem exec_cmdArrives {s : State} {id : Nat} {m : CmdMsg} {i : Instr} (arg : s.model.arg = .n1 id)
    (h : i = .matrixCommandArrival ∧ (s.bus.cmds.find? fun m => m.id == id && !m.refused) = some m ∨
      i = .commandRetry ∧ (s.bus.cmds.find? fun m => m.id == id && m.refused) = some m) : exec i s = .next (s.cmdArrives m) := by
  obtain ⟨rfl, found⟩ | ⟨rfl, found⟩ := h
  · change execMatrixCommandArrival s = _
    simp only [execMatrixCommandArrival, arg, found]
  · change execCommandRetry s = _
    simp only [execCommandRetry, arg, found]

/-- A command takes the next number and a place in the queue, or is refused (R145). -/
theorem commandArrives : CommandArrives := by
  intro s id kind m desc r arg work cmd first region i event
  rw [exec_cmdArrives arg event]
  refine ⟨fun room => ?_, fun full => ?_⟩
  · rw [State.cmdArrives_admitted first (State.arriveCmd_queued work cmd region room)]
    rfl
  · rw [State.cmdArrives_refused first (State.arriveCmd_full cmd region full)]

/-- Settles O52: a command is sent once its checks pass, and its region takes or refuses it. -/
theorem matrixCommands : Obligations.MatrixCommands := ⟨matrixSends, commandArrives⟩

end Sys2Proof.Machine
end

section
/-! SUPPORT and PROOFS. The integer, immediate, constant and compact forms (R64, R160 to R162): the arithmetic of the model as the table's
expressions give it, then the results of the rows by their shapes, then the words. -/

namespace Sys2Proof.Machine

open Claims

/-! ### The expressions of the table (R160) -/

theorem mulHighS_eq (a b : Word) : mulHighS a b = (a.signExtend 128 * b.signExtend 128).extractLsb' 64 64 := by
  have product : a.signExtend 128 * b.signExtend 128 = BitVec.ofInt 128 (a.toInt * b.toInt) := (BitVec.ofInt_mul ..).symm
  rw [product, mulHighS]
  generalize a.toInt * b.toInt = p
  apply BitVec.eq_of_toNat_eq
  simp only [BitVec.extractLsb'_toNat, BitVec.toNat_ofInt, Nat.shiftRight_eq_div_pow]
  omega

theorem mulHighN_eq (a b : Word) : mulHighN a b = (a.setWidth 128 * b.setWidth 128).extractLsb' 64 64 := by
  have fits : a.toNat * b.toNat < 2 ^ 64 * 2 ^ 64 := Nat.mul_lt_mul'' a.isLt b.isLt
  have product : (a.setWidth 128 * b.setWidth 128).toNat = a.toNat * b.toNat := by
    rw [BitVec.toNat_mul, BitVec.toNat_setWidth_of_le (by decide), BitVec.toNat_setWidth_of_le (by decide)]
    exact Nat.mod_eq_of_lt fits
  apply BitVec.eq_of_toNat_eq
  rw [mulHighN, BitVec.extractLsb'_toNat, product, BitVec.toNat_ofNat, Nat.shiftRight_eq_div_pow]

theorem divS_eq (a b : Word) : divS a b = if b = 0 then 0xFFFFFFFFFFFFFFFF#64 else a.sdiv b := by
  have quotient : BitVec.ofInt 64 (a.toInt.tdiv b.toInt) = a.sdiv b :=
    BitVec.eq_of_toInt_eq ((BitVec.toInt_ofInt _).trans (BitVec.toInt_sdiv a b).symm)
  rw [divS, quotient]
  rfl

/-- A shift by 63 or more leaves the sign in every bit. -/
theorem sar_eq (a b : Word) : sar a b = a.sshiftRight (min b.toNat 63) := by
  by_cases short : b.toNat < 64
  · rw [sar, if_pos short, Nat.min_eq_left (Nat.le_of_lt_succ short)]
  · rw [sar, if_neg short, Nat.min_eq_right (by omega)]
    ext i hi
    rw [BitVec.getElem_sshiftRight]
    have sign : (if inside : 63 + i < 64 then a[63 + i] else a.msb) = a.msb := by
      split
      · next inside =>
        obtain rfl : i = 0 := by omega
        exact (a.msb_eq_getLsbD_last.trans (BitVec.getLsbD_eq_getElem (by decide))).symm
      · rfl
    rw [sign]
    cases a.msb
    · exact BitVec.getElem_zero hi
    · exact BitVec.getElem_allOnes i hi

theorem ofBool_slt_eq (a b : Word) : ofBool (a.slt b) = if a.toInt < b.toInt then 1 else 0 := by
  simp only [ofBool, BitVec.slt_iff_toInt_lt]

theorem ofBool_ult_eq (a b : Word) : ofBool (a.ult b) = if a.toNat < b.toNat then 1 else 0 := by
  simp only [ofBool, BitVec.ult_iff_lt, BitVec.lt_def]

theorem ite_slt_min_eq (a b : Word) : (if a.slt b then a else b) = if b.toInt < a.toInt then b else a := by
  simp only [BitVec.slt_iff_toInt_lt]
  split <;> split
  · omega
  · rfl
  · rfl
  · exact BitVec.eq_of_toInt_eq (by omega)

theorem ite_slt_max_eq (a b : Word) : (if a.slt b then b else a) = if a.toInt < b.toInt then b else a := by
  simp only [BitVec.slt_iff_toInt_lt]

/-- The leading zeros of the low `n` bits end at the highest one that is set. -/
theorem leadingZeros_spec (n v : Nat) :
    leadingZeros n v ≤ n ∧ (∀ k, k < leadingZeros n v → v.testBit (n - 1 - k) = false) ∧
      (leadingZeros n v < n → v.testBit (n - 1 - leadingZeros n v) = true) := by
  induction n with
  | zero => simp [leadingZeros]
  | succ n ih =>
    obtain ⟨le, zeros, one⟩ := ih
    cases top : v.testBit n with
    | true => simp [leadingZeros, top]
    | false =>
      have count : leadingZeros (n + 1) v = leadingZeros n v + 1 := by simp [leadingZeros, top, Nat.add_comm]
      have next (k : Nat) : n + 1 - 1 - (k + 1) = n - 1 - k := by omega
      rw [count]
      refine ⟨Nat.succ_le_succ le, fun k hk => ?_, fun lt => ?_⟩
      · cases k with
        | zero => exact top
        | succ k => exact next k ▸ zeros k (Nat.lt_of_succ_lt_succ hk)
      · exact next _ ▸ one (Nat.lt_of_succ_lt_succ lt)

theorem popCount_eq_countP (n v : Nat) : popCount n v = (List.range n).countP v.testBit := by
  induction n with
  | zero => rfl
  | succ n ih =>
    rw [popCount, ih, List.range_succ, List.countP_append, List.countP_singleton, Nat.add_comm]
    rfl

/-- An offset in parcels. -/
theorem shiftLeft_one_eq (x : Word) : x <<< 1 = 2 * x := by
  rw [BitVec.shiftLeft_eq_mul_twoPow, BitVec.mul_comm]
  rfl

/-! ### The rows by their shapes -/

section
variable {i : Instr} {s : State} {v : Word}

/-- The shapes of R160 to R162 with the value as the table gives it. -/
theorem opRRR_writes_eq {d a b : Reg} (f : Word → Word → Word) (e : exec i s = opRRR i d a b f s) (ready : Ready (.plain [d, a, b]) s)
    (value : f (s.reg a) (s.reg b) = v) : WritesReg i s d v 2 := value ▸ opRRR_writes e ready

theorem opRR_writes_eq {d a : Reg} (f : Word → Word) (e : exec i s = opRR i d a f s) (ready : Ready (.plain [d, a]) s)
    (value : f (s.reg a) = v) : WritesReg i s d v 2 := value ▸ opRR_writes e ready

/-- A form without operand registers: gd := v. -/
theorem constant_writes {d : Reg} {n : Nat} (f : State → Word)
    (e : exec i s = issue i (.plain [d]) s fun s => (s.setReg d (f s)).retire n) (ready : Ready (.plain [d]) s) (value : f s = v) :
    WritesReg i s d v n := writesReg_of_exec (value ▸ e.trans (issue_ready ready))

end

/-- R160: the forms gd := f (ga, gb). -/
theorem integerForms : IntegerForms := by
  intro s d a b ready
  have row {i : Instr} {v : Word} (f : Word → Word → Word) (e : exec i s = opRRR i d a b f s) (value : f (s.reg a) (s.reg b) = v) :
      WritesReg i s d v 2 := opRRR_writes_eq f e ready value
  exact ⟨row (· + ·) rfl rfl, row (· - ·) rfl rfl, row (· * ·) rfl rfl, row mulHighS rfl (mulHighS_eq ..), row mulHighN rfl (mulHighN_eq ..),
    row divS rfl (divS_eq ..), row divN rfl rfl, row (· &&& ·) rfl rfl, row (· ||| ·) rfl rfl, row (· ^^^ ·) rfl rfl,
    row (fun x y => x &&& ~~~ y) rfl rfl, row shl rfl rfl, row shr rfl rfl, row sar rfl (sar_eq ..),
    row (fun x y => ofBool (x.slt y)) rfl (ofBool_slt_eq ..), row (fun x y => ofBool (x.ult y)) rfl (ofBool_ult_eq ..),
    row (fun x y => if x.slt y then x else y) rfl (ite_slt_min_eq ..), row (fun x y => if x.slt y then y else x) rfl (ite_slt_max_eq ..)⟩

/-- R160: CLZ and POPC. -/
theorem bitCounts : BitCounts := by
  intro s d a ready
  obtain ⟨le, zeros, one⟩ := leadingZeros_spec 64 (s.reg a).toNat
  exact ⟨⟨_, le, opRR_writes_eq (fun x => w64 (leadingZeros 64 x.toNat)) rfl ready rfl, zeros, one⟩,
    opRR_writes_eq (fun x => w64 (popCount 64 x.toNat)) rfl ready (congrArg w64 (popCount_eq_countP ..))⟩

/-- R161 and R162. -/
theorem immediateResults : ImmediateResults := by
  intro s d a
  refine ⟨fun ready => ?_, fun ready => ?_⟩
  · have row {i : Instr} {v : Word} (f : Word → Word) (e : exec i s = opRR i d a f s) (value : f (s.reg a) = v) : WritesReg i s d v 2 :=
      opRR_writes_eq f e ready value
    exact ⟨fun imm => row (· + imm.signExtend 64) rfl rfl, fun imm => row (· &&& imm.signExtend 64) rfl rfl,
      fun n => row (· <<< n.toNat) rfl rfl, fun n => row (· >>> n.toNat) rfl rfl, fun n => row (·.sshiftRight n.toNat) rfl rfl⟩
  · exact ⟨fun imm => constant_writes (fun _ => imm.signExtend 64) rfl ready rfl,
      fun imm => constant_writes (fun s => (s.reg d <<< 18) ||| imm.setWidth 64) rfl ready rfl,
      fun imm => constant_writes (fun s => s.cpu.pc + (imm.signExtend 64 <<< 1)) rfl ready (congrArg (s.cpu.pc + ·) (shiftLeft_one_eq _))⟩

/-- R64: the compact forms, by the shapes of their full forms. -/
theorem compactResults : CompactResults := by
  intro s d a b
  refine ⟨fun ready => ?_, fun ready => ?_, fun ready imm => constant_writes (fun _ => imm.signExtend 64) rfl ready rfl⟩
  · exact ⟨opC_writes (f := (· + ·)) rfl ready, opC_writes (f := (· - ·)) rfl ready, opC_writes (f := (· &&& ·)) rfl ready,
      opC_writes (f := (· ||| ·)) rfl ready, opC_writes (f := (· ^^^ ·)) rfl ready⟩
  · exact ⟨fun imm => opCI_writes (f := (· + imm.signExtend 64)) rfl ready, fun n => opCI_writes (f := (· <<< n.toNat)) rfl ready,
      fun n => opCI_writes (f := (· >>> n.toNat)) rfl ready⟩

/-! ### Their words -/

/-- A word with a bit that must be zero and is not decodes to no operation. -/
theorem need_ne_ok {c : Bool} {x : DecodeErr} {i j : Instr} (h : c = false) : need c x i ≠ .ok j := by
  rw [h]
  exact nofun

/-- The sub-ops of CLZ and POPC have no b operand (R160). -/
theorem integerEncodings : IntegerEncodings := by
  intro d a b R
  and_intros
  iterate 20 rfl
  intro used i
  have unread (sub : BitVec 8) (x : DecodeErr) (j : Instr) : need (fB (wordR 0x00 d a b sub) == 0) x j ≠ .ok i :=
    need_ne_ok (by rw [fB_wordR]; exact beq_eq_false_iff_ne.2 used)
  constructor
  · change decodeWord (wordR 0x00 d a b 0x12) ≠ _
    rw [decInt_major, decInt, fSub_wordR]
    exact unread _ _ _
  · change decodeWord (wordR 0x00 d a b 0x13) ≠ _
    rw [decInt_major, decInt, fSub_wordR]
    exact unread _ _ _

/-- Settles O37: the rows have the shapes of R160 with the table's expressions, and the words of their encodings. -/
theorem integerResults : Obligations.IntegerResults := ⟨integerForms, bitCounts, integerEncodings⟩

/-- Settles O38: the rows of R161 and R162, and the compact forms, by their shapes. -/
theorem immediateAndCompactResults : Obligations.ImmediateAndCompactResults := ⟨immediateResults, compactResults⟩

end Sys2Proof.Machine
end

section
/-! SUPPORT and PROOFS. Packed SIMD (R163): a lane of the result is the lane function of the operands' lanes, each lane function is the table's
expression, and the words. -/

namespace Sys2Proof.Machine

open Claims

/-! ### Lanes of a packed result -/

/-- Lane `k` of a packed number comes from lane `k` of the operands. -/
theorem packedLanes_lane (w : Nat) (f : Nat → Nat → Nat) {k n : Nat} (h : k < n) (a b : Nat) :
    packedLanes w n f a b / 2 ^ (w * k) % 2 ^ w = f (a / 2 ^ (w * k) % 2 ^ w) (b / 2 ^ (w * k) % 2 ^ w) % 2 ^ w := by
  have low (x y : Nat) : (x % 2 ^ w + 2 ^ w * y) % 2 ^ w = x % 2 ^ w := by rw [Nat.add_mul_mod_self_left, Nat.mod_mod]
  have high (x y : Nat) : (x % 2 ^ w + 2 ^ w * y) / 2 ^ w = y := by
    rw [Nat.add_mul_div_left _ _ (Nat.two_pow_pos w), Nat.div_eq_of_lt (Nat.mod_lt _ (Nat.two_pow_pos w)), Nat.zero_add]
  induction k generalizing n a b with
  | zero =>
    obtain ⟨n, rfl⟩ := Nat.exists_eq_add_one.2 h
    rw [packedLanes, Nat.mul_zero, Nat.pow_zero, Nat.div_one, Nat.div_one, Nat.div_one, low]
  | succ k ih =>
    obtain ⟨n, rfl⟩ := Nat.exists_eq_add_one.2 (Nat.zero_lt_of_lt h)
    have next (x : Nat) : x / 2 ^ (w * (k + 1)) = x / 2 ^ w / 2 ^ (w * k) := by
      rw [Nat.div_div_eq_div_mul, ← Nat.pow_add, Nat.mul_succ, Nat.add_comm]
    rw [packedLanes, next, high, ih (Nat.lt_of_succ_lt_succ h), ← next, ← next]

/-- The lanes of a packed form fit its word. -/
theorem packed_lane (w : Nat) (f : Nat → Nat → Nat) (a b : Word) {k : Nat} (h : k < 64 / w) :
    (packed w f a b).extractLsb' (w * k) w =
      BitVec.ofNat w (f (a.extractLsb' (w * k) w).toNat (b.extractLsb' (w * k) w).toNat) := by
  have inside : w * k + w ≤ 64 := by
    rw [← Nat.mul_succ]
    exact Nat.le_trans (Nat.mul_le_mul_left w h) (Nat.mul_div_le 64 w)
  apply BitVec.eq_of_toNat_eq
  have cut (x : Nat) : x % 2 ^ 64 / 2 ^ (w * k) % 2 ^ w = x / 2 ^ (w * k) % 2 ^ w := by
    rw [show 64 = w * k + (64 - w * k) by omega, Nat.pow_add, Nat.mod_mul_right_div_self,
      Nat.mod_mod_of_dvd _ (Nat.pow_dvd_pow 2 (by omega))]
  simp only [packed, w64, BitVec.extractLsb'_toNat, BitVec.toNat_ofNat, Nat.shiftRight_eq_div_pow, cut, packedLanes_lane w f h]

/-! ### The lane functions (R163) -/

section
variable {w : Nat} (x y : BitVec w)

theorem signedOf_toNat : signedOf x.toNat w = x.toInt := by
  have half : x.toNat < 2 ^ (w - 1) ↔ 2 * x.toNat < 2 ^ w := by
    cases w with
    | zero => simp [BitVec.of_length_zero]
    | succ n => rw [Nat.add_sub_cancel, Nat.pow_succ, Nat.mul_comm 2, Nat.mul_lt_mul_right (by decide)]
  rw [signedOf, Nat.mod_eq_of_lt x.isLt, BitVec.toInt_eq_toNat_cond]
  simp only [half]

theorem ofNat_wrapOf (v : Int) : BitVec.ofNat w (wrapOf v w) = BitVec.ofInt w v := by
  apply BitVec.eq_of_toNat_eq
  have small : wrapOf v w < 2 ^ w := by
    have pos : (0 : Int) < ((2 ^ w : Nat) : Int) := Int.natCast_pos.2 (Nat.two_pow_pos w)
    exact (Int.toNat_lt (Int.emod_nonneg _ (Int.ne_of_gt pos))).2 (Int.emod_lt_of_pos _ pos)
  rw [BitVec.toNat_ofNat, Nat.mod_eq_of_lt small, wrapOf, BitVec.toNat_ofInt]

theorem ofInt_toNat : BitVec.ofInt w x.toNat = x := by
  rw [BitVec.ofInt_natCast, BitVec.ofNat_toNat, BitVec.setWidth_eq]

theorem lanePadd_eq : BitVec.ofNat w (lanePadd w x.toNat y.toNat) = x + y := by
  rw [lanePadd, ofNat_wrapOf, BitVec.ofInt_add, ofInt_toNat, ofInt_toNat]

theorem lanePsub_eq : BitVec.ofNat w (lanePsub w x.toNat y.toNat) = x - y := by
  rw [lanePsub, ofNat_wrapOf, Int.sub_eq_add_neg, BitVec.ofInt_add, BitVec.ofInt_neg, ofInt_toNat, ofInt_toNat, BitVec.sub_eq_add_neg]

theorem lanePmul_eq : BitVec.ofNat w (lanePmul w x.toNat y.toNat) = x * y := by
  rw [lanePmul, ofNat_wrapOf, BitVec.ofInt_mul, ofInt_toNat, ofInt_toNat]

theorem ofNat_wrapOf_clampS (v : Int) : BitVec.ofNat w (wrapOf (clampS v w) w) = satS w v := by
  rw [ofNat_wrapOf, clampS, satS, Int.natCast_pow]
  rfl

theorem lanePadds_eq : BitVec.ofNat w (lanePadds w x.toNat y.toNat) = satS w (x.toInt + y.toInt) := by
  rw [lanePadds, ofNat_wrapOf_clampS, signedOf_toNat, signedOf_toNat]

theorem lanePsubs_eq : BitVec.ofNat w (lanePsubs w x.toNat y.toNat) = satS w (x.toInt - y.toInt) := by
  rw [lanePsubs, ofNat_wrapOf_clampS, signedOf_toNat, signedOf_toNat]

theorem lanePmin_eq : BitVec.ofNat w (lanePmin w x.toNat y.toNat) = if y.toInt < x.toInt then y else x := by
  rw [lanePmin, ofNat_wrapOf, signedOf_toNat, signedOf_toNat]
  split
  · next below => rw [Int.min_eq_right (Int.le_of_lt below), BitVec.ofInt_toInt]
  · next above => rw [Int.min_eq_left (Int.not_lt.1 above), BitVec.ofInt_toInt]

theorem lanePmax_eq : BitVec.ofNat w (lanePmax w x.toNat y.toNat) = if x.toInt < y.toInt then y else x := by
  rw [lanePmax, ofNat_wrapOf, signedOf_toNat, signedOf_toNat]
  split
  · next below => rw [Int.max_eq_right (Int.le_of_lt below), BitVec.ofInt_toInt]
  · next above => rw [Int.max_eq_left (Int.not_lt.1 above), BitVec.ofInt_toInt]

end

/-! ### The rows -/

/-- A row whose lane function is the table's. -/
theorem opPacked_lanes {i : Instr} {l : PLane} {d a b : Reg} {s : State}
    {g : BitVec (PLane.width l) → BitVec (PLane.width l) → BitVec (PLane.width l)} (f : Nat → Nat → Nat → Nat)
    (e : exec i s = opPacked i l d a b f s) (ready : Ready (.plain [d, a, b]) s)
    (lane : ∀ x y, BitVec.ofNat (PLane.width l) (f (PLane.width l) x.toNat y.toNat) = g x y) : PackedAs i s (PLane.width l) d a b g :=
  ⟨_, opRRR_writes e ready, fun _ hk => (packed_lane _ _ _ _ hk).trans (lane _ _)⟩

/-- The parts of the sub-op byte are the last parts of the word (R66). -/
theorem wordR_packed (d a b : Reg) (lane : BitVec 2) (op : BitVec 4) (low : BitVec 2) :
    7#3 ++ 0x09#6 ++ d ++ a ++ b ++ lane ++ op ++ low = wordR 0x09 d a b (lane ++ op ++ low) := by
  apply BitVec.eq_of_toNat_eq
  simp only [wordR, BitVec.toNat_append, Nat.shiftLeft_or_distrib, ← Nat.shiftLeft_add, Nat.or_assoc]
  rfl

/-- The low bits of a packed sub-op are zero (R163). -/
theorem decodeWord_packed_reserved (d a b : Reg) (lane : BitVec 2) (op : BitVec 4) {low : BitVec 2} (h : low ≠ 0#2) :
    decodeWord (wordR 0x09 d a b (lane ++ op ++ low)) = .error .reservedBits := by
  have last : (lane ++ op ++ low).extractLsb' 0 2 = low := by
    rw [BitVec.extractLsb'_append_eq_of_add_le (by decide), BitVec.extractLsb'_eq_self]
  rw [decPacked_major, decPacked, low_wordR _ _ _ _ _ _ _ (by decide), last, if_pos (bne_iff_ne.2 h)]

theorem packedEncodings : PackedEncodings := by
  intro l d a b lane P
  have code : lane = l.code := rfl
  have word (op : BitVec 4) : Enc.word (wordR 0x09 d a b (subPacked l op)) = .word (P op 0) :=
    congrArg Enc.word (code ▸ wordR_packed d a b lane op 0).symm
  refine ⟨word 0, word 1, word 2, word 3, word 4, word 5, word 6, word 7, word 8, fun op low used i h => ?_⟩
  have reserved := decodeWord_packed_reserved d a b lane op used
  rw [← wordR_packed] at reserved
  exact nomatch reserved.symm.trans h

/-- Settles O11: the lanes of the result are the table's functions of the operands' lanes. -/
theorem packedResults : Obligations.PackedResults := by
  refine ⟨packedEncodings, fun s l d a b ready => ?_⟩
  exact ⟨opPacked_lanes lanePadd rfl ready lanePadd_eq, opPacked_lanes lanePsub rfl ready lanePsub_eq,
    opPacked_lanes lanePadds rfl ready lanePadds_eq, opPacked_lanes lanePaddsn rfl ready fun _ _ => rfl,
    opPacked_lanes lanePsubs rfl ready lanePsubs_eq, opPacked_lanes lanePsubsn rfl ready fun _ _ => rfl,
    opPacked_lanes lanePmul rfl ready lanePmul_eq, opPacked_lanes lanePmin rfl ready lanePmin_eq,
    opPacked_lanes lanePmax rfl ready lanePmax_eq⟩

end Sys2Proof.Machine
end

section
/-! SUPPORT and PROOFS. Floating point on the special-function unit (R93, R164, R166, R168 to R171): a form with room sends its request, and a
result that completes is written with its flags. -/

namespace Sys2Proof.Machine

open Claims

/-! ### Sending a request (R164) -/

theorem sfuRoom_eq {s : State} (room : SfuRoom s) : s.sfuRoom = true :=
  Bool.and_eq_true_iff.2 ⟨decide_eq_true room.1, decide_eq_true room.2⟩

/-- The request of the loaded thread for this result. -/
def State.sfuRequest (s : State) (d : Reg) (r : FRes) : SfuReq :=
  { who := s.who, gd := d, value := r.1, flags := r.2, ctx := match s.myCtx with | some c => c.id | none => 0 }

/-- A form that finds room appends its request to the queue of its unit. -/
theorem requests_of_issue {i : Instr} {regs : List Reg} {s : State} {d : Reg} {r : FRes} {f : State → FRes}
    (e : exec i s = issue i (.plain regs) s fun s => s.sfuIssue d (f s)) (room : SfuRoom s) (ready : Ready (.plain regs) s) (value : f s = r) :
    Requests i s d r := by
  subst value
  have sent : exec i s =
      .next (((s.setSfu s.who.unit (s.sfuOf s.who.unit ++ [s.sfuRequest d (f s)])).count 5).retire 2) := by
    rw [e, issue_ready ready, State.sfuIssue, if_pos (sfuRoom_eq room)]
    rfl
  refine ⟨_, s.sfuRequest d (f s), sent, rfl, rfl, rfl, rfl, fun c mine => ?_, lookupD_assign_self .., fun u other => ?_, rfl⟩
  · simp only [State.sfuRequest, mine]
  · exact lookupD_assign_ne other ..

/-- R169 to R171: the value of each form is its row's. -/
theorem floatRequests : FloatRequests := by
  intro s F m d a b room x y
  refine ⟨fun ready => ?_, fun ready => ?_⟩
  · have row {i : Instr} {r : FRes} (f : State → FRes) (e : exec i s = issue i (.plain [d, a, b]) s fun s => s.sfuIssue d (f s))
        (value : f s = r) : Requests i s d r := requests_of_issue e room ready value
    exact ⟨row (fun s => faddR F m (s.reg a) (s.reg b)) rfl rfl, row (fun s => fsubR F m (s.reg a) (s.reg b)) rfl rfl,
      row (fun s => fmulR F m (s.reg a) (s.reg b)) rfl rfl, row (fun s => fdivR F m (s.reg a) (s.reg b)) rfl rfl,
      row (fun s => fmaR F m (s.reg a) (s.reg b) (s.reg d)) rfl rfl, row (fun s => fminR F (s.reg a) (s.reg b)) rfl rfl,
      row (fun s => fmaxR F (s.reg a) (s.reg b)) rfl rfl, row (fun s => fcmpR F (s.reg a) (s.reg b)) rfl rfl⟩
  · have row {i : Instr} {r : FRes} (f : State → FRes) (e : exec i s = issue i (.plain [d, a]) s fun s => s.sfuIssue d (f s))
        (value : f s = r) : Requests i s d r := requests_of_issue e room ready value
    exact ⟨row (fun s => fsqrtR F m (s.reg a)) rfl rfl, row (fun s => fcvtiR F m (s.reg a)) rfl rfl,
      row (fun s => fcvtfR F m (s.reg a)) rfl rfl, row (fun s => fcvtwR .f64 m (s.reg a)) rfl rfl,
      row (fun s => fcvtwR .f32 m (s.reg a)) rfl rfl⟩

/-! ### The result (R93, R167) -/

/-- The registers that SFU results reach, the program counter, the units' queues and memory are those of `s`. -/
structure SfuKept (s t : State) : Prop where
  who : t.who = s.who
  g : t.cpu.g = s.cpu.g
  fflags : t.cpu.fflags = s.cpu.fflags
  pc : t.cpu.pc = s.cpu.pc
  sfus : t.sfus = s.sfus
  mem : t.mem = s.mem

theorem SfuKept.trans {s t u : State} (h : SfuKept s t) (k : SfuKept t u) : SfuKept s u :=
  ⟨k.who.trans h.who, k.g.trans h.g, k.fflags.trans h.fflags, k.pc.trans h.pc, k.sfus.trans h.sfus, k.mem.trans h.mem⟩

/-- A thread that is not loaded stands in a table of contexts or engines. -/
theorem State.putTable_kept (s : State) (a : Actor) (t : Thr) : SfuKept s (s.putTable a t) := by
  unfold State.putTable
  split
  · split
    · exact ⟨rfl, rfl, rfl, rfl, rfl, rfl⟩
    · exact ⟨rfl, rfl, rfl, rfl, rfl, rfl⟩
  · exact ⟨rfl, rfl, rfl, rfl, rfl, rfl⟩

/-- Waking a thread changes what it waits for alone. -/
theorem State.wakeSfu_kept (s : State) (a : Actor) : SfuKept s (s.wakeSfu a) := by
  unfold State.wakeSfu State.modThr
  split
  · dsimp only
    split <;> exact ⟨rfl, rfl, rfl, rfl, rfl, rfl⟩
  · split
    · exact s.putTable_kept _ _
    · exact ⟨rfl, rfl, rfl, rfl, rfl, rfl⟩

theorem wakeSfu_foldl_kept (as : List Actor) (s : State) : SfuKept s (as.foldl (fun s a => s.wakeSfu a) s) := by
  induction as generalizing s with
  | nil => exact ⟨rfl, rfl, rfl, rfl, rfl, rfl⟩
  | cons a as ih => exact (s.wakeSfu_kept a).trans (ih _)

/-- A result of the loaded thread reaches its registers, if its context is resident (R167). -/
theorem State.sfuDeliver_mine {s : State} {q : SfuReq} (mine : q.who = s.who)
    (ctx : s.who.isEngine = false → ∃ c, s.ctxOf q.ctx = some c ∧ c.resident = true) :
    s.sfuDeliver q = s.withCpu (s.cpu.sfuWrite q) := by
  have write : s.modThr q.who (Thr.sfuWrite · q) = s.withCpu (s.cpu.sfuWrite q) := if_pos mine
  unfold State.sfuDeliver
  split
  · exact write
  · next thread =>
    obtain ⟨c, found, resident⟩ := ctx (by rw [← mine, thread]; rfl)
    simp only [found, resident, if_true]
    exact write

/-- The context of the loaded thread is resident (R399). -/
theorem State.myCtx_resident {s : State} {c : Ctx} (h : s.myCtx = some c) : c.resident = true := by
  unfold State.myCtx State.actorCtx at h
  split at h
  · have fits := List.find?_some h
    simp only [Bool.and_eq_true] at fits
    exact fits.1.1
  · cases h

/-- A unit's oldest request completes, and its threads look again at what they wait for (R164). -/
theorem exec_sfuResult {s : State} {u : UnitId} {q : SfuReq} {rest : List SfuReq} (arg : s.model.arg = .unit u)
    (queue : s.sfuOf u = q :: rest) :
    exec .sfuResult s = .next ((s.sfuUsers u).foldl (fun s a => s.wakeSfu a) ((s.setSfu u rest).sfuDeliver q)) := by
  change execSfuResult s = _
  simp only [execSfuResult, arg, queue]

/-- A register after a result has been written. -/
theorem Thr.reg_sfuWrite (t : Thr) (q : SfuReq) (r : Reg) :
    (t.sfuWrite q).reg r = if r = q.gd then (if q.gd = 0 then 0 else q.value) else t.reg r := Thr.reg_setReg t q.gd r q.value

theorem Thr.sfuWrite_pc (t : Thr) (q : SfuReq) : (t.sfuWrite q).pc = t.pc := by
  rw [Thr.sfuWrite, Thr.setReg_eq]

theorem sfuResultDelivered : SfuResultDelivered := by
  intro s q rest arg queue mine ctx loaded
  have delivered : (s.setSfu s.who.unit rest).sfuDeliver q = (s.setSfu s.who.unit rest).withCpu (s.cpu.sfuWrite q) := by
    refine State.sfuDeliver_mine mine fun thread => ?_
    obtain ⟨c, my⟩ := Option.isSome_iff_exists.1 (loaded thread)
    obtain ⟨same, found⟩ := ctx c my
    exact ⟨c, same ▸ found, State.myCtx_resident my⟩
  have run := exec_sfuResult arg queue
  have kept := wakeSfu_foldl_kept (s.sfuUsers s.who.unit) ((s.setSfu s.who.unit rest).sfuDeliver q)
  generalize (s.sfuUsers s.who.unit).foldl (fun s a => s.wakeSfu a) ((s.setSfu s.who.unit rest).sfuDeliver q) = t at run kept
  rw [delivered] at kept
  have reg (r : Reg) : t.reg r = (s.cpu.sfuWrite q).reg r := by
    rw [State.reg, Thr.reg, Thr.reg, kept.g]
    rfl
  refine ⟨t, run, ?_, ?_, kept.fflags, fun r other => ?_, kept.pc.trans (s.cpu.sfuWrite_pc q), kept.mem⟩
  · rw [State.sfuOf, kept.sfus]
    exact lookupD_assign_self ..
  · rw [reg, Thr.reg_sfuWrite, if_pos rfl]
  · rw [reg, Thr.reg_sfuWrite, if_neg other]
    rfl

/-- Settles O39: a form with room sends its request, and a delivered result is written with its flags. -/
theorem floatResults : Obligations.FloatResults := ⟨floatRequests, sfuResultDelivered⟩

end Sys2Proof.Machine
end

section
/-! SUPPORT and PROOFS. Branches and jumps (R64, R172, R173): where they go, what they leave, and the words of the branches. -/

namespace Sys2Proof.Machine

open Claims

theorem not_slt_iff {x y : Word} : (!x.slt y) = true ↔ y.toInt ≤ x.toInt := by
  rw [Bool.not_eq_true', Bool.eq_false_iff, ne_eq, BitVec.slt_iff_toInt_lt, Int.not_lt]

theorem not_ult_iff {x y : Word} : (!x.ult y) = true ↔ y.toNat ≤ x.toNat := by
  rw [Bool.not_eq_true', Bool.eq_false_iff, ne_eq, BitVec.ult_iff_lt, BitVec.lt_def, Nat.not_lt]

section
variable {i : Instr} {s : State}

/-- A branch goes where it must when the model's condition is the table's. -/
theorem branches_of_exec {t : Bool} {taken : Prop} [Decidable taken] {o : Word} {n : Nat}
    (e : exec i s = .next (if t then s.retireTo (s.cpu.pc + (o <<< 1)) else s.retire n)) (cond : t = true ↔ taken) :
    Branches i s taken o (w64 (2 * n)) := by
  rw [Branches, e, shiftLeft_one_eq]
  by_cases h : taken
  · rw [if_pos h, if_pos (cond.2 h)]
    rfl
  · rw [if_neg h, if_neg (mt cond.1 h)]
    rfl

/-- A jump that links and goes to `target`. -/
theorem links_of_exec {d : Reg} {target : Word} (e : exec i s = .next ((s.setReg d (s.cpu.pc + 4)).retireTo target)) : Links i s d target :=
  ⟨_, e, (s.reg_setReg d d _).trans (by rw [if_pos rfl]), fun r other => (s.reg_setReg d r _).trans (by rw [if_neg other]), by
    rw [State.retireTo, State.setReg, Thr.setReg_eq]⟩

end

/-- R172 and R64: the condition of each branch. -/
theorem branchResults : BranchResults := by
  intro s
  refine ⟨fun a b o ready => ?_, fun a o ready => ?_⟩
  · have row {i : Instr} {taken : Prop} [Decidable taken] (f : Word → Word → Bool) (e : exec i s = opBranch i a b o f s)
        (cond : f (s.reg a) (s.reg b) = true ↔ taken) : Branches i s taken (o.signExtend 64) 4 :=
      branches_of_exec (n := 2) (e.trans (issue_ready ready)) cond
    exact ⟨row (· == ·) rfl beq_iff_eq, row (· != ·) rfl bne_iff_ne, row BitVec.slt rfl BitVec.slt_iff_toInt_lt,
      row (fun x y => !x.slt y) rfl not_slt_iff, row BitVec.ult rfl BitVec.ult_iff_lt, row (fun x y => !x.ult y) rfl not_ult_iff⟩
  · have row {i : Instr} {taken : Prop} [Decidable taken] (f : Word → Bool) (e : exec i s = opBranchC i a o f s)
        (cond : f (s.reg (creg a)) = true ↔ taken) : Branches i s taken (o.signExtend 64) 2 :=
      branches_of_exec (n := 1) (e.trans (issue_ready ready)) cond
    exact ⟨row (· == 0) rfl beq_iff_eq, row (· != 0) rfl bne_iff_ne⟩

/-- R173: JAL, and JALR to an even target. -/
theorem jumpResults : JumpResults := by
  intro s d
  refine ⟨fun o ready => ?_, fun a imm ready even => ?_⟩
  · rw [← shiftLeft_one_eq]
    refine links_of_exec (?_ : execJal d o s = _)
    rw [execJal, issue_ready ready]
  · rw [← shiftLeft_one_eq] at even ⊢
    refine links_of_exec (?_ : execJalr d a imm s = _)
    rw [execJalr, issue_ready ready]
    simp only [even, Bool.false_eq_true, if_false]

/-- Settles O40: each branch by its condition, each jump by its target, and the words as they are encoded. -/
theorem branchesAndJumps : Obligations.BranchesAndJumps :=
  ⟨branchResults, jumpResults, fun _ _ _ => ⟨rfl, rfl, rfl, rfl, rfl, rfl⟩⟩

end Sys2Proof.Machine
end

section
/-! SUPPORT and PROOFS. The words of the immediate and constant forms (R161, R162), and the trap of a word that is no instruction's (R67, R76,
R387). -/

namespace Sys2Proof.Machine

open Claims

/-! ### Words -/

/-- A shift amount is the immediate with its high bits zero. -/
theorem shamt_eq_setWidth (n : BitVec 6) : 0#7 ++ n = n.setWidth 13 := by
  apply BitVec.eq_of_toNat_eq
  rw [BitVec.toNat_append, BitVec.toNat_setWidth_of_le (by decide)]
  simp

/-- A shift word with a bit of [12:6] set has no meaning (R161). -/
theorem decodeWord_shift_reserved {major : BitVec 6} (shift : major ∈ [0x03#6, 0x04#6, 0x05#6]) (d a : Reg) {v : BitVec 13}
    (used : v.extractLsb' 6 7 ≠ 0#7) (i : Instr) : decodeWord (wordI13 major d a v) ≠ .ok i := by
  have unread {x : DecodeErr} {j : Instr} : need ((wordI13 major d a v).extractLsb' 6 7 == 0#7) x j ≠ .ok i :=
    need_ne_ok (by rw [low_wordI13 _ _ _ _ _ _ (by decide)]; exact beq_eq_false_iff_ne.2 used)
  simp only [List.mem_cons, List.not_mem_nil, or_false] at shift
  rw [decodeWord, fMajor_wordI13]
  obtain rfl | rfl | rfl := shift
  · exact unread
  · exact unread
  · exact unread

theorem immediateEncodings : ImmediateEncodings := by
  intro d a i n k I13 I18
  have shift (major : BitVec 6) : Enc.word (wordI13 major d a (0#7 ++ n)) = .word (I13 major (n.setWidth 13)) :=
    congrArg (fun v => Enc.word (wordI13 major d a v)) (shamt_eq_setWidth n)
  exact ⟨rfl, rfl, shift 0x03, shift 0x04, shift 0x05, rfl, rfl, rfl,
    fun used major shift => decodeWord_shift_reserved shift d a used⟩

/-! ### The trap (R67, R387) -/

/-- The record of a thread's trap holds its program counter and its value in its detail (R392). -/
theorem detailOf_pc_val (pc val : Word) :
    (detailOf [(pc.toNat, 0), (val.toNat, 64)]).extractLsb' 0 64 = pc ∧
      (detailOf [(pc.toNat, 0), (val.toNat, 64)]).extractLsb' 64 64 = val := by
  have pcLt := pc.isLt
  have valLt := val.isLt
  have both : (detailOf [(pc.toNat, 0), (val.toNat, 64)]).toNat = val.toNat * 2 ^ 64 + pc.toNat := by
    have joined : 0 ||| pc.toNat <<< 0 ||| val.toNat <<< 64 = val.toNat * 2 ^ 64 + pc.toNat := by
      rw [Nat.zero_or, Nat.shiftLeft_zero, Nat.or_comm, ← Nat.shiftLeft_add_eq_or_of_lt pcLt, Nat.shiftLeft_eq]
    change (0 ||| pc.toNat <<< 0 ||| val.toNat <<< 64) % 2 ^ 352 = _
    rw [joined]
    omega
  constructor
  · apply BitVec.eq_of_toNat_eq
    rw [BitVec.extractLsb'_toNat, both, Nat.shiftRight_eq_div_pow]
    omega
  · apply BitVec.eq_of_toNat_eq
    rw [BitVec.extractLsb'_toNat, both, Nat.shiftRight_eq_div_pow]
    omega

/-- Taking a program trap with no result outstanding (R387). -/
theorem takesTrap_takeTrap {s : State} (idle : s.resultsOut = false) {cls : Cls} (program : 0x20 ≤ cls.toNat) (pc val : Word) :
    TakesTrap s (s.takeTrap cls pc val) cls pc val := by
  rw [State.takeTrap_now idle, TakesTrap]
  by_cases handler : s.tvec.getLsbD 0 = true ∧ s.cpu.tcause.getLsbD 8 = false
  · rw [if_pos handler, State.trapNow_enters handler.1 handler.2]
    rfl
  · have none : s.tvec.getLsbD 0 = false ∨ s.cpu.tcause.getLsbD 8 = true :=
      (Decidable.not_and_iff_not_or_not.1 handler).imp eq_false_of_ne_true eq_true_of_ne_false
    rw [if_neg handler, State.trapNow, if_pos none]
    obtain ⟨first, second⟩ := detailOf_pc_val pc val
    exact ⟨⟨_, rfl, rfl, decide_eq_false (Nat.not_lt.2 program), first, second⟩, rfl⟩

/-- A thread that has taken a trap does not wait. -/
theorem takesTrap_wait {s t : State} {cls : Cls} {pc val : Word} (h : TakesTrap s t cls pc val) : t.cpu.wait = .none := by
  rw [TakesTrap] at h
  split at h
  · rw [h]
  · rw [h.2]

/-- A word that decodes to no instruction raises ILLEGAL-ENCODING at its first parcel, with the word as value. -/
theorem runThread_undecoded {s : State} {w : BitVec 32} {r : List (BitVec 16)} (due : s.cpu.trapDue = none)
    (top : w.extractLsb' 29 3 = 7#3) (undecoded : ∀ i, decodeWord w ≠ .ok i)
    (buffer : s.cpu.buffered = w.extractLsb' 16 16 :: w.extractLsb' 0 16 :: r) (same : s.CodeUnchanged) :
    runThread s = .next (s.takeTrap 0x20 s.cpu.pc (w.setWidth 64)) := by
  have whole : w.extractLsb' 16 16 ++ w.extractLsb' 0 16 = w := halves (n := 16) w
  have first : isFirstParcel (w.extractLsb' 16 16) = true := (isFirstParcel_iff _ (w.extractLsb' 0 16)).2 (whole.symm ▸ top)
  have fetched : s.fetch = (s, some s.cpu.buffered) := State.fetch_unchanged (by rw [buffer]; rfl) same
  obtain ⟨x, wrong⟩ : ∃ x, decodeWord w = .error x := by
    cases h : decodeWord w with
    | error x => exact ⟨x, rfl⟩
    | ok i => exact absurd h (undecoded i)
  have value : parcelsVal s.cpu.buffered = w.setWidth 64 := by
    rw [buffer, parcelsVal, if_pos first, whole]
  simp only [runThread, due, fetched]
  rw [buffer, decodeParcels_word first, whole, wrong, ← buffer, value]
  rfl

/-- Making a thread eligible changes neither its program counter nor what it has outstanding. -/
theorem State.inSlot_idle (s : State) : s.inSlot.cpu.pc = s.cpu.pc ∧ s.inSlot.resultsOut = s.resultsOut := by
  unfold State.inSlot
  split <;> exact ⟨rfl, rfl⟩

theorem undecodedTraps : UndecodedTraps := by
  intro s w r slot due idle top undecoded buffer u same
  obtain ⟨due', buffer'⟩ := State.inSlot_cpu s.slotTaken
  obtain ⟨(pc : s.slotTaken.inSlot.cpu.pc = s.cpu.pc), out⟩ := State.inSlot_idle s.slotTaken
  have run := runThread_undecoded (due'.trans due) top undecoded (buffer'.trans buffer) (State.inSlot_unchanged (s := s.slotTaken) same)
  have trap := takesTrap_takeTrap (out.trans idle) (cls := 0x20) (by decide) s.cpu.pc (w.setWidth 64)
  rw [pc] at run
  have ready := State.passSlot_ready s.cpu.yielded (congrArg notReady (takesTrap_wait trap))
  exact ⟨_, (step_runs_slot slot).trans ((runSlot_next run).trans (congrArg _ ready)), trap⟩

/-- Settles O60: the words as they are encoded, the rows by their shapes, and the trap of a word that is none. -/
theorem immediateAndConstantForms : Obligations.ImmediateAndConstantForms := ⟨immediateEncodings, immediateResults, undecodedTraps⟩

end Sys2Proof.Machine
end

section
/-! SUPPORT and PROOFS. The values at reset (R159 and the rules of each unit), and the refill of the fetch buffer (R174, R317). -/

namespace Sys2Proof.Machine

open Claims

/-! ### Reset -/

/-- Each of the nine engines of a die stands at its number (R293). -/
theorem engineAt_reset {d e : Nat} (hd : d < 4) (he : e < 9) : State.reset.engineAt d e = some (Engine.zero d e) := by
  have place : (9 * d + e) / 9 = d ∧ (9 * d + e) % 9 = e := by omega
  have index : (List.range 36).find? (fun n => n / 9 == d && n % 9 == e) = some (9 * d + e) := by
    refine List.find?_range_eq_some.2 ⟨by simp only [place, beq_self_eq_true, Bool.and_self], List.mem_range.2 (by omega), fun n before => ?_⟩
    simp only [Bool.not_eq_true', Bool.and_eq_false_iff, beq_eq_false_iff_ne]
    omega
  have found : State.reset.engineAt d e = some (Engine.zero ((9 * d + e) / 9) ((9 * d + e) % 9)) := by
    rw [State.engineAt, State.reset, List.find?_map]
    exact congrArg (Option.map _) index
  rw [found, place.1, place.2]

/-- Settles O1: the values are those of `State.reset`; tables without rows read as their default. -/
theorem resetValues : Obligations.ResetValues := by
  unfold Obligations.ResetValues
  exact ⟨rfl, rfl, rfl, fun _ _ => ⟨rfl, rfl⟩, rfl, fun _ => ⟨rfl, rfl⟩, rfl, rfl, rfl, rfl, rfl, rfl, rfl, fun _ => rfl, fun _ => rfl,
    rfl, rfl, fun _ _ hd he => ⟨_, engineAt_reset hd he, rfl⟩⟩

/-! ### The fetch buffer -/

section
variable {s t : State} {pa a : Nat} {ea : Word} {via : Via}

/-- A thread with no trap due and no whole instruction in its buffer is not ready (R317). -/
theorem State.not_ready_of_empty (next : s.cpu.hasNext = false) (due : s.cpu.trapDue = none) : s.ready s.who = false := by
  have loaded : s.thrOf s.who = some s.cpu := if_pos rfl
  simp [State.ready, loaded, next, due]

/-- A running thread that waits for nothing and has no fetch under way refills its buffer from where it ends. -/
theorem State.refill_thread (thread : s.who.isEngine = false) (run : s.cpu.run = .running) (wait : s.cpu.wait = .none)
    (next : s.cpu.hasNext = false) (due : s.cpu.trapDue = none) (fetching : s.cpu.fetching = none) :
    s.refill = s.refillThread (s.cpu.pc + w64 (2 * s.cpu.buffered.length)) := by
  have starts : ¬(s.cpu.run ≠ .running ∨ s.cpu.wait ≠ .none ∨ s.cpu.hasNext ∨ s.cpu.fetching.isSome ∨ s.cpu.trapDue.isSome) := by
    simp [run, wait, next, due, fetching]
  rw [State.refill, if_neg starts]
  cases who : s.who with
  | thread => rfl
  | engine d e =>
    rw [who] at thread
    cases thread

/-- At a scratchpad a refill takes the parcels up to the end of the granule (log 39). -/
theorem State.refillThread_spad {st : Nat} (check : s.checkAccess ea 2 .x false = (t, .go pa via)) (free : t.fetchFenced (t.home pa) = false)
    (home : t.home pa = .spad st a) (clean : t.poisoned a 2 = false) :
    s.refillThread ea = t.keepBuffer (t.cpu.buffered ++ parcelsOfBytes (memBytes t.mem a (toGranuleEnd a))) := by
  rw [home] at free
  simp only [State.refillThread, check, home, free, clean, Bool.false_eq_true, if_false]

/-- At HBM it sends a read for them. -/
theorem State.refillThread_hbm (check : s.checkAccess ea 2 .x false = (t, .go pa via)) (free : t.fetchFenced (t.home pa) = false)
    (home : t.home pa = .hbm a) :
    s.refillThread ea =
      let x := t.request (.fetch t.who) (t.ctxIdOf t.who) a ea (some via) (.load (toGranuleEnd a)) .fetch
      { x.1 with cpu := { x.1.cpu with fetching := some x.2 } } := by
  rw [home] at free
  simp only [State.refillThread, check, home, free, Bool.false_eq_true, if_false]

end

theorem State.load_self {s : State} {w : Actor} (h : w = s.who) : s.load w = s := if_pos h

/-- What is done as the loaded actor is done to the state as it stands. -/
theorem State.asActor_self {s : State} {f : State → State} (same : (f s).who = s.who) : s.asActor s.who f = f s := by
  simp only [State.asActor, State.load_self rfl, if_true, State.load_self same.symm]

/-- The answer of a fetch is appended to the buffer of the thread that waits for it (R174). -/
theorem State.answerTo_fetch {s : State} {id pa : Nat} {ea : Word} {x : Result} (fetching : s.cpu.fetching = some id)
    (clean : x.poisoned = false) :
    s.answerTo (.fetch s.who) id .fetch ea pa x =
      (s.withCpu { s.cpu with fetching := none }).keepBuffer (s.cpu.buffered ++ parcelsOfBytes (bytesOf (64 - pa % 64) x.data)) := by
  have taken : (if s.cpu.fetching = some id then s.refilled ea pa x else s) =
      (s.withCpu { s.cpu with fetching := none }).keepBuffer (s.cpu.buffered ++ parcelsOfBytes (bytesOf (64 - pa % 64) x.data)) := by
    rw [if_pos fetching, State.refilled, clean]
    rfl
  rw [State.answerTo, State.asActor_self (by rw [taken]; rfl), taken]

/-- Settles O9: nothing is issued meanwhile, and the refill goes by the home of the code. -/
theorem fetchBuffer : Obligations.FetchBuffer := by
  unfold Obligations.FetchBuffer
  intro s t pa a via thread run wait next due
  refine ⟨State.not_ready_of_empty next due, fun fetching check free => ⟨fun st home clean => ?_, fun home => ?_⟩,
    fun id ea x fetching clean => ?_⟩
  · rw [State.refill_thread thread run wait next due fetching, State.refillThread_spad check free home clean]
    rfl
  · rw [State.refill_thread thread run wait next due fetching, State.refillThread_hbm check free home]
    exact ⟨_, rfl, rfl, rfl, rfl, rfl, rfl⟩
  · exact State.answerTo_fetch fetching clean

end Sys2Proof.Machine
end

section
/-! SUPPORT and PROOFS. The operators of stream graphs (R188-R194, R196-R200): what the updates of an open stream leave to its lookup, what one
step of a node does (R182), and then the operators by their kinds. -/

namespace Sys2Proof.Machine

open Claims

/-! ### The lookup of an open stream after an update -/

theorem State.openStream_place {s : State} {ctl str : Nat} {x : Stream} (h : s.openStream ctl str = some x) : x.ctl = ctl ∧ x.str = str := by
  simpa using List.find?_some h

section
variable (s : State) (ctl str : Nat)

/-- An update that keeps the places of streams is made to the stream that the lookup finds. -/
theorem State.openStream_modStream {f : Stream → Stream} (place : ∀ x, ((f x).ctl, (f x).str) = (x.ctl, x.str)) :
    (s.modStream ctl str f).openStream ctl str = (s.openStream ctl str).map f := by
  refine find?_modifyFirst (fun x => ?_) s.streams
  obtain ⟨hctl, hstr⟩ := Prod.mk.inj (place x)
  rw [hctl, hstr]

theorem State.openStream_modNode (x : Stream) (k : Nat) (f : SNode → SNode) :
    (s.modNode x k f).openStream x.ctl x.str = (s.openStream x.ctl x.str).map fun y => { y with nodes := y.nodes.modify k f } :=
  State.openStream_modStream s x.ctl x.str fun _ => rfl

theorem State.openStream_modHead (x : Stream) (f : NodeWord → SNode → SNode) :
    (s.modHead x f).openStream x.ctl x.str = (s.openStream x.ctl x.str).map fun y =>
      { y with nodes := y.nodes.modify (headNode (s.graphWords x)) (f (nodeFields ((s.graphWords x).getD (headNode (s.graphWords x)) 0))) } :=
  State.openStream_modStream s x.ctl x.str fun _ => rfl

end

/-- An update at one place of a list is what is found there. -/
theorem getElem?_modify_same {α : Type} {l : List α} {k : Nat} {a : α} (f : α → α) (h : l[k]? = some a) : (l.modify k f)[k]? = some (f a) := by
  rw [List.getElem?_modify_eq, h]
  rfl

/-! ### One step of a node -/

section
variable {s h : State} {at_ : SFireAt} {op : Nat} {w : NodeWord} {x : Stream} {n : SNode}

/-- The event of a node whose word the graph holds is a step of that node. -/
theorem State.snode_next (f : Stream → SNode → SStep) (word : NodeWordIs s at_ op w x) :
    s.snode at_ op w f = .next (s.snodeStep x at_.word op w f) := by
  obtain ⟨open_, v, at_word, hop, hw⟩ := word
  simp only [State.snode, open_, at_word, hop, hw, and_self, if_true]

/-- R182: a node that can work and does so replaces its state, joins its output and the flags, and sends what is a whole flit. -/
theorem State.snode_works {f : Stream → SNode → SStep} {n' : SNode} {o : List SBit} {fl : Flags} (can : CanWork s h at_ op w x n)
    (work : f x n = some (n', o, fl)) :
    s.snode at_ op w f = .next (worked h x at_.word op w { n' with out := n.out ++ o, hungry := false } fl) := by
  obtain ⟨⟨x0, word, rfl⟩, open_, node, running, alive, room⟩ := can
  obtain ⟨hctl, hstr⟩ := State.openStream_place word.1
  rw [State.snode_next f word, State.snodeStep, hctl, hstr]
  simp only [open_, node, running, alive, room, work, Bool.or_self, Bool.false_eq_true, if_false, if_true, Option.isNone_some, Bool.false_and]
  rfl

/-- R182: a node that holds no output, and can do no more with inputs that have ended, passes the end on. -/
theorem State.snode_ends {f : Stream → SNode → SStep} (can : CanWork s h at_ op w x n) (idle : f x n = none) (ends : n.allEnded w = true)
    (empty : n.out = []) :
    s.snode at_ op w f = .next ((h.modNode x at_.word fun n => { n with hungry := true }).endNode x at_.word op w) := by
  obtain ⟨⟨x0, word, rfl⟩, open_, node, running, alive, room⟩ := can
  obtain ⟨hctl, hstr⟩ := State.openStream_place word.1
  rw [State.snode_next f word, State.snodeStep, hctl, hstr]
  simp [open_, node, running, alive, idle, ends, empty]

/-- An operator whose step is `f` does the work of `f`. Where a statement writes the operator's step as the model does, `step` is `rfl`. -/
theorem works_of_step {i : Instr} {f g : Stream → SNode → SStep} (arm : exec i s = s.snode at_ op w g) (step : ∀ x n, g x n = f x n) :
    Works i s at_ op w f := fun _ x n _ _ _ can work => arm.trans (State.snode_works can ((step x n).trans work))

end

/-! ### Values of a flit (R188) -/

theorem sMap_eq_mapped (wi wo : Nat) (g : Stream → Nat → Nat → Nat × Flags) : sMap wi wo g = mapped wi wo g := rfl

section
variable {w : NodeWord} (at_ : SFireAt) (g : Nat → Nat → Nat → Nat × Flags) (x : Stream) (n : SNode)

/-- R190: where B is absent, K takes its place. -/
theorem sBinary_constant (absent : w.inB = 0#4) :
    sBinary w at_ g x n = mapped w.width w.width (fun x p a => g (x.drawAt at_.word p) a w.k) x n := by
  rw [sBinary, if_pos absent, sMap_eq_mapped]

theorem sBinary_pairs (present : w.inB ≠ 0#4) :
    sBinary w at_ g x n = sMap2 w.width (fun x p a b => g (x.drawAt at_.word p) a b) x n := by
  rw [sBinary, if_neg present]

end

theorem natOfS_lt (bs : List SBit) : natOfS bs < 2 ^ bs.length := by
  induction bs with
  | nil => exact Nat.one_pos
  | cons b bs ih =>
    have bit : boolNat b.1 ≤ 1 := by cases b.1 <;> decide
    rw [natOfS, List.length_cons, Nat.pow_succ]
    omega

/-- A value of `w` bits is below 2^w. -/
theorem svals_lt {w n : Nat} {bs : List SBit} {v : SVal} (mem : v ∈ svals w n bs) : v.1 < 2 ^ w := by
  induction n generalizing bs with
  | zero => cases mem
  | succ n ih =>
    rcases List.mem_cons.1 mem with rfl | mem
    · exact Nat.lt_of_lt_of_le (natOfS_lt _) (Nat.pow_le_pow_right Nat.two_pos (List.length_take_le w bs))
    · exact ih mem

/-- R191: a field of `w` bits is sign-extended for S and zero-extended for N. -/
theorem decode_field {signed : Bool} {w n : Nat} {bs : List SBit} {v : SVal} (mem : v ∈ svals w n bs) :
    (IntFmt.mk signed w).decode v.1 = if signed then signedOf v.1 w else v.1 := by
  rw [IntFmt.decode, Nat.mod_eq_of_lt (svals_lt mem)]

theorem flatMap_decode {signed : Bool} {w n : Nat} {bs : List SBit} (f : SVal → Int → List SBit) :
    (svals w n bs).flatMap (fun v => f v ((IntFmt.mk signed w).decode v.1)) =
      (svals w n bs).flatMap fun v => f v (if signed then signedOf v.1 w else v.1) := by
  rw [List.flatMap_def, List.flatMap_def]
  exact congrArg List.flatten (List.map_congr_left fun v mem => by rw [decode_field mem])

/-- The nearer bound by minimum and maximum, with OVERFLOW outside the bounds. -/
theorem clamp_eq_max_min (T : IntFmt) (v : Int) :
    T.clamp v = (max (min v T.max) T.min, if v < T.min ∨ T.max < v then fOverflow else 0) := by
  have bounds : T.min ≤ T.max := by
    have := Nat.one_le_two_pow (n := T.width - 1)
    have := Nat.one_le_two_pow (n := T.width)
    unfold IntFmt.min IntFmt.max
    split <;> omega
  unfold IntFmt.clamp
  rcases Int.lt_or_le v T.min with below | above
  · have nearest : max (min v T.max) T.min = T.min := by omega
    rw [if_pos below, if_pos (.inl below), nearest]
  · rcases Int.lt_or_le T.max v with high | inside
    · have nearest : max (min v T.max) T.min = T.max := by omega
      rw [if_neg (by omega), if_pos high, if_pos (.inr high), nearest]
    · have nearest : max (min v T.max) T.min = v := by omega
      rw [if_neg (by omega), if_neg (by omega), if_neg (by omega), nearest]

theorem cast_two_pow (n : Nat) : ((2 ^ n : Nat) : Int) = 2 ^ n := Int.natCast_pow 2 n

/-- R191: a packed value of `b` bits is the value or its nearer bound. -/
theorem clamp_encode (signed : Bool) (b : Nat) (v : Int) :
    let lo : Int := if signed then -(2 ^ (b - 1)) else 0
    let hi : Int := if signed then 2 ^ (b - 1) - 1 else 2 ^ b - 1
    ((IntFmt.mk signed b).encode ((IntFmt.mk signed b).clamp v).1, ((IntFmt.mk signed b).clamp v).2) =
      (wrapOf (max (min v hi) lo) b, if v < lo ∨ hi < v then fOverflow else 0) := by
  simp only [clamp_eq_max_min, IntFmt.encode, IntFmt.min, IntFmt.max, cast_two_pow]

/-! ### Operators that keep or replace each value -/

/-- Settles O22: each operator's step is the work that the rules give; PACKB's bounds are those of its field. -/
theorem streamValueNodes : Obligations.StreamValueNodes := by
  unfold Obligations.StreamValueNodes
  intro s at_ w
  refine ⟨?pass, ?split, ?merge, ?scale, fun absent => ⟨?addK, ?mulK, ?cmpselK⟩, fun present => ⟨?add, ?mul, ?cmpsel⟩, ?fma, ?clamp, ?cvt, ?packb,
    ?delta, ?undelta, ?lut⟩
  case pass => exact works_of_step rfl fun _ _ => rfl
  case split => exact works_of_step rfl fun _ _ => rfl
  case merge => exact works_of_step rfl fun _ _ => rfl
  case scale => exact works_of_step rfl fun _ _ => rfl
  case addK => exact works_of_step rfl fun x n => sBinary_constant at_ _ x n absent
  case mulK => exact works_of_step rfl fun x n => sBinary_constant at_ _ x n absent
  case cmpselK => exact works_of_step rfl fun x n => sBinary_constant at_ _ x n absent
  case add => exact works_of_step rfl fun x n => sBinary_pairs at_ _ x n present
  case mul => exact works_of_step rfl fun x n => sBinary_pairs at_ _ x n present
  case cmpsel => exact works_of_step rfl fun x n => sBinary_pairs at_ _ x n present
  case fma => exact works_of_step rfl fun _ _ => rfl
  case clamp => exact works_of_step rfl fun _ _ => rfl
  case cvt => exact works_of_step rfl fun _ _ => rfl
  case packb =>
    refine works_of_step rfl fun x n => ?_
    simp only [clamp_encode, sMap_eq_mapped]
  case delta => exact works_of_step rfl fun _ _ => rfl
  case undelta => exact works_of_step rfl fun _ _ => rfl
  case lut => exact works_of_step rfl fun _ _ => rfl

/-! ### Operators on blocks, chunks and pieces -/

/-- Settles O23: each operator's step on a unit is the work that the formats give. -/
theorem streamUnitNodes : Obligations.StreamUnitNodes := by
  unfold Obligations.StreamUnitNodes
  intro s at_ w
  refine ⟨?qmx, ?dqmx, ?unpackb, ?bfpc, ?bfpd, ?expand24, ?expandbm, ?compact, ?perm⟩
  case qmx => exact works_of_step rfl fun _ _ => rfl
  case dqmx => exact works_of_step rfl fun _ _ => rfl
  case unpackb =>
    refine works_of_step rfl fun _ n => ?_
    simp only [flatMap_decode fun v y => sbits w.width ((intOf w.fmt.toNat).encode y, v.2)]
  case bfpc => exact works_of_step rfl fun _ _ => rfl
  case bfpd => exact works_of_step rfl fun _ _ => rfl
  case expand24 => exact works_of_step rfl fun _ _ => rfl
  case expandbm => exact works_of_step rfl fun _ _ => rfl
  case compact => exact works_of_step rfl fun _ _ => rfl
  case perm => exact works_of_step rfl fun _ _ => rfl

/-! ### Reducers -/

theorem sReduce_eq_reduced (w : NodeWord) (g : SNode → Nat → SNode × Flags) : sReduce w g = reduced w g := rfl

/-- Settles O24: each reducer folds the values of a flit, in the arithmetic of its format. -/
theorem streamReducers : Obligations.StreamReducers := by
  unfold Obligations.StreamReducers
  intro s at_ w
  refine ⟨fun float => ⟨?sumF, ?minmaxF⟩, fun integer => ⟨?sumI, ?minmaxI⟩, ?hist, ?count, ?crc⟩
  case sumF => refine works_of_step rfl fun _ _ => ?_; simp only [float, if_true, sReduce_eq_reduced]
  case minmaxF => refine works_of_step rfl fun _ _ => ?_; simp only [float, if_true, sReduce_eq_reduced]
  case sumI => refine works_of_step rfl fun _ _ => ?_; simp only [integer, Bool.false_eq_true, if_false, sReduce_eq_reduced]
  case minmaxI => refine works_of_step rfl fun _ _ => ?_; simp only [integer, Bool.false_eq_true, if_false, sReduce_eq_reduced]
  case hist => exact works_of_step rfl fun _ _ => rfl
  case count => exact works_of_step rfl fun _ _ => rfl
  case crc => exact works_of_step rfl fun _ _ => rfl

end Sys2Proof.Machine
end

section
/-! SUPPORT and PROOFS. The flow of flits (R182, R183, R195, R201): what a write leaves in memory, what the head takes, where a flit and an end
go, and what UNDO writes into its journal. -/

namespace Sys2Proof.Machine

open Claims

/-! ### A write outside protected supersteps, with no exhausted row (R206) -/

/-- Bytes that have been written read back. -/
theorem memBytes_memWrite {m : List Host.Cell} (a : Nat) {bs : List Byte} {n : Nat} (wf : Memory.wf m = true) (length : bs.length = n) :
    memBytes (memWrite m a bs) a n = bs := by
  refine List.ext_getElem (by simp [memBytes, length]) fun i _ hi => ?_
  simp only [memBytes, List.getElem_map, List.getElem_range]
  rw [memByte_memWrite _ _ _ wf, if_pos ⟨by omega, by omega⟩, Nat.add_sub_cancel_left, List.getD_eq_getElem?_getD, List.getElem?_eq_getElem hi, Option.getD_some]

section
variable {s : State} (plain : ∀ c ∈ s.ctxs, c.isProt = false)
include plain

theorem State.unprotect_plain (cid reason : Nat) : s.unprotect cid reason = s := by
  unfold State.unprotect
  split
  · rfl
  next c found => rw [if_neg (by simp [plain c (List.mem_of_find?_eq_some found)])]

theorem State.undoLine_plain (line : Nat) : s.undoLine line = s := by
  have none_ : s.ctxs.find? (fun c => c.isProt && decide (c.partAddr 0 ≤ line * 64) && decide (line * 64 < c.partAddr c.partSize)) = none :=
    List.find?_eq_none.2 fun c hc => by simp [plain c hc]
  rw [State.undoLine, none_]

theorem State.undoLines_plain (lines : List Nat) : lines.foldl (fun s g => s.undoLine g) s = s := by
  induction lines with
  | nil => rfl
  | cons line lines ih => rw [List.foldl_cons, State.undoLine_plain plain, ih]

/-- The write changes the bytes of its range, in memory as it stands. -/
theorem State.writeWhole_mem_plain (rows : s.health.dead = []) (pchs : s.health.deadPch = []) (src : Option Nat) (pa : Nat) (bs : List Byte) :
    (s.writeWhole src pa bs).mem = memWrite s.mem pa bs := by
  rw [State.writeWhole, foldl_mem (f := fun s g => s.cleanGranule g) fun _ _ => rfl]
  cases src <;>
    simp only [State.write, State.unprotect_plain plain, ite_self, State.undoLines_plain plain, State.putBytes, rows, pchs, List.isEmpty_nil,
      Bool.and_self, if_true]

end

/-! ### The head (R182) -/

theorem Stream.headRoom_of_hungry {x : Stream} {ws : List (BitVec 64)} {m : SNode} (node : x.nodes[headNode ws]? = some m)
    (hungry : m.hungry = true) (room : (x.nodes.all fun n => n.out.length < 1024) = true) : x.headRoom ws = true := by
  simp only [Stream.headRoom, node, hungry, room, Bool.and_self]

section
variable {s : State} {x : Stream} (still : x.moving = false) (write : x.write = true) (more : x.headDone = false) (running : x.aborted = false)
  (room : x.headRoom (s.graphWords x) = true)
include still write more running room

/-- The head takes the next flit of its tile, its last one padded with zeros (log 31). -/
theorem State.takeHead_tile {d : Ctx} {t : Tile} (tile : x.fromTile = true) (entry : s.streamTile x = some (d, t)) (left : x.reqDone < t.flits) :
    let bs := padS 1024 (s.readBits (d.partAddr (t.base + 128 * x.reqDone)) (Nat.min 128 (t.bytes - 128 * x.reqDone)))
    s.takeHead x = (s.modHead x fun w n => n.feedHead w bs).modStream x.ctl x.str fun x => { x with reqDone := x.reqDone + 1 } := by
  cases req : x.requester with
  | tile st i =>
    simp only [State.takeHead, still, write, more, running, room, req, entry, Nat.not_le.2 left, Bool.false_eq_true, Bool.not_true,
      Bool.false_and, Bool.or_self, if_false]
  | region h slot => simp [Stream.fromTile, req] at tile

/-- Behind the last flit of the tile comes the end. -/
theorem State.takeHead_end {d : Ctx} {t : Tile} (tile : x.fromTile = true) (entry : s.streamTile x = some (d, t)) (over_ : t.flits ≤ x.reqDone) :
    s.takeHead x = (s.modHead x fun w n => n.endHead w).modStream x.ctl x.str fun x => { x with headDone := true } := by
  cases req : x.requester with
  | tile st i =>
    simp only [State.takeHead, still, write, more, running, room, req, entry, over_, Bool.false_eq_true, Bool.not_true,
      Bool.false_and, Bool.or_self, if_false, if_true]
  | region h slot => simp [Stream.fromTile, req] at tile

/-- From a region's slot the head takes the two oldest half flits of the write buffer. -/
theorem State.takeHead_region {a b : List Byte} {r : List (List Byte)} (region : x.fromTile = false) (buffer : x.wbuf = a :: b :: r) :
    let bs := (bitsOfBytes (a ++ b)).map fun v => (v, false)
    s.takeHead x = (s.modHead x fun w n => n.feedHead w bs).modStream x.ctl x.str fun x => { x with wbuf := r, reqDone := x.reqDone + 1 } := by
  cases req : x.requester with
  | tile st i => simp [Stream.fromTile, req] at region
  | region h slot =>
    simp only [State.takeHead, still, write, more, running, room, req, buffer, Bool.false_eq_true, Bool.not_true, Bool.false_and,
      Bool.or_self, if_false]

end

/-- After the head has given its node what `f` says, and `g` has noted that in the stream, the lookup finds the stream so. -/
theorem State.openStream_headTaken {s : State} {x : Stream} {f : NodeWord → SNode → SNode} {g : Stream → Stream}
    (open_ : s.openStream x.ctl x.str = some x) (place : ∀ y, ((g y).ctl, (g y).str) = (y.ctl, y.str)) :
    ((s.modHead x f).modStream x.ctl x.str g).openStream x.ctl x.str =
      some (g { x with
        nodes := x.nodes.modify (headNode (s.graphWords x)) (f (nodeFields ((s.graphWords x).getD (headNode (s.graphWords x)) 0))) }) := by
  rw [State.openStream_modStream _ _ _ place, State.openStream_modHead, open_]
  rfl

/-! ### Routes and ends (R182) -/

section
variable {s : State} {x : Stream} {k j op : Nat} {w : NodeWord} {n m : SNode}

theorem snodeOuts_single (single : op ≠ 1) : snodeOuts op w = [w.out.toNat] := by rw [snodeOuts, if_neg single]

/-- A node of one route gives its first flit to the neighbour there. -/
theorem State.sendFlit_neighbour (single : op ≠ 1) (node : x.nodes[k]? = some n) (whole : 1024 ≤ n.out.length)
    (route : snodeAt k w.out.toNat = some j) (inside : w.out.toNat ≠ 6) :
    s.sendFlit x k op w = (s.modNode x k fun n => { n with out := n.out.drop 1024 }).modNode x j fun m =>
      if takesAtA (nodeFields ((s.graphWords x).getD j 0)) w.out.toNat then { m with inA := m.inA ++ n.out.take 1024 }
      else { m with inB := m.inB ++ n.out.take 1024 } := by
  have ready : ¬((decide (n.out.length < 1024) || ([w.out.toNat].contains 6 && !x.tailRoom)) = true) := by
    simp [Nat.not_lt.2 whole, inside.symm]
  simp only [State.sendFlit, snodeOuts_single single, node, if_neg ready, List.foldl_cons, List.foldl_nil, if_neg inside, route]
  rfl

/-- At the tail the end marker is noted in the stream. -/
theorem State.endNode_tail (single : op ≠ 1) (tail : w.out.toNat = 6) :
    s.endNode x k op w = (s.modNode x k fun n => { n with ended := true }).modStream x.ctl x.str fun x => { x with tailEnded := true } := by
  simp only [State.endNode, snodeOuts_single single, tail, List.foldl_cons, List.foldl_nil, if_true]

theorem State.openStream_endTail {y : Stream} (single : op ≠ 1) (tail : w.out.toNat = 6) (open_ : s.openStream x.ctl x.str = some y) :
    (s.endNode x k op w).openStream x.ctl x.str =
      some { y with nodes := y.nodes.modify k fun n => { n with ended := true }, tailEnded := true } := by
  rw [State.endNode_tail single tail, State.openStream_modStream, State.openStream_modNode, open_]
  · rfl
  · exact fun _ => rfl

end

/-! ### UNDO (R195, R201) -/

theorem journalEntry_length {old : List SBit} (e pa : Nat) (whole : old.length = 1024) : (journalEntry old e pa).length = 256 := by
  simp [journalEntry, bytesOfS, leBytes, bytesOf, padTo, whole]

theorem State.readBits_length (s : State) (pa n : Nat) : (s.readBits pa n).length = 8 * n := by
  simp only [State.readBits, List.length_flatMap, List.length_map, List.length_range, List.map_const', List.sum_replicate_nat, Nat.mul_comm]

section
variable {s : State} {at_ : SFireAt} {w : NodeWord} {x : Stream} {n : SNode}

theorem exec_snodeUndo (word : NodeWordIs s at_ 0x38 w x) : exec (.snodeUndo at_ w) s = .next (s.undoStep x at_.word w) := by
  obtain ⟨open_, v, at_word, hop, hw⟩ := word
  change execSnodeUndo at_ w s = _
  simp only [execSnodeUndo, open_, at_word, hop, hw, and_self, if_true]

/-- Once the journal is full UNDO takes its flit and journals nothing. -/
theorem exec_undo_full (can : CanUndo s at_ w x n) (full : x.jovf = true) :
    exec (.snodeUndo at_ w) s = .next (s.modNode x at_.word fun n => { n with inA := n.inA.drop 1024, count := n.count + 1 }) := by
  obtain ⟨word, node, running, alive, page, flit⟩ := can
  rw [exec_snodeUndo word]
  simp [State.undoStep, node, running, alive, page, Nat.not_lt.2 flit, full]

/-- With room in the journal it journals the flit at the place that comes next. -/
theorem exec_undo_room {p : SeqPos} {pa : Nat} {s1 : State} {y : Stream} (can : CanUndo s at_ w x n) (room : x.jovf = false)
    (place : s.seek x x.undo x.base x.granules .w = (s1, p, .at_ pa))
    (found : (s1.modStream x.ctl x.str fun x => { x with undo := p }).openStream x.ctl x.str = some y) :
    exec (.snodeUndo at_ w) s = .next ((s1.modStream x.ctl x.str fun x => { x with undo := p }).journalFlit y at_.word pa) := by
  obtain ⟨word, node, running, alive, page, flit⟩ := can
  rw [exec_snodeUndo word]
  simp [State.undoStep, node, running, alive, page, Nat.not_lt.2 flit, room, place, found]

end

/-- The entry is written to the journal: the old bytes with their poison, its number, and the address of the flit (R201). -/
theorem State.journalFlit_mem {s t : State} {y : Stream} {j : SeqPos} {pa ja : Nat} (k : Nat)
    (place : s.seek y y.jour y.journal y.jgranules .w = (t, j, .at_ ja)) (journal : t.rangeHeld ja 256 = false) (old : t.rangeHeld pa 128 = false)
    (unprotected : y.prot = false) (plain : ∀ c ∈ t.ctxs, c.isProt = false) (rows : t.health.dead = []) (pchs : t.health.deadPch = []) :
    (s.journalFlit y k pa).mem = memWrite t.mem ja (journalEntry (t.readBits pa 128) y.entries pa) := by
  have free : ((t.modStream y.ctl y.str fun x => { x with jour := j }).rangeHeld ja 256 ||
      (t.modStream y.ctl y.str fun x => { x with jour := j }).rangeHeld pa 128) = false :=
    Bool.or_eq_false_iff.2 ⟨journal, old⟩
  simp only [State.journalFlit, place, free, unprotected, Bool.false_eq_true, if_false]
  exact State.writeWhole_mem_plain (s := t.modStream y.ctl y.str fun x => { x with jour := j }) plain rows pchs _ _ _

/-! ### The flow of flits -/

/-- Settles O25: the head by its source, the route of a flit, the end at the tail, and UNDO with its journal full and with room. -/
theorem streamFlow : Obligations.StreamFlow := by
  unfold Obligations.StreamFlow
  intro s h at_ w x n
  refine ⟨fun open_ still write more running outs m node hungry => ?head, fun op j m single open_ node whole route inside apart target => ?route,
    fun can inA endA inB out tail => ?end_, fun can full => exec_undo_full can full,
    fun p j pa ja s1 s2 y can room _ place found jplace journal old unprotected wf plain rows pchs => ?undo⟩
  case head =>
    have room := Stream.headRoom_of_hungry node hungry outs
    refine ⟨fun d t tile entry => ⟨fun left => ?_, fun over_ => ?_⟩, fun a b r region buffer => ?_⟩
    · rw [State.takeHead_tile still write more running room tile entry left]
      exact ⟨_, State.openStream_headTaken open_ fun _ => rfl, rfl, getElem?_modify_same _ node⟩
    · rw [State.takeHead_end still write more running room tile entry over_]
      exact ⟨_, State.openStream_headTaken open_ fun _ => rfl, rfl, getElem?_modify_same _ node⟩
    · rw [State.takeHead_region still write more running room region buffer]
      exact ⟨_, State.openStream_headTaken open_ fun _ => rfl, rfl, getElem?_modify_same _ node⟩
  case route =>
    refine ⟨_, by rw [State.sendFlit_neighbour single node whole route inside, State.openStream_modNode, State.openStream_modNode, open_]; rfl,
      ?_, ?_, fun k hk hj => ?_⟩
    · simp [apart, node]
    · simp [apart.symm, target]
    · simp [hk.symm, hj.symm]
  case end_ =>
    have ⟨_, open_, node, _⟩ := can
    obtain ⟨hctl, hstr⟩ := State.openStream_place open_
    rw [← hctl, ← hstr] at open_
    have idle : sCopy x n = none := by simp [sCopy, sUnit, SNode.unit, inA]
    have ends : n.allEnded w = true := by simp [SNode.allEnded, endA, inB]
    have hungry := h.openStream_modNode x at_.word fun n => { n with hungry := true }
    rw [open_] at hungry
    exact ⟨_, _, State.snode_ends can idle ends out, State.openStream_endTail (by decide) tail hungry, rfl,
      getElem?_modify_same _ (getElem?_modify_same _ node)⟩
  case undo =>
    have mem := State.journalFlit_mem at_.word jplace journal old unprotected plain rows pchs
    have length := journalEntry_length y.entries pa (s2.readBits_length pa 128)
    refine ⟨_, exec_undo_room can room place found, by rw [mem, memBytes_memWrite _ wf length], fun a outside => ?_⟩
    rw [mem, memByte_memWrite _ _ _ wf, if_neg (by omega)]

end Sys2Proof.Machine
end

section
/-! SUPPORT and PROOFS. Writes, fences and atomics (R206, R209, R211, R212, R240 to R242): what a write leaves in memory, which orders hold an
access back, and what an atomic or a compare-and-swap at a scratchpad comes to. -/

namespace Sys2Proof.Machine

open Claims

/-! ### What a write leaves (R206) -/

/-- With no protected superstep, exhausted row or retired pseudo-channel a write changes memory alone, byte by byte. -/
theorem State.write_plain {s : State} (plain : ∀ c ∈ s.ctxs, c.isProt = false) (rows : s.health.dead = []) (pchs : s.health.deadPch = [])
    (src : Option Nat) (pa : Nat) (bs : List Byte) : s.write src pa bs = { s with mem := memWrite s.mem pa bs } := by
  cases src <;>
    simp only [State.write, State.unprotect_plain plain, ite_self, State.undoLines_plain plain, State.putBytes, rows, pchs, List.isEmpty_nil,
      Bool.and_self, if_true]

/-- Settles O12: such a write is `memWrite`, whose bytes are known by address. -/
theorem writeFrame : Obligations.WriteFrame := by
  unfold Obligations.WriteFrame
  intro s src pa bs wf plain rows pchs
  rw [State.write_plain plain rows pchs]
  refine ⟨fun k inside => ?_, fun x outside => ?_, rfl⟩
  · rw [memByte_memWrite _ _ _ wf, if_pos (by omega), Nat.add_sub_cancel_left]
  · rw [memByte_memWrite _ _ _ wf, if_neg (by omega)]

/-! ### Fences and orders (R211, R212) -/

theorem exec_fence {s : State} {sc : Scope} {k : FenceKind} (ready : Ready (.plain []) s) :
    exec (.fence sc k) s = .next ((s.fence sc k).retire 2) := by
  change execFence sc k s = _
  rw [execFence, issue_ready ready]

/-- With nothing pending every order is dropped; else those that still hold something stay. -/
theorem fenceResults : FenceResults := by
  intro s sc k ready
  rw [exec_fence ready]
  refine ⟨fun idle => ?_, fun busy => ?_⟩
  · have dropped : (s.cpu.fences.filter fun _ => false) = [] := List.filter_eq_nil_iff.2 fun _ _ => Bool.false_ne_true
    simp only [State.fence, State.addOrder, idle, List.any_nil, dropped, List.isEmpty_nil, true_or, if_true]
    rfl
  · have some_ : (s.pendingOf s.who).isEmpty = false := List.isEmpty_eq_false_iff.2 busy
    simp only [State.fence, State.addOrder, some_, Bool.false_eq_true, false_or]
    cases k <;> rfl

/-- What an order makes a later access wait for, by its kind. -/
theorem FenceRec.holds_iff (f : FenceRec) (a : Actor) (from_ h : Home) (p : Issued) (storing : Bool) :
    f.holds a from_ p h storing = true ↔
      (f.kind = .acquire ∧ p.id < f.upTo ∧ p.reads = true ∧ inScope a f.scope h = true) ∨
      (f.kind = .release ∧ p.id < f.upTo ∧ inScope a f.scope from_ = true ∧ storing = true) ∨
      (f.kind = .full ∧ p.id < f.upTo ∧ (inScope a f.scope from_ = true ∨ inScope a f.scope h = true)) ∨
      (f.kind = .ldaq p.id ∧ inScope a f.scope h = true) := by
  cases kind : f.kind <;> simp [FenceRec.holds, kind, and_assoc, @eq_comm _ p.id]

theorem ordersHold : OrdersHold := fun s h storing => by
  simp only [State.fenced, List.any_eq_true, FenceRec.holds_iff]

/-! ### An access at a scratchpad -/

/-- An access to a scratchpad that nothing delays is performed at once. -/
theorem State.send_spad {s : State} {pa st l : Nat} (home : s.home pa = .spad st l) (fast : s.goesSlow (96 + st) = false) (ea : Word) (via : Via)
    (op : MemOp) (ans : Answer) :
    s.send ea pa via op ans = ((s.perform (sourceOf s) l op).1, .done (s.perform (sourceOf s) l op).2) := by
  simp only [State.send, home, Home.near, fast, Bool.false_eq_true, if_false]
  rfl

section
variable {s t : State} {ea : Word} {l n : Nat} {op : MemOp} {ans : Answer}

/-- An atomic at a scratchpad is performed and answered in its own step. -/
theorem State.doAtomic_spad (place : AtScratchpad s t ea n .rw true l) :
    ∃ pa, s.doAtomic ea n op ans = (t.perform (sourceOf t) l op).1.answer ans 2 ea pa (t.perform (sourceOf t) l op).2 := by
  obtain ⟨pa, st, via, check, free, home, fast⟩ := place
  exact ⟨pa, by rw [State.doAtomic, State.access_go (w := true) check free rfl, State.send_spad home fast]⟩

theorem State.perform_atomic (clean : t.poisoned l n = false) (src : Option Nat) (k : Nat) (b : Word) :
    t.perform src l (.atomic k n b) =
      let r := atomicNew k (8 * n) (memNat t.mem l n) (b.toNat % 2 ^ (8 * n))
      (t.write src l (leBytes n r.1), ⟨memNat t.mem l n, stOK, r.2, false⟩) := by
  simp only [State.perform, clean, Bool.false_eq_true, if_false]
  rfl

theorem State.perform_cas (clean : t.poisoned l n = false) (src : Option Nat) (e v : BitVec 128) :
    t.perform src l (.cas n e v) =
      (if memNat t.mem l n = e.toNat % 2 ^ (8 * n) then t.write src l (leBytes n v.toNat) else t, ⟨memNat t.mem l n, stOK, 0, false⟩) := by
  simp only [State.perform, clean, Bool.false_eq_true, if_false]
  rfl

end

/-! ### Answers (R235, R240 to R242) -/

/-! Writing a general register leaves k.astat and the number of its atomic. -/

theorem Thr.setReg_astatId (t : Thr) (d : Reg) (v : Word) : (t.setReg d v).astatId = t.astatId := by rw [Thr.setReg_eq]
theorem Thr.setReg_astat (t : Thr) (d : Reg) (v : Word) : (t.setReg d v).astat = t.astat := by rw [Thr.setReg_eq]
theorem Thr.setPair_astatId (t : Thr) (d : Reg) (v : BitVec 128) : (t.setPair d v).astatId = t.astatId := by
  unfold Thr.setPair
  split
  · rfl
  · rw [Thr.setReg_astatId, Thr.setReg_astatId]

/-- An atomic that was performed writes gd and the flags, and k.astat unless a later one of the thread has. -/
theorem Thr.accept_atomic (t : Thr) (id : Nat) (gd : Reg) (trap : Bool) (v : Nat) (fl : Flags) (bad : Bool) :
    t.accept id (.atomic gd trap) ⟨v, stOK, fl, bad⟩ = { t.setReg gd (w64 v) with
      fflags := t.fflags ||| fl
      astat := if t.astatId ≤ id then stOK else t.astat
      astatId := if t.astatId ≤ id then id else t.astatId } := by
  have kept : (t.setReg gd (w64 v)).astatId = t.astatId ∧ (t.setReg gd (w64 v)).astat = t.astat :=
    ⟨Thr.setReg_astatId t gd _, Thr.setReg_astat t gd _⟩
  obtain ⟨number, status⟩ := kept
  by_cases late : t.astatId ≤ id
  · simp only [Thr.accept, Thr.setAstat, number, late, if_true, orFlags]
  · simp only [Thr.accept, Thr.setAstat, number, late, if_true, if_false, orFlags]
    rw [← status, ← number]

/-- A compare-and-swap that was performed writes gd, or the pair, and k.astat when it is the latest of its thread. -/
theorem Thr.accept_cas {t : Thr} {id : Nat} (late : t.astatId ≤ id) (gd : Reg) (trap wide : Bool) (v : Nat) (fl : Flags) (bad : Bool) :
    t.accept id (.cas gd trap wide) ⟨v, stOK, fl, bad⟩ =
      { (if wide then t.setPair gd (BitVec.ofNat 128 v) else t.setReg gd (w64 v)) with astat := stOK, astatId := id } := by
  cases wide <;> simp [Thr.accept, Thr.setAstat, Thr.setReg_astatId, Thr.setPair_astatId, late]

theorem Answer.keeps_good (ans : Answer) : ans.keeps .good = true := by cases ans <;> rfl

/-- An access that ends well writes its registers and completes. -/
theorem State.answer_good {s : State} {ans : Answer} {r : Result} (good : ans.ending r = .good) (parcels : Nat) (ea : Word) (pa : Nat) :
    s.answer ans parcels ea pa r = (s.withCpu (s.cpu.accept (Nat.max s.cpu.astatId s.model.nextId) ans r)).retire parcels := by
  simp only [State.answer, good, Answer.keeps_good, if_true]
  rfl

/-! ### Atomics and compare-and-swap at a scratchpad (R240, R241) -/

section
variable {s s' : State} {d a b : Reg} {l n : Nat} {t : Bool}

/-- An atomic row does at a scratchpad what its number says. -/
theorem atomicDone_of_exec {i : Instr} {k : Nat} (e : exec i s = opAtomic i k n t d a b s) (ready : Ready (.plain [d, a, b]) s)
    (place : AtScratchpad s s' (s.reg a) n .rw true l) (clean : s'.poisoned l n = false) :
    let r := atomicNew k (8 * n) (memNat s'.mem l n) ((s.reg b).toNat % 2 ^ (8 * n))
    AtomicDone i s s' l n d r.1 r.2 := by
  obtain ⟨pa, run⟩ := State.doAtomic_spad (op := .atomic k n (s.reg b)) (ans := .atomic d t) place
  have good : ∀ v fl, (Answer.atomic d t).ending ⟨v, stOK, fl, false⟩ = .good := fun _ _ => if_neg (by simp [stOK, stPoison])
  unfold AtomicDone
  rw [e, opAtomic, issue_ready ready, run, State.perform_atomic clean, State.answer_good (good _ _), Thr.accept_atomic, if_pos (Nat.le_max_left _ _),
    if_pos (Nat.le_max_left _ _)]
  rfl

theorem atomicResults : AtomicResults := by
  intro s s' z t d a b l ready
  -- the row of operation `k` on `n` bytes
  have row := fun {i : Instr} (n k : Nat) (e : exec i s = opAtomic i k n t d a b s) => atomicDone_of_exec (s' := s') (l := l) e ready
  exact ⟨fun place clean => ⟨row _ 0 rfl place clean, row _ 1 rfl place clean, row _ 2 rfl place clean, row _ 3 rfl place clean,
      row _ 4 rfl place clean, row _ 5 rfl place clean, row _ 6 rfl place clean⟩,
    fun place clean => ⟨row 4 7 rfl place clean, row 4 8 rfl place clean⟩⟩

/-- What a compare-and-swap of `n` bytes comes to, before its result is written. -/
theorem State.doAtomic_cas {e v : BitVec 128} {wide : Bool} (place : AtScratchpad s s' (s.reg a) n .rw true l) (clean : s'.poisoned l n = false) :
    let old := memNat s'.mem l n
    let m := if old = e.toNat % 2 ^ (8 * n) then s'.write (sourceOf s') l (leBytes n v.toNat) else s'
    s.doAtomic (s.reg a) n (.cas n e v) (.cas d t wide) =
      (m.withCpu { (if wide then m.cpu.setPair d (BitVec.ofNat 128 old) else m.cpu.setReg d (w64 old)) with
        astat := stOK, astatId := Nat.max m.cpu.astatId m.model.nextId }).retire 2 := by
  obtain ⟨pa, run⟩ := State.doAtomic_spad (op := .cas n e v) (ans := .cas d t wide) place
  have good : ∀ v fl, (Answer.cas d t wide).ending ⟨v, stOK, fl, false⟩ = .good := fun _ _ => if_neg (by simp [stOK, stPoison])
  rw [run, State.perform_cas clean, State.answer_good (good _ _), Thr.accept_cas (Nat.le_max_left _ _)]

theorem casResults : CasResults := by
  intro s s' t d a b l
  refine ⟨fun ready place clean => ?_, fun ready place clean => ?_⟩
  · change execCas .s64 t d a b s = _
    have narrow : ((s.reg d).setWidth 128).toNat % 2 ^ (8 * 8) = (s.reg d).toNat := by
      rw [BitVec.toNat_setWidth]
      omega
    have stored : ((s.reg b).setWidth 128).toNat = (s.reg b).toNat := by
      rw [BitVec.toNat_setWidth]
      omega
    rw [execCas, issue_ready ready, State.doAtomic_cas place clean, narrow, stored]
    rfl
  · change execCas .s128 t d a b s = _
    rw [execCas, issue_ready ready, State.doAtomic_cas place clean, Nat.mod_eq_of_lt (s.pair d).isLt]
    rfl

end

/-- Settles O45: the fence, the orders it leaves, the atomics and the compare-and-swap. -/
theorem atomicsAndFences : Obligations.AtomicsAndFences := ⟨fenceResults, ordersHold, atomicResults, casResults⟩

end Sys2Proof.Machine
end

section
/-! SUPPORT and PROOFS. Accesses that take a time (R206, R209, R320, R322, R371, R381, R441): how a load or a store of the thread is sent, who
performs it, how its answer comes back, and what leaves through the outbound window. -/

namespace Sys2Proof.Machine

open Claims

/-! ### Sending (R206, R209) -/

section
variable {s t : State} {ea : Word} {pa l c n : Nat} {via : Via}

/-- An access that takes a time is a request at its controller or its station. -/
theorem State.send_later (far : TakesTime s pa c l) (ea : Word) (via : Via) (op : MemOp) (ans : Answer) :
    let x := s.requestAt c (.actor s.who) (s.ctxIdOf s.who) l ea (some via) op ans
    s.send ea pa via op ans = (x.1, .sent x.2) := by
  rcases far with ⟨home, rfl⟩ | ⟨st, m, home, slow, rfl, rfl⟩
  · simp only [State.send, home]
    rfl
  · simp only [State.send, home, Home.near, slow, if_true]
    rfl

/-- A load leaves its registers to be written; it may trap, so the thread goes on past it only where the free choice says so. -/
theorem Answer.pend_load (d : Reg) (w : LdW) (id : Nat) (pc : Word) (ahead : Bool) :
    (Answer.load d w).pend id pc ahead = ⟨id, pc, if w = .q128 then [d, d + 1] else [d], Option.none, false, ahead⟩ := by
  cases w <;> simp [Answer.pend, Answer.regs, Answer.mayTrap]

theorem State.doLoad_later {d : Reg} {w : LdW} (check : s.checkAccess ea n .r false = (t, .go pa via)) (free : t.fenced (t.home pa) false = false)
    (far : TakesTime t pa c l) (parcels : Nat) (acq : Scope) :
    let x := t.requestAt c (.actor t.who) (t.ctxIdOf t.who) l ea (some via) (.load n) (.load d w)
    let p : Pend := ⟨x.2, t.cpu.pc, if w = .q128 then [d, d + 1] else [d], Option.none, false, t.model.ahead⟩
    s.doLoad ea n (.load d w) parcels acq =
      ((x.1.withCpu { t.cpu with pend := t.cpu.pend ++ [p] }).addOrder (.ldaq x.2) acq).retire parcels := by
  rw [State.doLoad, State.access_go check free rfl, State.send_later far]
  simp only [State.goOn, Answer.pend_load]
  rfl

theorem State.doStore_later {bs : List Byte} (check : s.checkAccess ea bs.length .w false = (t, .go pa via))
    (free : t.fenced (t.home pa) true = false) (far : TakesTime t pa c l) (parcels : Nat) :
    s.doStore ea bs parcels (fun _ _ => false) =
      (t.requestAt c (.actor t.who) (t.ctxIdOf t.who) l ea (some via) (.store bs.length bs) .none).1.retire parcels := by
  rw [State.doStore, State.access_go check free rfl, State.send_later far]

end

theorem length_leBytes (n v : Nat) : (leBytes n v).length = n := by rw [leBytes, List.length_map, List.length_range]

/-- A store writes as many bytes as its width says (R235). -/
theorem State.length_stBytes (s : State) (d : Reg) (w : StW) : (s.stBytes d w).length = stSize w := by
  cases w <;> exact length_leBytes _ _

/-! ### Performing (R320, R322, R441) -/

/-- The one request of a station, a die or the package control unit is performed once its time has come. -/
theorem State.performNear_single {s : State} {r : MemReq} (only : s.bus.reqs = [r]) (near : 96 ≤ r.ctl) :
    s.performNear = if r.due ≤ s.cycle.toNat then (s.dropReq r.id).performReq r else s := by
  by_cases due : r.due ≤ s.cycle.toNat <;> simp [State.performNear, only, near, due]

theorem State.arriveReq_performed {s : State} {r : MemReq} (held : s.pchHeld r.pa = false) : s.arriveReq r = (s.dropReq r.id).performReq r := by
  rw [State.arriveReq, held]
  rfl

/-! ### Answers -/

section
variable {s : State} {x : Source} {p : Pend} {id pa : Nat} {ans : Answer} {ea : Word} {r : Result}

/-- What an answer does to the loaded thread that waits for it. -/
theorem State.answerTo_mine (mine : x = .actor s.who) (found : (s.cpu.pend.find? fun q => q.id == id) = some p) (may : p.excludes ans r = false)
    (same : (s.deliverTo p ans ea pa r).who = s.who) : s.answerTo x id ans ea pa r = s.deliverTo p ans ea pa r := by
  rw [mine, State.answerTo, State.asActor_self] <;> simp only [found, may, Bool.false_eq_true, if_false, same]

/-- A good answer writes its registers, and is owed no more. -/
theorem State.answerTo_good (mine : x = .actor s.who) (found : (s.cpu.pend.find? fun q => q.id == id) = some p) (good : ans.ending r = .good) :
    s.answerTo x id ans ea pa r =
      s.withCpu (({ s.cpu with pend := s.cpu.pend.filter fun q => q.id != p.id }).accept p.id ans r) := by
  have delivered : s.deliverTo p ans ea pa r =
      s.withCpu (({ s.cpu with pend := s.cpu.pend.filter fun q => q.id != p.id }).accept p.id ans r) := by
    simp only [State.deliverTo, good, Answer.keeps_good, beq_self_eq_true, Bool.true_or, Bool.and_true, if_true]
    rfl
  rw [State.answerTo_mine mine found (by simp [Pend.excludes, good]) (by rw [delivered]; rfl), delivered]

/-- An answer that fails leaves the trap of its instruction due, where the thread has not gone on past it and no earlier trap is due. -/
theorem State.answerTo_trap {cls : Cls} (mine : x = .actor s.who) (found : (s.cpu.pend.find? fun q => q.id == id) = some p)
    (trap : ans.ending r = .trap cls) (discards : ans.keeps (.trap cls) = false) (waits : p.sure = false) (line : p.line = none)
    (first : s.cpu.trapDue = none) :
    s.answerTo x id ans ea pa r = s.withCpu { s.cpu with
      pend := s.cpu.pend.filter fun q => q.id != p.id, trapDue := some ⟨p.id, cls, p.pc, ea, trapGranule cls pa⟩, wait := .none } := by
  have all : (s.cpu.hart.got.filter fun x => some x.1 != none) = s.cpu.hart.got := List.filter_eq_self.2 fun _ _ => rfl
  have delivered : s.deliverTo p ans ea pa r = s.withCpu { s.cpu with
      pend := s.cpu.pend.filter fun q => q.id != p.id, trapDue := some ⟨p.id, cls, p.pc, ea, trapGranule cls pa⟩, wait := .none } := by
    simp only [State.deliverTo, trap, discards, line, Option.isNone_none, Bool.or_true, Bool.true_or, Bool.and_true, reduceCtorEq, if_false, all,
      Bool.false_eq_true, State.lateTrap, Thr.dueTrap, first]
    rfl
  rw [State.answerTo_mine mine found (by simp [Pend.excludes, waits]) (by rw [delivered]; rfl), delivered]

end

/-- The oldest answer of the loaded thread comes to it, and ends well. -/
theorem State.localAnswer_good {s : State} {load : Bool} {x : MemAnswer} {p : Pend}
    (first : (s.bus.answers.find? fun y => y.who.isOf s.who && y.ans.isLoad == load) = some x) (mine : x.who = .actor s.who)
    (found : (s.cpu.pend.find? fun q => q.id == x.id) = some p) (good : x.ans.ending ⟨x.data, x.status, x.flags, x.poisoned⟩ = .good) :
    s.localAnswer s.who load = { s with
      bus := { s.bus with answers := dropFirst (· == x) s.bus.answers }
      cpu := ({ s.cpu with pend := s.cpu.pend.filter fun q => q.id != p.id }).accept p.id x.ans ⟨x.data, x.status, x.flags, x.poisoned⟩ } := by
  simp only [State.localAnswer, first]
  exact State.answerTo_good mine found good

/-! ### Accesses within the part -/

section
variable {s : State} {d a : Reg} {o : BitVec 10}

theorem exec_ld {w : LdW} (ready : Ready (ldForm d a w) s) :
    exec (.ld d a w o) s = .next (s.doLoad (s.ea a o (ldSize w)) (ldSize w) (.load d w) 2 .thr) := by
  change execLd d a w o s = _
  rw [execLd, issue_ready ready]

theorem exec_st {w : StW} (ready : Ready (stForm d a w) s) :
    exec (.st d a w o) s = .next (s.doStore (s.ea a o (stSize w)) (s.stBytes d w) 2 fun _ _ => false) := by
  change execSt d a w o s = _
  rw [execSt, issue_ready ready]

end

theorem remoteLoadSteps : RemoteLoadSteps := by
  intro s s'
  refine ⟨fun d a w o pa l c via ready check free far => ?load, fun d a w o pa l c via ready check free far => ?store,
    fun r only near => State.performNear_single only near, fun c r arg next held => ?select, fun id r arg found held => ?retry,
    fun x p arg mine found ok => ⟨fun gd w first ans clean => ?loaded, fun gd trap first ans => ?atomic⟩⟩
  case load => exact ⟨_, _, (exec_ld ready).trans (congrArg _ (State.doLoad_later check free far 2 .thr)), rfl, rfl, rfl, rfl, rfl, rfl, rfl, rfl⟩
  case store =>
    have length := s.length_stBytes d w
    have bytes : s.stBytes d w = if w = .b128 then leBytes 16 (s.pair d).toNat else leBytes (stSize w) (s.reg d).toNat := by cases w <;> rfl
    have run := State.doStore_later (bs := s.stBytes d w) (by rw [length]; exact check) free far 2
    exact ⟨_, _, (exec_st ready).trans (congrArg _ run), rfl, rfl, rfl, rfl, by rw [length, bytes], rfl, rfl, rfl⟩
  case select =>
    change execDramRequestSelect s = _
    simp only [execDramRequestSelect, arg, next, State.arriveReq_performed held]
  case retry =>
    change execRetireBufferRetry s = _
    simp only [execRetireBufferRetry, arg, found]
    rw [State.arriveReq_performed (r := { r with refused := false }) held]
  case loaded =>
    change execLoadAnswer s = _
    have good : x.ans.ending ⟨x.data, x.status, x.flags, x.poisoned⟩ = .good := by simp [Answer.ending, ans, clean, ok]
    simp only [execLoadAnswer, arg]
    rw [State.localAnswer_good (by simpa only [beq_true] using first) mine found good, ans]
    rfl
  case atomic =>
    change execAtomicAnswer s = _
    have good : x.ans.ending ⟨x.data, x.status, x.flags, x.poisoned⟩ = .good := by simp [Answer.ending, ans, ok, stOK, stPoison]
    simp only [execAtomicAnswer, arg]
    rw [State.localAnswer_good (by simpa only [beq_false] using first) mine found good, ans, ok, Thr.accept_atomic]

/-! ### The outbound window (R381) -/

theorem outboundSteps : OutboundSteps := by
  intro s
  refine ⟨fun st slot k die r arg next => ⟨fun store => ?_, fun load => ?_⟩,
    fun id data r gd w p arg left mine ans found => ⟨fun v here => ?_, fun failed due line waits => ?_⟩⟩
  · change execOutboundStore s = _
    simp only [execOutboundStore, arg, outSource, next, store, if_true]
    rfl
  · change execOutboundLoad s = _
    simp only [execOutboundLoad, arg, outSource, next, load, if_false]
    rfl
  · change execOutboundCompletion s = _
    simp only [execOutboundCompletion, arg, left, ans, here]
    exact congrArg _ (State.answerTo_good (s := s.dropOut r.id) mine found rfl)
  · change ∃ t, execOutboundCompletion s = _ ∧ _
    simp only [execOutboundCompletion, arg, left, ans, failed]
    exact ⟨_, congrArg _ (State.answerTo_trap (s := s.dropOut r.id) mine found rfl rfl waits line due), rfl, rfl, rfl, rfl⟩

/-- Settles O46: the accesses that stay in the part, and those that leave it. -/
theorem remoteAccessEvents : Obligations.RemoteAccessEvents := ⟨remoteLoadSteps, outboundSteps⟩

end Sys2Proof.Machine
end

section
/-! SUPPORT and PROOFS. A LOAD whose read is under way (R246, R322, R354): a state in which the lane's translation has left the TLB, where the
obligation on memory nodes would have the firing translate the lane again. -/

namespace Sys2Proof.Machine

open Claims

namespace SentLoad

/-- A LOAD of a byte through generator 0, without a target. -/
def word : BlockWord := ⟨13, 0, 0, 0x1FF, 0x1FF, 0x8000⟩
def place : FireAt := ⟨5, 1, 0, 0⟩
def ctx : Ctx := newCtx probeDecl probeReq 1 0 0 0 0 0 0 [0]

/-- A region of one page with the LOAD alone in its block. -/
def region : Region :=
  { newRegion probeDecl ctx.id 0 place.region 0 (1, 1) none with
    blocks := [{ header := 0, words := [blockBits 0x60 word], spans := [none], armedQs := [], queueArmed := false, home := 0, disp := Dispatch.zero }] }

/-- Iteration 0 has started, and the generator gives one lane, at an address of the second GiB. -/
def inv : Inv := { Inv.start place.inv (.block 0) ctx region [] with started := 1, ags := [⟨1, false, 0x40001000, [1], [1]⟩] }

/-- The context's address space maps the second GiB to HBM. -/
def before : State :=
  { State.reset with ctxs := [ctx], regions := [{ region with invs := [inv] }], mem := memWrite (probeTables 0 []) 0x2008 (leBytes 8 0x4000001F) }

/-- The first firing has sent the lane's read. -/
def sent : State := match exec (.nodeLoad place word) before with | .next t => t | _ => before

/-- Meanwhile the copies of the table entries have left the TLB (R352). -/
def state : State := { sent with mmu := { sent.mmu with tlb := [] } }

theorem fires : (state.firing place 0x60 word).isSome = true := by decide +kernel

/-- The node as it would fire again. -/
def firing : Firing := (state.firing place 0x60 word).get fires

/-- The checks of its lane: the state after them, and where the lane goes. -/
def checked : State := (State.laneChecks firing ctx firing.virtual (valueBytes word.ty) .r firing.laneAddrs state).1
def lanes : List (Nat × Nat × Option Via) := [(0, 0x40001000, some ⟨1, 0x40000000, 2 ^ 30⟩)]

theorem turn : MemTurn state place 0x60 word firing ctx :=
  ⟨(Option.some_get fires).symm, by decide +kernel, by decide +kernel, by decide +kernel⟩

theorem checks_pass : State.laneChecks firing ctx firing.virtual (valueBytes word.ty) .r firing.laneAddrs state = (checked, lanes, none) :=
  Prod.ext rfl (by decide +kernel)

/-- The lane's read is at its controller, and has no answer. -/
theorem lane_waits : ∃ p ∈ checked.laterLanes lanes, (firing.sentRead p.1).bind (·.answer) = none := by decide +kernel

theorem all_sent : ((checked.laterLanes lanes).filter fun p => (firing.sentRead p.1).isNone) = [] := by decide +kernel

/-- The walk of the checks keeps copies of what it reads. -/
theorem checked_tlb : checked.mmu.tlb ≠ [] := by decide +kernel

/-- The firing waits for its answer, and translates nothing. -/
theorem exec_tlb : ∃ t, exec (.nodeLoad place word) state = .next t ∧ t.mmu.tlb = [] := ⟨_, rfl, by decide +kernel⟩

end SentLoad

/-- Refutes O18: a lane whose read has been sent keeps its translation (R354), so a LOAD that fires again before the answer does not translate it.
The obligation would have the state that a new translation leaves, which differs in `SentLoad.state`: there the copies have left the TLB. -/
theorem not_memoryNodes : ¬ Obligations.MemoryNodes := by
  unfold Obligations.MemoryNodes
  intro holds
  obtain ⟨-, load, -⟩ := holds SentLoad.state SentLoad.checked SentLoad.place SentLoad.word SentLoad.firing SentLoad.ctx SentLoad.lanes
  obtain ⟨waits, -⟩ := load SentLoad.turn (by decide +kernel) (by decide +kernel) SentLoad.checks_pass (by decide +kernel)
  obtain ⟨t, run, empty⟩ := SentLoad.exec_tlb
  have next := run.symm.trans (waits SentLoad.lane_waits)
  rw [SentLoad.all_sent] at next
  cases next
  exact SentLoad.checked_tlb empty

end Sys2Proof.Machine
end

section
/-! SUPPORT and PROOFS. Loads and stores at a scratchpad (R211, R213, R235 to R237): the value of the bytes that a load reads, an access that is
performed in its own step, and the rows. -/

namespace Sys2Proof.Machine

open Claims

/-! ### The value of bytes (R9, R235) -/

theorem leNat_lt (bs : List Byte) : leNat bs < 256 ^ bs.length := by
  induction bs with
  | nil => exact Nat.one_pos
  | cons b r ih =>
    have byte := b.isLt
    rw [leNat, List.length_cons, Nat.pow_succ]
    omega

theorem length_memBytes (m : List Host.Cell) (a n : Nat) : (memBytes m a n).length = n := by
  rw [memBytes, List.length_map, List.length_range]

theorem memNat_lt (m : List Host.Cell) (a n : Nat) : memNat m a n < 256 ^ n := by
  simpa only [memNat, length_memBytes] using leNat_lt (memBytes m a n)

/-- The zero-extended widths lose nothing: the bytes that were read are no longer than the width. -/
theorem ldValue_memNat (w : LdW) (m : List Host.Cell) (a : Nat) : ldValue w (memNat m a (ldSize w)) = loaded w (memBytes m a (ldSize w)) := by
  have small := memNat_lt m a (ldSize w)
  cases w with
  | n8 | n16 | n32 => exact congrArg w64 (Nat.mod_eq_of_lt small)
  | s8 | s16 | s32 | d64 | q128 => rfl

/-! ### An access that is performed in its own step -/

section
variable {s t : State} {ea : Word} {l : Nat}

theorem State.perform_load {n : Nat} (clean : t.poisoned l n = false) (src : Option Nat) :
    t.perform src l (.load n) = (t, ⟨memNat t.mem l n, stOK, 0, false⟩) := by
  rw [State.perform, clean, State.read]

/-- What a load leaves in gd, or in the pair. -/
theorem State.withCpu_putLoad (t : State) (d : Reg) (w : LdW) (v : Nat) :
    t.withCpu (t.cpu.putLoad d w v) = if w = .q128 then t.setPair d (BitVec.ofNat 128 v) else t.setReg d (ldValue w v) := by
  cases w <;> rfl

theorem State.doLoad_spad {w : LdW} (place : AtScratchpad s t ea (ldSize w) .r false l) (clean : t.poisoned l (ldSize w) = false)
    (d : Reg) (parcels : Nat) (acq : Scope) :
    let bs := memBytes t.mem l (ldSize w)
    s.doLoad ea (ldSize w) (.load d w) parcels acq =
      (if w = .q128 then t.setPair d (BitVec.ofNat 128 (leNat bs)) else t.setReg d (Claims.loaded w bs)).retire parcels := by
  obtain ⟨pa, st, via, check, free, home, fast⟩ := place
  have good : ∀ v, (Answer.load d w).ending ⟨v, stOK, 0, false⟩ = .good := fun _ => rfl
  rw [State.doLoad, State.access_go (w := false) check free rfl, State.send_spad home fast, State.perform_load clean]
  simp only [State.answer_good (good _), Thr.accept, State.withCpu_putLoad, ← ldValue_memNat]
  rfl

theorem State.doStore_spad {bs : List Byte} {hold : State → Nat → Bool} (place : AtScratchpad s t ea bs.length .w false l)
    (go : ∀ pa, hold t pa = false) (parcels : Nat) : s.doStore ea bs parcels hold = (t.write (sourceOf t) l bs).retire parcels := by
  obtain ⟨pa, st, via, check, free, home, fast⟩ := place
  rw [State.doStore, State.access_go (w := true) check free (go pa), State.send_spad home fast]
  rfl

/-- With no earlier access pending nothing holds a releasing store back (R211, R213). -/
theorem State.pendingIn_idle (idle : t.pendingOf t.who = []) (sc : Scope) : t.pendingIn sc = false := by
  rw [State.pendingIn, idle]
  rfl

theorem State.pendingToPackage_idle (idle : t.pendingOf t.who = []) (pa : Nat) : t.pendingToPackage pa = false := by
  simp only [State.pendingToPackage, idle, List.any_nil]

end

/-- The bytes that a store writes, by its width (R235). -/
theorem State.stBytes_eq (s : State) (d : Reg) (w : StW) :
    s.stBytes d w = if w = .b128 then leBytes 16 (s.pair d).toNat else leBytes (stSize w) (s.reg d).toNat := by
  cases w <;> rfl

/-- The offset of a compact form counts 8 bytes, without sign (R64). -/
theorem State.ea_compact (s : State) (a : Reg) (k : BitVec 4) : s.ea a (k.setWidth 10) 8 = s.reg a + 8 * k.setWidth 64 := by
  have scaled : ∀ k : BitVec 4, (k.setWidth 10).signExtend 64 * w64 8 = 8 * k.setWidth 64 := by decide
  rw [State.ea, scaled]

/-! ### The rows -/

/-- The width of the store that a flag is (R213). -/
def flagStore : FlagW → StW | .w32 => .b32 | .w64 => .b64

theorem exec_sflag {s : State} {a b : Reg} {w : FlagW} (sc : Scope) (ready : Ready (.plain [a, b]) s) :
    exec (.sflag a b w sc) s =
      .next (s.doStore (s.reg a) (s.stBytes b (flagStore w)) 2 fun s pa => s.pendingIn sc || s.pendingToPackage pa) := by
  change execSflag a b w sc s = _
  cases w <;> exact issue_ready ready

theorem loadResults : LoadResults := by
  intro s t d a w l clean bs got
  refine ⟨fun ready => ⟨fun o place => ?_, fun sc place => ?_⟩, fun d' a' k wide hd ha ready place => ?_⟩
  · rw [exec_ld ready]
    exact congrArg _ (State.doLoad_spad place clean d 2 .thr)
  · change execLdaq d a w sc s = _
    rw [execLdaq, issue_ready ready]
    exact congrArg _ (State.doLoad_spad place clean d 2 sc)
  · subst wide hd ha
    change execLd64Compact d' a' k s = _
    rw [execLd64Compact, issue_ready ready, State.ea_compact]
    exact congrArg _ (State.doLoad_spad (w := .d64) place clean _ 1 .thr)

theorem storeResults : StoreResults := by
  intro s t d a l
  refine ⟨fun w => ?_, fun w sc ready idle => ?_, fun d' a' k hd ha ready place => ?_⟩
  · intro bs ready
    have bytes : s.stBytes d w = bs := s.stBytes_eq d w
    have length : bs.length = stSize w := bytes ▸ s.length_stBytes d w
    refine ⟨fun o place => ?_, fun sc place idle => ?_⟩
    · rw [exec_st ready, bytes]
      exact congrArg _ (State.doStore_spad (by rw [length]; exact place) (fun _ => rfl) 2)
    · change execStrl a d w sc s = _
      rw [execStrl, issue_ready ready, bytes]
      exact congrArg _ (State.doStore_spad (by rw [length]; exact place) (fun _ => State.pendingIn_idle idle sc) 2)
  · intro n place
    have free (pa : Nat) : (t.pendingIn sc || t.pendingToPackage pa) = false := by
      rw [State.pendingIn_idle idle, State.pendingToPackage_idle idle]
      rfl
    have bytes : s.stBytes d (flagStore w) = leBytes n (s.reg d).toNat := by cases w <;> rfl
    rw [exec_sflag sc ready, bytes]
    exact congrArg _ (State.doStore_spad (by rw [length_leBytes]; exact place) free 2)
  · subst hd ha
    change execSt64Compact d' a' k s = _
    rw [execSt64Compact, issue_ready ready, State.ea_compact]
    exact congrArg _ (State.doStore_spad (by rw [State.length_stBytes]; exact place) (fun _ => rfl) 1)

/-- Settles O44: the loads, then the stores, each performed in its own step. -/
theorem loadsAndStores : Obligations.LoadsAndStores := ⟨loadResults, storeResults⟩

end Sys2Proof.Machine
end

section
/-! SUPPORT and PROOFS. Tags, tiles and address generators (R248 to R258): fields of small operands, then each row by what its table holds. -/

namespace Sys2Proof.Machine

open Claims

/-! ### Fields of small operands -/

/-- No bit stands above a small number. -/
theorem wbits_above {v : Word} {lo : Nat} (small : v.toNat < 2 ^ lo) : wbits v 63 lo = 0 := by
  rw [wbits, bitsOf, Nat.shiftRight_eq_div_pow, Nat.div_eq_of_lt small, Nat.zero_mod]

/-- A small number is its own low field. -/
theorem wbits_low {v : Word} {hi : Nat} (small : v.toNat < 2 ^ (hi + 1)) : wbits v hi 0 = v.toNat := Nat.mod_eq_of_lt small

/-- A word has bits above a field of 23 exactly when it is no number of 23 bits. -/
theorem wbits_above_23 {v : Word} (large : 2 ^ 23 ≤ v.toNat) : wbits v 63 23 ≠ 0 := by
  have := v.isLt
  simp only [wbits, bitsOf, Nat.shiftRight_eq_div_pow]
  omega

/-! ### Tags (R252) -/

section
variable {s : State} {c : Ctx} {d a b : Reg}

theorem exec_tlook_hit (ready : Ready (.plain [d, a]) s) (ctx : InCtx s c) {i : Nat} (hit : c.findTag (wbits (s.reg a) 55 12) = some i) :
    exec (.tlook d a) s = .next ((s.modCtx c.id (·.touch i)).finish d (tlookWord true i (c.tagAt i))) := by
  change execTlook d a s = _
  rw [execTlook, issue_ready ready, State.withCtx_run ctx]
  simp only [hit]

theorem exec_tlook_miss (ready : Ready (.plain [d, a]) s) (ctx : InCtx s c) (miss : c.findTag (wbits (s.reg a) 55 12) = none) :
    let v := c.victim (wbits (s.reg a) 55 12 % c.tagSets)
    exec (.tlook d a) s = .next (s.finish d (tlookWord false v (c.tagAt v))) := by
  change execTlook d a s = _
  rw [execTlook, issue_ready ready, State.withCtx_run ctx]
  simp only [miss]

theorem exec_tinv (ready : Ready (.plain [d, a]) s) (ctx : InCtx s c) (range : wbits (s.reg a) 11 0 < 128 * c.partUnits) :
    let i := wbits (s.reg a) 11 0
    let t := c.tagAt i
    exec (.tinv d a) s = .next ((s.modCtx c.id fun c => { c with tags := assign c.tags i { t with valid := false } }).finish d
      (w64 (boolNat t.valid * 2 ^ 63 + boolNat t.dirty * 2 ^ 62 + t.granule % 2 ^ 44 * 2 ^ 12 + t.slot))) := by
  change execTinv d a s = _
  rw [execTinv, issue_ready ready, State.withCtx_run ctx]
  exact congrArg Host.Outcome.next (if_neg (Nat.not_le.2 range))

/-- Another entry than `i` holds the granule. -/
def Ctx.heldElsewhere (c : Ctx) (g i : Nat) : Bool := match c.findTag g with | some j => j != i | none => false

theorem Ctx.heldElsewhere_iff (c : Ctx) (g i : Nat) : c.heldElsewhere g i = true ↔ ∃ j, j ≠ i ∧ c.findTag g = some j := by
  rw [Ctx.heldElsewhere]
  cases c.findTag g <;> simp

/-- TINS of operands in range is denied, or writes its entry and makes it the most recent. -/
theorem exec_tins (ready : Ready (.plain [d, a, b]) s) (ctx : InCtx s c) (entry : wbits (s.reg b) 43 32 < 128 * c.partUnits)
    (slot : wbits (s.reg b) 10 0 < 64 * c.partUnits) (aligned : wbits (s.reg a) 11 0 = 0) :
    let g := wbits (s.reg a) 55 12
    let i := wbits (s.reg b) 43 32
    exec (.tins d a b) s = .next (
      if i / 8 ≠ g % c.tagSets ∨ c.heldElsewhere g i = true then s.finishStatus d stDenied
      else (s.modCtx c.id fun c =>
        ({ c with tags := assign c.tags i ⟨true, wbit (s.reg b) 61, g, wbits (s.reg b) 10 0⟩ }).touch i).finishStatus d stOK) := by
  change execTins d a b s = _
  have good : ¬ (128 * c.partUnits ≤ wbits (s.reg b) 43 32 ∨ 64 * c.partUnits ≤ wbits (s.reg b) 10 0 ∨ wbits (s.reg a) 11 0 ≠ 0) := by omega
  rw [execTins, issue_ready ready, State.withCtx_run ctx]
  exact congrArg Host.Outcome.next (if_neg good)

end

theorem tagResults : TagResults := by
  intro s d a b c ctx g
  refine ⟨fun ready => ⟨fun i hit => exec_tlook_hit ready ctx hit, fun miss => writesReg_of_exec (exec_tlook_miss ready ctx miss),
    fun range => exec_tinv ready ctx range⟩, fun ready => ?_⟩
  intro v i entry slot aligned
  have run := exec_tins ready ctx entry slot aligned
  refine ⟨fun own found => run.trans ?_, fun denied => run.trans ?_⟩
  · have here : ¬ ∃ j, j ≠ i ∧ c.findTag g = some j := by
      rintro ⟨j, other, hj⟩
      rcases found with none_ | same
      · rw [none_] at hj
        cases hj
      · exact other (Option.some.inj (hj.symm.trans same))
    rw [if_neg (by rw [Ctx.heldElsewhere_iff, not_or]; exact ⟨not_not_intro own, here⟩)]
  · rw [if_pos (by rwa [Ctx.heldElsewhere_iff])]

/-! ### Tiles (R255, R256, R258) -/

section
variable {s : State} {c : Ctx} {d a b : Reg} {old : Tile}
  (ctx : InCtx s c) (small : (s.reg a).toNat < 512) (tile : c.tileAt (s.reg a).toNat = some old)
include ctx small tile

/-- TDEF of an empty tile that nothing pins, with a description that fits the partition. -/
theorem exec_tdef (ready : Ready (.plain [d, a]) s) {t : Tile} (desc : tileOfDesc (s.msg 0) (s.msg 1) (s.msg 2) (s.msg 3) = some t)
    (empty : old.state = .empty) (free : old.pins = 0) (body : t.base + t.bytes ≤ c.partSize) (scales : t.scale + t.scaleBytes ≤ c.partSize) :
    exec (.tdef d a) s = .next ((s.modTile c.id (s.reg a).toNat fun _ => t).finishStatus d stOK) := by
  change execTdef d a s = _
  have fits : ¬ (c.partSize < t.base + t.bytes ∨ c.partSize < t.scale + t.scaleBytes) := by omega
  rw [execTdef, issue_ready ready, State.withCtx_run ctx]
  simp only [desc, wbits_low (hi := 8) small, wbits_above (lo := 9) small, tile, empty, free, fits, ne_eq, not_true_eq_false, Nat.lt_irrefl,
    or_self, if_false]

/-- What TWAIT comes to, by the state of its tile. -/
def State.twaitEnds (s : State) (d : Reg) (i : Nat) : TileState → State
  | .ready => s.finishStatus d stOK
  | .empty => s.finishStatus d stEmpty
  | .filling | .draining => s.waitFor (.tile i)

theorem exec_twait (ready : Ready (.plain [d, a]) s) : exec (.twait d a) s = .next (s.twaitEnds d (s.reg a).toNat old.state) := by
  change execTwait d a s = _
  rw [execTwait, issue_ready ready, State.withCtx_run ctx]
  simp only [wbits_low (hi := 8) small, wbits_above (lo := 9) small, tile, ne_eq, not_true_eq_false, if_false]
  cases old.state <;> rfl

/-- TSTAT without a request shows the state and whether the tile is pinned. -/
theorem exec_tstat_shows (ready : Ready (.plain [d, a, b]) s) (request : s.reg b = 0) :
    exec (.tstat d a b) s = .next (s.finish d (w64 (tileCode old.state + 4 * boolNat (decide (0 < old.pins))))) := by
  change execTstat d a b s = _
  have fields : wbits 0 63 3 = 0 ∧ wbits 0 1 0 = 0 ∧ wbit 0 2 = false := by decide
  obtain ⟨above, state, no⟩ := fields
  rw [execTstat, issue_ready ready, State.withCtx_run ctx]
  simp only [wbits_low (hi := 8) small, wbits_above (lo := 9) small, tile, request, above, state, no]
  rfl

/-- TSTAT that requests a move of R256 makes it. -/
theorem exec_tstat_moves (ready : Ready (.plain [d, a, b]) s) {x : TileState} (settled : x = .ready ∨ x = .empty)
    (request : s.reg b = w64 (4 + tileCode x)) (allowed : tstatMove old (tileCode x) = stOK)
    (free : x = .ready → s.mustRelease .pkg (stationHome c.station) = false) :
    exec (.tstat d a b) s = .next ((s.modTile c.id (s.reg a).toNat fun t => { t with state := x }).finish d
      (w64 (tileCode x + 4 * boolNat (decide (0 < old.pins))))) := by
  change execTstat d a b s = _
  have fields : wbits (w64 (4 + tileCode x)) 63 3 = 0 ∧ wbits (w64 (4 + tileCode x)) 1 0 = tileCode x ∧ wbit (w64 (4 + tileCode x)) 2 = true := by
    cases x <;> decide
  obtain ⟨above, state, yes⟩ := fields
  rw [execTstat, issue_ready ready, State.withCtx_run ctx]
  simp only [wbits_low (hi := 8) small, wbits_above (lo := 9) small, tile, request, above, state, yes, allowed]
  obtain rfl | rfl := settled
  · simp only [free rfl]
    rfl
  · rfl

end

theorem tileResults : TileResults := by
  intro s d a b c old ctx small tile i
  refine ⟨fun ready => ⟨fun t desc empty free body scales => exec_tdef ctx small tile ready desc empty free body scales, ?_⟩, fun ready => ?_⟩
  · rw [exec_twait ctx small tile ready]
    refine ⟨fun state => ?_, fun state => ?_, fun state => ?_⟩
    · rw [state, State.twaitEnds]
    · rw [state, State.twaitEnds]
    · obtain state | state := state <;> rw [state, State.twaitEnds]
  · intro pinned
    refine ⟨fun request => writesReg_of_exec (exec_tstat_shows ctx small tile ready request), fun request empty free => ?_,
      fun request full unpinned => ?_⟩
    · exact exec_tstat_moves ctx small tile ready (.inl rfl) request (if_pos ⟨empty, rfl⟩) fun _ => free
    · have allowed : tstatMove old (tileCode .empty) = stOK := by simp [tstatMove, full, unpinned, tileCode]
      rw [exec_tstat_moves ctx small tile ready (.inr rfl) request allowed (fun h => nomatch h), unpinned]
      rfl

/-! ### Address generators (R250) -/

/-- Record `k` of the region with handle `h` is changed. -/
def State.modAg (s : State) (h k : Nat) (f : AgRec → AgRec) : State :=
  s.modRegion h fun r => { r with ags := r.ags.setIfInBounds k (f (r.ags.toArray.getD k AgRec.zero)) }

section
variable {s : State} {c : Ctx} {r : Region} {d a b : Reg}

/-- The region is one of the issuing context. -/
theorem State.putAg_own {h : Nat} (region : s.regionOf h = some r) (own : r.ctx = c.id) (k : Nat) (f : AgRec → AgRec) :
    s.putAg c d h k f = (s.modAg h k f).finishStatus d stOK := by
  simp only [State.putAg, region, own, ne_eq, not_true_eq_false, if_false]
  rfl

theorem exec_agset (ctx : InCtx s c) (region : s.regionOf (wbits (s.reg a) 15 0) = some r) (own : r.ctx = c.id)
    (ready : Ready (.plain [d, a]) s) {g : AgRec} (desc : agOfDesc s.msg = some g) (small : (s.reg a).toNat < 2 ^ 19) :
    exec (.agset d a) s = .next ((s.modAg (wbits (s.reg a) 15 0) (wbits (s.reg a) 18 16) fun _ => g).finishStatus d stOK) := by
  change execAgset d a s = _
  rw [execAgset, issue_ready ready, State.withCtx_run ctx]
  simp only [desc, wbits_above small, State.putAg_own region own, ne_eq, not_true_eq_false, if_false]

/-- AGPARM's selector `sel` and value `x`: a base of 56 bits, or an extent that is not 0. -/
def agFits (sel : Nat) (x : Word) : Prop := (sel = 0 ∧ x.toNat < 2 ^ 56) ∨ (0 < sel ∧ sel ≤ 5 ∧ x.toNat < 2 ^ 32 ∧ x ≠ 0)

/-- AGPARM of a field that the record has, with a value that fits it. -/
theorem exec_agparm (ctx : InCtx s c) (region : s.regionOf (wbits (s.reg a) 15 0) = some r) (own : r.ctx = c.id)
    (ready : Ready (.plain [d, a, b]) s) (small : (s.reg a).toNat < 2 ^ 23) (reserved : (s.reg a).getLsbD 19 = false) {sel : Nat}
    (selects : wbits (s.reg a) 22 20 = sel) (has : sel ≤ (r.ags.toArray.getD (wbits (s.reg a) 18 16) AgRec.zero).rank)
    (fits : agFits sel (s.reg b)) :
    exec (.agparm d a b) s = .next ((s.modAg (wbits (s.reg a) 15 0) (wbits (s.reg a) 18 16) fun g =>
      agParam g sel (s.reg b)).finishStatus d stOK) := by
  change execAgparm d a b s = _
  have good : ¬ (wbits (s.reg a) 63 23 ≠ 0 ∨ wbit (s.reg a) 19 = true ∨ 5 < sel ∨ (sel = 0 ∧ wbits (s.reg b) 63 56 ≠ 0) ∨
      (0 < sel ∧ (wbits (s.reg b) 63 32 ≠ 0 ∨ wbits (s.reg b) 31 0 = 0))) := by
    have named : wbit (s.reg a) 19 = false := reserved
    rw [wbits_above small, named]
    rcases fits with ⟨rfl, base⟩ | ⟨some_, five, extent, nonzero⟩
    · simp [wbits_above base]
    · have value : wbits (s.reg b) 31 0 ≠ 0 := by
        rw [wbits_low (hi := 31) extent]
        exact fun zero => nonzero (BitVec.eq_of_toNat_eq zero)
      have base : sel ≠ 0 := by omega
      simp [wbits_above extent, value, base, five]
  rw [execAgparm, issue_ready ready, State.withCtx_run ctx]
  simp only [selects, good, region, own, Nat.not_lt.2 has, and_false, if_false, State.putAg_own region own]

/-- A reserved bit, or a selector of no field, is an operand fault. -/
theorem exec_agparm_illegal (ctx : InCtx s c) (ready : Ready (.plain [d, a, b]) s)
    (bad : (s.reg a).getLsbD 19 = true ∨ 2 ^ 23 ≤ (s.reg a).toNat ∨ 6 ≤ wbits (s.reg a) 22 20) :
    exec (.agparm d a b) s = .next (s.trap 0x21 (Instr.agparm d a b).wordVal) := by
  change execAgparm d a b s = _
  rw [execAgparm, issue_ready ready, State.withCtx_run ctx]
  refine congrArg Host.Outcome.next (if_pos ?_)
  rcases bad with reserved | large | selector
  · exact .inr (.inl reserved)
  · exact .inl (wbits_above_23 large)
  · exact .inr (.inr (.inl selector))

end

theorem addressGenerators : AddressGenerators := by
  intro s d a b c r ctx region own h k old put
  refine ⟨fun ready g desc small => exec_agset ctx region own ready desc small, fun ready small reserved =>
    ⟨fun base fits => ?_, fun n selector five has fits nonzero => ?_⟩, fun ready bad => exec_agparm_illegal ctx ready bad⟩
  · rw [exec_agparm ctx region own ready small reserved base (Nat.zero_le _) (.inl ⟨rfl, fits⟩), ← wbits_low (hi := 55) fits]
    rfl
  · rw [exec_agparm ctx region own ready small reserved selector has (.inr ⟨by omega, by omega, fits, nonzero⟩), ← wbits_low (hi := 31) fits]
    rfl

/-- Settles O50: each form by what the tag, tile or generator that it names holds. -/
theorem localTables : Obligations.LocalTables := ⟨tagResults, tileResults, addressGenerators⟩

end Sys2Proof.Machine
end

section
/-! SUPPORT and PROOFS. Queues (R260 to R267): pushing and popping items of 16 bytes, then the forms that ask, define, bind and mark. -/

namespace Sys2Proof.Machine

open Claims

/-- Outside a dome-close handler a queue form runs its effect (R422). -/
theorem State.queueForm_run {s : State} (outside : s.inHandler = false) (d : Reg) (body : State → State) : s.queueForm d body = body s := by
  rw [State.queueForm, outside]
  rfl

/-- An item of 16 bytes lies in an even pair (R262). -/
theorem pairBad_even {b : Reg} (even : b.toNat % 2 = 0) (q : Queue) : pairBad q b = false := by
  simp [pairBad, even]

/-! ### QPUSH (R264) -/

section
variable {s : State} {d a b : Reg} {c : Ctx} {x : Bound} {w : Nat} {q : Queue}

/-- An item of 16 bytes that no earlier access holds back is pushed, or not, by its homes and its window. -/
theorem exec_qpush {rel : Bool} {st : Status} {t : State} (ready : Ready (.plain [d, a, b]) s) (outside : s.inHandler = false)
    (bound : s.bindOf (s.reg a) = some x) (producer : x.window = some w) (mine : s.myCtx = some c) (queue : s.queueOf x.q = some q)
    (narrow : q.size = 16) (even : b.toNat % 2 = 0) (written : s.pairWait q b = false) (release : rel = true → s.pendingIn .pkg = false)
    (free : s.queueFenced q (s.liveHomes q) = false)
    (push : s.pushItem c q w (leBytes 16 (s.pair b).toNat) = some (st, t)) :
    exec (.qpush rel d a b) s = .next (t.finishStatus d st) := by
  change execQpush rel d a b s = _
  have go : (rel && s.pendingIn .pkg || s.queueFenced q (s.liveHomes q)) = false := by
    cases rel
    · exact free
    · rw [release rfl, free]
      rfl
  have source : s.itemSource q b = .ok (leBytes 16 (s.pair b).toNat, none) := if_pos narrow
  rw [execQpush, issue_ready ready, State.queueForm_run outside]
  simp only [bound, queue, pairBad_even even, producer, mine, written, source, go, push, Bool.false_eq_true, if_false]

theorem State.pushItem_retired (data : List Byte) (none_ : (q.homes.filter fun h => s.homeAlive h.at_) = []) :
    s.pushItem c q w data = some (stRetired, s) := by
  simp only [State.pushItem, none_, List.isEmpty_nil, if_true]

theorem State.pushItem_busy (data : List Byte) (some_ : (q.homes.filter fun h => s.homeAlive h.at_) ≠ [])
    (full : s.windowFree q c.id w = false) : s.pushItem c q w data = some (stBusy, s) := by
  simp only [State.pushItem, List.isEmpty_eq_false_iff.2 some_, full, Bool.not_false, Bool.false_eq_true, if_false, if_true]

/-- The item takes a place of the window and stands at every live home. -/
theorem State.pushItem_placed (data : List Byte) (some_ : (q.homes.filter fun h => s.homeAlive h.at_) ≠ [])
    (room : s.windowFree q c.id w = true) (now : s.holdsPush c q = false) (queue : s.queueOf q.id = some q) :
    s.pushItem c q w data = some (stOK, (s.takeWindow q.id c.id).placeItem q.id c.id (s.actorId s.who) data false) := by
  simp only [State.pushItem, State.push, queue, List.isEmpty_eq_false_iff.2 some_, room, now, Bool.not_true, Bool.false_eq_true, if_false]

end

theorem pushResults : PushResults := by
  intro s rel d a b c x w q ready outside bound producer mine queue narrow even written release free live
  have push := fun {st t} => exec_qpush (st := st) (t := t) ready outside bound producer mine queue narrow even written release free
  refine ⟨fun none_ => push (State.pushItem_retired _ none_), fun some_ full => push (State.pushItem_busy _ some_ full),
    fun some_ room now same => push (State.pushItem_placed _ some_ room now ?_)⟩
  rw [same, queue]

/-! ### QPOP and QPEEK (R265) -/

/-- With nothing between it and the home, a pop or peek goes to the head. -/
theorem opPop_run {i : Instr} {s : State} {d a b : Reg} {x : Bound} {h : HomeAt} {q : Queue} (ready : Ready (.plain [d, a, b]) s)
    (outside : s.inHandler = false) (bound : s.bindOf (s.reg a) = some x) (consumer : x.home = some h) (queue : s.queueOf x.q = some q)
    (narrow : q.size = 16) (even : b.toNat % 2 = 0) (written : s.pairWait q b = false) (free : s.queueFenced q [h] = false) (pop : Bool) :
    opPop i d a b pop s = .next (s.popFrom q h d b pop) := by
  have unchecked : s.popCheck q b = none := if_pos (.inl narrow)
  rw [opPop, issue_ready ready, State.queueForm_run outside]
  simp only [bound, queue, pairBad_even even, consumer, unchecked, written, free, Bool.false_eq_true, if_false]

section
variable {s : State} {q : Queue} {h : HomeAt} {y : QHome} {c : Ctx}

/-- Outside a protected superstep nothing is kept of what is popped (R405). -/
theorem State.keepOf_plain (mine : s.myCtx = some c) (plain : c.isProt = false) : s.keepOf = none := by
  simp [State.keepOf, mine, plain]

/-- A thread that pops an item returns none of an engine's. -/
theorem State.takeProducer_thread (thread : s.who.isEngine = false) (it : QItem) (bad : Bool) : s.takeProducer it bad = s := by
  unfold State.takeProducer
  split
  · rfl
  · next who =>
    rw [who] at thread
    cases thread

theorem State.popFrom_empty (thread : s.who.isEngine = false) (home : q.home h = some y) (head : headOf y.entries = none)
    (d b : Reg) (pop : Bool) : s.popFrom q h d b pop = s.finishStatus d stEmpty := by
  unfold State.popFrom
  simp only [home, Option.bind_some, head]
  cases who : s.who with
  | thread => rfl
  | engine =>
    rw [who] at thread
    cases thread

theorem State.popFrom_marker {n : Nat} (home : q.home h = some y) (head : headOf y.entries = some (.marker n)) (d b : Reg) (pop : Bool) :
    s.popFrom q h d b pop = (if pop then s.popHead q.id h s.keepOf else s).finish d 0x102 := by
  unfold State.popFrom
  simp only [home, Option.bind_some, head]
  rfl

theorem popWord_ok (it : QItem) : popWord it stOK = w64 (it.num * 2 ^ 32 + it.source.toNat * 2 ^ 9) := congrArg w64 (Nat.add_zero _)

theorem State.popFrom_item {it : QItem} (thread : s.who.isEngine = false) (narrow : q.size = 16) (home : q.home h = some y)
    (head : headOf y.entries = some (.item it)) (clean : it.poison = false) (d b : Reg) (pop : Bool) :
    s.popFrom q h d b pop = ((if pop then s.popHead q.id h s.keepOf else s).setPair b (BitVec.ofNat 128 (leNat it.data))).finish d
      (w64 (it.num * 2 ^ 32 + it.source.toNat * 2 ^ 9)) := by
  unfold State.popFrom
  simp only [home, Option.bind_some, head, clean, State.takeProducer_thread thread, ite_self, narrow, popWord_ok, Bool.false_eq_true, if_false,
    if_true]

end

theorem popResults : PopResults := by
  intro s d a b x h q y c ready outside bound consumer queue narrow even written home thread mine plain free
  have keep := State.keepOf_plain mine plain
  have run {i : Instr} (pop : Bool) : opPop i d a b pop s = .next (s.popFrom q h d b pop) :=
    opPop_run ready outside bound consumer queue narrow even written free pop
  have qpop : exec (.qpop d a b) s = .next (s.popFrom q h d b true) := run true
  have qpeek : exec (.qpeek d a b) s = .next (s.popFrom q h d b false) := run false
  refine ⟨fun empty => ?_, fun n marker => ?_, fun it item clean => ?_⟩
  · rw [State.popFrom_empty thread home empty] at qpop qpeek
    exact ⟨writesReg_of_exec qpop, writesReg_of_exec qpeek⟩
  · rw [State.popFrom_marker home marker, keep] at qpop
    rw [State.popFrom_marker home marker] at qpeek
    exact ⟨qpop, writesReg_of_exec qpeek⟩
  · intro v
    rw [State.popFrom_item thread narrow home item clean, keep] at qpop
    rw [State.popFrom_item thread narrow home item clean] at qpeek
    exact ⟨qpop, qpeek⟩

/-! ### Asking, defining, binding and marking (R263, R266, R267) -/

section
variable {s : State} {d a : Reg} {c : Ctx}

theorem State.myCap_run (mine : s.myCtx = some c) (i : Nat) : s.myCap i = s.useCap c i := by
  rw [State.myCap, mine]
  rfl

/-- QSTAT of a consumer counts the items of its home, and shows a marker at the head. -/
theorem exec_qstat_consumer {x : Bound} {q : Queue} {h : HomeAt} {y : QHome} (ready : Ready (.plain [d, a]) s) (outside : s.inHandler = false)
    (bound : s.bindOf (s.reg a) = some x) (queue : s.queueOf x.q = some q) (consumer : x.home = some h) (home : q.home h = some y)
    (only : x.window = none) :
    exec (.qstat d a) s =
      .next (s.finish d (w64 (y.items.length + (match headOf y.entries with | some (.marker _) => 2 ^ 48 | _ => 0)))) := by
  change execQstat d a s = _
  rw [execQstat, issue_ready ready, State.queueForm_run outside]
  simp only [bound, queue, consumer, home, only, Option.map_some, Option.getD_some, Option.bind_some]
  cases headOf y.entries with
  | none => simp
  | some e => cases e <;> simp

/-- gd of QDEF and QBIND, with OK. -/
theorem handleWord_ok (k : Nat) : stOK.toNat + k * 2 ^ 16 = k * 2 ^ 16 := Nat.zero_add _

/-- QBIND gives the lowest free handle what the capability grants, where the window fits the queue. -/
theorem exec_qbind {x : BitVec 128} {q k : Nat} {h : HomeAt} (ready : Ready (.plain [d, a]) s) (outside : s.inHandler = false)
    (mine : s.myCtx = some c) (cap : s.useCap c (s.reg a).toNat = some (x, .queue q h)) (grants : capS x = true ∨ capR x = true)
    (handle : s.freeHandle c = some k)
    (fits : ∀ y, capS x = true → s.queueOf q = some y → s.windowSum q + (capParam x % 2 ^ 12 + 1) ≤ y.cap) :
    exec (.qbind d a) s = .next ((s.bind c.id k
      { queue := q, window := if capS x then some (capParam x % 2 ^ 12 + 1) else none, consumer := if capR x then some h else none
        byCap := some (capEpoch x) }).finish d (w64 (k * 2 ^ 16))) := by
  change execQbind d a s = _
  have some_ : (!capS x && !capR x) = false := by
    rcases grants with e | e <;> simp [e]
  rw [execQbind, issue_ready ready, State.queueForm_run outside, State.myCap_run mine, cap, mine]
  simp only [some_, handle, handleWord_ok, Bool.false_eq_true, if_false]
  refine congrArg Host.Outcome.next (if_neg ?_)
  cases queue : s.queueOf q with
  | none => exact Bool.false_ne_true
  | some y =>
    cases send : capS x with
    | false => simp
    | true => simpa using fits y send queue

/-- When every consumer of a QDEF is there, its identities are theirs. -/
theorem filterMap_ids (cs : List Ctx) : ((cs.map some).filterMap fun c : Option Ctx => c.map (·.id)) = cs.map (·.id) := by
  induction cs with
  | nil => rfl
  | cons c cs ih => exact congrArg (c.id :: ·) ih

/-- QDEF with a window within the capacity, whose consumers are there and which finds a free handle: the storage decides. -/
theorem exec_qdef {x : QDesc} {k : Nat} {cs : List Ctx} (ready : Ready ⟨.all, true, [d, a], []⟩ s) (outside : s.inHandler = false)
    (mine : s.myCtx = some c) (desc : qdescOf s.msg = some x) (window : (s.reg a).toNat ≤ 4096) (fits : (s.reg a).toNat ≤ x.cap)
    (consumers : (x.consumers.map fun p => s.ctxBySlot p.1 p.2) = cs.map some) (handle : s.freeHandle c = some k) :
    let ids := (cs.map (·.id)).eraseDups
    exec (.qdef d a) s = .next (
      if Config.queueStorage < s.queueBytes + x.size * x.cap * ids.length then s.finishStatus d stDenied
      else (s.defineQueue c k (s.reg a).toNat x ids).finish d (w64 (k * 2 ^ 16))) := by
  change execQdef d a s = _
  have small : (s.reg a).toNat < 2 ^ 13 := by omega
  have good : ¬ (wbits (s.reg a) 63 13 ≠ 0 ∨ 4096 < (s.reg a).toNat ∨ x.cap < (s.reg a).toNat) := by
    rw [wbits_above small]
    omega
  have present : ((cs.map some).any fun c : Option Ctx => c.isNone) = false := by simp
  rw [execQdef, issue_ready ready, State.queueForm_run outside]
  simp only [desc, wbits_low (hi := 12) small, good, mine, consumers, present, handle, filterMap_ids, handleWord_ok, Bool.false_eq_true, if_false]

/-- A gang that is quiescing is busy; else its quiesce starts. -/
theorem State.qmark_some (g : Gang) :
    s.qmark d (some g) = if g.qstate ≠ 0 then s.finishStatus d stBusy else (s.startQuiesce g).finishStatus d stOK := rfl

/-- QMARK with ga of zero is for the own gang. -/
theorem exec_qmark_own (ready : Ready (.plain [d, a]) s) (outside : s.inHandler = false) (mine : s.myCtx = some c) (own : s.reg a = 0) :
    exec (.qmark d a) s = .next (s.qmark d (s.gangOf c.gang)) := by
  change execQmark d a s = _
  rw [execQmark, issue_ready ready, State.queueForm_run outside, if_pos own, mine]
  rfl

/-- Another ga names a capability for a gang, which must have X. -/
theorem exec_qmark_named {x : BitVec 128} {g : Nat} (ready : Ready (.plain [d, a]) s) (outside : s.inHandler = false) (mine : s.myCtx = some c)
    (named : s.reg a ≠ 0) (cap : s.useCap c (s.reg a).toNat = some (x, .gang g)) :
    exec (.qmark d a) s = .next (if capX x = true then s.qmark d (s.gangOf g) else s.trap 0x27 (Instr.qmark d a).wordVal) := by
  change execQmark d a s = _
  rw [execQmark, issue_ready ready, State.queueForm_run outside, if_neg named, State.myCap_run mine, cap]
  rfl

end

/-- The oldest credit of a home frees a place of its producer's window. -/
def QHome.returnCredit (h : QHome) : QHome :=
  match h.credits with
  | [] => h
  | o :: r => { h with credits := r, used := assign h.used o (h.usedBy o - 1) }

theorem exec_windowCreditReturn {s : State} {q k : Nat} (arg : s.model.arg = .n2 q k) :
    exec .windowCreditReturn s = .next (s.modQueue q fun x => { x with homes := x.homes.modify k QHome.returnCredit }) := by
  change execWindowCreditReturn s = _
  rw [execWindowCreditReturn, arg]
  rfl

theorem queueTables : QueueTables := by
  intro s d a c outside mine thread
  refine ⟨fun ready => ⟨fun x q h y bound queue consumer home only => ?_, fun x q k h cap grants handle => ?_, fun g own gang => ?_,
    fun x g named cap gang idle => ?_⟩, fun ready x k cs desc window fits consumers handle => ?_, fun q k arg => ?_⟩
  · exact writesReg_of_exec (exec_qstat_consumer ready outside bound queue consumer home only)
  · intro w fits
    exact exec_qbind ready outside mine cap grants handle fits
  · rw [exec_qmark_own ready outside mine own, gang, State.qmark_some]
    exact ⟨fun idle => by rw [if_neg (not_not_intro idle)], fun busy => by rw [if_pos busy]⟩
  · rw [exec_qmark_named ready outside mine named cap, gang, State.qmark_some, if_neg (not_not_intro idle)]
    exact ⟨fun may => by rw [if_pos may], fun may => by rw [may]; rfl⟩
  · exact exec_qdef ready outside mine desc window fits consumers handle
  · exact exec_windowCreditReturn arg

/-- Settles O49: an item by its homes and its window, the head of a home, and the tables. -/
theorem queueForms : Obligations.QueueForms := ⟨pushResults, popResults, queueTables⟩

end Sys2Proof.Machine
end

section
/-! SUPPORT and PROOFS. The queue and stream nodes in their turn (R268, R272): how a memory node ends its firing, then what each of the nodes
takes or contributes. -/

namespace Sys2Proof.Machine

open Claims

/-- Bytes of an item, or of half a flit, lie four to a lane. -/
theorem bytesToken_asLanes (tag : Nat) (bs : List Byte) : BytesAsLanes (bytesToken tag bs) bs := fun l h => Token.of_lane tag _ l h

/-! ### A memory node in its turn (R219, R222) -/

section
variable {s t : State} {at_ : FireAt} {op : Nat} {w : BlockWord} {f : Firing} {c : Ctx} {body : Firing → Ctx → State → State × Shot}

theorem State.fireMem_sent {a b : Token} {fl : Flags} (turn : MemTurn s at_ op w f c) (shot : body f c s = (t, .sent a b fl)) :
    s.fireMem at_ op w body = t.sendTokens f a b fl := by
  obtain ⟨fires, owner, before, ranges⟩ := turn
  simp [State.fireMem, State.fireWith, fires, owner, before, ranges, shot]

/-- A node that has nothing to do sends null tokens. -/
theorem State.fireMem_null (turn : MemTurn s at_ op w f c) (shot : body f c s = (t, f.nullShot)) :
    s.fireMem at_ op w body = t.sendTokens f (Token.null at_.iter) (Token.null at_.iter) 0 := by
  obtain ⟨-, place, -⟩ := State.firing_word turn.1
  rw [Firing.nullShot, place] at shot
  exact State.fireMem_sent turn shot

end

section
variable {s : State} {at_ : FireAt} {w : BlockWord} {f : Firing} {c : Ctx}

/-! ### QIN (R268) -/

theorem exec_nodeQin_null (turn : MemTurn s at_ 0x64 w f c) (order : f.inOrder = true) (idle : predHolds w.pred f.tp 0 = false) :
    exec (.nodeQin at_ w) s = .next (s.sendTokens f (Token.null at_.iter) (Token.null at_.iter) 0) := by
  refine congrArg Host.Outcome.next (State.fireMem_null turn ?_)
  simp [order, idle]

/-- The item is reserved for the invocation, which counts it for the copy of the node. -/
theorem exec_nodeQin_takes {b : Binding} {q : Queue} {h : QHome} {es : List QEntry} {it : QItem} (turn : MemTurn s at_ 0x64 w f c)
    (order : f.inOrder = true) (act : predHolds w.pred f.tp 0 = true) (queue : s.nodeQueue c w.queue = some (b, q))
    (home : b.consumer.bind q.home = some h) (next : reserveNext (f.r.handle, f.i.id) h.entries = some (es, some it))
    (clean : it.poison = false) :
    exec (.nodeQin at_ w) s = .next (((s.modQueue q.id fun x => x.modHome h.at_ fun y => { y with entries := es }).modInv at_.region at_.inv
      (Inv.reserve (at_.node, f.copy))).sendTokens f (bytesToken at_.iter it.data) (bytesToken at_.iter it.data) 0) := by
  refine congrArg Host.Outcome.next (State.fireMem_sent turn ?_)
  simp [order, act, queue, home, next, clean]

/-! ### QOUT (R268) -/

theorem exec_nodeQout_null (turn : MemTurn s at_ 0x65 w f c) (idle : f.masked.isNull = true) :
    exec (.nodeQout at_ w) s = .next (s.sendTokens f (Token.null at_.iter) (Token.null at_.iter) 0) := by
  refine congrArg Host.Outcome.next (State.fireMem_null turn ?_)
  simp [idle]

/-- The item is held, under a place of the window, while it fits the commit buffer. -/
theorem exec_nodeQout_holds {b : Binding} {q : Queue} {k : Nat} {it : HeldItem} (turn : MemTurn s at_ 0x65 w f c)
    (act : f.masked.isNull = false) (queue : s.nodeQueue c w.queue = some (b, q)) (producer : b.window = some k)
    (room : s.windowFree q c.id k = true) (item : it = ⟨at_.iter, f.depth, w.lsid, w.queue, f.masked.bytes q.size⟩)
    (fits : { f.i with items := f.i.items ++ [it] }.heldBytes ≤ f.r.holdLimit) :
    exec (.nodeQout at_ w) s = .next (((s.takeWindow q.id c.id).modInv at_.region at_.inv fun i =>
      { i with items := i.items ++ [it] }).sendTokens f (Token.null at_.iter) (Token.null at_.iter) 0) := by
  subst item
  refine congrArg Host.Outcome.next (State.fireMem_null turn ?_)
  simp only [act, queue, producer, room, Nat.not_lt.2 fits, Bool.not_true, Bool.false_eq_true, if_false]

/-! ### SIN (R272) -/

theorem exec_nodeSin_null (turn : MemTurn s at_ 0x66 w f c) (order : f.inOrder = true) (idle : predHolds w.pred f.tp 0 = false) :
    exec (.nodeSin at_ w) s = .next (s.sendTokens f (Token.null at_.iter) (Token.null at_.iter) 0) := by
  refine congrArg Host.Outcome.next (State.fireMem_null turn ?_)
  simp [order, idle]

/-- The first half that no invocation has taken is this one's, which holds less than 512 flits. -/
theorem exec_nodeSin_takes {x : Stream} {h : Half} (turn : MemTurn s at_ 0x66 w f c) (order : f.inOrder = true)
    (act : predHolds w.pred f.tp 0 = true) (stream : s.streamAt f.r.handle w.slot false = some x)
    (next : (x.halves.find? fun h => h.taker.isNone) = some h) (clean : h.bad = false)
    (room : (x.halves.countP fun h => h.taker == some f.i.id) < 1024) :
    exec (.nodeSin at_ w) s = .next ((s.modStream x.ctl x.str fun x =>
      { x with halves := modifyFirst (fun h => h.taker.isNone) (fun h => { h with taker := some f.i.id }) x.halves }).sendTokens f
        (bytesToken at_.iter h.bytes) (bytesToken at_.iter h.bytes) 0) := by
  refine congrArg Host.Outcome.next (State.fireMem_sent turn ?_)
  simp [order, act, stream, next, clean, Nat.not_le.2 room]

/-! ### SOUT (R272) -/

section
variable {x : Stream} (turn : MemTurn s at_ 0x67 w f c) (stream : s.streamAt f.r.handle w.slot true = some x)
include turn stream

theorem exec_nodeSout_null (idle : f.masked.isNull = true) :
    exec (.nodeSout at_ w) s = .next (s.sendTokens f (Token.null at_.iter) (Token.null at_.iter) 0) := by
  refine congrArg Host.Outcome.next (State.fireMem_null turn ?_)
  simp [stream, idle]

/-- The contribution is held while the invocation and the stream's buffer have a place for it. -/
theorem exec_nodeSout_holds (act : f.masked.isNull = false) (mine : f.i.soutCount w.slot < 1024)
    (room : x.wbuf.length + (f.r.invs.map fun i => i.soutCount w.slot).sum < 1024) :
    exec (.nodeSout at_ w) s = .next ((s.modInv at_.region at_.inv fun i =>
      { i with souts := i.souts ++ [⟨at_.iter, f.depth, w.lsid, w.slot, f.masked.bytes 64⟩] }).sendTokens f
        (Token.null at_.iter) (Token.null at_.iter) 0) := by
  refine congrArg Host.Outcome.next (State.fireMem_null turn ?_)
  rw [List.sum_eq_foldl] at room
  simp only [stream, act, Nat.not_le.2 mine, Nat.not_le.2 room, Bool.false_eq_true, if_false]

end

end

/-- Settles O19: each node by what its queue or stream gives it to take, or has place for. -/
theorem queueAndStreamNodes : Obligations.QueueAndStreamNodes := by
  unfold Obligations.QueueAndStreamNodes
  intro s at_ w f c z
  refine ⟨fun qin order => ⟨fun idle => exec_nodeQin_null qin order idle, fun b q h es it act queue home next clean => ?_⟩,
    fun qout => ⟨fun idle => exec_nodeQout_null qout idle, fun b q k act queue producer room => ?_⟩,
    fun sin order => ⟨fun idle => exec_nodeSin_null sin order idle, fun x h act stream next clean room => ?_⟩,
    fun x sout stream => ⟨fun idle => exec_nodeSout_null sout stream idle, fun act mine room => exec_nodeSout_holds sout stream act mine room⟩⟩
  · exact ⟨_, bytesToken_asLanes at_.iter it.data, Token.of_tag _ _, exec_nodeQin_takes qin order act queue home next clean⟩
  · intro it fits
    exact exec_nodeQout_holds qout act queue producer room rfl fits
  · exact ⟨_, bytesToken_asLanes at_.iter h.bytes, Token.of_tag _ _, exec_nodeSin_takes sin order act stream next clean room⟩

end Sys2Proof.Machine
end

section
/-! SUPPORT and PROOFS. SCLOSE of a write stream whose buffer holds half a flit (R203, R271, R272): a state in which closing the stream gives the
flit its second half, where the obligation on the control of streams would have the buffer as it was. -/

namespace Sys2Proof.Machine

open Claims

namespace HalfFlit

def ctx : Ctx := newCtx probeDecl probeReq 1 0 0 0 0 0 0 [0]

/-- The context alone on its station, with HBM accepted. -/
def before : State := { State.reset with who := .thread 0 0 0, ctxs := [ctx], boot := { State.reset.boot with acc0 := 1 } }

/-- A write stream of slot 0 of a region, on a graph without nodes. -/
def opened : State := before.openAt ctx ⟨0, 0, true, false, .region 5 0, 0, 1, 0, 0, 0, 0⟩ ⟨0, 0, 0, []⟩ 0 0

/-- A SOUT has contributed 64 bytes. -/
def state : State := { opened with streams := opened.streams.map fun x => { x with wbuf := [List.replicate 64 1] } }

theorem inCtx : InCtx state ctx := ⟨by decide +kernel, by decide +kernel⟩

theorem ready : Ready ⟨.hbm, false, [0, 0], []⟩ state where
  gate := by decide +kernel
  service h := by cases h
  regs := by decide +kernel
  pairs _ h := by cases h
  results := by decide +kernel
  loads := by decide +kernel

/-- The stream that ga of zero names is one of the context. -/
theorem stream_open : ∃ x, state.openStream 0 0 = some x ∧ x.ctx = ctx.id ∧ x.ctl = 0 ∧ x.str = 0 := ⟨_, rfl, by decide +kernel⟩

/-- SCLOSE leaves two halves in the buffer. -/
theorem exec_halves : ∃ t, exec (.sclose 0 0) state = .next t ∧ t.streams.map (·.wbuf.length) = [2] := by
  have run : exec (.sclose 0 0) state = execSclose 0 0 state := rfl
  rw [execSclose, issue_ready ready] at run
  exact ⟨_, run, by decide +kernel⟩

end HalfFlit

/-- Refutes O53: SCLOSE gives a half flit in a stream's write buffer zero as its second half (R203, R272), where the obligation has it change
nothing but `aborted`; in `HalfFlit.state` the buffer holds one half before, and two after. -/
theorem not_streamControl : ¬ Obligations.StreamControl := by
  unfold Obligations.StreamControl
  rintro ⟨forms, -⟩
  obtain ⟨-, close⟩ := forms HalfFlit.state 0 0 HalfFlit.ctx HalfFlit.inCtx
  obtain ⟨x, named, own, ctl, str⟩ := HalfFlit.stream_open
  obtain ⟨closed, -⟩ := close HalfFlit.ready (by decide) (by decide) x named own
  obtain ⟨t, run, halves⟩ := HalfFlit.exec_halves
  have next := run.symm.trans closed
  rw [ctl, str] at next
  cases next
  exact absurd halves (by decide +kernel)

end Sys2Proof.Machine
end

section
/-! SUPPORT and PROOFS. Dispatch decisions (R312, R314, R316): the rules of regions and candidates first, then what dispatching a block installs. -/

namespace Sys2Proof.Machine

/-! ### A region after it has been changed -/

theorem find?_modifyFirst_some {α : Type} {p : α → Bool} {f : α → α} {l : List α} {a : α} (hf : ∀ a, p (f a) = p a)
    (found : l.find? p = some a) : (modifyFirst p f l).find? p = some (f a) := by
  rw [find?_modifyFirst hf, found, Option.map_some]

theorem State.regionOf_modRegion {s : State} {h : Nat} {r : Region} {f : Region → Region} (same : ∀ x, (f x).handle = x.handle)
    (region : s.regionOf h = some r) : (s.modRegion h f).regionOf h = some (f r) :=
  find?_modifyFirst_some (fun x => by rw [same]) region

/-! ### The candidate that is dispatched (R316) -/

theorem best_mem {α : Type} {lt : α → α → Bool} {l : List α} {b : α} (h : best lt l = some b) : b ∈ l := by
  induction l generalizing b with
  | nil => cases h
  | cons a r ih =>
    rw [best] at h
    split at h
    · exact Option.some.inj h ▸ List.mem_cons_self
    next m hm =>
      split at h
      · exact Option.some.inj h ▸ List.mem_cons_of_mem a (ih hm)
      · exact Option.some.inj h ▸ List.mem_cons_self

/-- A member that stands before every other is the best one. -/
theorem best_of_before {α : Type} {lt : α → α → Bool} {p : α} {l : List α} (mem : p ∈ l)
    (first : ∀ x ∈ l, x ≠ p → lt p x = true ∧ lt x p = false) : best lt l = some p := by
  induction l with
  | nil => cases mem
  | cons a r ih =>
    rw [best]
    by_cases tail : p ∈ r
    · rw [ih tail fun x hx => first x (List.mem_cons_of_mem a hx)]
      by_cases head : a = p
      · subst head
        exact ite_self _
      · exact if_pos (first a List.mem_cons_self head).1
    · obtain rfl : p = a := (List.mem_cons.1 mem).resolve_right tail
      cases hb : best lt r with
      | none => rfl
      | some b =>
        have other : b ≠ p := fun e => tail (e ▸ best_mem hb)
        exact if_neg (Bool.eq_false_iff.1 (first b (List.mem_cons_of_mem p (best_mem hb)) other).2)

/-- The state in which a decision of a station has noted since when its candidates are ready (R314). -/
def State.markedAt (s : State) (st : Nat) : State :=
  { s with regions := modifyAll (fun r => match s.owner r with | some c => c.station == st | none => false) s.markRegion s.regions }

/-- The candidates of a station. -/
def State.candsAt (s : State) (st : Nat) : List Cand := (s.stationRegions st).flatMap s.candsOf

/-- What a decision does once its candidate is chosen. -/
def State.decided (s : State) (cs : List Cand) (p : Cand) : State :=
  let skipped := cs.foldl (fun (t : State) x => if x = p then t else t.modRegion x.region fun r => r.modCand x.index Dispatch.skip) s
  let after := (skipped.dispatch p.region p.index).modRegion p.region fun r =>
    r.modCand p.index fun d => { d with skips := 0, boost := 0, readySince := none }
  after.settleStats p.region

theorem exec_dispatchDecision {s : State} {st : Nat} (arg : s.model.arg = .n1 st) :
    exec .dispatchDecision s = match best Cand.before ((s.markedAt st).candsAt st) with
      | none => .next (s.markedAt st)
      | some p => .next ((s.markedAt st).decided ((s.markedAt st).candsAt st) p) := by
  change execDispatchDecision s = _
  rw [execDispatchDecision, arg]
  rfl

/-! ### Dispatching a block (R96, R314) -/

/-- A region after block `k` has been dispatched: its invocation is the last in the region's order, and one firing fewer is pending. -/
def Region.started (r : Region) (k : Nat) (c : Ctx) : Region :=
  { r with
    blocks := r.blocks.modify k fun b => { b with disp := { b.disp with pending := b.disp.pending - 1 } }
    invs := r.invs ++ [Inv.start r.nextInv (.block k) c r []]
    nextInv := r.nextInv + 1 }

theorem Region.modCand_block {k : Nat} (block : k < 128) (r : Region) (f : Dispatch → Dispatch) :
    r.modCand k f = { r with blocks := r.blocks.modify k fun b => { b with disp := f b.disp } } := if_neg (Nat.ne_of_lt block)

theorem State.dispatch_block {s : State} {r : Region} {c : Ctx} {b : Block} {k : Nat} (region : s.regionOf r.handle = some r)
    (owner : s.owner r = some c) (block : k < 128) (found : r.blocks[k]? = some b) (untiled : b.tiles = []) :
    s.dispatch r.handle k = (s.modRegion r.handle fun x => x.started k c).count 0 := by
  simp only [State.dispatch, region, owner, Nat.ne_of_lt block, if_false, found, untiled, List.filter_nil, List.map_nil, List.foldl_nil,
    Region.modCand_block block]
  rfl

/-- Settles O26: the chosen candidate is the best one, and what a dispatch installs is read off the region after it. -/
theorem dispatchDecisions : Obligations.DispatchDecisions := by
  unfold Obligations.DispatchDecisions
  refine ⟨fun s st p arg => ⟨fun mem first => ?_, fun none_ => ?_⟩, fun s r c b k region owner block found untiled => ?_⟩
  · rw [exec_dispatchDecision arg, show best Cand.before ((s.markedAt st).candsAt st) = some p from best_of_before mem first]
    rfl
  · rw [exec_dispatchDecision arg, show (s.markedAt st).candsAt st = [] from none_]
    rfl
  · refine ⟨_, r.started k c, State.dispatch_block region owner block found untiled, State.regionOf_modRegion (fun _ => rfl) region,
      rfl, rfl, ?_, fun j other => ?_, rfl, rfl⟩
    · simp [Region.started, found]
    · exact List.getElem?_modify_ne _ _ other.symm

end Sys2Proof.Machine
end

section
/-! SUPPORT and PROOFS. Hang monitor, blink check and quiesce of a region (R324 to R327, R407, R408): what a write of the part and an entry for a
mailbox leave alone, the state after each event, then the obligation. -/

namespace Sys2Proof.Machine

open Claims

/-! ### Changing the first element that satisfies a predicate -/

section
variable {α : Type} {p : α → Bool} {f : α → α}

theorem modifyFirst_modifyFirst (same : ∀ a, p (f a) = p a) (g : α → α) (l : List α) :
    modifyFirst p g (modifyFirst p f l) = modifyFirst p (fun a => g (f a)) l := by
  induction l with
  | nil => rfl
  | cons a r ih => cases h : p a <;> simp [modifyFirst, h, same, ih]

theorem map_modifyFirst {β : Type} {g : α → β} (same : ∀ a, g (f a) = g a) (l : List α) : (modifyFirst p f l).map g = l.map g := by
  induction l with
  | nil => rfl
  | cons a r ih => cases h : p a <;> simp [modifyFirst, h, same, ih]

theorem filter_not_modifyFirst (same : ∀ a, p (f a) = p a) (l : List α) :
    (modifyFirst p f l).filter (fun a => !p a) = l.filter fun a => !p a := by
  induction l with
  | nil => rfl
  | cons a r ih => cases h : p a <;> simp [modifyFirst, h, same, ih]

end

/-! ### Writes of the part and entries for mailboxes (R284, R286, R399, R403) -/

/-- `t` is `s` but for what a write of the part or an entry for a mailbox may change: memory, its poison, contexts, what is on its way, records. -/
def State.Delivers (s t : State) : Prop := ∃ (cs : List Ctx) (m : List Host.Cell) (p : List Nat) (b : Bus) (f : FaultTree),
  t = { s with ctxs := cs, mem := m, poison := p, bus := b, tree := f }

namespace State

theorem Delivers.refl (s : State) : s.Delivers s := ⟨_, _, _, _, _, rfl⟩

theorem Delivers.trans {s t u : State} : s.Delivers t → t.Delivers u → s.Delivers u := by
  rintro ⟨_, _, _, _, _, rfl⟩ ⟨cs, m, p, b, f, rfl⟩
  exact ⟨cs, m, p, b, f, rfl⟩

theorem Delivers.keeps {s t : State} : s.Delivers t → t.cpu = s.cpu ∧ t.gangs = s.gangs ∧ t.regions = s.regions := by
  rintro ⟨_, _, _, _, _, rfl⟩
  exact ⟨rfl, rfl, rfl⟩

theorem Delivers.foldl {β : Type} {f : State → β → State} (each : ∀ (s : State) x, s.Delivers (f s x)) (l : List β) (s : State) :
    s.Delivers (l.foldl f s) := by
  induction l generalizing s with
  | nil => exact .refl s
  | cons x l ih => exact (each s x).trans (ih _)

theorem unprotect_delivers (s : State) (cid reason : Nat) : s.Delivers (s.unprotect cid reason) := by
  unfold State.unprotect
  split
  · exact .refl s
  · split
    · exact ⟨_, _, _, _, _, rfl⟩
    · exact .refl s

theorem undoLine_delivers (s : State) (line : Nat) : s.Delivers (s.undoLine line) := by
  unfold State.undoLine
  dsimp only
  split
  · exact .refl s
  · split
    · exact .refl s
    · split
      · exact s.unprotect_delivers _ _
      · split <;> exact ⟨_, _, _, _, _, rfl⟩

theorem putBytes_delivers (s : State) (pa : Nat) (bs : List Byte) : s.Delivers (s.putBytes pa bs) := by
  unfold State.putBytes
  split <;> exact ⟨_, _, _, _, _, rfl⟩

theorem write_delivers (s : State) (src : Option Nat) (pa : Nat) (bs : List Byte) : s.Delivers (s.write src pa bs) := by
  have lines (t : State) : t.Delivers ((granules pa bs.length).foldl (fun s g => s.undoLine g) t) := .foldl undoLine_delivers _ t
  unfold State.write
  refine Delivers.trans ?_ ((lines _).trans (putBytes_delivers _ pa bs))
  split
  · split
    · exact s.unprotect_delivers _ _
    · exact .refl s
  · exact .refl s

theorem writeWhole_delivers (s : State) (src : Option Nat) (pa : Nat) (bs : List Byte) : s.Delivers (s.writeWhole src pa bs) :=
  (s.write_delivers src pa bs).trans (.foldl (fun _ _ => ⟨_, _, _, _, _, rfl⟩) _ _)

theorem writePaged_delivers (src : Option Nat) (frames : List Nat) (n off : Nat) (bs : List Byte) (s : State) :
    s.Delivers (s.writePaged src frames n off bs) := by
  induction n generalizing off bs s with
  | zero => exact .refl s
  | succ n ih =>
    unfold State.writePaged
    split
    · exact .refl s
    · refine Delivers.trans ?_ (ih _ _ _)
      split
      · exact s.write_delivers _ _ _
      · exact s.writeWhole_delivers _ _ _

theorem patchArea_delivers (s : State) (c : Ctx) (off : Nat) (bs : List Byte) : s.Delivers (s.patchArea c off bs) := by
  unfold State.patchArea
  split
  · exact .refl s
  · exact (writePaged_delivers ..).trans (writePaged_delivers ..)

theorem spillTo_delivers {s t : State} {c : Ctx} {e : Spill} (h : s.spillTo c e = some t) : s.Delivers t := by
  unfold State.spillTo at h
  dsimp only at h
  split at h
  · cases h
  · cases h
    have spilled : s.Delivers (s.modCtx c.id fun c => { c with spill := c.spill ++ [e], spilled := true }) := ⟨_, _, _, _, _, rfl⟩
    split <;> split
    · exact spilled.trans (patchArea_delivers ..)
    · exact spilled.trans ((writePaged_delivers ..).trans (patchArea_delivers ..))
    · exact (spilled.trans (patchArea_delivers ..)).trans ⟨_, _, _, _, _, rfl⟩
    · exact (spilled.trans ((writePaged_delivers ..).trans (patchArea_delivers ..))).trans ⟨_, _, _, _, _, rfl⟩

theorem putMail_delivers {s t : State} {c : Ctx} {e : BitVec 128} (h : s.putMail c e = some t) : s.Delivers t := by
  unfold State.putMail at h
  split at h
  · cases h
    exact ⟨_, _, _, _, _, rfl⟩
  · cases h

theorem postMail_delivers {s t : State} {cid : Nat} {e : BitVec 128} (h : s.postMail cid e = some t) : s.Delivers t := by
  unfold State.postMail at h
  split at h
  · cases h
    exact .refl s
  · split at h
    · split at h
      · exact putMail_delivers h
      · cases h
    · exact spillTo_delivers h

theorem mail_delivers (s : State) (cid : Nat) (e : BitVec 128) : s.Delivers (s.mail cid e) := by
  have waits : s.Delivers { s with bus := { s.bus with mails := s.bus.mails ++ [(cid, e)] } } := ⟨_, _, _, _, _, rfl⟩
  unfold State.mail
  dsimp only
  split
  · exact waits
  · cases h : s.postMail cid e with
    | none => exact waits
    | some t => exact postMail_delivers h

/-! ### MSTATs that wait for their answers (R149) -/

/-- Answering MSTATs touches neither the loaded registers nor the gangs. -/
theorem answerStats_keeps (n h : Nat) (s : State) : (answerStats n h s).cpu = s.cpu ∧ (answerStats n h s).gangs = s.gangs := by
  induction n generalizing s with
  | zero => exact ⟨rfl, rfl⟩
  | succ n ih =>
    rw [State.answerStats]
    split
    · exact ⟨rfl, rfl⟩
    next r _ =>
      split
      next who tag rest _ =>
        split
        · exact ⟨rfl, rfl⟩
        · obtain ⟨cpu, gangs, -⟩ := ((s.modRegion h fun r => { r with cmds := rest }).mail_delivers who.1 (statEntry r tag)).keeps
          obtain ⟨cpu', gangs'⟩ := ih ((s.modRegion h fun r => { r with cmds := rest }).mail who.1 (statEntry r tag))
          exact ⟨cpu'.trans cpu, gangs'.trans gangs⟩
      · exact ⟨rfl, rfl⟩

theorem settleStats_keeps (s : State) (h : Nat) : (s.settleStats h).cpu = s.cpu ∧ (s.settleStats h).gangs = s.gangs := by
  unfold State.settleStats
  split
  · exact ⟨rfl, rfl⟩
  · exact answerStats_keeps ..

theorem foldl_settleStats_keeps (rs : List Region) (s : State) :
    (rs.foldl (fun s r => s.settleStats r.handle) s).cpu = s.cpu ∧ (rs.foldl (fun s r => s.settleStats r.handle) s).gangs = s.gangs := by
  induction rs generalizing s with
  | nil => exact ⟨rfl, rfl⟩
  | cons r rs ih =>
    obtain ⟨cpu, gangs⟩ := s.settleStats_keeps r.handle
    obtain ⟨cpu', gangs'⟩ := ih (s.settleStats r.handle)
    exact ⟨cpu'.trans cpu, gangs'.trans gangs⟩

/-- Where no MSTAT is queued, none is answered. -/
theorem settleStats_none {s : State} (none_ : ∀ r ∈ s.regions, ∀ w t, CmdEntry.stat w t ∉ r.cmds) (h : Nat) : s.settleStats h = s := by
  unfold State.settleStats
  split
  · rfl
  next r region =>
    cases hl : r.cmds.length with
    | zero => rfl
    | succ n =>
      rw [State.answerStats, region]
      dsimp only
      split
      next who tag rest head => exact absurd (head ▸ List.mem_cons_self) (none_ r (List.mem_of_find?_eq_some region) who tag)
      · rfl

end State

/-! ### The hang monitor (R326, R327) -/

theorem State.post_regions (s : State) (cls : Cls) (kind source : Nat) (ctx : Option Ctx) (detail : BitVec 352) :
    (s.post cls kind source ctx detail).regions = s.regions := rfl

/-- The monitor freezes its region. -/
theorem State.regionOf_hang {s : State} {r : Region} (c : Ctx) (region : s.regionOf r.handle = some r) :
    (s.hang r c).regionOf r.handle = some { r with freeze := .hung } := by
  have kept : (s.hang r c).regions = (s.modRegion r.handle fun r => { r with freeze := .hung }).regions := by
    unfold State.hang
    dsimp only
    rw [State.post_regions]
    split
    · rfl
    · rw [(State.write_delivers ..).keeps.2.2]
  rw [State.regionOf, kept]
  exact State.regionOf_modRegion (fun _ => rfl) region

theorem exec_hangDetect {s : State} {r : Region} {c : Ctx} (arg : s.model.arg = .n1 r.handle) (region : s.regionOf r.handle = some r)
    (owner : s.owner r = some c) (running : r.freeze = .running) :
    exec .hangDetect s = if c.hangiv = 0 ∨ r.idle < 1024 * c.hangiv.toNat then .next s else .next (s.hang r c) := by
  change execHangDetect s = _
  simp only [execHangDetect, arg, region, owner, running, ne_eq, not_true_eq_false, false_or]

/-! ### The blink check (R407, R408) -/

/-- An invocation put back as it was dispatched, with one mismatch more. -/
def Inv.mismatched (i : Inv) : Inv := { i.fresh with mismatches := i.mismatches + 1 }

/-- A region in which the invocations that `id` names have been put back. -/
def Region.mismatched (r : Region) (id : Nat) : Region := { r with invs := modifyFirst (fun i => i.id == id) Inv.mismatched r.invs }

theorem Region.inv_mismatched {r : Region} {i : Inv} (found : r.inv i.id = some i) : (r.mismatched i.id).inv i.id = some i.mismatched :=
  find?_modifyFirst_some (fun _ => rfl) found

theorem Region.ids_mismatched (r : Region) (id : Nat) : (r.mismatched id).invs.map (·.id) = r.invs.map (·.id) :=
  map_modifyFirst (f := Inv.mismatched) (fun _ => rfl) r.invs

namespace State

/-- Undoing an invocation gives back its places in queues and its halves of streams. -/
theorem undoInv_eq (s : State) (r : Region) (i : Inv) : ∃ qs ss, s.undoInv r i = { s with queues := qs, streams := ss } := by
  have items (hs : List HeldItem) (t : State) : ∃ qs, hs.foldl (fun s h =>
      match (s.ctxOf r.ctx).bind fun c => lookup c.bindings h.handle with
      | some b => s.freeWindow b.queue r.ctx
      | none => s) t = { t with queues := qs } := by
    induction hs generalizing t with
    | nil => exact ⟨_, rfl⟩
    | cons h hs ih =>
      rw [List.foldl_cons]
      split
      · obtain ⟨qs, eq⟩ := ih (t.freeWindow _ r.ctx)
        exact ⟨qs, eq⟩
      · exact ih t
  obtain ⟨qs, eq⟩ := items i.items (s.unreserve (r.handle, i.id))
  exact ⟨qs, _, congrArg (fun t : State => t.modHalves r.handle _) eq⟩

/-- Only the health of the part tells what marking an element suspect leaves. -/
theorem suspect_eq {s t : State} (same : t.health = s.health) (r : Region) (q e : Nat) :
    t.suspect r q e = { t with health := (s.suspect r q e).health } := by
  unfold State.suspect
  dsimp only
  rw [same]
  split
  · rw [← same]
  · rfl

theorem mem_suspect (s : State) (r : Region) (q e : Nat) :
    (gridNumber r.die (r.gridOf q).1 (r.gridOf q).2, e) ∈ (s.suspect r q e).health.suspects := by
  unfold State.suspect
  dsimp only
  split
  next known => exact List.contains_iff_mem.1 known
  · exact List.mem_append_right _ List.mem_cons_self

/-- Where a region fits does not depend on more than the health of the part, its service stations and the regions that stand. -/
theorem findRect_congr {s t : State} (health : t.health = s.health) (boot : t.boot = s.boot) (rs : List Region) (die w h : Nat) :
    t.findRect rs die w h = s.findRect rs die w h := by
  simp only [State.findRect, State.rectFree, State.pageFree, State.isServiceStation, State.fencedStation, health, boot]

/-- The invocation of a mismatch is put back, and both are counted. -/
def putBack (s : State) (r : Region) (i : Inv) : State :=
  ((s.rerunInv r i).count 3).modInv r.handle i.id fun i => { i with mismatches := i.mismatches + 1 }

theorem putBack_eq (s : State) (r : Region) (i : Inv) : ∃ qs ss ns, s.putBack r i =
    { s with queues := qs, streams := ss, stats := ns
             regions := modifyFirst (fun x => x.handle == r.handle) (fun x => x.mismatched i.id) s.regions } := by
  have invs (x : Region) : modifyFirst (fun y => y.id == i.id) (fun y => { y with mismatches := y.mismatches + 1 })
      (modifyFirst (fun y => y.id == i.id) Inv.fresh x.invs) = (x.mismatched i.id).invs :=
    modifyFirst_modifyFirst (f := Inv.fresh) (fun _ => rfl) _ _
  obtain ⟨qs, ss, undone⟩ := s.undoInv_eq r i
  unfold State.putBack State.rerunInv
  simp only [undone, State.modInv, State.modRegion, State.count, modifyFirst_modifyFirst, implies_true, invs]
  exact ⟨_, _, _, rfl⟩

/-- The state once a mismatch has been noted: the invocation is put back, the element is suspect, and the record is posted. -/
def noted (s : State) (r : Region) (c : Ctx) (i : Inv) (q e j : Nat) : State :=
  let x := r.elementAt q e
  let t := (s.putBack r i).suspect r q e
  t.post clBlinkMismatch 1 (t.regionId r).toNat (some c)
    (detailOf [(x.1, 0), (x.2.2.1, 8), (x.2.2.2, 12), (r.handle, 128), (j, 96), (boolNat (decide (0 < i.mismatches)), 144)])

/-- What is noted, but for queues, streams and counts. -/
theorem noted_eq (s : State) (r : Region) (i : Inv) (c : Ctx) (q e j : Nat) : ∃ qs ss ns f v, s.noted r c i q e j =
    { s with queues := qs, streams := ss, stats := ns, tree := f, health := (s.suspect r q e).health
             regions := modifyFirst (fun x => x.handle == r.handle) (fun x => x.mismatched i.id) s.regions } ∧
    f.recs = s.tree.recs ++ [v] ∧ v.cls = clBlinkMismatch := by
  obtain ⟨qs, ss, ns, put⟩ := s.putBack_eq r i
  have health : (s.putBack r i).health = s.health := by rw [put]
  have suspect := suspect_eq health r q e
  rw [put] at suspect
  unfold State.noted
  rw [put, suspect]
  exact ⟨_, _, _, _, _, rfl, rfl, rfl⟩

section
variable {s : State} {r : Region} {i : Inv} (c : Ctx) (q e j : Nat)

/-- A second mismatch of an invocation freezes its region. -/
theorem mismatch_again (again : 0 < i.mismatches) :
    s.mismatch r c i q e j = (s.noted r c i q e j).modRegion r.handle fun r => { r with freeze := .frozen, unmovable := true } :=
  if_pos (decide_eq_true again)

/-- After a first one, the region moves to where it fits. -/
theorem mismatch_first (first : i.mismatches = 0) :
    s.mismatch r c i q e j =
      match (s.noted r c i q e j).findRect ((s.noted r c i q e j).regions.filter fun y => y.handle != r.handle) r.die r.w r.h with
      | some o => (s.noted r c i q e j).modRegion r.handle fun x => (s.noted r c i q e j).movedTo x o
      | none => s.noted r c i q e j := by
  have once : ¬ decide (0 < i.mismatches) = true := by simp [first]
  exact if_neg once

end

end State

section
variable {s : State} {r : Region} {i : Inv} {c : Ctx} {q e j : Nat}

/-- A mismatch changes no more than the region after it has been noted. -/
theorem State.mismatch_eq (s : State) (r : Region) (c : Ctx) (i : Inv) (q e j : Nat) :
    ∃ rs, s.mismatch r c i q e j = { s.noted r c i q e j with regions := rs } := by
  by_cases first : i.mismatches = 0
  · rw [State.mismatch_first c q e j first]
    split <;> exact ⟨_, rfl⟩
  · exact ⟨_, State.mismatch_again c q e j (Nat.pos_of_ne_zero first)⟩

/-- The region stands with its invocation put back. -/
theorem State.regionOf_noted (region : s.regionOf r.handle = some r) : (s.noted r c i q e j).regionOf r.handle = some (r.mismatched i.id) := by
  obtain ⟨qs, ss, ns, f, v, eq, -, -⟩ := s.noted_eq r i c q e j
  rw [eq]
  exact find?_modifyFirst_some (f := fun x => x.mismatched i.id) (fun _ => rfl) region

/-- The region moves where it fits on what the mismatch has left. -/
theorem State.findRect_noted (s : State) (r : Region) (i : Inv) (c : Ctx) (q e j : Nat) :
    (s.noted r c i q e j).findRect ((s.noted r c i q e j).regions.filter fun y => y.handle != r.handle) r.die r.w r.h =
      (s.suspect r q e).findRect (s.regions.filter fun y => y.handle != r.handle) r.die r.w r.h := by
  obtain ⟨qs, ss, ns, f, v, eq, -, -⟩ := s.noted_eq r i c q e j
  have others : (s.noted r c i q e j).regions.filter (fun y => y.handle != r.handle) = s.regions.filter fun y => y.handle != r.handle := by
    rw [eq]
    exact filter_not_modifyFirst (p := fun x => x.handle == r.handle) (f := fun x => x.mismatched i.id) (fun _ => rfl) s.regions
  rw [others, eq, State.suspect_eq (s := s) rfl]
  exact State.findRect_congr rfl rfl _ _ _ _

/-- A region that runs and is moved goes on, or waits for what it had issued (R218, R311). -/
theorem State.movedTo_running (running : r.freeze = .running) (o : Nat × Nat) :
    ∃ z, (z = .running ∨ z = .moving) ∧ s.movedTo r o = { r.moveTo o with freeze := z } := by
  unfold State.movedTo
  split
  · exact ⟨.moving, .inr rfl, rfl⟩
  · exact ⟨.running, .inl rfl, by rw [← running]; rfl⟩

theorem State.movedTo_handle (x : Region) (o : Nat × Nat) : (s.movedTo x o).handle = x.handle := by
  unfold State.movedTo
  split <;> rfl

theorem Region.inv_moveTo (r : Region) (o : Nat × Nat) (id : Nat) : (r.moveTo o).inv id = (r.inv id).map fun i => { i with pageWaits := [] } :=
  List.find?_map

theorem Region.ids_moveTo (r : Region) (o : Nat × Nat) : (r.moveTo o).invs.map (·.id) = r.invs.map (·.id) := by
  rw [Region.moveTo, List.map_map]
  rfl

/-- What a mismatch leaves at the region: frame registers and places of invocations as before, and the invocation as it was dispatched. -/
def PutBack (r : Region) (i : Inv) (x : Region) : Prop :=
  x.frames = r.frames ∧ x.invs.map (·.id) = r.invs.map (·.id) ∧ x.inv i.id = some i.mismatched

theorem putBack_mismatched (found : r.inv i.id = some i) : PutBack r i (r.mismatched i.id) :=
  ⟨rfl, r.ids_mismatched i.id, Region.inv_mismatched found⟩

theorem PutBack.moveTo {x : Region} (h : PutBack r i x) (o : Nat × Nat) : PutBack r i (x.moveTo o) := by
  obtain ⟨frames, ids, inv⟩ := h
  refine ⟨frames, (x.ids_moveTo o).trans ids, ?_⟩
  rw [Region.inv_moveTo, inv]
  rfl

/-- The region after a second mismatch of the invocation stands frozen in its place. -/
theorem State.regionOf_mismatch_again (region : s.regionOf r.handle = some r) (again : 0 < i.mismatches) :
    (s.mismatch r c i q e j).regionOf r.handle = some { r.mismatched i.id with freeze := .frozen, unmovable := true } := by
  rw [State.mismatch_again c q e j again]
  exact State.regionOf_modRegion (fun _ => rfl) (State.regionOf_noted region)

/-- The region after a first mismatch has moved where it fits off the suspect elements, or runs on in place. -/
theorem State.regionOf_mismatch_first (region : s.regionOf r.handle = some r) (running : r.freeze = .running) (found : r.inv i.id = some i)
    (first : i.mismatches = 0) :
    ∃ x, (s.mismatch r c i q e j).regionOf r.handle = some x ∧ PutBack r i x ∧ (x.freeze = .running ∨ x.freeze = .moving) ∧
      x.orig = ((s.suspect r q e).findRect (s.regions.filter fun y => y.handle != r.handle) r.die r.w r.h).getD r.orig := by
  have noted : (s.noted r c i q e j).regionOf r.handle = some (r.mismatched i.id) := State.regionOf_noted region
  have put := putBack_mismatched found
  rw [State.mismatch_first c q e j first, State.findRect_noted]
  cases (s.suspect r q e).findRect (s.regions.filter fun y => y.handle != r.handle) r.die r.w r.h with
  | none => exact ⟨_, noted, put, .inl running, rfl⟩
  | some o =>
    obtain ⟨z, runs, moved⟩ := State.movedTo_running (s := s.noted r c i q e j) (r := r.mismatched i.id) running o
    have region' := State.regionOf_modRegion (fun x => State.movedTo_handle (s := s.noted r c i q e j) x o) noted
    rw [moved] at region'
    exact ⟨_, region', put.moveTo o, runs, rfl⟩

/-- A shadowed result of element `e` of logical page `q` whose verdict has not come too late (R407). -/
def State.awaits (s : State) (r : Region) (q e : Nat) (x : Nat × Nat × Nat) : Bool :=
  x.1 == (elemXY r.w q e).1 && x.2.1 == (elemXY r.w q e).2 && decide (s.cycle.toNat ≤ x.2.2)

theorem exec_blinkVerdict {ok : Bool} (arg : s.model.arg = .blink r.handle i.id q e j ok) (region : s.regionOf r.handle = some r)
    (owner : s.owner r = some c) (running : r.freeze = .running) (found : r.inv i.id = some i) (page : q < r.w * r.h) (element : e < 16) :
    exec .blinkVerdict s = if i.shadowed.any (s.awaits r q e) = false then .next s
      else if ok = true then .next (s.modInv r.handle i.id fun i => { i with shadowed := i.shadowed.eraseP (s.awaits r q e) })
      else .next (s.mismatch r c i q e j) := by
  have placed : r.placed = true := by rw [Region.placed, running]
  change execBlinkVerdict s = _
  simp only [execBlinkVerdict, arg, region, owner, found, placed, Bool.not_true, Bool.false_eq_true, Nat.not_le.2 page, Nat.not_le.2 element,
    false_or, Bool.not_eq_true']
  rfl

end

/-- What the hang monitor and the blink check leave of a region that runs. -/
theorem regionMonitors : RegionMonitors := by
  intro s r c region owner running
  refine ⟨fun arg => ⟨fun on idle => ?_, fun off => ?_⟩, ?_⟩
  · have fires : ¬ (c.hangiv = 0 ∨ r.idle < 1024 * c.hangiv.toNat) := not_or.2 ⟨on, Nat.not_lt.2 idle⟩
    exact ⟨(exec_hangDetect arg region owner running).trans (if_neg fires), _, State.regionOf_hang c region, rfl⟩
  · exact (exec_hangDetect arg region owner running).trans (if_pos off)
  intro i q e j found page element xy mine
  have awaited (shadowed : i.shadowed.any mine = true) : ¬ i.shadowed.any (s.awaits r q e) = false := Bool.not_eq_false _ |>.mpr shadowed
  refine ⟨fun unshadowed ok arg => ?_, fun shadowed arg => ?_, ?_⟩
  · exact (exec_blinkVerdict arg region owner running found page element).trans (if_pos unshadowed)
  · exact (exec_blinkVerdict arg region owner running found page element).trans ((if_neg (awaited shadowed)).trans (if_pos rfl))
  · intro shadowed arg t at_
    have event : exec .blinkVerdict s = .next t :=
      (exec_blinkVerdict arg region owner running found page element).trans ((if_neg (awaited shadowed)).trans (if_neg (by decide)))
    obtain ⟨rs, changed⟩ := s.mismatch_eq r c i q e j
    obtain ⟨qs, ss, ns, f, v, noted, recs, cls⟩ := s.noted_eq r i c q e j
    rw [noted] at changed
    have suspect : (gridNumber r.die at_.1 at_.2, e) ∈ t.health.suspects := by
      rw [show t.health = (s.suspect r q e).health from (congrArg State.health changed :)]
      exact s.mem_suspect r q e
    refine ⟨event, (congrArg State.mem changed :), suspect, ⟨v, (congrArg (fun t : State => t.tree.recs) changed :).trans recs, cls⟩, ?_⟩
    by_cases first : i.mismatches = 0
    · obtain ⟨x, region', ⟨frames, ids, inv⟩, runs, place⟩ :=
        State.regionOf_mismatch_first (c := c) (q := q) (e := e) (j := j) region running found first
      exact ⟨x, region', frames, ids, inv, fun again => absurd first (Nat.ne_of_gt again), fun _ => ⟨runs, place⟩⟩
    · obtain ⟨frames, ids, inv⟩ := putBack_mismatched found
      exact ⟨_, State.regionOf_mismatch_again region (Nat.pos_of_ne_zero first), frames, ids, inv, fun _ => ⟨rfl, rfl, rfl⟩,
        fun once => absurd once first⟩

/-! ### Quiesce (R324, R325) -/

/-- A queue that a QOUT node of the region names through its handle. -/
def State.writtenBy (s : State) (c : Ctx) (r : Region) (q : Queue) : Bool :=
  r.blocks.any fun b => b.nodes.any fun x => x.2.1 == 0x65 && (s.nodeQueue c x.2.2.queue).any fun p => p.2.id == q.id

/-- The handles that the region's QOUT nodes name. -/
def Region.outHandles (r : Region) : List Nat :=
  (r.blocks.flatMap fun b => (b.nodes.filter fun x => x.2.1 == 0x65).map fun x => x.2.2.queue).eraseDups

theorem contains_outQueues (s : State) (c : Ctx) (r : Region) (q : Queue) :
    (r.outHandles.filterMap fun k => (s.nodeQueue c k).map (·.2.id)).contains q.id = s.writtenBy c r q := by
  rw [Bool.eq_iff_iff]
  simp only [Region.outHandles, State.writtenBy, List.contains_iff_mem, List.mem_filterMap, List.mem_eraseDups, List.mem_flatMap, List.mem_map,
    List.mem_filter, List.any_eq_true, Bool.and_eq_true, Option.map_eq_some_iff, Option.any_eq_true, beq_iff_eq]
  constructor
  · rintro ⟨_, ⟨b, hb, x, ⟨hx, op⟩, rfl⟩, p, queue, id⟩
    exact ⟨b, hb, x, hx, op, p, queue, id⟩
  · rintro ⟨b, hb, x, hx, op, p, queue, id⟩
    exact ⟨_, ⟨b, hb, x, ⟨hx, op⟩, rfl⟩, p, queue, id⟩

theorem State.gangOf_modGang {s : State} {k : Nat} {g : Gang} {f : Gang → Gang} (same : ∀ x, (f x).id = x.id) (gang : s.gangOf k = some g) :
    (s.modGang k f).gangOf k = some (f g) :=
  find?_modifyFirst_some (fun x => by rw [same]) gang

/-- A quiescing gang whose regions have all stopped is at rest. -/
theorem State.gangOf_settleQuiesce {s : State} {k : Nat} {g : Gang} (gang : s.gangOf k = some g) (stopped : (s.gangRegions k).all (·.stopped) = true)
    (quiescing : g.qstate = 1) : (s.settleQuiesce k).gangOf k = some { g with qstate := 2 } := by
  rw [State.settleQuiesce, if_pos stopped, State.gangOf_modGang (fun x => by split <;> rfl) gang, if_pos quiescing]

theorem exec_regionQuiesceStop {s : State} {r : Region} {c : Ctx} {g : Gang} (arg : s.model.arg = .n1 r.handle)
    (region : s.regionOf r.handle = some r) (owner : s.owner r = some c) (gang : s.gangOf c.gang = some g) (going : r.stopped = false)
    (runs : s.regionRuns r = true) (ended : r.invs = []) (marked : s.inputsMarked r = true) :
    exec .regionQuiesceStop s =
      .next (((s.placeMarkers g.qnumber fun q x => s.writtenBy c r q && s.homeInGang c.gang x.at_).modRegion r.handle fun r =>
        { r with stopped := true }).settleQuiesce c.gang) := by
  change execRegionQuiesceStop s = _
  simp only [← contains_outQueues, execRegionQuiesceStop, arg, region, owner, gang, going, runs, ended, marked, List.isEmpty_nil, Bool.not_true,
    Bool.false_eq_true, or_self, if_false, Option.map_some, Option.getD_some]
  rfl

theorem exec_quiesceResume {s : State} {g : Gang} (arg : s.model.arg = .n1 g.id) (gang : s.gangOf g.id = some g) (rests : g.qstate = 2) :
    exec .quiesceResume s = .next (s.resumeGang g) := by
  change execQuiesceResume s = _
  simp only [execQuiesceResume, arg, gang, rests, if_true]

/-- A gang as it resumes, before MSTATs that come to the head of their queues are answered. -/
def State.cleared (s : State) (g : Gang) : State :=
  let clear := fun (h : QHome) =>
    if s.homeInGang g.id h.at_ then { h with entries := h.entries.filter fun e => e != .marker g.qnumber } else h
  let thaw := fun (r : Region) =>
    if s.inGang g.id r then { r with stopped := false, cmds := r.cmds.filter fun e => e != .marker g.qnumber } else r
  { s with
    queues := s.queues.map fun (q : Queue) => { q with homes := q.homes.map clear }
    regions := s.regions.map thaw
    gangs := (s.modGang g.id fun g => { g with qstate := 0 }).gangs }

theorem State.resumeGang_eq (s : State) (g : Gang) :
    s.resumeGang g = ((s.cleared g).gangRegions g.id).foldl (fun s r => s.settleStats r.handle) (s.cleared g) := rfl

/-- A fold whose every step leaves its start as it is. -/
theorem foldl_unchanged {α β : Type} {f : β → α → β} {b : β} (step : ∀ a, f b a = b) (l : List α) : l.foldl f b = b := by
  induction l with
  | nil => rfl
  | cons a l ih => rw [List.foldl_cons, step, ih]

/-- Where no MSTAT is queued, no entry is written. -/
theorem State.resumeGang_unasked {s : State} {g : Gang} (unasked : ∀ r ∈ s.regions, ∀ w t, CmdEntry.stat w t ∉ r.cmds) :
    s.resumeGang g = s.cleared g := by
  have thawed : ∀ r ∈ (s.cleared g).regions, ∀ w t, CmdEntry.stat w t ∉ r.cmds := by
    intro r hr w t asked
    obtain ⟨x, hx, rfl⟩ := List.mem_map.1 hr
    split at asked
    · exact unasked x hx w t (List.mem_filter.1 asked).1
    · exact unasked x hx w t asked
  rw [State.resumeGang_eq]
  exact foldl_unchanged (fun r => State.settleStats_none thawed r.handle) _

theorem State.resumeGang_keeps (s : State) (g : Gang) :
    (s.resumeGang g).cpu = s.cpu ∧ (s.resumeGang g).gangs = (s.modGang g.id fun g => { g with qstate := 0 }).gangs :=
  State.foldl_settleStats_keeps _ _

/-- A region stops and its gang comes to rest, and a resting gang is resumed (R324, R325). -/
theorem quiesceEvents : QuiesceEvents := by
  constructor
  · intro s r c g arg region owner gang going runs ended inputs written marked
    refine ⟨_, exec_regionQuiesceStop arg region owner gang going runs ended inputs, ?_, fun stopped quiescing =>
      State.gangOf_settleQuiesce (g := g) gang stopped quiescing⟩
    have home (q : Queue) : modifyAll (fun x => s.writtenBy c r q && s.homeInGang c.gang x.at_)
        (fun h => { h with entries := h.entries ++ [.marker g.qnumber] }) q.homes = q.homes.map (marked q) := by
      simp only [modifyAll, Bool.and_eq_true]
      rfl
    simp only [State.placeMarkers, State.modRegion, home]
  · intro s g arg gang rests
    obtain ⟨cpu, gangs⟩ := s.resumeGang_keeps g
    refine ⟨exec_quiesceResume arg gang rests, cpu, ?_, ?_⟩
    · rw [State.gangOf, gangs]
      exact State.gangOf_modGang (fun _ => rfl) gang
    · intro unasked clean
      rw [State.resumeGang_unasked unasked]
      exact ⟨rfl, rfl, rfl⟩

/-- Settles O58: the monitors of a region and the quiesce of its gang, each by the state after its event; the
place of a region that moves is the first that fits (log 61). -/
theorem regionEvents : Obligations.RegionEvents := ⟨regionMonitors, quiesceEvents⟩

end Sys2Proof.Machine
end

section
/-! SUPPORT and PROOFS. Traps (R67, R167, R236, R386 to R389): an instruction whose check fails, a trap that is due, an access that fails its
address check, and the return. -/

namespace Sys2Proof.Machine

open Claims

section
variable {s : State}

/-! ### The checks of an instruction (R67, R386) -/

theorem State.resultsOut_false (idle : s.resultsOut = false) : s.pendingSfu s.who = [] ∧ s.cpu.pend = [] := by
  simpa [State.resultsOut, State.sfuBusy] using idle

/-- With no result outstanding, the first check that fails gives the trap, whose value is the instruction's word. -/
theorem takesTrap_of_check {i : Instr} {f : Form} {body : State → State} {cls : Cls} (e : exec i s = issue i f s body)
    (idle : s.resultsOut = false) (fails : f.check s = some cls) (program : 0x20 ≤ cls.toNat) :
    ∃ t, exec i s = .next t ∧ TakesTrap s t cls s.cpu.pc i.wordVal := by
  obtain ⟨sfu, loads⟩ := State.resultsOut_false idle
  refine ⟨s.trap cls i.wordVal, ?_, takesTrap_takeTrap idle program s.cpu.pc i.wordVal⟩
  simp [e, issue, Form.sfuWait, Form.loadWait, sfu, loads, fails]

theorem check_gate {f : Form} (closed : f.gate.open_ s = false) : f.check s = some clIllegalEncoding := by
  simp [Form.check, closed]

theorem check_service {f : Form} (opened : f.gate.open_ s = true) (needs : f.service = true) (user : s.service = false) :
    f.check s = some clPermission := by
  simp [Form.check, opened, needs, user]

theorem check_plain {regs : List Reg} (out : ∃ r ∈ regs, ¬ r.toNat < s.regCount) : (Form.plain regs).check s = some clIllegalOperand := by
  simpa [Form.check, Form.plain, Gate.open_, State.regOk] using out

theorem checksTrap : ChecksTrap := by
  intro s d a b idle
  refine ⟨fun out => ?_, fun thread o => ?_, fun hart => ?_, fun user => ?_⟩
  · have some_ : ∃ r ∈ [d, a, b], ¬ r.toNat < s.regCount := by
      by_contra inside
      push Not at inside
      exact out ⟨inside d (by simp), inside a (by simp), inside b (by simp)⟩
    exact takesTrap_of_check (f := .plain [d, a, b]) (by change execAdd d a b s = _; rw [execAdd, opRRR]) idle (check_plain some_) (by decide)
  · exact takesTrap_of_check (f := ⟨.engine, false, [a], []⟩) (by change execLld d a o s = _; rw [execLld]) idle (check_gate thread) (by decide)
  · have closed : Gate.sched.open_ s = false := by rw [Gate.open_, hart]; rfl
    exact takesTrap_of_check (f := ⟨.sched, false, [d, a, b], []⟩) (by change execRarm d a b s = _; rw [execRarm]) idle (check_gate closed) (by decide)
  · exact takesTrap_of_check (f := ⟨.all, true, [a], [d]⟩) (by change execRdstate d a s = _; rw [execRdstate]) idle (check_service rfl rfl user) (by decide)

/-! ### TRAP and JALR (R173, R389) -/

theorem exec_trap {a : Reg} (ready : Ready (.plain [a]) s) : exec (.trap a) s = .next (s.takeTrap clUserTrap (s.cpu.pc + 4) (s.reg a)) := by
  change execTrap a s = _
  rw [execTrap, issue_ready ready]

theorem exec_jalr_odd {d a : Reg} {imm : BitVec 13} (ready : Ready (.plain [d, a]) s)
    (odd : (s.reg a + 2 * imm.signExtend 64).getLsbD 0 = true) :
    exec (.jalr d a imm) s = .next (s.trap clAlignment (s.reg a + 2 * imm.signExtend 64)) := by
  rw [← shiftLeft_one_eq] at odd ⊢
  change execJalr d a imm s = _
  rw [execJalr, issue_ready ready]
  exact congrArg _ (if_pos odd)

theorem trapsTaken : TrapsTaken := fun _ idle =>
  ⟨fun _ ready => ⟨_, exec_trap ready, takesTrap_takeTrap idle (by decide) _ _⟩,
    fun _ _ _ ready odd => ⟨_, exec_jalr_odd ready odd, takesTrap_takeTrap idle (by decide) _ _⟩⟩

/-! ### A trap that waits (R167) -/

/-- A thread in its slot: one that it owns ends its YIELD. -/
theorem State.inSlot_slotTaken (s : State) : s.slotTaken.inSlot = { s with
    cpu := { s.cpu with yielded := s.cpu.yielded && !s.model.owned }
    model := { s.model with run := none } } := by
  unfold State.inSlot State.slotTaken State.withCpu
  cases s.model.owned <;> simp

theorem trapsWait : TrapsWait := by
  intro s
  refine ⟨fun a ready out due => ⟨_, exec_trap ready, ?_⟩, fun x slot due idle granule program => ?_⟩
  · rw [State.takeTrap_keeps out, Thr.dueTrap, due]
    exact ⟨rfl, rfl, rfl, rfl, rfl⟩
  · obtain ⟨-, out⟩ := State.inSlot_idle s.slotTaken
    have idle' : s.slotTaken.inSlot.resultsOut = false := out.trans idle
    have trap := takesTrap_takeTrap idle' program x.pc x.val
    have run : runThread s.slotTaken.inSlot = .next (s.slotTaken.inSlot.takeTrap x.cls x.pc x.val) := by
      rw [runThread, (State.inSlot_cpu s.slotTaken).1.trans due, State.takeTrap_now idle']
      simp only [State.takeDue, idle', granule, Bool.false_eq_true, if_false]
    have ready := State.passSlot_ready s.cpu.yielded (congrArg notReady (takesTrap_wait trap))
    exact ⟨_, (step_runs_slot slot).trans ((runSlot_next run).trans (congrArg _ ready)), s.inSlot_slotTaken ▸ trap⟩

/-! ### The return (R389) -/

theorem exec_tret (ready : Ready (.plain []) s) (answered : s.cpu.pend = []) :
    exec .tret s = .next (s.returnTrap.getD (s.illegal .tret)) := by
  change execTret s = _
  rw [execTret, issue_ready ready, answered]
  cases s.returnTrap <;> rfl

theorem trapReturn : TrapReturn := by
  intro s ready answered
  rw [exec_tret ready answered]
  refine ⟨fun inside => ?_, fun outside sfu => ?_⟩
  · rw [State.returnTrap, if_pos inside]
    rfl
  · have idle : s.resultsOut = false := by simp [State.resultsOut, sfu, answered]
    rw [State.returnTrap, if_neg (Bool.eq_false_iff.1 outside)]
    exact ⟨_, rfl, takesTrap_takeTrap idle (by decide) s.cpu.pc _⟩

/-! ### Accesses that fail the address check (R27, R236) -/

/-- A form whose checks pass passes them with fewer registers. -/
theorem ready_subset {regs regs' : List Reg} (ready : Ready (.plain regs) s) (fewer : regs' ⊆ regs) : Ready (.plain regs') s where
  gate := rfl
  service := nofun
  regs r h := ready.regs r (fewer h)
  pairs := nofun
  results q h := ⟨fun m => (ready.results q h).1 (fewer m), nofun⟩
  loads p h := ⟨(ready.loads p h).1, fun q m => ⟨fun k => ((ready.loads p h).2 q m).1 (fewer k), nofun⟩⟩

theorem wbits_high (ea : Word) : wbits ea 63 56 = 0 ↔ ea.extractLsb' 56 8 = 0 := by
  rw [← BitVec.toNat_inj, BitVec.extractLsb'_toNat]
  rfl

section
variable {ea : Word} {n : Nat} {need : Need} {at_ : Bool}

theorem State.checkAccess_high (high : ea.extractLsb' 56 8 ≠ 0) : s.checkAccess ea n need at_ = (s, .trap clPermission) := by
  rw [State.checkAccess, if_pos (mt (wbits_high ea).1 high)]

theorem State.checkAccess_misaligned (low : ea.extractLsb' 56 8 = 0) (odd : ea.toNat % n ≠ 0) :
    s.checkAccess ea n need at_ = (s, .trap clAlignment) := by
  rw [State.checkAccess, if_neg (not_not.2 ((wbits_high ea).2 low)), if_pos odd]

end

theorem accessTraps : AccessTraps := by
  intro s d a b o idle ready
  have two : Ready (.plain [d, a]) s := ready_subset ready (by simp)
  have load {cls : Cls} (program : 0x20 ≤ cls.toNat) (fails : s.checkAccess (s.ea a o 8) 8 .r false = (s, .trap cls)) :
      ∃ t, exec (.ld d a .d64 o) s = .next t ∧ TakesTrap s t cls s.cpu.pc (s.ea a o 8) :=
    ⟨_, (exec_ld (w := .d64) two).trans (congrArg _ (State.access_trap fails)), takesTrap_takeTrap idle program _ _⟩
  have store {cls : Cls} (program : 0x20 ≤ cls.toNat) (fails : s.checkAccess (s.ea a o 8) 8 .w false = (s, .trap cls)) :
      ∃ t, exec (.st d a .b64 o) s = .next t ∧ TakesTrap s t cls s.cpu.pc (s.ea a o 8) :=
    ⟨_, (exec_st (w := .b64) two).trans (congrArg _ (State.access_trap fails)), takesTrap_takeTrap idle program _ _⟩
  refine ⟨⟨fun high => ⟨load (by decide) (State.checkAccess_high high), store (by decide) (State.checkAccess_high high)⟩,
    fun low odd => ⟨load (by decide) (State.checkAccess_misaligned low odd), store (by decide) (State.checkAccess_misaligned low odd)⟩⟩,
    fun low odd t' => ?_⟩
  · refine ⟨_, ?_, takesTrap_takeTrap idle (by decide) _ _⟩
    change execAadd .s32 t' d a b s = _
    rw [execAadd, opAtomic, issue_ready ready]
    exact congrArg _ (State.access_trap (State.checkAccess_misaligned low odd))

end

/-- Settles O41: a failed check, address check or due trap ends in the trap of its class, and TRET undoes the entry. -/
theorem trapsAndReturns : Obligations.TrapsAndReturns := ⟨trapsTaken, trapsWait, checksTrap, accessTraps, trapReturn⟩

end Sys2Proof.Machine
end

section
/-! SUPPORT. The retirement of a context (R39, R395): its stages, each named once, and what the last of them leave alone. -/

namespace Sys2Proof.Machine

namespace State

/-- The work of a retiring context has ended: its domains, the commands and invocations of its regions, and its streams. -/
def workEnded (s : State) (cid : Nat) : State :=
  let s := if s.ctxIdOf s.who = cid then { s with who := .engine 0 0 }.reload else s
  let s := s.breakDomains cid
  let s := (s.regions.filter fun r => r.ctx == cid).foldl (fun s r => (s.abortQueued r).dropAll r (some stAborted)) s
  (s.streams.filter fun x => x.ctx == cid).foldl (fun s x => s.dropStream x) s

/-- Its jobs, regions, requests, queue homes and plates are gone. -/
def belongingsGone (s : State) (cid : Nat) : State :=
  { s with
    jobs := s.jobs.filter fun (j : Job) => j.producer != cid
    regions := s.regions.filter fun (r : Region) => r.ctx != cid
    sfus := s.sfus.map fun (p : UnitId × List SfuReq) => (p.1, p.2.filter fun r => r.ctx != cid || r.who.isEngine)
    queues := s.queues.map fun (q : Queue) => { q with homes := q.homes.filter fun (h : QHome) => h.at_ != HomeAt.ctx cid }
    dome := { s.dome with plates := s.dome.plates.map (Plate.disown cid),
                          dirs := s.dome.dirs.map fun (d : Directory) => { d with plates := d.plates.map (Plate.disown cid) } } }

/-- Its charges are returned, its partition is clear, and it is gone. -/
def ctxGone (s : State) (c : Ctx) (cid : Nat) : State :=
  let s := (s.returnCharges c).clearPartition c
  { s with ctxs := s.ctxs.filter fun x => x.id != cid }

/-- The senders of dropped messages get their allowances back. -/
def creditsBack (s : State) (spill : List Spill) : State :=
  spill.foldl (fun s e => match e with
    | .message _ _ _ _ _ sender die => s.creditBack sender die
    | .entry _ => s) s

theorem retireCtx_eq (s : State) (cid : Nat) : s.retireCtx cid =
    match s.ctxOf cid with
    | none => s
    | some c =>
      ((((s.workEnded cid).belongingsGone cid).ctxGone c cid).creditsBack c.spill).settleKeepAlive.settleQuiesce c.gang |>.endGang c.gang := rfl

theorem retireCtx_some {s : State} {cid : Nat} {c : Ctx} (h : s.ctxOf cid = some c) : s.retireCtx cid =
    ((((((s.workEnded cid).belongingsGone cid).ctxGone c cid).creditsBack c.spill).settleKeepAlive).settleQuiesce c.gang).endGang c.gang := by
  rw [retireCtx_eq, h]

/-! ### What is left (R39) -/

/-- What the last stages of a retirement leave alone. -/
def Settles (s t : State) : Prop :=
  t.regions = s.regions ∧ t.streams = s.streams ∧ t.jobs = s.jobs ∧ t.mem = s.mem ∧ t.ctxs.map (·.id) = s.ctxs.map (·.id)

theorem Settles.refl (s : State) : s.Settles s := ⟨rfl, rfl, rfl, rfl, rfl⟩

theorem Settles.trans {s t u : State} : s.Settles t → t.Settles u → s.Settles u := by
  rintro ⟨r, x, j, m, i⟩ ⟨r', x', j', m', i'⟩
  exact ⟨r'.trans r, x'.trans x, j'.trans j, m'.trans m, i'.trans i⟩

theorem modCtxThr_settles (s : State) (cid i : Nat) (f : Thr → Thr) : s.Settles (s.modCtxThr cid i f) := by
  unfold State.modCtxThr
  split
  · exact .refl s
  · split
    · exact ⟨rfl, rfl, rfl, rfl, rfl⟩
    · exact ⟨rfl, rfl, rfl, rfl, map_modifyFirst (f := fun c : Ctx => { c with threads := c.threads.modify i f }) (fun _ => rfl) s.ctxs⟩

theorem creditsBack_settles (spill : List Spill) (s : State) : s.Settles (s.creditsBack spill) := by
  induction spill generalizing s with
  | nil => exact .refl s
  | cons e spill ih =>
    refine Settles.trans ?_ (ih _)
    cases e
    · exact modCtxThr_settles ..
    · exact .refl s

theorem settleKeepAlive_settles (s : State) : s.Settles s.settleKeepAlive := by
  unfold State.settleKeepAlive
  dsimp only
  split
  · exact ⟨rfl, rfl, rfl, rfl, rfl⟩
  · exact .refl s

theorem settleQuiesce_settles (s : State) (g : Nat) : s.Settles (s.settleQuiesce g) := by
  unfold State.settleQuiesce
  split
  · exact ⟨rfl, rfl, rfl, rfl, rfl⟩
  · exact .refl s

theorem endGang_settles (s : State) (g : Nat) : s.Settles (s.endGang g) := by
  unfold State.endGang
  split
  · exact .refl s
  · exact ⟨rfl, rfl, rfl, rfl, rfl⟩

theorem ctxGone_settles {s : State} {cid : Nat} {c : Ctx} (h : s.ctxOf cid = some c) :
    (((s.workEnded cid).belongingsGone cid).ctxGone c cid).Settles (s.retireCtx cid) := by
  rw [retireCtx_some h]
  exact ((creditsBack_settles ..).trans (settleKeepAlive_settles _)).trans ((settleQuiesce_settles ..).trans (endGang_settles ..))

theorem dropStream_streams (s : State) (x : Stream) :
    (s.dropStream x).streams = s.streams.filter fun y => !(y.ctl == x.ctl && y.str == x.str) := by
  have released : (s.releaseTile x).streams = s.streams := by
    unfold State.releaseTile
    split
    · split
      · split <;> rfl
      · rfl
    · rfl
  exact congrArg (List.filter _) released

/-- A stream that stands after others have been dropped is none of them. -/
theorem not_mem_of_dropped {xs : List Stream} {s : State} {y : Stream} (left : y ∈ (xs.foldl (fun s x => s.dropStream x) s).streams) :
    y ∈ s.streams ∧ y ∉ xs := by
  induction xs generalizing s with
  | nil => exact ⟨left, List.not_mem_nil⟩
  | cons x xs ih =>
    obtain ⟨stood, other⟩ := ih left
    rw [dropStream_streams, List.mem_filter] at stood
    refine ⟨stood.1, fun again => ?_⟩
    rcases List.mem_cons.1 again with rfl | again
    · simp at stood
    · exact other again

theorem workEnded_streams (s : State) (cid : Nat) : ∀ x ∈ (s.workEnded cid).streams, x.ctx ≠ cid := by
  intro x left mine
  obtain ⟨stood, other⟩ := not_mem_of_dropped left
  exact other (List.mem_filter.2 ⟨stood, beq_iff_eq.2 mine⟩)

/-- A byte whose cell is listed nowhere reads as zero. -/
theorem memByte_unlisted {m : List Host.Cell} {a : Nat} (h : ∀ p ∈ m, p.1 ≠ a) : memByte m a = 0 := by
  induction m with
  | nil => rfl
  | cons p m ih =>
    obtain ⟨k, v⟩ := p
    rw [memByte, if_neg (h _ List.mem_cons_self), ih fun p hp => h p (List.mem_cons_of_mem _ hp), ite_self]

theorem clearPartition_zero (s : State) (c : Ctx) {o : Nat} (inside : o < c.partSize) : memByte (s.clearPartition c).mem (c.partAddr o) = 0 := by
  refine memByte_unlisted fun p listed here => ?_
  have outside := (List.mem_filter.1 listed).2
  simp only [Bool.not_eq_true', Bool.and_eq_false_iff, decide_eq_false_iff_not, here, Ctx.partAddr] at outside
  omega

theorem gone_leaves (s : State) (c : Ctx) (cid : Nat) :
    (∀ y ∈ ((s.belongingsGone cid).ctxGone c cid).ctxs, y.id ≠ cid) ∧ (∀ r ∈ ((s.belongingsGone cid).ctxGone c cid).regions, r.ctx ≠ cid) ∧
      ((s.belongingsGone cid).ctxGone c cid).streams = s.streams ∧ (∀ j ∈ ((s.belongingsGone cid).ctxGone c cid).jobs, j.producer ≠ cid) ∧
      ∀ o, o < c.partSize → memByte ((s.belongingsGone cid).ctxGone c cid).mem (c.partAddr o) = 0 := by
  have filtered {α : Type} {f : α → Nat} {l : List α} : ∀ a ∈ l.filter (fun a => f a != cid), f a ≠ cid := fun a left =>
    bne_iff_ne.1 (List.mem_filter.1 left).2
  exact ⟨filtered, filtered, rfl, filtered, fun o inside => clearPartition_zero _ c inside⟩

/-- A context that has retired leaves no context, region, stream or job, and a partition of zeros. -/
theorem retireCtx_leaves {s : State} {cid : Nat} {c : Ctx} (h : s.ctxOf cid = some c) :
    (∀ y ∈ (s.retireCtx cid).ctxs, y.id ≠ cid) ∧ (∀ r ∈ (s.retireCtx cid).regions, r.ctx ≠ cid) ∧
      (∀ x ∈ (s.retireCtx cid).streams, x.ctx ≠ cid) ∧ (∀ j ∈ (s.retireCtx cid).jobs, j.producer ≠ cid) ∧
      ∀ o, o < c.partSize → memByte (s.retireCtx cid).mem (c.partAddr o) = 0 := by
  obtain ⟨regions, streams, jobs, mem, ids⟩ := ctxGone_settles h
  obtain ⟨noCtx, noRegion, kept, noJob, zeros⟩ := (s.workEnded cid).gone_leaves c cid
  rw [regions, streams, jobs, mem, kept]
  refine ⟨fun y left mine => ?_, noRegion, s.workEnded_streams cid, noJob, zeros⟩
  have listed := List.mem_map_of_mem (f := fun c : Ctx => c.id) left
  rw [ids] at listed
  obtain ⟨x, stood, same⟩ := List.mem_map.1 listed
  exact noCtx x stood (same.trans mine)

end State
end Sys2Proof.Machine
end

section
/-! SUPPORT. The cycle count (R159): nothing that a part does within a cycle changes it. -/

namespace Sys2Proof.Machine

/-! ### A field of the state through a fold -/

theorem foldl_field {β γ : Type} {g : State → γ} {f : State → β → State} (each : ∀ s x, g (f s x) = g s) (l : List β) (s : State) :
    g (l.foldl f s) = g s := by
  induction l generalizing s with
  | nil => rfl
  | cons x l ih => exact (ih _).trans (each s x)

theorem ite_cycle {p : Prop} [Decidable p] {s t : State} (h : t.cycle = s.cycle) : (if p then t else s).cycle = s.cycle := by
  split
  · exact h
  · rfl

theorem foldl_cycle {β : Type} {f : State → β → State} (each : ∀ s x, (f s x).cycle = s.cycle) (l : List β) (s : State) :
    (l.foldl f s).cycle = s.cycle := foldl_field each l s

namespace State

theorem Delivers.cycle {s t : State} : s.Delivers t → t.cycle = s.cycle := by
  rintro ⟨_, _, _, _, _, rfl⟩
  rfl

theorem Walks.cycle {s t : State} : s.Walks t → t.cycle = s.cycle := by
  rintro ⟨_, _, _, rfl⟩
  rfl

variable (s : State)

/-! ### Actors -/

@[simp] theorem putTable_cycle (a : Actor) (t : Thr) : (s.putTable a t).cycle = s.cycle := by
  unfold State.putTable
  split
  · split <;> rfl
  · rfl

@[simp] theorem flush_cycle : s.flush.cycle = s.cycle := s.putTable_cycle s.who s.cpu

@[simp] theorem load_cycle (a : Actor) : (s.load a).cycle = s.cycle := by
  unfold State.load
  dsimp only
  split
  · rfl
  · split <;> exact s.flush_cycle

@[simp] theorem reload_cycle : s.reload.cycle = s.cycle := by
  unfold State.reload
  split <;> rfl

theorem asActor_cycle {f : State → State} (keeps : ∀ t, (f t).cycle = t.cycle) (a : Actor) : (s.asActor a f).cycle = s.cycle := by
  unfold State.asActor
  dsimp only
  split
  · rw [load_cycle, keeps, load_cycle]
  · rfl

@[simp] theorem modThr_cycle (a : Actor) (f : Thr → Thr) : (s.modThr a f).cycle = s.cycle := by
  unfold State.modThr
  split
  · rfl
  · split
    · exact putTable_cycle ..
    · rfl

@[simp] theorem modCtxThr_cycle (cid i : Nat) (f : Thr → Thr) : (s.modCtxThr cid i f).cycle = s.cycle := by
  unfold State.modCtxThr
  split
  · rfl
  · split <;> rfl

@[simp] theorem trap_cycle (cls : Cls) (val : Word) : (s.trap cls val).cycle = s.cycle := by
  rw [State.trap, (s.takeTrap_eq cls s.cpu.pc val).1]

@[simp] theorem mail_cycle (cid : Nat) (e : BitVec 128) : (s.mail cid e).cycle = s.cycle := (s.mail_delivers cid e).cycle

/-! ### Ends of invocations, streams and episodes -/

@[simp] theorem unpin_cycle (pins : List (Nat × Nat)) : (s.unpin pins).cycle = s.cycle :=
  foldl_cycle (f := fun s (p : Nat × Nat) => s.modTile p.1 p.2 fun t => { t with pins := t.pins - 1 }) (fun _ _ => rfl) pins s

@[simp] theorem dropInv_cycle (r : Region) (i : Inv) : (s.dropInv r i).cycle = s.cycle := by
  obtain ⟨qs, ss, undone⟩ := s.undoInv_eq r i
  simp [State.dropInv, State.removeInv, State.count, State.modRegion, undone]

@[simp] theorem dropAll_cycle (r : Region) (st : Option Status) : (s.dropAll r st).cycle = s.cycle := by
  refine foldl_cycle (fun s i => ?_) r.invs s
  dsimp only
  split
  · simp [State.modRegion]
  · simp

@[simp] theorem abortQueued_cycle (r : Region) : (s.abortQueued r).cycle = s.cycle := by
  refine foldl_cycle (fun s e => ?_) r.cmds s
  cases e <;> simp

@[simp] theorem dropStream_cycle (x : Stream) : (s.dropStream x).cycle = s.cycle := by
  unfold State.dropStream State.releaseTile
  dsimp only
  split
  · split
    · split <;> rfl
    · rfl
  · rfl

@[simp] theorem endSuperstep_cycle (cid : Nat) : (s.endSuperstep cid).cycle = s.cycle := by
  have held (l : List HeldPush) (t : State) : (l.foldl (fun s h => s.placeItem h.queue cid h.source h.data false) t).cycle = t.cycle := by
    refine foldl_cycle (fun t h => ?_) l t
    unfold State.placeItem
    split <;> rfl
  have flushed : (s.flushHeld cid).cycle = s.cycle := by
    unfold State.flushHeld
    split
    · rfl
    · exact held _ s
  exact flushed

@[simp] theorem unprotect_cycle (cid reason : Nat) : (s.unprotect cid reason).cycle = s.cycle := (s.unprotect_delivers cid reason).cycle

@[simp] theorem takeSnapshot_cycle (cid level number episode : Nat) : (s.takeSnapshot cid level number episode).cycle = s.cycle := by
  unfold State.takeSnapshot
  split
  · rfl
  next c _ =>
    have walked : ((if c.undo.getLsbD 0 then xlatePages (.station c.station) c.asid .w c.service 16 (wbits c.undo 55 16 * 0x10000) s
        else (s, .permission)) : State × _).1.cycle = s.cycle := by
      split
      · exact (xlatePages_walks ..).cycle
      · rfl
    revert walked
    generalize (if c.undo.getLsbD 0 then xlatePages (.station c.station) c.asid .w c.service 16 (wbits c.undo 55 16 * 0x10000) s
      else (s, .permission)) = x
    intro walked
    dsimp only
    split
    · exact walked
    · rw [modCtx_cycle, (writePaged_delivers ..).cycle]
      exact walked

@[simp] theorem snapshotAll_cycle (cs : List Nat) (level number episode : Nat) : (s.snapshotAll cs level number episode).cycle = s.cycle := by
  have taken := foldl_cycle (fun t c => takeSnapshot_cycle t c level number episode) cs s
  unfold State.snapshotAll
  dsimp only
  split
  · rw [unprotect_cycle, taken]
  · exact taken

@[simp] theorem patchArea_cycle (c : Ctx) (off : Nat) (bs : List Byte) : (s.patchArea c off bs).cycle = s.cycle := (s.patchArea_delivers c off bs).cycle

@[simp] theorem deliver_cycle (level : Nat) (e : Episode) (st : Status) (value : Word) (fl : Flags) (j : Join) :
    (s.deliver level e st value fl j).cycle = s.cycle := by
  unfold State.deliver State.patchJoined
  dsimp only
  split
  · rfl
  · split
    · simp
    · split
      · simp
      · split <;> simp

theorem endSupersteps_cycle (cs : List Nat) (level : Nat) :
    (cs.foldl (fun s c =>
      match s.ctxOf c with
      | some x => (match x.snap with | some sn => if sn.level = level then s.endSuperstep c else s | none => s)
      | none => s) s).cycle = s.cycle := by
  refine foldl_cycle (fun s c => ?_) cs s
  split
  · split
    · split <;> simp
    · rfl
  · rfl

@[simp] theorem completeEpisode_cycle (d : Domain) (e : Episode) (st : Status) : (s.completeEpisode d e st).cycle = s.cycle := by
  unfold State.completeEpisode
  exact (ite_cycle (snapshotAll_cycle ..)).trans ((ite_cycle (endSupersteps_cycle ..)).trans ((ite_cycle (mail_cycle ..)).trans
    (foldl_cycle (fun s j => deliver_cycle ..) ..)))

theorem settleDomain_cycle (fuel level key : Nat) : (settleDomain fuel level key s).cycle = s.cycle := by
  induction fuel generalizing s with
  | zero => rfl
  | succ f ih =>
    unfold State.settleDomain
    split
    · rfl
    · split
      · rfl
      · split
        · rfl
        · rw [ih, completeEpisode_cycle]

@[simp] theorem settle_cycle : s.settle.cycle = s.cycle :=
  foldl_cycle (f := fun s (d : Domain) => settleDomain (d.episodes.length + 1) d.level d.number s) (fun s _ => settleDomain_cycle s ..) s.domains s

/-! ### Retirement, rollback and consumption -/

@[simp] theorem creditBack_cycle (sender : Nat × Nat) (die : Nat) : (s.creditBack sender die).cycle = s.cycle := modCtxThr_cycle ..

@[simp] theorem settleKeepAlive_cycle : s.settleKeepAlive.cycle = s.cycle := ite_cycle rfl

@[simp] theorem settleQuiesce_cycle (g : Nat) : (s.settleQuiesce g).cycle = s.cycle := ite_cycle rfl

@[simp] theorem endGang_cycle (g : Nat) : (s.endGang g).cycle = s.cycle := by
  unfold State.endGang
  split <;> rfl

@[simp] theorem breakDomains_cycle (cid : Nat) : (s.breakDomains cid).cycle = s.cycle := settle_cycle _

@[simp] theorem workEnded_cycle (cid : Nat) : (s.workEnded cid).cycle = s.cycle := by
  have regions (rs : List Region) (t : State) : (rs.foldl (fun s r => (s.abortQueued r).dropAll r (some stAborted)) t).cycle = t.cycle :=
    foldl_cycle (fun t r => by simp) rs t
  have streams (xs : List Stream) (t : State) : (xs.foldl (fun s x => s.dropStream x) t).cycle = t.cycle :=
    foldl_cycle (fun t x => by simp) xs t
  exact (streams ..).trans ((regions ..).trans ((breakDomains_cycle ..).trans (ite_cycle (reload_cycle _))))

theorem gone_cycle (c : Ctx) (cid : Nat) : ((s.belongingsGone cid).ctxGone c cid).cycle = s.cycle := rfl

@[simp] theorem creditsBack_cycle (spill : List Spill) : (s.creditsBack spill).cycle = s.cycle := by
  refine foldl_cycle (fun t e => ?_) spill s
  cases e <;> simp

@[simp] theorem retireCtx_cycle (cid : Nat) : (s.retireCtx cid).cycle = s.cycle := by
  cases h : s.ctxOf cid with
  | none => rw [retireCtx_eq, h]
  | some c =>
    rw [retireCtx_some h, endGang_cycle, settleQuiesce_cycle, settleKeepAlive_cycle, creditsBack_cycle, gone_cycle, workEnded_cycle]

@[simp] theorem startRollback_cycle (cid : Nat) : (s.startRollback cid).cycle = s.cycle := by
  unfold State.startRollback
  split
  · rfl
  · refine Eq.trans (foldl_cycle (fun s r => ?_) _ _) rfl
    exact dropAll_cycle ..

@[simp] theorem afterConsume_cycle (cid : Nat) (rolls : Bool) : (s.afterConsume cid rolls).cycle = s.cycle := by
  unfold State.afterConsume
  split
  · exact startRollback_cycle ..
  · exact retireCtx_cycle ..

@[simp] theorem consumePoison_cycle (pc ea : Word) (pa : Nat) : (s.consumePoison pc ea pa).cycle = s.cycle := by
  unfold State.consumePoison
  dsimp only
  split
  · split
    · rfl
    · exact afterConsume_cycle ..
  · split
    · exact afterConsume_cycle ..
    · rfl

/-! ### The fetch of every actor (R174) -/

theorem pageAbsent_cycle (u : UnitId) (asid va kind : Nat) (x : Option Ctx) : (s.pageAbsent u asid va kind x).2.cycle = s.cycle := by
  unfold State.pageAbsent
  dsimp only
  split <;> rfl

theorem checkAccess_cycle (ea : Word) (n : Nat) (need : Need) (at_ : Bool) : (s.checkAccess ea n need at_).1.cycle = s.cycle := by
  unfold State.checkAccess
  split
  · rfl
  · split
    · rfl
    · split
      · rfl
      next asid svc u _ =>
        have walked := (s.translate_walks u asid ea.toNat need svc).cycle
        dsimp only
        split
        · exact walked
        · exact (pageAbsent_cycle ..).trans walked
        · repeat' split
          all_goals exact walked

@[simp] theorem refillThread_cycle (ea : Word) : (s.refillThread ea).cycle = s.cycle := by
  have checked := s.checkAccess_cycle ea 2 .x false
  unfold State.refillThread
  split
  next t _ eq => exact (congrArg (fun x => x.1.cycle) eq).symm.trans checked
  next t _ eq => exact (congrArg (fun x => x.1.cycle) eq).symm.trans checked
  next t pa via eq =>
    have same : t.cycle = s.cycle := (congrArg (fun x => x.1.cycle) eq).symm.trans checked
    dsimp only
    split
    · exact same
    · split
      · exact same
      · split
        · exact (consumePoison_cycle ..).trans same
        · exact same
      · exact same

@[simp] theorem refill_cycle : s.refill.cycle = s.cycle := by
  unfold State.refill
  dsimp only
  split
  · rfl
  · split
    · split
      · unfold State.refillHart
        dsimp only
        repeat' split
        all_goals rfl
      · rfl
    · exact refillThread_cycle ..

@[simp] theorem refills_cycle : s.refills.cycle = s.cycle :=
  foldl_cycle (f := fun s a => if s.mayFetch a then s.asActor a State.refill else s) (fun s a => ite_cycle (asActor_cycle s refill_cycle a)) s.actors s

/-! ### Registers of the control window (R30) -/

theorem fresumeWalk_cycle (u : UnitId) (tag : BitVec 32) : (s.fresumeWalk u tag).cycle = s.cycle := by
  unfold State.fresumeWalk
  split
  · rfl
  · refine Eq.trans (foldl_cycle (fun s a => ?_) _ _) (rfl : (s.answerTag u tag).cycle = s.cycle)
    exact ite_cycle (modThr_cycle ..)

theorem fresumeRefuse_cycle (u : UnitId) (tag : BitVec 32) : (s.fresumeRefuse u tag).cycle = s.cycle := by
  unfold State.fresumeRefuse
  split
  · rfl
  · refine Eq.trans (foldl_cycle (fun s a => ?_) _ _) (Eq.trans (foldl_cycle (fun s x => ?_) _ _) rfl)
    · split
      · exact asActor_cycle s (fun t => trap_cycle ..) a
      · rfl
    · rfl

theorem fresume_cycle (u : UnitId) (v : Word) : (s.fresume u v).cycle = s.cycle := by
  unfold State.fresume
  split
  · exact fresumeRefuse_cycle ..
  · exact fresumeWalk_cycle ..

theorem stationWrite_cycle (st off : Nat) (v raw : Word) : (s.stationWrite st off v raw).cycle = s.cycle := by
  unfold State.stationWrite State.mclsWrite
  split
  · split
    · rfl
    · split <;> rfl
  · split
    · exact fresume_cycle ..
    · rfl

theorem modHealth_cycle (c : Nat) (f : Health → Health) : (s.modHealth c f).cycle = s.cycle := by
  unfold State.modHealth
  split <;> rfl

theorem hretireWrite_cycle (c : Nat) (v : Word) : (s.hretireWrite c v).cycle = s.cycle := by
  unfold State.hretireWrite State.pchRetireStart
  split
  · split
    · rfl
    · exact modHealth_cycle ..
  · rfl

theorem htrainWrite_cycle (c : Nat) (v : Word) : (s.htrainWrite c v).cycle = s.cycle := by
  unfold State.htrainWrite
  split
  · rfl
  · exact modHealth_cycle ..

theorem dieWrite_cycle (die off : Nat) (v raw : Word) : (s.dieWrite die off v raw).cycle = s.cycle := by
  unfold State.dieWrite
  cases dieReg s die off with
  | fresume e => exact fresume_cycle ..
  | htrain c => exact htrainWrite_cycle ..
  | hretire c => exact hretireWrite_cycle ..
  | blinkiv | mcctl | outWin | calctl => exact ite_cycle rfl
  | bootStage | mcbase | mclen | slot | htemp | hpmap | stfence | calbase | none => rfl

theorem accWrite_cycle (n : Nat) (v : Word) : (s.accWrite n v).cycle = s.cycle := by
  unfold State.accWrite
  dsimp only
  split
  · rfl
  · split <;> rfl

theorem peerWrite_cycle (n k : Nat) (v : Word) : (s.peerWrite n k v).cycle = s.cycle := by
  unfold State.peerWrite
  exact ite_cycle rfl

theorem laneTailWrite_cycle (laneR : Bool) (v : BitVec 32) : (s.laneTailWrite laneR v).cycle = s.cycle := by
  unfold State.laneTailWrite
  dsimp only
  split <;> exact ite_cycle rfl

theorem logExtend_cycle (v : Word) : (s.logExtend v).cycle = s.cycle := by
  unfold State.logExtend State.measure
  split
  · split <;> rfl
  · rfl

theorem pkgWrite_cycle (off : Nat) (v raw : Word) : (s.pkgWrite off v raw).cycle = s.cycle := by
  have attest : (s.attestStart raw).cycle = s.cycle := by
    unfold State.attestStart
    split <;> rfl
  have pkgid : (s.pkgidWrite raw).cycle = s.cycle := by
    unfold State.pkgidWrite
    split <;> rfl
  have pwrcap : (s.pwrcapWrite v).cycle = s.cycle := ite_cycle rfl
  have bus (n k : Nat) : (s.busWrite n k v).cycle = s.cycle := rfl
  have group (n k : Nat) : (s.groupWrite n k v).cycle = s.cycle := rfl
  unfold State.pkgWrite
  simp only [apply_ite State.cycle, accWrite_cycle, laneTailWrite_cycle, peerWrite_cycle, logExtend_cycle, attest, pkgid, pwrcap, bus, group, ite_self]

theorem ctlWrite_cycle (h : Home) (size data : Nat) : (s.ctlWrite h size data).cycle = s.cycle := by
  unfold State.ctlWrite
  dsimp only
  split
  · rfl
  · split
    · exact stationWrite_cycle ..
    · exact dieWrite_cycle ..
    · exact pkgWrite_cycle ..
    · rfl

/-! ### Accesses whose time has come (R206) -/

theorem perform_cycle (src : Option Nat) (pa : Nat) (op : MemOp) : (s.perform src pa op).1.cycle = s.cycle := by
  have written (t : State) (pa : Nat) (bs : List Byte) : (t.write src pa bs).cycle = t.cycle := (t.write_delivers src pa bs).cycle
  unfold State.perform
  cases op with
  | load n => rfl
  | store n bs => exact written ..
  | atomic op n b =>
    dsimp only
    split
    · rfl
    · exact written ..
  | line bs bad =>
    dsimp only
    split
    · refine (foldl_cycle (fun t g => ?_) _ _).trans (written ..)
      unfold State.poisonGranule
      split <;> rfl
    · exact (s.writeWhole_delivers src pa bs).cycle
  | cas n e v =>
    dsimp only
    split
    · rfl
    · exact ite_cycle (written ..)

theorem performAt_cycle (h : Home) (src : Option Nat) (op : MemOp) : (s.performAt h src op).1.cycle = s.cycle := by
  unfold State.performAt
  split
  · exact perform_cycle ..
  · exact perform_cycle ..
  · rfl
  · exact ctlWrite_cycle ..
  · rfl

theorem performReq_cycle (r : MemReq) : (s.performReq r).cycle = s.cycle := by
  have performed : ∀ src, (if r.ctl < 96 then s.perform src r.pa r.op else s.performAt (s.home r.pa) src r.op).1.cycle = s.cycle := by
    intro src
    split
    · exact perform_cycle ..
    · exact performAt_cycle ..
  unfold State.performReq
  dsimp only
  split <;> exact performed _

@[simp] theorem performNear_cycle : s.performNear.cycle = s.cycle := foldl_cycle (f := fun s (r : MemReq) => (s.dropReq r.id).performReq r) (fun _ r => performReq_cycle _ r) _ s

theorem bootTick_cycle : s.bootTick.cycle = s.cycle := by
  have verified (x : BootInput) : (s.imageVerified x).cycle = s.cycle := by
    unfold State.imageVerified State.measure
    split <;> rfl
  unfold State.bootTick
  split
  · rfl
  · dsimp only
    split <;> simp [apply_ite State.cycle, verified, State.bootFail, State.bankTested, State.featuresSet]

/-- A cycle that ends is counted (R159). -/
theorem tick_cycle : s.tick.cycle = s.cycle + 1 :=
  congrArg (· + 1) ((bootTick_cycle _).trans ((performNear_cycle _).trans (refills_cycle s)))

end State
end Sys2Proof.Machine
end

section
/-! PROOFS. The reset memory (O2) and the schedule (O10). -/

namespace Sys2Proof.Machine

/-- Settles O2: the memory of the reset state has no cell. -/
theorem resetMemory : Obligations.ResetMemory := ⟨rfl, fun _ => rfl⟩

/-- Settles O10: the three cases of a step with no instruction to run; `tick_cycle` says that the cycle which ends is counted. -/
theorem agendaSteps : Obligations.AgendaSteps := by
  intro s idle
  refine ⟨fun e r ahead => ?event, fun empty halted => ?stopped, fun empty runs => ?cycle⟩
  case event => simp only [step, idle, ahead]
  case stopped => simp only [step, idle, empty, halted, if_true]
  case cycle =>
    have ends : step s = .next { s.flush.tick with model := { s.flush.tick.model with agenda := s.flush.tick.round } } := by
      simp only [step, idle, empty, runs, Bool.false_eq_true, if_false]
    exact ⟨_, ends, s.flush.tick_cycle.trans (congrArg (· + 1) s.flush_cycle), rfl, rfl⟩

end Sys2Proof.Machine
end

section
/-! PROOFS. A token's hop (O28, R335). -/

namespace Sys2Proof.Machine

/-- The next place of a token, by where its target stands. -/
theorem nextPlace_slot (at_ : Nat × Nat) (n c pos : Nat) : nextPlace at_ at_ n c pos = .slot n c pos := by
  simp [nextPlace]

theorem nextPlace_east {x y : Nat} {t : Nat × Nat} (n c pos : Nat) (h : x < t.1) : nextPlace (x, y) t n c pos = .router (x + 1) y 3 n c pos := by
  have ne : (x, y) ≠ t := fun e => by subst e; exact absurd h (Nat.lt_irrefl _)
  simp [nextPlace, ne, h]

theorem nextPlace_west {x y : Nat} {t : Nat × Nat} (n c pos : Nat) (h : t.1 < x) : nextPlace (x, y) t n c pos = .router (x - 1) y 1 n c pos := by
  have ne : (x, y) ≠ t := fun e => by subst e; exact absurd h (Nat.lt_irrefl _)
  simp [nextPlace, ne, h, Nat.lt_asymm h]

theorem nextPlace_south {x y : Nat} {t : Nat × Nat} (n c pos : Nat) (e : t.1 = x) (h : y < t.2) :
    nextPlace (x, y) t n c pos = .router x (y + 1) 0 n c pos := by
  have ne : (x, y) ≠ t := fun e => by subst e; exact absurd h (Nat.lt_irrefl _)
  simp [nextPlace, ne, e, h]

theorem nextPlace_north {x y : Nat} {t : Nat × Nat} (n c pos : Nat) (e : t.1 = x) (h : t.2 < y) :
    nextPlace (x, y) t n c pos = .router x (y - 1) 2 n c pos := by
  have ne : (x, y) ≠ t := fun e => by subst e; exact absurd h (Nat.lt_irrefl _)
  simp [nextPlace, ne, e, Nat.lt_asymm h]

/-- A token in a router's buffer hops to no place but the next one of its route. -/
theorem Region.hopTo_some {r : Region} {p : Inv × Flying} {q : Place} {x y side n c pos : Nat} {b : Block}
    (stands : p.2.at_ = .router x y side n c pos) (block : r.blockOf p.1 = some b) (hops : r.hopTo p = some q) :
    q = nextPlace (x, y) (copyXY r.w b.home n c) n c pos := by
  simp only [Region.hopTo, stands, block, Option.ite_none_right_eq_some, Option.some.injEq] at hops
  exact hops.2.symm

/-- Settles O28: the step follows `hopTo`, and `hopTo` is the next place of the route when that has room. -/
theorem tokenHops : Obligations.TokenHops := by
  intro s h x y side r p q arg region runs head due
  refine ⟨fun hops => ?moves, fun stays => ?stays, fun n c pos b stands block hops => ?route⟩
  case moves =>
    change execTokenHop s = _
    simp only [execTokenHop, arg, region, runs, head, due, hops, if_true]
    rfl
  case stays =>
    change execTokenHop s = _
    simp only [execTokenHop, arg, region, runs, head, due, stays, if_true]
  case route =>
    rw [Region.hopTo_some stands block hops]
    exact ⟨fun e => e ▸ nextPlace_slot .., nextPlace_east n c pos, nextPlace_west n c pos, nextPlace_south n c pos, nextPlace_north n c pos⟩

end Sys2Proof.Machine
end

section
/-! PROOFS. Fault tags, records, poison, rollback and retirement (O30: R355, R356, R391 to R395, R406, R409). -/

namespace Sys2Proof.Machine

/-- Only registers of actors differ: memory, the units' tags and the streams are the same, and so is where each context stands. -/
def State.ThreadsDiffer (s t : State) : Prop :=
  t.mem = s.mem ∧ t.mmu = s.mmu ∧ t.streams = s.streams ∧ t.ctxs.map (fun c => (c.id, c.station)) = s.ctxs.map fun c => (c.id, c.station)

namespace State

theorem ThreadsDiffer.trans {s t u : State} (st : s.ThreadsDiffer t) (tu : t.ThreadsDiffer u) : s.ThreadsDiffer u := by
  obtain ⟨mem, mmu, streams, stations⟩ := st
  obtain ⟨mem', mmu', streams', stations'⟩ := tu
  exact ⟨mem'.trans mem, mmu'.trans mmu, streams'.trans streams, stations'.trans stations⟩

theorem modThr_threadsDiffer (s : State) (a : Actor) (f : Thr → Thr) : s.ThreadsDiffer (s.modThr a f) := by
  unfold State.modThr State.putTable
  split
  · exact ⟨rfl, rfl, rfl, rfl⟩
  · split
    · split
      · split
        next c _ =>
          exact ⟨rfl, rfl, rfl, map_modifyFirst (f := fun x : Ctx => { x with threads := x.threads.set _ _ }) (fun _ => rfl) s.ctxs⟩
        · exact ⟨rfl, rfl, rfl, rfl⟩
      · exact ⟨rfl, rfl, rfl, rfl⟩
    · exact ⟨rfl, rfl, rfl, rfl⟩

/-- The accesses of actors that wait on a tag walk again. -/
def wakeActors (u : UnitId) (tag : BitVec 32) (as : List Actor) (s : State) : State :=
  as.foldl (fun s a => if (s.waitsOn u tag a).isSome then s.modThr a fun t => { t with wait := .none } else s) s

theorem wakeActors_threadsDiffer (u : UnitId) (tag : BitVec 32) (as : List Actor) (s : State) : s.ThreadsDiffer (wakeActors u tag as s) := by
  induction as generalizing s with
  | nil => exact ⟨rfl, rfl, rfl, rfl⟩
  | cons a as ih =>
    refine .trans ?_ (ih _)
    dsimp only
    split
    · exact s.modThr_threadsDiffer ..
    · exact ⟨rfl, rfl, rfl, rfl⟩

/-- The unit of a stream is known by where the contexts stand. -/
theorem streamUnit_congr {s t : State} (h : t.ctxs.map (fun c => (c.id, c.station)) = s.ctxs.map fun c => (c.id, c.station)) (x : Stream) :
    t.streamUnit x = s.streamUnit x := by
  have byTable (s : State) : (s.ctxOf x.ctx).map (·.station) = ((s.ctxs.map fun c => (c.id, c.station)).find? fun p => p.1 == x.ctx).map (·.2) := by
    rw [List.find?_map, Option.map_map]
    rfl
  unfold State.streamUnit
  rw [byTable t, byTable s, h]

theorem answerTag_faults (s : State) (u : UnitId) (tag : BitVec 32) :
    (s.answerTag u tag).tagPending u tag = false ∧ ∀ f ∈ s.mmu.faults, ¬(f.unit = u ∧ f.tag = tag) → f ∈ (s.answerTag u tag).mmu.faults := by
  constructor
  · refine List.any_eq_false.2 fun f left => ?_
    simpa only [Bool.not_eq_true', Bool.not_eq_true] using (List.mem_filter.1 left).2
  · intro f pending other
    refine List.mem_filter.2 ⟨pending, ?_⟩
    simpa only [Bool.not_eq_true', Bool.and_eq_false_iff, beq_eq_false_iff_ne, ne_eq, not_and_or] using other

/-- Streams of a unit that wait on a tag wait no longer. -/
def wokenStream (s : State) (u : UnitId) (tag : BitVec 32) (x : Stream) : Stream :=
  if s.streamUnit x = u ∧ x.page = some tag then { x with page := none } else x

theorem wokenStream_page {s t : State} {u : UnitId} {tag : BitVec 32} {x : Stream}
    (stations : t.ctxs.map (fun c => (c.id, c.station)) = s.ctxs.map fun c => (c.id, c.station)) (atUnit : s.streamUnit (t.wokenStream u tag x) = u) :
    (t.wokenStream u tag x).page ≠ some tag := by
  unfold State.wokenStream at *
  split
  · exact nofun
  next kept =>
    rw [if_neg kept] at atUnit
    rw [streamUnit_congr stations] at kept
    exact fun waits => kept ⟨atUnit, waits⟩

theorem fresumeWalk_pending {s : State} {u : UnitId} {tag : BitVec 32} (pending : s.tagPending u tag = true) :
    let t := wakeActors u tag (s.answerTag u tag).actors (s.answerTag u tag)
    ∃ rs js, s.fresumeWalk u tag = { t with regions := rs, streams := t.streams.map (t.wokenStream u tag), jobs := js } := by
  simp only [State.fresumeWalk, pending, Bool.not_true, Bool.false_eq_true, if_false]
  exact ⟨_, _, rfl⟩

/-- R355: an answered tag pends no longer, and no stream of its unit waits on it. -/
theorem fresumeWalk_answers {s : State} {u : UnitId} {tag : BitVec 32} (pending : s.tagPending u tag = true) :
    (s.fresumeWalk u tag).tagPending u tag = false ∧ (s.fresumeWalk u tag).mem = s.mem ∧
      (∀ f ∈ s.mmu.faults, ¬(f.unit = u ∧ f.tag = tag) → f ∈ (s.fresumeWalk u tag).mmu.faults) ∧
      ∀ x ∈ (s.fresumeWalk u tag).streams, s.streamUnit x = u → x.page ≠ some tag := by
  obtain ⟨answered, others⟩ := s.answerTag_faults u tag
  obtain ⟨rs, js, walk⟩ := fresumeWalk_pending pending
  obtain ⟨mem, mmu, -, stations⟩ := wakeActors_threadsDiffer u tag (s.answerTag u tag).actors (s.answerTag u tag)
  rw [walk]
  refine ⟨?_, mem, ?_, fun x left atUnit => ?_⟩
  · rw [State.tagPending, mmu]
    exact answered
  · rw [mmu]
    exact others
  · obtain ⟨y, -, rfl⟩ := List.mem_map.1 left
    exact wokenStream_page stations atUnit

theorem fresume_idle {s : State} {u : UnitId} {tag : BitVec 32} (idle : s.tagPending u tag = false) :
    s.fresumeWalk u tag = s ∧ s.fresumeRefuse u tag = s := by
  simp [State.fresumeWalk, State.fresumeRefuse, idle]

/-! ### The root of the fault tree (R391 to R394) -/

theorem writeHeld_none {s : State} {laneR : Bool} (h : s.heldRecord laneR = none) : s.writeHeld laneR = none := by
  rw [State.writeHeld, h]

theorem acceptRecord_room {s : State} {r : Record} (note : r.note = none) (laneF : r.laneR = false) (room : s.laneFull false = false) :
    ∃ kept recs, s.acceptRecord r =
      { s with tree := { s.tree with rootSeq := s.tree.rootSeq + 1, laneF := kept, recs := recs } }.writeLane r s.tree.rootSeq := by
  have still (t : FaultTree) : { s with tree := t }.closing = s.closing := rfl
  have roomy (kept : List (BitVec 512)) : { s with tree := { s.tree with rootSeq := s.tree.rootSeq + 1, laneF := kept } }.laneFull false = false := room
  cases closing : s.closing <;>
    simp only [State.acceptRecord, State.sendNote, note, laneF, still, closing, roomy, Bool.or_self, Bool.or_true, Bool.false_eq_true, if_false, if_true] <;>
    exact ⟨_, _, rfl⟩

theorem writeWhole_tree {s : State} (plain : ∀ c ∈ s.ctxs, c.isProt = false) (rows : s.health.dead = []) (pchs : s.health.deadPch = [])
    (src : Option Nat) (pa : Nat) (bs : List Byte) : (s.writeWhole src pa bs).tree = s.tree := by
  rw [State.writeWhole, State.write_plain plain rows pchs]
  exact foldl_field (g := State.tree) (f := fun s g => s.cleanGranule g) (fun _ _ => rfl) _ _

/-- R394: a lane F record that its lane takes stands at HEAD, which moves on. -/
theorem acceptRecord_laneF {s : State} {r : Record} (note : r.note = none) (laneF : r.laneR = false) (room : s.laneFull false = false)
    (wf : Memory.wf s.mem = true) (plain : ∀ c ∈ s.ctxs, c.isProt = false) (rows : s.health.dead = []) (pchs : s.health.deadPch = []) :
    (s.acceptRecord r).tree.rootSeq = s.tree.rootSeq + 1 ∧ (s.acceptRecord r).tree.lfhead = (s.tree.lfhead + 1) % 2 ^ 32 ∧
      memBytes (s.acceptRecord r).mem (s.tree.lfbase.toNat + 64 * (s.tree.lfhead % 256)) 64 = leBytes 64 (r.bits s.tree.rootSeq).toNat := by
  obtain ⟨kept, recs, accepted⟩ := acceptRecord_room note laneF room
  rw [accepted]
  simp only [State.writeLane, laneF, Bool.false_eq_true, if_false]
  rw [writeWhole_tree (by exact plain) (by exact rows) (by exact pchs), State.writeWhole_mem_plain (by exact plain) (by exact rows) (by exact pchs)]
  exact ⟨rfl, rfl, memBytes_memWrite _ wf (by simp [bytesOf, leBytes])⟩

/-! ### Poison of an item (R409) -/

/-- The entry at position `k` of a home, marked. -/
def poisonEntry (k : Nat) (y : QHome) : QHome :=
  { y with entries := y.entries.modify k fun e => match e with | .item i => .item { i with poison := true } | m => m }

theorem poisonEntry_item {k : Nat} {y : QHome} {i : QItem} (entry : y.entries[k]? = some (.item i)) :
    (poisonEntry k y).entries[k]? = some (.item { i with poison := true }) ∧
      ∀ j, j ≠ k → (poisonEntry k y).entries[j]? = y.entries[j]? :=
  ⟨(List.getElem?_modify_eq ..).trans (congrArg _ entry), fun _ other => List.getElem?_modify_ne _ _ other.symm⟩

theorem execPoisonDetect_item {s : State} {q h k : Nat} (arg : s.model.arg = .n3 q h k) :
    exec .poisonDetect s = .next (s.modQueue q fun x => { x with homes := x.homes.modify h (poisonEntry k) }) := by
  change execPoisonDetect s = _
  rw [execPoisonDetect, arg]
  rfl

theorem homes_modQueue {s : State} {q h : Nat} {x : Queue} {y : QHome} {f : QHome → QHome} (queue : s.queueOf q = some x) (home : x.homes[h]? = some y) :
    ∃ x', (s.modQueue q fun x => { x with homes := x.homes.modify h f }).queueOf q = some x' ∧ x'.homes[h]? = some (f y) :=
  ⟨_, find?_modifyFirst_some (fun _ => rfl) queue, (List.getElem?_modify_eq ..).trans (congrArg _ home)⟩

end State

/-- Settles O30: each event by the lemma about the function that it performs. -/
theorem faultEvents : Obligations.FaultEvents := by
  intro s
  refine ⟨fun u tag arg pending => ⟨⟨s.fresumeWalk u tag, ?walk, State.fresumeWalk_answers pending⟩, ?refuse⟩, fun u tag arg idle => ?idle,
    fun r f l next => ?laneF, fun r f l none next => ?laneR, fun r note laneF room wf plain rows pchs =>
    State.acceptRecord_laneF note laneF room wf plain rows pchs, fun g arg mem => ?granule,
    fun q h k x y i arg queue home entry => ?item, fun c sn arg ctx snap rolling ready => ?rollback,
    fun c arg ctx => ⟨s.retireCtx c.id, ?retired, ?left⟩⟩
  case walk =>
    change execFresumeWalk s = _
    rw [execFresumeWalk, arg]
  case refuse =>
    change execFresumeRefuse s = _
    rw [execFresumeRefuse, arg]
  case idle =>
    obtain ⟨walk, refuse⟩ := State.fresume_idle idle
    change execFresumeWalk s = _ ∧ execFresumeRefuse s = _
    simp only [execFresumeWalk, execFresumeRefuse, arg, walk, refuse, and_self]
  case laneF =>
    change execFaultRootAccept s = _
    simp only [execFaultRootAccept, State.writeHeld_none f, State.writeHeld_none l, next]
  case laneR =>
    change execFaultRootAccept s = _
    simp only [execFaultRootAccept, State.writeHeld_none f, State.writeHeld_none l, none, next]
  case granule =>
    change execPoisonDetect s = _
    simp only [execPoisonDetect, arg, mem, if_true]
  case item =>
    obtain ⟨x', queue', home'⟩ := State.homes_modQueue queue home
    exact ⟨_, x', _, State.execPoisonDetect_item arg, queue', home', State.poisonEntry_item entry⟩
  case rollback =>
    change execRollback s = _
    simp only [execRollback, arg, ctx, snap, rolling, ready, Bool.and_self, if_true]
  case retired =>
    change execContextRetirement s = _
    simp only [execContextRetirement, arg]
  case left =>
    obtain ⟨ctxs, regions, streams, jobs, -⟩ := State.retireCtx_leaves ctx
    exact ⟨ctxs, regions, streams, jobs⟩

end Sys2Proof.Machine
end

section
/-! PROOFS. CAPMINT, TLBINV and RDSTATE (O55: R355, R362 to R364, R401, R457). -/

namespace Sys2Proof.Machine
open Claims

/-! ### A word that has none of a mask's bits -/

theorem wbit_of_masked {v m : Word} {i : Nat} (clear : v &&& m = 0) (covers : m.getLsbD i = true) : v.getLsbD i = false := by
  have bit := congrArg (BitVec.getLsbD · i) clear
  simp only [BitVec.getLsbD_and, covers, Bool.and_true] at bit
  exact bit.trans BitVec.getLsbD_zero

theorem wbits_of_masked {v m : Word} {hi lo : Nat} (clear : v &&& m = 0) (covers : ∀ i, i ≤ hi → lo ≤ i → m.getLsbD i = true) : wbits v hi lo = 0 := by
  refine Nat.eq_of_testBit_eq fun i => ?_
  rw [wbits, testBit_bitsOf, Nat.zero_testBit, Bool.and_eq_false_imp, decide_eq_true_eq]
  exact fun inside => wbit_of_masked clear (covers _ (by omega) (Nat.le_add_right ..))

/-! ### CAPMINT (R364) -/

/-- A context with the entry that CAPMINT writes into its table. -/
def Ctx.minted (v : Word) (x : BitVec 128) (c : Ctx) : Ctx :=
  { c with caps := if capKind x = 0 then erase c.caps (wbits v 23 16) else assign c.caps (wbits v 23 16) x }

theorem minted_clear (v : Word) {x : BitVec 128} (kind : capKind x = 0) :
    Ctx.minted v x = fun c => { c with caps := erase c.caps (wbits v 23 16) } := by
  funext c
  rw [Ctx.minted, if_pos kind]

theorem minted_entry (v : Word) {x : BitVec 128} (kind : capKind x ≠ 0) :
    Ctx.minted v x = fun c => { c with caps := assign c.caps (wbits v 23 16) x } := by
  funext c
  rw [Ctx.minted, if_neg kind]

/-- CAPMINT with well-formed operands: a cleared entry, an entry of the object's epoch, or DENIED. -/
theorem execCapmintInstall_ready {s : State} {d a b : Reg} {c : Ctx} (ready : Ready ⟨.all, true, [d, a], [b]⟩ s)
    (reserved : (s.reg a &&& 0xFFFFFFFFFF00FC80#64) = 0) (station : wbits (s.reg a) 6 0 ≤ 95) (formed : capWellFormed (s.pair b) = true)
    (ctx : s.ctxBySlot (wbits (s.reg a) 6 0) (wbits (s.reg a) 9 8) = some c) :
    let put := (s.modCtx c.id (Ctx.minted (s.reg a) (s.pair b))).finishStatus d stOK
    (capKind (s.pair b) = 0 → exec (.capmintInstall d a b) s = .next put) ∧
    ∀ o, capKind (s.pair b) ≠ 0 → s.capObj (s.pair b) = some o →
      exec (.capmintInstall d a b) s = .next (if s.epochOf o = capEpoch (s.pair b) then put else s.finishStatus d stDenied) := by
  intro put
  have installs : wbit (s.reg a) 31 = false := wbit_of_masked reserved (by decide)
  have plain : ¬(wbit (s.reg a) 7 = true ∨ wbits (s.reg a) 15 10 ≠ 0 ∨ wbits (s.reg a) 30 24 ≠ 0 ∨ wbits (s.reg a) 63 32 ≠ 0 ∨ 95 < wbits (s.reg a) 6 0 ∨
      capWellFormed (s.pair b) = false) := by
    have bit7 : wbit (s.reg a) 7 = false := wbit_of_masked reserved (by decide)
    have low : wbits (s.reg a) 15 10 = 0 := wbits_of_masked reserved (by decide)
    have mid : wbits (s.reg a) 30 24 = 0 := wbits_of_masked reserved (by decide)
    have high : wbits (s.reg a) 63 32 = 0 := wbits_of_masked reserved (by decide)
    simp [bit7, low, mid, high, formed, station]
  have step : exec (.capmintInstall d a b) s = .next (s.capInstall (.capmintInstall d a b) d (s.reg a) (s.pair b)) := by
    change execCapmintInstall d a b s = _
    rw [execCapmintInstall, opCapmint, issue_ready ready, installs]
    rfl
  rw [step, State.capInstall, if_neg plain, ctx]
  exact ⟨fun kind => congrArg _ (if_pos kind), fun o kind obj => by
    simp only [if_neg kind, obj, put, minted_entry _ kind]⟩

theorem capmintResults : Claims.CapmintResults := by
  intro s d a b ready v x
  refine ⟨fun c reserved station formed kind ctx => ?clear, fun c o reserved station formed kind ctx obj => ?entry, fun o whole formed obj => ?advance⟩
  case clear =>
    rw [(execCapmintInstall_ready ready reserved station formed ctx).1 kind, minted_clear _ kind]
  case entry =>
    have step := (execCapmintInstall_ready ready reserved station formed ctx).2 o kind obj
    rw [step, minted_entry _ kind]
    exact ⟨fun current => by rw [if_pos current], fun other => by rw [if_neg other]⟩
  case advance =>
    have fields : wbit v 31 = true ∧ ¬(wbits v 30 0 ≠ 0 ∨ wbits v 63 32 ≠ 0 ∨ advanceWellFormed x = false) := by
      rw [whole, formed]
      decide
    change execCapmintAdvance d a b s = _
    rw [execCapmintAdvance, opCapmint, issue_ready ready, if_pos fields.1, State.capAdvance, if_neg fields.2, obj]
    exact congrArg (fun n => Host.Outcome.next (((s.advanceEpoch o).finish d (w64 n)))) (Nat.zero_add _)

/-! ### TLBINV (R362) -/

theorem tlbDrop_kept {s : State} {m : TlbOp} {e : TlbEntry} (left : e ∈ (s.tlbDrop m).mmu.tlb) :
    e ∈ s.mmu.tlb ∧ ¬(unitIn s.who m.scope e.unit = true ∧ m.hitsEntry e = true) := by
  obtain ⟨stood, kept⟩ := List.mem_filter.1 left
  exact ⟨stood, by simpa [imp_iff_not_or] using kept⟩

theorem tlbinvResults : Claims.TlbinvResults := by
  intro s d a b m ready op waits t
  have step : exec (.tlbinv d a b) s = .next (if t.tlbPending m t.model.nextId then t.waitFor (.system t.model.nextId) else t.finishStatus d stOK) := by
    change execTlbinv d a b s = _
    rw [execTlbinv, issue_ready ready, op]
    simp only [waits]
    rfl
  refine ⟨fun done => ?_, fun pending => ?_, fun e left => tlbDrop_kept left, rfl, rfl⟩
  · rw [step, done]
    rfl
  · rw [step, pending]
    rfl

/-! ### RDSTATE (R457) -/

theorem rdstateResults : Claims.RdstateResults := by
  intro s d a ready
  refine ⟨fun v live item => ?_, fun item => ?_⟩ <;>
  · change execRdstate d a s = _
    rw [execRdstate, issue_ready ready, item]
    simp [stOK, stDenied, boolNat]

/-- Settles O55: one lemma for each of the three instructions. -/
theorem serviceForms : Obligations.ServiceForms := ⟨capmintResults, tlbinvResults, rdstateResults⟩

end Sys2Proof.Machine
end

section
/-! PROOFS. Memory health (O31: R436 to R442). -/

namespace Sys2Proof.Machine

/-- Changing what is found by one key leaves what is found by another. -/
theorem find?_modifyFirst_other {α : Type} {p q : α → Bool} {f : α → α} (same : ∀ a, q (f a) = q a) (apart : ∀ a, p a = true → q a = false)
    (l : List α) : (modifyFirst p f l).find? q = l.find? q := by
  induction l with
  | nil => rfl
  | cons a l ih =>
    cases here : p a
    · simp [modifyFirst, here, List.find?_cons, ih]
    · simp [modifyFirst, here, same, apart a here]

/-! ### Health blocks -/

theorem healthOf_modHealth_ne (s : State) {c d : Nat} {f : Health → Health} (hf : ∀ x, (f x).ctl = x.ctl) (ne : d ≠ c) :
    (s.modHealth c f).healthOf d = s.healthOf d := by
  have apart : ∀ x : Health, (x.ctl == c) = true → (x.ctl == d) = false := fun x h => by
    rw [beq_iff_eq.1 h]
    exact beq_false_of_ne ne.symm
  have modified := find?_modifyFirst_other (f := f) (q := fun x => x.ctl == d) (fun x => by rw [hf]) apart s.health.ctls
  unfold State.modHealth State.healthOf
  split
  · simp only [modified]
  · have other : (f (Health.zero c)).ctl ≠ d := by
      rw [hf]
      exact ne.symm
    simp [List.find?_append, other]

theorem healthOf_congr {s t : State} (same : t.health.ctls = s.health.ctls) (c : Nat) : t.healthOf c = s.healthOf c := by
  rw [State.healthOf, same, State.healthOf]

theorem modHealth_dead (s : State) (c : Nat) (f : Health → Health) : (s.modHealth c f).health.dead = s.health.dead := by
  unfold State.modHealth
  split <;> rfl

theorem modHealth_hpmap (s : State) (c : Nat) (f : Health → Health) : (s.modHealth c f).health.hpmap = s.health.hpmap := by
  unfold State.modHealth
  split <;> rfl

theorem pchRetireStart_dead (s : State) (c p r : Nat) : (s.pchRetireStart c p r).health.dead = s.health.dead := by
  unfold State.pchRetireStart
  split
  · rfl
  · exact modHealth_dead ..

/-! ### Refresh and retraining (R437) -/

theorem refresh_counts {s : State} {c p : Nat} (dram : s.part ≠ 2) (arg : s.model.arg = .n2 c p) (ctl : c < 96) (pch : p < 32) :
    ∃ t, exec .refresh s = .next t ∧ lookupD (t.healthOf c).refresh p 0 = lookupD (s.healthOf c).refresh p 0 + 1 := by
  refine ⟨s.modHealth c fun h => { h with refresh := assign h.refresh p (lookupD h.refresh p 0 + 1) }, ?_, ?_⟩
  · change execRefresh s = _
    simp only [execRefresh, arg]
    exact if_neg (by omega)
  · rw [healthOf_modHealth _ _ (by exact fun _ => rfl)]
    exact lookupD_assign_self ..

theorem retrain_early {s : State} {c p : Nat} {ok : Bool} (early : lookupD (s.healthOf c).refresh p 0 < (s.healthOf c).htrain.toNat) :
    s.retrain c p ok = s := if_pos early

/-- The failures in a row that a burst leaves. -/
def failuresAfter (s : State) (c p : Nat) (ok : Bool) : Nat :=
  if ok = true ∧ lookupD (s.healthOf c).failed p 0 < 3 then 0 else lookupD (s.healthOf c).failed p 0 + 1

/-- The block of the controller once a burst has begun the count of refresh commands again. -/
def State.burstDone (s : State) (c p n : Nat) : State := s.modHealth c fun h => { h with refresh := assign h.refresh p 0, failed := assign h.failed p n }

theorem burstDone_health (s : State) (c p n : Nat) :
    lookupD ((s.burstDone c p n).healthOf c).refresh p 0 = 0 ∧ lookupD ((s.burstDone c p n).healthOf c).failed p 0 = n ∧
      ((s.burstDone c p n).healthOf c).retiring = (s.healthOf c).retiring := by
  rw [State.burstDone, healthOf_modHealth _ _ (by exact fun _ => rfl)]
  exact ⟨lookupD_assign_self .., lookupD_assign_self .., rfl⟩

theorem retrain_due {s : State} {c p : Nat} {ok : Bool} (due : (s.healthOf c).htrain.toNat ≤ lookupD (s.healthOf c).refresh p 0) :
    s.retrain c p ok =
      if 3 ≤ failuresAfter s c p ok ∧ (s.healthOf c).retiring = none ∧ (c, p) ∉ s.health.deadPch then (s.burstDone c p 0).pchRetireStart c p 1
      else s.burstDone c p (failuresAfter s c p ok) := by
  have goes : (decide (3 ≤ failuresAfter s c p ok) && (s.healthOf c).retiring.isNone && !s.health.deadPch.contains (c, p)) =
      decide (3 ≤ failuresAfter s c p ok ∧ (s.healthOf c).retiring = none ∧ (c, p) ∉ s.health.deadPch) := by
    rw [Bool.eq_iff_iff]
    simp [and_assoc]
  have unfolded : s.retrain c p ok =
      let go := decide (3 ≤ failuresAfter s c p ok) && (s.healthOf c).retiring.isNone && !s.health.deadPch.contains (c, p)
      if go then (s.burstDone c p (if go then 0 else failuresAfter s c p ok)).pchRetireStart c p 1
      else s.burstDone c p (if go then 0 else failuresAfter s c p ok) := if_neg (Nat.not_lt.2 due)
  rw [unfolded, goes]
  by_cases go : 3 ≤ failuresAfter s c p ok ∧ (s.healthOf c).retiring = none ∧ (c, p) ∉ s.health.deadPch <;>
    simp [go]

theorem retrain_result {s : State} {c p : Nat} {ok : Bool} (due : (s.healthOf c).htrain.toNat ≤ lookupD (s.healthOf c).refresh p 0) :
    let n := failuresAfter s c p ok
    let free := (s.healthOf c).retiring = none ∧ (c, p) ∉ s.health.deadPch
    lookupD ((s.retrain c p ok).healthOf c).refresh p 0 = 0 ∧
      (3 ≤ n ∧ free → lookupD ((s.retrain c p ok).healthOf c).failed p 0 = 0 ∧ ((s.retrain c p ok).healthOf c).retiring = some (p, 1)) ∧
      (¬(3 ≤ n ∧ free) → lookupD ((s.retrain c p ok).healthOf c).failed p 0 = n ∧
        ((s.retrain c p ok).healthOf c).retiring = (s.healthOf c).retiring) := by
  intro n free
  rw [retrain_due due]
  by_cases go : 3 ≤ n ∧ free
  · obtain ⟨refresh, failed, retiring⟩ := burstDone_health s c p 0
    rw [if_pos go, pchRetireStart_taken (retiring.trans go.2.1), healthOf_modHealth _ _ (by exact fun _ => rfl)]
    exact ⟨refresh, fun _ => ⟨failed, rfl⟩, fun stays => absurd go stays⟩
  · obtain ⟨refresh, failed, retiring⟩ := burstDone_health s c p n
    rw [if_neg go]
    exact ⟨refresh, fun goes => absurd goes go, fun _ => ⟨failed, retiring⟩⟩

theorem exec_retrainBurst {s : State} {c p : Nat} {ok : Bool} (dram : s.part ≠ 2) (arg : s.model.arg = .burst c p ok) :
    exec .retrainBurst s = .next (s.retrain c p ok) := by
  change execRetrainBurst s = _
  simp only [execRetrainBurst, arg, if_neg dram]

/-! ### Temperature (R438) -/

/-- HTEMP with a layer's band. -/
def putBand (layer band : Nat) (t : Word) : Word := (t &&& ~~~ (0xF#64 <<< (4 * layer))) ||| w64 (band * 2 ^ (4 * layer))

theorem wbits_putBand {layer band : Nat} (layers : layer < 16) (bands : band < 4) (t : Word) :
    wbits (putBand layer band t) (4 * layer + 3) (4 * layer) = band := by
  refine Nat.eq_of_testBit_eq fun i => ?_
  rw [wbits, testBit_bitsOf, putBand, BitVec.testBit_toNat, BitVec.getLsbD_or, BitVec.getLsbD_and]
  have above (h : 4 ≤ i) : band.testBit i = false :=
    Nat.testBit_lt_two_pow (Nat.lt_of_lt_of_le bands (Nat.pow_le_pow_right (n := 2) (by decide) (by omega : 2 ≤ i)))
  by_cases inside : i < 4
  · have cleared : (~~~ (0xF#64 <<< (4 * layer))).getLsbD (4 * layer + i) = false := by
      have ones : (0xF#64).getLsbD i = true := by
        interval_cases i <;> rfl
      simp [BitVec.getLsbD_not, BitVec.getLsbD_shiftLeft, ones]
    rw [cleared, w64, BitVec.getLsbD_ofNat, Nat.testBit_mul_two_pow]
    simp [show 4 * layer + i < 64 by omega, show 4 * layer + 3 + 1 - 4 * layer = 4 by omega, inside]
  · rw [above (by omega)]
    simp
    omega

theorem putBands_health (layer band : Nat) (stack : Nat) (n : Nat) (s : State) (c : Nat) :
    ((List.range n).foldl (fun s k => s.modHealth (12 * stack + k) fun h => { h with htemp := putBand layer band h.htemp }) s).healthOf c =
      if 12 * stack ≤ c ∧ c < 12 * stack + n then { s.healthOf c with htemp := putBand layer band (s.healthOf c).htemp } else s.healthOf c := by
  induction n with
  | zero => rw [if_neg (by omega)]; rfl
  | succ n ih =>
    rw [List.range_succ, List.foldl_append, List.foldl_cons, List.foldl_nil]
    by_cases last : c = 12 * stack + n
    · subst last
      rw [healthOf_modHealth _ _ (by exact fun _ => rfl), ih, if_neg (by omega), if_pos (by omega)]
    · rw [healthOf_modHealth_ne _ (by exact fun _ => rfl) last, ih]
      exact if_congr (by omega) rfl rfl

theorem temperature_reaches {s : State} {stack layer band k : Nat} (dram : s.part ≠ 2) (arg : s.model.arg = .n3 stack layer band)
    (stackIn : stack < 8) (layers : layer < 16) (bands : band < 4) (ctl : k < 12) :
    ∃ t, exec .temperatureBandChange s = .next t ∧ wbits (t.healthOf (12 * stack + k)).htemp (4 * layer + 3) (4 * layer) = band ∧
      ∀ c, (c < 12 * stack ∨ 12 * stack + 12 ≤ c) → t.healthOf c = s.healthOf c := by
  refine ⟨_, ?_, ?_, fun c other => (putBands_health layer band stack 12 s c).trans (if_neg (by omega))⟩
  · change execTemperatureBandChange s = _
    simp only [execTemperatureBandChange, arg]
    exact if_neg (by omega)
  · rw [putBands_health, if_pos (by omega)]
    exact wbits_putBand layers bands _

/-! ### Spares (R439, R440) -/

theorem exec_spareEvent {s : State} {c pch bank row g : Nat} {slots : List Nat} {unc : Bool} (dram : s.part ≠ 2)
    (arg : s.model.arg = .spare c pch bank row g slots unc) : exec .spareEvent s = .next (s.spareEvent c pch bank row g slots unc) := by
  change execSpareEvent s = _
  simp only [execSpareEvent, arg, if_neg dram]

theorem weakWith_eq (b : Bank) (row g : Nat) (unc : Bool) :
    b.weakWith row g unc = if unc = true ∨ (row, g) ∈ b.weak then b.weak else b.weak ++ [(row, g)] := by
  simp only [Bank.weakWith, List.contains_eq_mem, decide_eq_true_eq]

theorem spareEvent_granule {s : State} {c pch bank row g : Nat} {slots : List Nat} (row_ : row ∉ (s.bankOf c pch bank).exhausted)
    (pch_ : (c, pch) ∉ s.health.deadPch) (few : (((s.bankOf c pch bank).weakWith row g false).filter fun x => x.1 == row).length < 3)
    (remaps : 0 < (s.bankOf c pch bank).remaps) (granules : 0 < (s.bankOf c pch bank).granules) :
    s.spareEvent c pch bank row g slots false = s.putBank { s.bankOf c pch bank with
      remaps := (s.bankOf c pch bank).remaps - 1, granules := (s.bankOf c pch bank).granules - 1, weak := (s.bankOf c pch bank).weakWith row g false } := by
  simp [State.spareEvent, row_, pch_, fewWeak, few, remaps, granules]

/-- The event that takes no granule spare. -/
theorem spareEvent_row {s : State} {c pch bank row g : Nat} {slots : List Nat} {unc : Bool} (row_ : row ∉ (s.bankOf c pch bank).exhausted)
    (pch_ : (c, pch) ∉ s.health.deadPch) (whole : unc = true ∨ 3 ≤ (((s.bankOf c pch bank).weakWith row g unc).filter fun x => x.1 == row).length ∨
      (s.bankOf c pch bank).remaps = 0 ∨ (s.bankOf c pch bank).granules = 0) :
    s.spareEvent c pch bank row g slots unc =
      if 0 < (s.bankOf c pch bank).rows then s.putBank { s.bankOf c pch bank with
        rows := (s.bankOf c pch bank).rows - 1, weak := ((s.bankOf c pch bank).weakWith row g unc).filter fun w => w.1 != row }
      else
        let t := (s.putBank { s.bankOf c pch bank with
          weak := (s.bankOf c pch bank).weakWith row g unc, exhausted := row :: (s.bankOf c pch bank).exhausted }).exhaustRow c pch bank row slots
        if t.allExhausted c pch then t.pchRetireStart c pch 3 else t := by
  have spared : ((s.bankOf c pch bank).exhausted.contains row || s.health.deadPch.contains (c, pch)) = false := by simp [row_, pch_]
  have noGranule : (!unc && fewWeak ((s.bankOf c pch bank).weakWith row g unc) row && decide (0 < (s.bankOf c pch bank).remaps) &&
      decide (0 < (s.bankOf c pch bank).granules)) = false := by
    simpa only [fewWeak, Bool.and_eq_false_iff, Bool.not_eq_false', decide_eq_false_iff_not, or_assoc, Nat.not_lt, Nat.le_zero] using whole
  simp only [State.spareEvent, spared, noGranule, Bool.false_eq_true, if_false]

theorem postRows_dead (pages : List Nat) (c pch bank row : Nat) (s : State) : (s.postRows pages c pch bank row).health = s.health :=
  foldl_field (g := State.health)
    (f := fun s p => s.post clRowSpares 3 c none (detailOf [(p * 0x10000, 0), (c, 64), (pch, 71), (bank, 76), (row, 81)])) (fun _ _ => rfl) pages s

theorem exhaustRow_dead (s : State) (c pch bank row : Nat) (slots : List Nat) :
    ∀ q ∈ slots, pieceOf c pch q ∈ (s.exhaustRow c pch bank row slots).health.dead := by
  intro q slot
  rw [State.exhaustRow, postRows_dead]
  exact List.mem_append_left _ (List.mem_map_of_mem slot)

/-! ### The switch of a retirement (R441) -/

theorem copied_buffer (s : State) (c pch : Nat) : ((s.copied c pch).healthOf c).buffer = (s.healthOf c).buffer := by
  have poisoned (gs : List Nat) : (gs.foldl (fun s g => s.poisonGranule g) s).health.ctls = s.health.ctls :=
    foldl_field (g := fun s => s.health.ctls) (fun t g => by unfold State.poisonGranule; split <;> rfl) gs s
  rw [State.copied, healthOf_modHealth _ _ (by exact fun _ => rfl)]
  change (State.healthOf _ c).buffer = _
  rw [healthOf_congr]
  exact poisoned _

theorem replay_empty {s : State} {c : Nat} (idle : (s.healthOf c).buffer = []) :
    s.replay c = s.modHealth c fun h => { h with buffer := [], retiring := none } := by
  rw [State.replay, idle]
  rfl

theorem pchSwitch_spare {s : State} {c pch reason i : Nat} (free : s.freeSpare (c / 12) = some i) (idle : (s.healthOf c).buffer = []) :
    lookup (s.pchSwitch c pch reason).health.hpmap (c / 12, i) = some (32 * (c % 12) + pch) ∧
      ((s.pchSwitch c pch reason).healthOf c).hretire = 2 ∧ ((s.pchSwitch c pch reason).healthOf c).retiring = none := by
  have buffer := copied_buffer s c pch
  have empty : ({ s.copied c pch with health := { (s.copied c pch).health with
      hpmap := assign (s.copied c pch).health.hpmap (c / 12, i) (32 * (c % 12) + pch) } }.healthOf c).buffer = [] := buffer.trans idle
  have switched : (s.pchSwitch c pch reason).health = (({ s.copied c pch with health := { (s.copied c pch).health with
      hpmap := assign (s.copied c pch).health.hpmap (c / 12, i) (32 * (c % 12) + pch) } }.modHealth c fun h =>
        { h with buffer := [], retiring := none }).modHealth c fun h => { h with hretire := 2 }).health := by
    simp only [State.pchSwitch, free, replay_empty empty]
    rfl
  rw [healthOf_congr (congrArg HealthUnits.ctls switched), switched, modHealth_hpmap, modHealth_hpmap, healthOf_modHealth _ _ (by exact fun _ => rfl),
    healthOf_modHealth _ _ (by exact fun _ => rfl), lookup_assign, if_pos rfl]
  exact ⟨rfl, rfl, rfl⟩

/-! ### In-field test (R442) -/

/-- The registers and suspects of the state in which a test's result has been entered, before its package is measured. -/
def State.resultEntered (s : State) (d result vectors : Nat) : State :=
  { s with health := { s.health with calctl := assign s.health.calctl d (w64 (result + vectors * 2 ^ 32)) } }

theorem measure_health (s : State) (digest : BitVec 256) (kind : Nat) : (s.measure digest kind).health = s.health := by
  unfold State.measure
  split <;> rfl

/-- Elements that a test suspects: a failing test adds its own, a passing one clears the station's. -/
def suspectsAfter (result st : Nat) (failing old : List (Nat × Nat)) : List (Nat × Nat) :=
  if result = 2 then old ++ failing.filter fun p => p.1 / 4 == st && !old.contains p
  else if result = 1 then old.filter fun p => p.1 / 4 != st else old

theorem mem_suspectsAfter_pass {st : Nat} {failing old : List (Nat × Nat)} {p : Nat × Nat} :
    p ∈ suspectsAfter 1 st failing old ↔ p ∈ old ∧ ¬p.1 / 4 = st := by
  simp [suspectsAfter]

theorem mem_suspectsAfter_fail {st : Nat} {failing old : List (Nat × Nat)} {p : Nat × Nat} :
    p ∈ suspectsAfter 2 st failing old ↔ p ∈ old ∨ (p ∈ failing ∧ p.1 / 4 = st) := by
  by_cases there : p ∈ old <;> simp [suspectsAfter, there]

theorem calibrationDone_ends {s : State} {d r n : Nat} {x : BitVec 256} {l : List (Nat × Nat)} {v : Word}
    (test : lookup s.health.calctl d = some v) (runs : wbits v 1 0 = 0) (result : r ≠ 0) (ends : r ≠ 3) :
    s.calibrationDone d r n x l =
      let t := (s.resultEntered d r n).measure x 3
      { t with health := { t.health with suspects := suspectsAfter r (24 * d + wbits v 12 8) l t.health.suspects } } := by
  have stops : ¬(wbits v 1 0 ≠ 0 ∨ r = 0) := by simp [runs, result]
  simp only [State.calibrationDone, test, if_neg stops, if_neg ends, suspectsAfter]
  by_cases failing : r = 2
  · subst failing
    rfl
  · simp only [if_neg failing]
    rfl

theorem exec_calibrationDone {s : State} {d : Nat} {r : BitVec 2} {n : BitVec 32} {x : BitVec 256} {l : List (Nat × Nat)} (dram : s.part ≠ 2)
    (arg : s.model.arg = .calib d r n x l) :
    exec .calibrationDone s = .next (if s.closing then s else s.calibrationDone d r.toNat n.toNat x l) := by
  change execCalibrationDone s = _
  simp only [execCalibrationDone, arg, dram, false_or]
  split <;> rfl

/-- R442: the result stands in CALCTL, the suspects follow it, and the package is measured. -/
theorem calibrationDone_result {s : State} {d : Nat} {r : BitVec 2} {n : BitVec 32} {x : BitVec 256} {l : List (Nat × Nat)} {v : Word}
    (test : lookup s.health.calctl d = some v) (runs : wbits v 1 0 = 0) (result : r ≠ 0) (ends : r ≠ 3) :
    let t := s.calibrationDone d r.toNat n.toNat x l
    lookupD t.health.calctl d 0 = w64 (r.toNat + n.toNat * 2 ^ 32) ∧
      t.health.suspects = suspectsAfter r.toNat (24 * d + wbits v 12 8) l s.health.suspects ∧
      (s.boot.log.length < 1024 → t.boot.log = s.boot.log ++ [0#192 ++ BitVec.ofNat 32 s.boot.log.length ++ 3#32 ++ x]) := by
  have nonzero : r.toNat ≠ 0 := fun e => result (BitVec.eq_of_toNat_eq e)
  have notThree : r.toNat ≠ 3 := fun e => ends (BitVec.eq_of_toNat_eq e)
  rw [calibrationDone_ends test runs nonzero notThree]
  refine ⟨?_, ?_, fun room => ?_⟩
  · exact (congrArg (fun h : HealthUnits => lookupD h.calctl d 0) (measure_health ..)).trans (lookupD_assign_self ..)
  · have suspects : ((s.resultEntered d r.toNat n.toNat).measure x 3).health.suspects = s.health.suspects := by rw [measure_health, State.resultEntered]
    exact congrArg (suspectsAfter r.toNat (24 * d + wbits v 12 8) l) suspects
  · exact congrArg (fun t : State => t.boot.log) (measure_room (s := s.resultEntered d r.toNat n.toNat) room)

/-- Settles O31: one lemma for each event. -/
theorem healthEvents : Obligations.HealthEvents := by
  intro s dram
  refine ⟨fun c p arg ctl pch => refresh_counts dram arg ctl pch, fun c p ok arg => ⟨fun early => ?early, fun due => ?due⟩,
    fun stack layer band k arg stackIn layers bands ctl => temperature_reaches dram arg stackIn layers bands ctl,
    fun c pch bank row g slots unc arg => ?spare, fun c pch reason arg retiring => ⟨?switch, fun i free idle => pchSwitch_spare free idle⟩,
    fun d r n x l v arg test runs result ends => ?calibration⟩
  case early => rw [exec_retrainBurst dram arg, retrain_early early]
  case due => exact ⟨_, exec_retrainBurst dram arg, retrain_result due⟩
  case spare =>
    intro b weak inRow live spares
    have step := exec_spareEvent dram arg
    have same : b.weakWith row g unc = weak := weakWith_eq ..
    refine ⟨fun correctable few remaps granules => ?_, fun whole rows => ?_, fun whole rows => ?_⟩
    · subst correctable
      rw [step, spareEvent_granule live spares (by rw [same]; exact few) remaps granules, same]
    · rw [step, spareEvent_row live spares (by rw [same]; exact whole), if_pos rows, same]
    · refine ⟨_, step, fun q slot => ?_⟩
      rw [spareEvent_row live spares (by rw [same]; exact whole), if_neg (Nat.not_lt.2 (Nat.le_of_eq rows))]
      dsimp only
      split
      · rw [pchRetireStart_dead]
        exact exhaustRow_dead _ c pch bank row slots q slot
      · exact exhaustRow_dead _ c pch bank row slots q slot
  case switch =>
    change execPchRetireSwitch s = _
    simp only [execPchRetireSwitch, arg, retiring]
  case calibration =>
    have step := exec_calibrationDone dram arg
    refine ⟨fun closing => ?_, fun runsOn => ⟨s.calibrationDone d r.toNat n.toNat x l, ?_, ?_⟩⟩
    · rw [step, closing, if_pos rfl]
    · rw [step, runsOn, if_neg Bool.false_ne_true]
    · obtain ⟨entered, suspects, log⟩ := calibrationDone_result (s := s) (n := n) (x := x) (l := l) test runs result ends
      refine ⟨entered, ⟨fun pass p => ?_, fun fail p => ?_⟩, log⟩
      · rw [suspects, pass]
        exact mem_suspectsAfter_pass
      · rw [suspects, fail]
        exact mem_suspectsAfter_fail

end Sys2Proof.Machine
end

section
/-! PROOFS. The link and the host's ports (O34: R369 to R372, R378 to R380, R385, R452, R455). -/

namespace Sys2Proof.Machine

namespace State

/-! ### What a refusal leaves of the link's tables -/

theorem putTable_link (s : State) (a : Actor) (t : Thr) : (s.putTable a t).link = s.link := by
  unfold State.putTable
  split
  · split <;> rfl
  · rfl

theorem load_link (s : State) (a : Actor) : (s.load a).link = s.link := by
  unfold State.load
  dsimp only
  split
  · rfl
  · split <;> exact s.putTable_link s.who s.cpu

theorem asActor_link {f : State → State} (keeps : ∀ t, (f t).link = t.link) (s : State) (a : Actor) : (s.asActor a f).link = s.link := by
  unfold State.asActor
  dsimp only
  split
  · rw [load_link, keeps, load_link]
  · rfl

/-- An answer without poison consumes none. -/
theorem ending_clean {ans : Answer} {r : Result} (clean : r.poisoned = false) : ans.ending r ≠ .consume := by
  cases ans <;> simp only [Answer.ending, clean, Bool.false_eq_true, if_false] <;> (try split) <;> exact nofun

theorem deliverTo_link (s : State) (p : Pend) (ans : Answer) (ea : Word) (pa : Nat) {r : Result} (clean : r.poisoned = false) :
    (s.deliverTo p ans ea pa r).link = s.link := by
  unfold State.deliverTo
  dsimp only
  split
  · rfl
  · rfl
  next consumed => exact absurd consumed (ending_clean clean)

theorem refilled_link (s : State) (ea : Word) (pa : Nat) {r : Result} (clean : r.poisoned = false) : (s.refilled ea pa r).link = s.link := by
  simp only [State.refilled, clean, Bool.false_eq_true, if_false]
  rfl

theorem answerTo_link (s : State) (who : Source) (id : Nat) (ans : Answer) (ea : Word) (pa : Nat) {r : Result} (clean : r.poisoned = false) :
    (s.answerTo who id ans ea pa r).link = s.link := by
  cases who with
  | actor a =>
    refine asActor_link (fun t => ?_) s a
    split
    · split
      · rfl
      · exact t.deliverTo_link _ _ _ _ clean
    · rfl
  | fetch a =>
    have refilled (t : State) : (if t.cpu.fetching = some id then t.refilled ea pa r else t).link = t.link := by
      split
      · exact t.refilled_link _ _ clean
      · rfl
    exact asActor_link refilled s a
  | region _ | job _ _ | link _ | pcie _ _ => rfl

theorem refuseStaging_link (s : State) (j : Job) (pkg : Nat) : (s.refuseStaging j pkg).link = s.link := by
  unfold State.refuseStaging
  split <;> rfl

theorem refuseJob_link (s : State) (j : Job) (r : OutReq) (st : Status) : (s.refuseJob j r st).link = s.link := by
  unfold State.refuseJob
  split
  · rfl
  · split
    · exact refuseStaging_link ..
    · split <;> rfl

theorem refuseOut_link (s : State) (r : OutReq) (st : Status) : (s.refuseOut r st).link = s.link := by
  unfold State.refuseOut
  dsimp only
  split
  · exact refuseJob_link ..
  · split
    · rfl
    · rfl
    · split
      · exact answerTo_link _ _ _ _ _ _ rfl
      · exact answerTo_link _ _ _ _ _ _ rfl

theorem losePackage_unreachable (s : State) (p : Nat) : p ∈ (s.losePackage p).link.unreachable := by
  have refused (rs : List OutReq) (t : State) : (rs.foldl (fun s r => s.refuseOut r stTimeout) t).link = t.link :=
    foldl_field (g := State.link) (fun t r => refuseOut_link ..) rs t
  unfold State.losePackage
  rw [refused]
  dsimp only
  split
  next listed => exact List.contains_iff_mem.1 listed
  · exact List.mem_cons_self

/-! ### Accesses from other packages (R369) -/

theorem exec_inboundAccess {s : State} {port src off : Nat} {op : RemoteOp} (arg : s.model.arg = .inbound port src off op) :
    exec .inboundAccess s = .next (if s.closing = true ∨ s.linkUp port = false then s else s.inbound src off op) := by
  change execInboundAccess s = _
  simp only [execInboundAccess, arg]
  split <;> rfl

theorem inbound_window {s : State} {src off : Nat} {op : RemoteOp} (window : inCtlWindow off = true) :
    s.inbound src off op = s.reply src false ⟨0, stPermission, 0, false⟩ := if_pos window

theorem inbound_refused {s : State} {src off : Nat} {op : RemoteOp} (window : inCtlWindow off = false)
    (refused : inboundCheck s.link.peers src off (remoteNeed op) ≠ stOK) :
    s.inbound src off op = s.reply src false ⟨0, inboundCheck s.link.peers src off (remoteNeed op), 0, false⟩ := by
  simp only [State.inbound, window, Bool.false_eq_true, if_false]
  split
  next ok => exact absurd ok refused
  · rfl

theorem inbound_admitted {s : State} {src off : Nat} {op : RemoteOp} (window : inCtlWindow off = false)
    (ok : inboundCheck s.link.peers src off (remoteNeed op) = stOK) :
    s.inbound src off op =
      if (s.localHome off).isMem = false then s.reply src false ⟨0, stPermission, 0, false⟩
      else if transferOp op = true ∧ s.stagingFull off = true then s.reply src false ⟨0, stBusy, 0, false⟩
      else s.takeIn (.link src) src false off (remoteMem op) := by
  simp only [State.inbound, window, Bool.false_eq_true, if_false, ok, Bool.not_eq_true']
  rfl

/-! ### Records of failures (R378) -/

theorem post_record (s : State) (cls : Cls) (kind source : Nat) (ctx : Option Ctx) (detail : BitVec 352) :
    ∃ r, (s.post cls kind source ctx detail).tree.recs = s.tree.recs ++ [r] ∧ r.cls = cls ∧ r.laneR = cls.laneR :=
  ⟨_, rfl, rfl, rfl⟩

/-- A port that has failed takes part in nothing. -/
def withoutPort (s : State) (p : Nat) : State := { s with link := { s.link with portsDown := p :: s.link.portsDown } }

def failureDetail (p : Nat) (far : Option Nat) : BitVec 352 := detailOf [(p, 0), (match far with | some q => q % 512 | none => 0, 32)]

theorem exec_linkPortFailure {s : State} {p : Nat} {far : Option Nat} (arg : s.model.arg = .port p far) (up : p ∉ s.link.portsDown)
    (accepted : s.boot.acc1.getLsbD p = true) : exec .linkPortFailure s = .next ((s.withoutPort p).post clLinkFailure 4 p none (failureDetail p far)) := by
  change execLinkPortFailure s = _
  rw [execLinkPortFailure, arg]
  exact if_neg (by simp [up, accepted])

/-! ### PCIe (R380) -/

theorem exec_pcie {s : State} {port rq off : Nat} {relaxed : Bool} {op : RemoteOp} (arg : s.model.arg = .pcie port rq off relaxed op)
    (runs : s.closing = false) :
    exec .pcieInboundRequest s = .next
      (if (pcieOp op = true ∧ s.part ≠ 2 ∧ off < 0x8000000000) ∧ inboundCheck s.link.buses rq off (remoteNeed op) = stOK then
        s.takeIn (.pcie port (relaxed && pcieStore op)) rq true off (remoteMem op)
      else if pcieStore op then { s with link := { s.link with aer := assign s.link.aer port (lookupD s.link.aer port 0 + 1) } }
      else s.reply rq true ⟨0, stPermission, 0, false⟩) := by
  change execPcieInboundRequest s = _
  simp only [execPcieInboundRequest, arg, runs, Bool.false_eq_true, if_false]
  have taken : (if s.part = 2 ∨ 0x8000000000 ≤ off ∨ pcieOp op = false then stPermission else inboundCheck s.link.buses rq off (remoteNeed op)) = stOK ↔
      (pcieOp op = true ∧ s.part ≠ 2 ∧ off < 0x8000000000) ∧ inboundCheck s.link.buses rq off (remoteNeed op) = stOK := by
    split
    next unsupported =>
      refine iff_of_false (by decide) ?_
      rintro ⟨⟨form, dram, inside⟩, -⟩
      rcases unsupported with none | beyond | other
      · exact dram none
      · exact Nat.not_lt.2 beyond inside
      · exact Bool.false_ne_true (other.symm.trans form)
    next supported =>
      simp only [not_or, Nat.not_le, Bool.not_eq_false] at supported
      obtain ⟨dram, inside, form⟩ := supported
      exact ⟨fun ok => ⟨⟨form, dram, inside⟩, ok⟩, And.right⟩
  simp only [taken]
  split
  · rfl
  · split <;> rfl

/-! ### BAR0 (R455) -/

theorem exec_bar0 {s : State} {off size : Nat} {w : Option Word} (arg : s.model.arg = .bar0 off size w) :
    exec .hostBar0Access s = .next (if s.closing then s else if (size = 4 ∨ size = 8) ∧ off % size = 0 then s.bar0 off size w
      else if w.isSome then s else s.reply 0 true ⟨0, stOK, 0, false⟩) := by
  change execHostBar0Access s = _
  simp only [execHostBar0Access, arg]
  split
  · rfl
  · split <;> rfl

theorem bar0At_ctl {off : Nat} (h : off < 0x100 ∨ (0x800 ≤ off ∧ off < 0x900)) : bar0At off = .ctl off := if_pos h

theorem bar0At_log {off : Nat} (low : 0x10000 ≤ off) (high : off < 0x20000) : bar0At off = .log off := by
  rw [bar0At, if_neg (by omega), if_pos ⟨low, high⟩]

theorem bar0At_boot {off : Nat} (low : 0x100000 ≤ off) (high : off < 0x200000) : bar0At off = .boot (off - 0x100000) := by
  rw [bar0At, if_neg (by omega), if_neg (by omega), if_pos ⟨low, high⟩]

theorem bar0_ctl (s : State) {off size : Nat} (h : off < 0x100 ∨ (0x800 ≤ off ∧ off < 0x900)) :
    s.bar0 off size none = s.reply 0 true ⟨s.ctlRead (.pkgCtl off) size % 2 ^ (8 * size), stOK, 0, false⟩ ∧
      ∀ v, s.bar0 off size (some v) = s.ctlWrite (.pkgCtl off) size v.toNat := by
  simp only [State.bar0, bar0At_ctl h, implies_true, and_self]

theorem bar0_log (s : State) {off size : Nat} (low : 0x10000 ≤ off) (high : off < 0x20000) :
    s.bar0 off size none = s.reply 0 true ⟨s.ctlRead (.pkgCtl off) size % 2 ^ (8 * size), stOK, 0, false⟩ ∧
      ∀ v, s.bar0 off size (some v) = s := by
  simp only [State.bar0, bar0At_log low high, implies_true, and_self]

theorem bar0_boot (s : State) {off size : Nat} (low : 0x100000 ≤ off) (high : off < 0x200000) :
    s.bar0 off size none = s.reply 0 true ⟨memNat s.boot.window (off - 0x100000) size % 2 ^ (8 * size), stOK, 0, false⟩ := by
  simp only [State.bar0, bar0At_boot low high]

end State

/-- Settles O34: one equation for each event, and the cases of its check. -/
theorem linkEvents : Obligations.LinkEvents := by
  intro s
  refine ⟨fun port src off op arg => ?inbound, fun id st r arg waits linked => ?refusal, fun p far arg up accepted => ?failure,
    fun p arg => ⟨⟨s.losePackage p, ?lost, s.losePackage_unreachable p⟩, fun linked => ?found⟩, fun port rq off relaxed op arg => ?pcie,
    fun off size w arg => ?bar0⟩
  case inbound =>
    have step := State.exec_inboundAccess arg
    refine ⟨fun down => by rw [step, if_pos down], fun runs up => ?_⟩
    have taken : ¬(s.closing = true ∨ s.linkUp port = false) := by simp [runs, up]
    intro refused st
    rw [step, if_neg taken]
    refine ⟨fun window => congrArg _ (State.inbound_window window), fun window => ⟨fun bad => congrArg _ (State.inbound_refused window bad),
      fun ok far => ?_, fun ok mem full => ?_, fun ok mem room => ?_⟩⟩
    · rw [State.inbound_admitted window ok, if_pos far]
      rfl
    · rw [State.inbound_admitted window ok, if_neg (by simp [mem]), if_pos full]
      rfl
    · rw [State.inbound_admitted window ok, if_neg (by simp [mem]), if_neg room]
  case refusal =>
    change execRefusalReturn s = _
    simp only [execRefusalReturn, arg, waits, linked, if_true]
  case failure =>
    obtain ⟨r, recs, cls, laneR⟩ := (s.withoutPort p).post_record clLinkFailure 4 p none (State.failureDetail p far)
    exact ⟨_, r, State.exec_linkPortFailure arg up accepted, rfl, recs, cls, laneR.trans (by decide), rfl⟩
  case lost =>
    change execPackageUnreachable s = _
    simp only [execPackageUnreachable, arg]
  case found =>
    change execPackageReachable s = _
    simp only [execPackageReachable, arg, linked, if_true]
  case pcie =>
    refine ⟨fun closed => ?_, fun runs => ?_⟩
    · change execPcieInboundRequest s = _
      simp only [execPcieInboundRequest, arg, closed, if_true]
    · intro fits st
      rw [State.exec_pcie arg runs]
      refine ⟨fun ok => congrArg _ (if_pos ok), fun bad => ⟨fun read => ?_, fun store => ?_⟩⟩
      · rw [if_neg bad, if_neg (by simp [read])]
        rfl
      · rw [if_neg bad, if_pos store]
  case bar0 =>
    have step := State.exec_bar0 arg
    refine ⟨fun closed => by rw [step, if_pos closed], fun runs unaligned => ⟨fun read => ?_, fun store => ?_⟩, fun runs sizes aligned => ?_⟩
    · rw [step, if_neg (by simp [runs]), if_neg unaligned, read]
      rfl
    · rw [step, if_neg (by simp [runs]), if_neg unaligned, if_pos (Option.isSome_iff_ne_none.2 store)]
    · rw [step, if_neg (by simp [runs]), if_pos ⟨sizes, aligned⟩]
      refine ⟨fun ctl => ⟨?_, ?_⟩, fun low high => ⟨?_, fun store => ?_⟩, fun low high => ?_⟩
      · rintro rfl
        exact congrArg _ (s.bar0_ctl ctl).1
      · rintro v rfl
        exact congrArg _ ((s.bar0_ctl ctl).2 v)
      · rintro rfl
        exact congrArg _ (s.bar0_log low high).1
      · obtain ⟨v, rfl⟩ := Option.ne_none_iff_exists'.1 store
        exact congrArg _ ((s.bar0_log low high).2 v)
      · rintro rfl
        exact congrArg _ (s.bar0_boot low high)

end Sys2Proof.Machine
end

section
/-! PROOFS. The steps of dome-close (O35: R421 to R423, R427, R433). -/

namespace Sys2Proof.Machine

namespace State

/-! ### The freeze (R421) -/

theorem undoLine_tree (s : State) (line : Nat) : (s.undoLine line).tree = s.tree := by
  unfold State.undoLine State.unprotect
  dsimp only
  repeat' split
  all_goals rfl

/-- A write by no source posts no record. -/
theorem write_tree (s : State) (pa : Nat) (bs : List Byte) : (s.write none pa bs).tree = s.tree := by
  have lines : ((granules pa bs.length).foldl (fun s g => s.undoLine g) s).tree = s.tree :=
    foldl_field (g := State.tree) (fun t g => t.undoLine_tree g) _ s
  unfold State.write State.putBytes
  dsimp only
  split <;> exact lines

theorem postPowerFail_rootSeq (s : State) (event : Nat) : (s.postPowerFail event).tree.rootSeq = s.tree.rootSeq + 1 := by
  unfold State.postPowerFail
  dsimp only
  split
  · rfl
  · rw [write_tree]

theorem unpin_tree (s : State) (pins : List (Nat × Nat)) : (s.unpin pins).tree = s.tree :=
  foldl_field (g := State.tree) (f := fun s (p : Nat × Nat) => s.modTile p.1 p.2 fun t => { t with pins := t.pins - 1 }) (fun _ _ => rfl) pins s

theorem dropInv_tree (s : State) (r : Region) (i : Inv) : (s.dropInv r i).tree = s.tree := by
  obtain ⟨qs, ss, undone⟩ := s.undoInv_eq r i
  rw [State.dropInv, undone]
  exact unpin_tree ..

/-- Discards without completions post nothing. -/
theorem dropAll_tree (s : State) (r : Region) : (s.dropAll r none).tree = s.tree := by
  refine foldl_field (g := State.tree) (fun t i => ?_) r.invs s
  cases i.work <;> exact dropInv_tree t r i

theorem freezeRegions_tree (s : State) : s.freezeRegions.tree = s.tree :=
  foldl_field (g := State.tree) (fun t r => t.dropAll_tree r) s.regions s

theorem freezeRegions_stopped (s : State) : ∀ r ∈ s.freezeRegions.regions, r.freeze ≠ .running := by
  intro r frozen
  obtain ⟨x, -, rfl⟩ := List.mem_map.1 frozen
  cases here : x.freeze <;> simp [here]

theorem domeClose_freezes {s : State} (accepted : s.boot.acc0.getLsbD 1 = true) (idle : s.dome.phase = .idle) (dome : s.part ≠ 2) :
    ∃ t, exec .domeCloseTrigger s = .next t ∧ t.dome.phase = .frozen ∧ t.dome.plates = [] ∧
      t.dome.event = (match s.directory with | some x => x.event | none => 0) + 1 ∧ (∀ r ∈ t.regions, r.freeze ≠ .running) ∧
      t.tree.rootSeq = s.tree.rootSeq + 1 := by
  have step : exec .domeCloseTrigger s = .next (let event := (match s.directory with | some x => x.event | none => 0) + 1
      let t := (s.postPowerFail event).freezeRegions.dropUnsent
      { t with dome := { t.dome with event := event, phase := .frozen, returned := false, plates := [], stop3 := false } }) := by
    change execDomeCloseTrigger s = _
    exact if_pos (by simp [accepted, idle, dome])
  refine ⟨_, step, rfl, rfl, rfl, freezeRegions_stopped _, ?_⟩
  exact (congrArg FaultTree.rootSeq (freezeRegions_tree _)).trans (postPowerFail_rootSeq ..)

/-! ### Handlers (R422) -/

theorem modThr_mem_bus (s : State) (a : Actor) (f : Thr → Thr) : (s.modThr a f).mem = s.mem ∧ (s.modThr a f).bus = s.bus := by
  unfold State.modThr State.putTable
  repeat' split
  all_goals exact ⟨rfl, rfl⟩

theorem startDomes_keep (hs : List (Ctx × Actor)) (s : State) :
    (hs.foldl (fun s p => s.startDome p.1 p.2) s).mem = s.mem ∧ (hs.foldl (fun s p => s.startDome p.1 p.2) s).bus = s.bus ∧
      (hs.foldl (fun s p => s.startDome p.1 p.2) s).cycle = s.cycle :=
  ⟨foldl_field (g := State.mem) (fun _ _ => (modThr_mem_bus ..).1) hs s, foldl_field (g := State.bus) (fun _ _ => (modThr_mem_bus ..).2) hs s,
    foldl_field (g := State.cycle) (fun _ _ => modThr_cycle ..) hs s⟩

theorem handlers_start {s : State} (phase : s.dome.phase = .frozen) (ended : s.frozen = true) :
    ∃ t, exec .domeHandlerStart s = .next t ∧ t.bus.outs = [] ∧ t.mem = s.mem ∧
      t.dome.phase = .handlers ((s.ctxs.filterMap fun c => c.handlerActor).map fun a => (a, s.cycle.toNat)) := by
  have step : exec .domeHandlerStart s = .next (
      let hs := s.ctxs.filterMap fun c => c.handlerActor.map fun a => (c, a)
      let t := hs.foldl (fun s p => s.startDome p.1 p.2) { s with bus := { s.bus with outs := [] } }
      { t with dome := { t.dome with phase := .handlers (hs.map fun p => (p.2, t.cycle.toNat)) } }) := by
    change execDomeHandlerStart s = _
    exact if_pos (by simp [phase, ended])
  obtain ⟨mem, bus, cycle⟩ := startDomes_keep (s.ctxs.filterMap fun c => c.handlerActor.map fun a => (c, a)) { s with bus := { s.bus with outs := [] } }
  refine ⟨_, step, congrArg Bus.outs bus, mem, ?_⟩
  dsimp only
  rw [cycle]
  congr 1
  simp [List.map_filterMap, Option.map_map, Function.comp_def]

/-! ### The directory (R427) -/

theorem getElem?_setAt {α : Type} (l : List α) (i : Nat) (d v : α) : (setAt l i d v)[i]? = some v := by
  induction i generalizing l with
  | zero => cases l <;> rfl
  | succ i ih => cases l <;> exact ih _

end State

/-- Settles O35: each step by the equation of its event. -/
theorem domeEvents : Obligations.DomeEvents := by
  intro s
  refine ⟨fun accepted idle dome => State.domeClose_freezes accepted idle dome, fun none => ?none, fun phase ended => State.handlers_start phase ended,
    fun a rs since c arg phase found ctx expired => ?expiry, fun c x phase next => ?copy, fun phase last => ?last,
    fun phase => ⟨fun arg => ?written, fun arg => ?cut⟩, fun phase => ?returned⟩
  case none =>
    change execDomeCloseTrigger s = _
    rw [execDomeCloseTrigger, none]
    rfl
  case expiry =>
    change execAllowanceExpiry s = _
    simp only [execAllowanceExpiry, arg, phase, found, ctx, expired, if_true]
  case copy =>
    change execDomeCopy s = _
    rw [execDomeCopy, if_pos (by simp [phase]), next]
  case last =>
    change execDomeCopy s = _
    rw [execDomeCopy, if_pos (by simp [phase]), last]
  case written =>
    have step : exec .domeDirectoryWrite s = .next { s.putDirectory s.newDirectory with
        dome := { (s.putDirectory s.newDirectory).dome with phase := .stopped } } := by
      change execDomeDirectoryWrite s = _
      rw [execDomeDirectoryWrite, if_pos (by simp [phase]), if_neg (by simp [arg])]
    exact ⟨_, step, rfl, State.getElem?_setAt ..⟩
  case cut =>
    change execDomeDirectoryWrite s = _
    rw [execDomeDirectoryWrite, if_pos (by simp [phase]), if_pos (by simp [arg])]
  case returned =>
    change execPowerReturn s = _
    exact if_neg (by simp [phase])

end Sys2Proof.Machine
end

section
/-! PROOFS. Declarations, open ranges and plates (O57: R419, R420, R430, R431). -/

namespace Sys2Proof.Machine
open Claims

namespace State

/-- R401: an area whose pages translate to memory is used in their frames. -/
theorem withArea_ok {s t : State} {va n asid : Nat} {svc : Bool} {u : UnitId} {need : Need} {fs : List Nat} {body : List Nat → State → State}
    (space : s.space s.who = some (asid, svc, u)) (walk : xlatePages u asid need svc (pagesOf va n) (va / 0x10000 * 0x10000) s = (t, .ok fs))
    (mem : (fs.all fun f => (t.home f).isMem) = true) : s.withArea va n need body = body fs t := by
  have inside : (fs.find? fun f => !(t.home f).isMem) = none := List.find?_eq_none.2 fun f hf => by simp [List.all_eq_true.1 mem f hf]
  simp only [State.withArea, space, walk, inside]

/-! ### HDECL (R419) -/

theorem finishHu_eq (s : State) (d : Reg) (hu : Nat) : s.finishHu d hu = s.finish d (w64 (hu % 2 ^ 32 * 2 ^ 32)) :=
  congrArg (fun n => s.finish d (w64 n)) (Nat.zero_add _)

/-- The segment that HDECL's operands name. -/
def declared (ga gb : Word) : Segment :=
  ⟨wbits gb 39 36, gb.getLsbD 34, ga.toNat, wbits gb 31 0, wbits gb 33 32, wbits gb 47 40, segCharge (gb.getLsbD 34) (wbits gb 33 32) (wbits gb 31 0)⟩

theorem declare_fits {s t : State} {d : Reg} {c : Ctx} {x : Segment} {pay back : Nat}
    (apart : (c.segments.any fun y => y.index != x.index && x.overlaps y) = false) (closed : (c.opens.any fun o => o.index == x.index) = false)
    (swapped : s.swapSegment c.id x.index (some x) = (pay, back, t)) (budget : pay ≤ s.dome.hbudget + back) (room : t.roomFor = true) :
    s.declare d c x.index (some x) = t.finish d (w64 (pay % 2 ^ 32 * 2 ^ 32)) := by
  have fits : ¬(s.dome.hbudget + back < pay ∨ (!t.roomFor) = true) := by simp [Nat.not_lt.2 budget, room]
  simp only [State.declare, apart, closed, swapped, Bool.false_eq_true, if_false]
  rw [if_neg fits, finishHu_eq]

theorem declare_removes {s t : State} {d : Reg} {c : Ctx} {index pay back : Nat} (closed : (c.opens.any fun o => o.index == index) = false)
    (swapped : s.swapSegment c.id index none = (pay, back, t)) : s.declare d c index none = t.finish d (w64 (back % 2 ^ 32 * 2 ^ 32)) := by
  simp only [State.declare, closed, swapped, Bool.false_eq_true, if_false]
  exact finishHu_eq ..

theorem declarePages_ok {s t : State} {d : Reg} {c : Ctx} {x : Segment} {asid : Nat} {svc : Bool} {u : UnitId} {fs : List Nat}
    (space : s.space s.who = some (asid, svc, u)) (walk : xlatePages u asid .r svc (pagesOf x.base x.len) (x.base / 0x10000 * 0x10000) s = (t, .ok fs))
    (dram : ∀ f ∈ fs, ∃ l, t.home f = .hbm l) : s.declarePages d c x = t.declare d c x.index (some x) := by
  have local_ : (fs.all fun f => match t.home f with | .hbm _ => true | _ => false) = true := by
    refine List.all_eq_true.2 fun f hf => ?_
    obtain ⟨l, here⟩ := dram f hf
    rw [here]
  simp only [State.declarePages, space, walk]
  exact if_pos local_

theorem exec_hdecl {s : State} {d a b : Reg} {c : Ctx} (ready : Ready ⟨.holdup, false, [d, a, b], []⟩ s) (ctx : s.myCtx = some c)
    (good : hdeclBad c (s.reg a) (s.reg b) = false) (open_ : s.closing = false) :
    exec (.hdecl d a b) s = .next (if (s.reg b).getLsbD 63 then s.declare d c (wbits (s.reg b) 39 36) none
      else if (s.reg b).getLsbD 34 then s.declare d c (wbits (s.reg b) 39 36) (some (declared (s.reg a) (s.reg b)))
      else s.declarePages d c (declared (s.reg a) (s.reg b))) := by
  change execHdecl d a b s = _
  rw [execHdecl, holdForm, issue_ready ready, ctx]
  simp only [good, open_, Bool.false_eq_true, if_false, wbit]
  rfl

theorem hdecl_remove_good {c : Ctx} {ga gb : Word} (plain : (gb &&& 0x7FFFFF0FFFFFFFFF#64) = 0) (remove : gb.getLsbD 63 = true) :
    hdeclBad c ga gb = false := by
  have high : wbits gb 62 40 = 0 := wbits_of_masked plain (by decide)
  have low : wbits gb 35 0 = 0 := wbits_of_masked plain (by decide)
  simp [hdeclBad, wbit, remove, high, low]

/-! ### HOPEN and HCLOSE (R420) -/

theorem exec_hopen {s : State} {d a b : Reg} {c : Ctx} {x : Segment} {n t : Nat} (ready : Ready ⟨.holdup, false, [d, a, b], []⟩ s)
    (ctx : s.myCtx = some c) (index : (s.reg a).toNat < 16) (off : wbits (s.reg b) 31 0 % 64 = 0) (len : wbits (s.reg b) 63 32 % 64 = 0)
    (segment : (c.segments.find? fun y => y.index == (s.reg a).toNat) = some x)
    (inside : openLen x (wbits (s.reg b) 31 0) (wbits (s.reg b) 63 32) = some n)
    (free : ((List.range 4).find? fun t => c.opens.all fun o => o.token != t) = some t) :
    exec (.hopen d a b) s = .next
      ((s.modCtx c.id fun c => { c with opens := c.opens ++ [⟨t, (s.reg a).toNat, wbits (s.reg b) 31 0, n⟩] }).finish d (w64 (t * 2 ^ 8))) := by
  have good : ¬(wbits (s.reg a) 63 4 ≠ 0 ∨ wbits (s.reg b) 31 0 % 64 ≠ 0 ∨ wbits (s.reg b) 63 32 % 64 ≠ 0) := by
    simp [wbits_above (lo := 4) index, off, len]
  have numbered : stOK.toNat + t * 2 ^ 8 = t * 2 ^ 8 := Nat.zero_add _
  change execHopen d a b s = _
  rw [execHopen, holdForm, issue_ready ready, ctx]
  simp only [if_neg good, segment, Option.bind_some, inside, free, numbered]

theorem exec_hclose {s : State} {d a : Reg} {c : Ctx} (ready : Ready ⟨.holdup, false, [d, a], []⟩ s) (ctx : s.myCtx = some c)
    (token : (s.reg a).toNat < 4) :
    exec (.hclose d a) s = .next (if (c.opens.any fun o => o.token == (s.reg a).toNat) = true then
      (s.modCtx c.id fun c => { c with opens := c.opens.filter fun o => o.token != (s.reg a).toNat }).finishStatus d stOK
      else s.finishStatus d stDenied) := by
  have good : ¬(wbits (s.reg a) 63 2 ≠ 0) := by simp [wbits_above (lo := 2) token]
  change execHclose d a s = _
  rw [execHclose, holdForm, issue_ready ready, ctx]
  simp only [if_neg good]

end State

theorem holdForms : Claims.HoldForms := by
  intro s d a b c ctx ga gb
  refine ⟨fun ready => ⟨fun s' pay back t good open_ keep pages apart closed swapped budget room => ?declare,
    fun pay back t plain open_ remove closed swapped => ?remove, fun x n t index off len segment inside free =>
    State.exec_hopen ready ctx index off len segment inside free⟩, fun ready token => ⟨fun stands => ?close, fun absent => ?denied⟩⟩
  case declare =>
    rw [State.exec_hdecl ready ctx good open_, if_neg fun on => Bool.false_ne_true (keep.symm.trans on)]
    split at pages
    next spad =>
      subst pages
      rw [if_pos spad]
      exact congrArg _ (State.declare_fits apart closed swapped budget room)
    next dram =>
      obtain ⟨asid, svc, u, fs, space, walk, homes⟩ := pages
      rw [if_neg dram]
      exact congrArg _ ((State.declarePages_ok space walk homes).trans (State.declare_fits apart closed swapped budget room))
  case remove =>
    rw [State.exec_hdecl ready ctx (State.hdecl_remove_good plain remove) open_, if_pos remove]
    exact congrArg _ (State.declare_removes closed swapped)
  case close => rw [State.exec_hclose ready ctx token, if_pos stands]
  case denied => rw [State.exec_hclose ready ctx token, if_neg fun stands => Bool.false_ne_true (absent.symm.trans stands)]

/-! ### PLATERD (R430) -/

namespace State

/-- PLATERD, once its checks have passed: the op chooses. -/
theorem opPlaterd_ready {i : Instr} {s : State} {d a b : Reg} {c : Ctx} {x : Directory} (ready : Ready ⟨.holdup, false, [d, a, b], []⟩ s)
    (ctx : s.myCtx = some c) (open_ : s.closing = false) (checked : s.dome.checking = false) (dir : s.directory = some x)
    (service : (s.reg a).getLsbD 2 = true → c.service = true) (good : platerdBad (s.reg a) (s.reg b) = false) :
    let es := x.counted c.id ((s.reg a).getLsbD 2)
    let k := wbits (s.reg a) 29 16
    let op := wbits (s.reg a) 1 0
    let va := (s.reg b).toNat
    opPlaterd i d a b s = .next
      (if es.length ≤ k ∧ (k ≠ 0 ∨ op = 1 ∨ op = 2) then s.finishStatus d stEmpty
      else if 2 ^ 56 ≤ va then s.trap clPermission (s.reg b)
      else if op = 0 then s.plateStore d va (x.header es.length) (w64 (stOK.toNat + x.event % 2 ^ 32 * 2 ^ 32))
      else if op = 3 then s.plateStore d va x.recordBytes (statusWord stOK)
      else match es[k]? with
        | none => s.finishStatus d stEmpty
        | some p =>
          if op = 1 then s.plateStore d va p.report (statusWord stOK)
          else if p.state = 2 then s.finishStatus d stDenied
          else if c.bodyWrite.isSome then s.finishStatus d stBusy
          else s.plateBody d c va p k (((s.reg a) >>> 32).setWidth 32)) := by
  have allowed : ((s.reg a).getLsbD 2 && !c.service) = false := by
    cases all : (s.reg a).getLsbD 2
    · rfl
    · simp [service all]
  rw [opPlaterd, holdForm, issue_ready ready, ctx]
  simp only [good, open_, checked, allowed, dir, wbit, Bool.false_eq_true, if_false]
  rfl

/-- An index that a directory does not hold is EMPTY. -/
theorem opPlaterd_empty {i : Instr} {s : State} {d a b : Reg} {c : Ctx} {x : Directory} (ready : Ready ⟨.holdup, false, [d, a, b], []⟩ s)
    (ctx : s.myCtx = some c) (open_ : s.closing = false) (checked : s.dome.checking = false) (dir : s.directory = some x)
    (service : (s.reg a).getLsbD 2 = true → c.service = true) (good : platerdBad (s.reg a) (s.reg b) = false)
    (beyond : (x.counted c.id ((s.reg a).getLsbD 2)).length ≤ wbits (s.reg a) 29 16)
    (asked : wbits (s.reg a) 29 16 ≠ 0 ∨ wbits (s.reg a) 1 0 = 1 ∨ wbits (s.reg a) 1 0 = 2) :
    opPlaterd i d a b s = .next (s.finishStatus d stEmpty) := by
  rw [opPlaterd_ready ready ctx open_ checked dir service good, if_pos ⟨beyond, asked⟩]

/-- The bytes are stored at once when their pages translate, nothing is held back there and no earlier access is pending. -/
theorem plateStore_ok {s t : State} {d : Reg} {va asid : Nat} {svc : Bool} {u : UnitId} {bs : List Byte} {v : Word} {fs : List Nat}
    (space : s.space s.who = some (asid, svc, u)) (walk : xlatePages u asid .w svc (pagesOf va bs.length) (va / 0x10000 * 0x10000) s = (t, .ok fs))
    (mem : (fs.all fun f => (t.home f).isMem) = true)
    (free : ((List.range (bs.length / 64)).any fun k =>
      t.rangeHeld (fs.getD ((va % 0x10000 + 64 * k) / 0x10000) 0 + (va + 64 * k) % 0x10000) 64) = false) (idle : t.pendingOf t.who = []) :
    s.plateStore d va bs v = (State.writePaged (t.myCtx.map (·.id)) fs 64 (va % 0x10000) bs t).finish d v := by
  rw [State.plateStore, withArea_ok space walk mem]
  simp only [idle, free, List.isEmpty_nil, Bool.not_true, Bool.false_eq_true, if_false]

end State

theorem stOK_add (n : Nat) : stOK.toNat + n = n := Nat.zero_add n

/-! ### HCLEAR (R431) -/

theorem exec_hclear {s : State} {d a : Reg} {c : Ctx} (ready : Ready ⟨.holdup, false, [d, a], []⟩ s) (ctx : s.myCtx = some c)
    (open_ : s.closing = false) (checked : s.dome.checking = false) (plain : (s.reg a &&& 0xFFFFFFFFC000FFFA#64) = 0) :
    exec (.hclear d a) s = .next
      (if c.bodyWrite.isSome then s.finishStatus d stBusy
      else if (s.reg a).getLsbD 2 && !c.service then s.finishStatus d stDenied
      else match s.directory with
        | none => s.finishStatus d stEmpty
        | some x =>
          let es := x.counted c.id ((s.reg a).getLsbD 2)
          let gone := if (s.reg a).getLsbD 0 then es else (es[wbits (s.reg a) 29 16]?).toList
          if gone.isEmpty then s.finishStatus d stEmpty else (s.putDirectory (x.release gone)).finishStatus d stOK) := by
  have good : ¬((s.reg a).getLsbD 1 = true ∨ wbits (s.reg a) 15 3 ≠ 0 ∨ wbits (s.reg a) 63 30 ≠ 0) := by
    have bit1 : (s.reg a).getLsbD 1 = false := wbit_of_masked plain (by decide)
    have low : wbits (s.reg a) 15 3 = 0 := wbits_of_masked plain (by decide)
    have high : wbits (s.reg a) 63 30 = 0 := wbits_of_masked plain (by decide)
    simp only [bit1, low, high]
    decide
  change execHclear d a s = _
  rw [execHclear, holdForm, issue_ready ready, ctx]
  simp only [wbit, if_neg good, open_, checked, Bool.false_or, Bool.false_eq_true, if_false]
  rfl

theorem plateForms : Claims.PlateForms := by
  intro s s' d a b c x asid u fs ctx open_ checked dir space service ga va es
  have entries : x.counted c.id (ga.getLsbD 2) = es := rfl
  refine ⟨fun ready good low => ⟨fun bs v walk mem free idle => ?stores, fun beyond => ?empty, fun p op entry whole idle walk mem => ?body⟩,
    fun ready plain busy => ?busy, fun ready plain idle => ?clear⟩
  case stores =>
    intro done shown
    have step (i : Instr) := State.opPlaterd_ready (i := i) ready ctx open_ checked dir service good
    have notHigh : ¬2 ^ 56 ≤ (s.reg b).toNat := Nat.not_le.2 low
    refine ⟨fun op inside bytes value => ?_, fun p op entry bytes value => ?_, fun op inside bytes value => ?_⟩
    · subst bytes value
      have asked : ¬(es.length ≤ wbits ga 29 16 ∧ (wbits ga 29 16 ≠ 0 ∨ wbits ga 1 0 = 1 ∨ wbits ga 1 0 = 2)) := by omega
      refine (step _).trans (congrArg _ ?_)
      rw [entries, if_neg asked, if_neg notHigh, if_pos op, stOK_add, State.plateStore_ok space walk mem free idle]
    · subst bytes value
      have asked : ¬(es.length ≤ wbits ga 29 16 ∧ (wbits ga 29 16 ≠ 0 ∨ wbits ga 1 0 = 1 ∨ wbits ga 1 0 = 2)) := fun h =>
        Nat.not_lt.2 h.1 (List.getElem?_eq_some_iff.1 entry).1
      refine (step _).trans (congrArg _ ?_)
      rw [entries, if_neg asked, if_neg notHigh, if_neg (by simp [ga, op]), if_neg (by simp [ga, op]), entry]
      exact (if_pos op).trans (State.plateStore_ok space walk mem free idle)
    · subst bytes value
      have asked : ¬(es.length ≤ wbits ga 29 16 ∧ (wbits ga 29 16 ≠ 0 ∨ wbits ga 1 0 = 1 ∨ wbits ga 1 0 = 2)) := by omega
      refine (step _).trans (congrArg _ ?_)
      rw [entries, if_neg asked, if_neg notHigh, if_neg (by simp [ga, op]), if_pos op]
      exact State.plateStore_ok space walk mem free idle
  case empty =>
    have step (i : Instr) := State.opPlaterd_empty (i := i) ready ctx open_ checked dir service good beyond
    exact ⟨fun _ other => step _ (.inl other), fun op => step _ (.inr (.inl op)), fun op => step _ (.inr (.inr op)), fun _ other => step _ (.inl other)⟩
  case body =>
    have asked : ¬(es.length ≤ wbits ga 29 16 ∧ (wbits ga 29 16 ≠ 0 ∨ wbits ga 1 0 = 1 ∨ wbits ga 1 0 = 2)) := fun h =>
      Nat.not_lt.2 h.1 (List.getElem?_eq_some_iff.1 entry).1
    refine (State.opPlaterd_ready (i := .platerdHeader d a b) ready ctx open_ checked dir service good).trans (congrArg _ ?_)
    have writes : ¬(c.bodyWrite.isSome = true) := by simp [idle]
    have notOne : ¬(wbits ga 1 0 = 1) := by simp [op]
    rw [entries, if_neg asked, if_neg (Nat.not_le.2 low), if_neg (by simp [ga, op]), if_neg (by simp [ga, op]), entry]
    exact (if_neg notOne).trans ((if_neg whole).trans ((if_neg writes).trans (State.withArea_ok space walk mem)))
  case busy => rw [exec_hclear ready ctx open_ checked plain, if_pos busy]
  case clear =>
    have allowed : (ga.getLsbD 2 && !c.service) = false := by
      cases all : ga.getLsbD 2
      · rfl
      · simp [service all]
    intro gone
    have step : exec (.hclear d a) s = .next (if gone.isEmpty then s.finishStatus d stEmpty else (s.putDirectory (x.release gone)).finishStatus d stOK) := by
      rw [exec_hclear ready ctx open_ checked plain, idle, dir, allowed]
      rfl
    exact ⟨fun some_ => by rw [step, if_neg (by simpa using some_)], fun none_ => by rw [step, if_pos (by simpa using none_)]⟩

/-- Settles O57: the forms of declarations and open ranges, and those of plates. -/
theorem holdUp : Obligations.HoldUp := ⟨holdForms, plateForms⟩

end Sys2Proof.Machine
end

section
/-! SUPPORT. Pages of an area that lie apart (R398, R399): each of its bytes has an address of its own, so that what is written through them
is read back. -/

namespace Sys2Proof.Machine
open Claims

/-- The address of byte `o` of an area in these pages. -/
def areaAddr (fs : List Nat) (o : Nat) : Nat := fs.getD (o / 0x10000) 0 + o % 0x10000

theorem areaAddr_inj {fs : List Nat} (apart : fs.Pairwise fun f g => f + 0x10000 ≤ g ∨ g + 0x10000 ≤ f) {o p : Nat} (ho : o < 0x10000 * fs.length)
    (hp : p < 0x10000 * fs.length) (same : areaAddr fs o = areaAddr fs p) : o = p := by
  have io : o / 0x10000 < fs.length := by omega
  have ip : p / 0x10000 < fs.length := by omega
  simp only [areaAddr, List.getD_eq_getElem?_getD, List.getElem?_eq_getElem io, List.getElem?_eq_getElem ip, Option.getD_some] at same
  rw [List.pairwise_iff_getElem] at apart
  rcases Nat.lt_trichotomy (o / 0x10000) (p / 0x10000) with lt | eq | gt
  · have := apart _ _ io ip lt
    omega
  · simp only [eq] at same
    omega
  · have := apart _ _ ip io gt
    omega

/-- Within 64 bytes that start at a multiple of 64 the addresses follow one another. -/
theorem areaAddr_add {fs : List Nat} {o k : Nat} (aligned : o % 64 = 0) (within : k < 64) : areaAddr fs (o + k) = areaAddr fs o + k := by
  have page : (o + k) / 0x10000 = o / 0x10000 := by omega
  rw [areaAddr, page, areaAddr]
  omega

namespace State

/-- A write of whole granules, where nothing is dead and nothing is protected. -/
theorem writeWhole_plain {s : State} (plain : PlainMemory s) (src : Option Nat) (pa : Nat) (bs : List Byte) :
    (s.writeWhole src pa bs).mem = memWrite s.mem pa bs ∧ PlainMemory (s.writeWhole src pa bs) := by
  obtain ⟨wf, rows, pchs, noProt⟩ := plain
  have mem := State.writeWhole_mem_plain noProt rows pchs src pa bs
  have kept : (s.writeWhole src pa bs).health = s.health ∧ (s.writeWhole src pa bs).ctxs = s.ctxs := by
    rw [State.writeWhole, State.write_plain noProt rows pchs]
    exact ⟨foldl_field (g := State.health) (f := fun s g => s.cleanGranule g) (fun _ _ => rfl) _ _,
      foldl_field (g := State.ctxs) (f := fun s g => s.cleanGranule g) (fun _ _ => rfl) _ _⟩
  refine ⟨mem, ?_, ?_, ?_, ?_⟩
  · rw [mem]
    exact Memory.wf_memWrite pa bs wf
  · rw [kept.1, rows]
  · rw [kept.1, pchs]
  · rw [kept.2]
    exact noProt

/-- Pieces of 64 bytes, each at the address of its place. -/
theorem writePaged_bytes {fs : List Nat} (apart : fs.Pairwise fun f g => f + 0x10000 ≤ g ∨ g + 0x10000 ≤ f) (src : Option Nat) (n : Nat) :
    ∀ (off : Nat) (bs : List Byte) (s : State), PlainMemory s → off % 64 = 0 → bs.length = 64 * (bs.length / 64) → bs.length ≤ 64 * n →
      off + bs.length ≤ 0x10000 * fs.length →
      (∀ k, k < bs.length → memByte (State.writePaged src fs n off bs s).mem (areaAddr fs (off + k)) = bs.getD k 0) ∧
        ∀ a, (∀ k, k < bs.length → a ≠ areaAddr fs (off + k)) → memByte (State.writePaged src fs n off bs s).mem a = memByte s.mem a := by
  induction n with
  | zero =>
    intro off bs s _ _ _ short _
    exact ⟨fun k hk => by omega, fun _ _ => rfl⟩
  | succ n ih =>
    intro off bs s plain aligned lines short fits
    cases empty : bs.isEmpty
    · have some_ : 64 ≤ bs.length := by
        have : bs.length ≠ 0 := fun e => by simp [List.length_eq_zero_iff.1 e] at empty
        omega
      have step : State.writePaged src fs (n + 1) off bs s =
          State.writePaged src fs n (off + 64) (bs.drop 64) (s.writeWhole src (areaAddr fs off) (bs.take 64)) := by
        have whole : ¬(bs.length < 64 ∨ 64 < 64) := by omega
        simp only [State.writePaged, empty, Bool.false_eq_true, if_false, aligned, Nat.sub_zero, if_neg whole]
        rfl
      obtain ⟨mem, plain'⟩ := writeWhole_plain plain src (areaAddr fs off) (bs.take 64)
      obtain ⟨bytes, others⟩ := ih (off + 64) (bs.drop 64) _ plain' (by omega) (by rw [List.length_drop]; omega) (by rw [List.length_drop]; omega)
        (by rw [List.length_drop]; omega)
      rw [List.length_drop] at bytes others
      have taken : (bs.take 64).length = 64 := by simp [some_]
      rw [step]
      refine ⟨fun k hk => ?_, fun a away => ?_⟩
      · by_cases first : k < 64
        · rw [others _ fun j hj same => ?_, mem, memByte_memWrite _ _ _ plain.1, areaAddr_add aligned first, if_pos (by omega),
            Nat.add_sub_cancel_left, List.getD_eq_getElem?_getD, List.getElem?_take_of_lt first, List.getD_eq_getElem?_getD]
          have := areaAddr_inj apart (by omega) (by omega) same
          omega
        · have byte := bytes (k - 64) (by omega)
          rw [List.getD_eq_getElem?_getD, List.getElem?_drop, show 64 + (k - 64) = k by omega, ← List.getD_eq_getElem?_getD,
            show off + 64 + (k - 64) = off + k by omega] at byte
          exact byte
      · rw [others a fun j hj => by rw [Nat.add_assoc]; exact away _ (by omega), mem, memByte_memWrite _ _ _ plain.1, if_neg]
        intro inside
        refine away (a - areaAddr fs off) (by omega) ?_
        rw [areaAddr_add aligned (by omega)]
        omega
    · have nil : bs = [] := List.isEmpty_iff.1 empty
      subst nil
      exact ⟨fun k hk => absurd hk (Nat.not_lt_zero k), fun _ _ => rfl⟩

/-- R398, R399: what is written to an area whose pages lie apart stands there, and nothing else changes. -/
theorem writePaged_stores {s : State} {fs : List Nat} {off n : Nat} {bs : List Byte} (pages : PlainPages s fs) (src : Option Nat)
    (aligned : off % 64 = 0) (lines : bs.length = 64 * (bs.length / 64)) (short : bs.length ≤ 64 * n) (fits : off + bs.length ≤ 0x10000 * fs.length) :
    StoresAt s (State.writePaged src fs n off bs s) fs off bs := by
  obtain ⟨apart, plain⟩ := pages
  obtain ⟨bytes, others⟩ := writePaged_bytes apart src n off bs s plain aligned lines short fits
  refine ⟨List.ext_getElem (by simp [State.readPaged]) fun k _ hk => ?_, others⟩
  simp only [State.readPaged, List.getElem_map, List.getElem_range]
  refine (bytes k hk).trans ?_
  rw [List.getD_eq_getElem?_getD, List.getElem?_eq_getElem hk, Option.getD_some]

theorem xlatePages_length {u : UnitId} {asid : Nat} {need : Need} {svc : Bool} {n va : Nat} {s t : State} {fs : List Nat}
    (walk : xlatePages u asid need svc n va s = (t, .ok fs)) : fs.length = n := by
  induction n generalizing va s fs with
  | zero =>
    cases walk
    rfl
  | succ n ih =>
    unfold xlatePages at walk
    dsimp only at walk
    split at walk
    · cases walk
    · cases walk
    · rcases rest : xlatePages u asid need svc n (va + 0x10000) (s.translate u asid va need svc).1 with ⟨t', r⟩
      rw [rest] at walk
      cases r with
      | ok gs =>
        cases walk
        exact congrArg (· + 1) (ih rest)
      | permission => cases walk
      | notPresent p => cases walk

end State

end Sys2Proof.Machine
end

section
/-! PROOFS. Pre-emption (O56: R395 to R401, R457). -/

namespace Sys2Proof.Machine
open Claims

/-! ### The sizes of what is saved (R398, R399) -/

theorem length_padTo (n : Nat) (bs : List Byte) : (padTo n bs).length = n := by
  rw [padTo, List.length_append, List.length_take, List.length_replicate]
  omega

theorem length_bytesOf (n v : Nat) : (bytesOf n v).length = n := by simp [bytesOf, leBytes]

/-- Parts of one size, one after the other. -/
theorem length_flatMap_const {α β : Type} {f : α → List β} {n : Nat} (each : ∀ a, (f a).length = n) (l : List α) :
    (l.flatMap f).length = l.length * n := by
  induction l with
  | nil => simp
  | cons a l ih => rw [List.flatMap_cons, List.length_append, each, ih, List.length_cons, Nat.add_mul, Nat.one_mul, Nat.add_comm]

theorem length_elementWeights (r : Region) (rows : List (List Byte)) (q e : Nat) : (r.elementWeights rows q e).length = 768 :=
  (length_flatMap_const (fun _ => length_padTo 48 _) _).trans (by simp)

theorem length_weightBytes (r : Region) (q : Nat) : (r.weightBytes q false).length = 0x3000 :=
  (length_flatMap_const (n := 768) (fun e => by simp [length_elementWeights]) _).trans (by simp)

theorem length_pagePart (r : Region) (q : Nat) (freeze : Bool) : (r.pagePart q freeze).length = partSize freeze := by
  cases freeze
  · simp only [Region.pagePart, partSize, Bool.false_eq_true, if_false, List.length_append, length_padTo]
    split
    · rw [length_weightBytes]
    · rw [List.length_replicate]
  · exact length_padTo ..

theorem length_regionImage (r : Region) (c : Ctx) (freeze : Bool) : (regionImage r c freeze).length = imageSize (r.w * r.h) freeze := by
  rw [regionImage, List.length_append, List.length_append, regionHeader, length_bytesOf, List.length_replicate,
    length_flatMap_const (fun q => length_pagePart r q freeze), List.length_range, imageSize]
  omega

theorem length_areaBytes (c : Ctx) (ts : List Thr) : (areaBytes c ts).length = 0x40000 := length_padTo ..

theorem partSize_lines (freeze : Bool) : partSize freeze % 64 = 0 ∧ partSize freeze ≤ 0x60000 := by cases freeze <;> decide

/-! ### The pages of an area -/

theorem pagesOf_covers (va n : Nat) (pos : 0 < n) : va % 0x10000 + n ≤ 0x10000 * pagesOf va n := by
  unfold pagesOf
  omega

/-! ### CTXSW (R395, R399, R401) -/

/-- Operands of CTXSW without reserved bits. -/
structure SwitchOperands (v x : Word) (op : Nat) : Prop where
  op : wbits v 13 12 = op
  reserved : wbit v 7 = false ∧ wbits v 11 10 = 0 ∧ wbits v 63 14 = 0
  station : wbits v 6 0 ≤ 95
  area : wbits x 15 0 = 0

theorem opCtxsw_ready {i : Instr} {s : State} {d a b : Reg} {op : Nat} (ready : Ready ⟨.all, true, [d, a, b], []⟩ s)
    (good : SwitchOperands (s.reg a) (s.reg b) op) (known : op < 3) (killed : op = 2 → s.reg b = 0) :
    opCtxsw i d a b s = .next
      (if op = 2 then s.ctxswKill d (wbits (s.reg a) 6 0) (wbits (s.reg a) 9 8)
      else if op = 0 then s.withArea (s.reg b).toNat 0x40000 .w fun fs t => t.ctxswOut d (wbits (s.reg a) 6 0) (wbits (s.reg a) 9 8) fs
      else s.withArea (s.reg b).toNat 0x40000 .r fun fs t => t.ctxswIn i d (wbits (s.reg a) 6 0) (wbits (s.reg a) 9 8) fs) := by
  obtain ⟨named, ⟨bit7, low, high⟩, station, area⟩ := good
  have passes : ¬(wbit (s.reg a) 7 = true ∨ wbits (s.reg a) 11 10 ≠ 0 ∨ wbits (s.reg a) 63 14 ≠ 0 ∨ op = 3 ∨ 95 < wbits (s.reg a) 6 0 ∨
      wbits (s.reg b) 15 0 ≠ 0 ∨ (op = 2 ∧ s.reg b ≠ 0)) := by
    simp only [bit7, low, high, area]
    simp only [ne_eq, not_true_eq_false, Bool.false_eq_true, false_or, not_or, Nat.not_lt]
    exact ⟨by omega, station, fun h => h.2 (killed h.1)⟩
  rw [opCtxsw, issue_ready ready]
  simp only [named, if_neg passes]

/-- A word whose bits 7, 11 to 10 and 63 to 12 are those of an operation alone. -/
theorem switchOperands {v x : Word} {op : Nat} (known : op < 4) (word : (v &&& 0xFFFFFFFFFFFFFC80#64) = BitVec.ofNat 64 (0x1000 * op))
    (station : wbits v 6 0 ≤ 95) (area : wbits x 15 0 = 0) : SwitchOperands v x op := by
  have bit {i : Nat} (masked : (0xFFFFFFFFFFFFFC80#64).getLsbD i = true) : v.getLsbD i = (BitVec.ofNat 64 (0x1000 * op)).getLsbD i := by
    have at_ := congrArg (BitVec.getLsbD · i) word
    simpa only [BitVec.getLsbD_and, masked, Bool.and_true] using at_
  have field {hi lo : Nat} (masked : ∀ i, i ≤ hi → lo ≤ i → (0xFFFFFFFFFFFFFC80#64).getLsbD i = true) :
      wbits v hi lo = wbits (BitVec.ofNat 64 (0x1000 * op)) hi lo := by
    refine Nat.eq_of_testBit_eq fun i => ?_
    rw [wbits, wbits, testBit_bitsOf, testBit_bitsOf]
    by_cases inside : i < hi + 1 - lo
    · rw [BitVec.testBit_toNat, BitVec.testBit_toNat, bit (masked _ (by omega) (Nat.le_add_right ..))]
    · simp [inside]
  have ops : wbits (BitVec.ofNat 64 (0x1000 * op)) 13 12 = op ∧ (BitVec.ofNat 64 (0x1000 * op)).getLsbD 7 = false ∧
      wbits (BitVec.ofNat 64 (0x1000 * op)) 11 10 = 0 ∧ wbits (BitVec.ofNat 64 (0x1000 * op)) 63 14 = 0 := by
    interval_cases op <;> decide
  obtain ⟨named, bit7, low, high⟩ := ops
  exact ⟨(field (by decide)).trans named, ⟨(bit (by decide)).trans bit7, (field (by decide)).trans low, (field (by decide)).trans high⟩, station, area⟩

/-- Operands that FRZSAVE and DRNSAVE take name an image at a multiple of 4 KiB. -/
theorem aligned_of_good {v x : Word} {top : Nat} (good : badSave v x top = false) : x.toNat % 64 = 0 := by
  simp only [badSave, Bool.or_eq_false_iff, bne_eq_false_iff_eq] at good
  have low : wbits x 11 0 = 0 := good.2
  simp only [wbits, bitsOf, Nat.shiftRight_zero] at low
  omega

namespace State

theorem ctxswOut_begins {s : State} {d : Reg} {st slot : Nat} {fs : List Nat} {c : Ctx} (first : sysWait s.cpu.wait = false)
    (ctx : s.ctxAt st slot = some c) (rests : c.swapping = none) (saved : ∀ r ∈ s.regions, r.ctx = c.id → ∃ h, r.freeze = .saved h) :
    s.ctxswOut d st slot fs =
      (s.modCtx c.id fun c => { c with hold := true, swapping := some s.cycle.toNat }).waitFor (.system s.cycle.toNat) := by
  simp only [State.ctxswOut, first, Bool.false_eq_true, if_false, State.beginOut, ctx]
  refine if_neg fun stands => ?_
  simp only [rests, Option.isSome_none, Bool.false_or, List.any_eq_true, Bool.and_eq_true, beq_iff_eq] at stands
  obtain ⟨r, hr, mine, unsaved⟩ := stands
  obtain ⟨h, frozen⟩ := saved r hr mine
  simp [frozen] at unsaved

theorem ctxswOut_writes {s : State} {d : Reg} {st slot : Nat} {fs : List Nat} {c : Ctx} (goes : sysWait s.cpu.wait = true)
    (captured : s.swapped st slot = some c) (late : s.sfuOfCtx c.id = false) :
    s.ctxswOut d st slot fs = (((s.writeArea (s.myCtx.map (·.id)) fs c c.threads).modCtx c.id fun c =>
      { c with saveFrames := fs, swapping := none, lnack := 0, lnaddr := 0 }).finishStatus d stOK) := by
  simp only [State.ctxswOut, goes, if_true, State.goOnOut, captured, State.finishOut, late, Bool.false_eq_true, if_false]

theorem ctxswIn_takes {s : State} {i : Instr} {d : Reg} {st slot : Nat} {fs : List Nat} {c : Ctx}
    (magic : wordAt (s.readPaged fs 0 0x40000) 0 = 0x57534358)
    (check : wordAt (s.readPaged fs 0 0x40000) areaCheck = (areaCrc (s.readPaged fs 0 0x40000)).setWidth 64) (free : s.ctxAt st slot = none)
    (image : (s.ctxs.find? fun c => !c.resident && c.swapping.isNone && Config.ctxHead c.station c.slot c.asid == wordAt (s.readPaged fs 0 0x40000) 8) = some c)
    (threads : ((s.freeHw st).take c.threads.length).length = c.threads.length) (performed : (s.bus.outs.any fun r => r.ctx == c.id) = false) :
    s.ctxswIn i d st slot fs = (State.applySpills c.id (s.spillsOf c (s.readPaged fs 0 0x40000)) (s.modCtx c.id fun x =>
      (x.fromArea (s.readPaged fs 0 0x40000) (s.isServiceStation st) st slot ((s.freeHw st).take c.threads.length)).addRefusals x)).finishStatus d stOK := by
  have whole : ¬(wordAt (s.readPaged fs 0 0x40000) 0 ≠ 0x57534358#64 ∨
      wordAt (s.readPaged fs 0 0x40000) areaCheck ≠ (areaCrc (s.readPaged fs 0 0x40000)).setWidth 64) := not_or.2 ⟨not_not.2 magic, not_not.2 check⟩
  have fits : ¬((s.freeHw st).take c.threads.length).length < c.threads.length := by omega
  simp only [State.ctxswIn, if_neg whole, free, image, performed, Bool.false_eq_true, if_false, if_neg fits]

theorem ctxswKill_other {s : State} {d : Reg} {st slot : Nat} {c : Ctx} (ctx : s.ctxAt st slot = some c) (other : s.ctxIdOf s.who ≠ c.id) :
    s.ctxswKill d st slot = (s.contain c.id).finishStatus d stOK := by
  simp only [State.ctxswKill, ctx, beq_false_of_ne other, Bool.false_eq_true, if_false]

/-! ### Saves (R396 to R398) -/

theorem saveRegion_saves {s : State} {r : Region} {c : Ctx} {freeze : Bool} {va : Nat} {fs : List Nat} (aligned : va % 64 = 0)
    (pages : fs.length = pagesOf va (imageSize (r.w * r.h) freeze)) : SavesRegion s r c freeze va fs := by
  obtain ⟨lines, small⟩ := partSize_lines freeze
  have length := length_regionImage r c freeze
  refine ⟨length, ?_, fun plain size => ?_⟩
  · obtain ⟨cs, m, p, b, t, wrote⟩ := writePaged_delivers (s.myCtx.map (·.id)) fs 0x100000 (va % 0x10000) (regionImage r c freeze) s
    rw [State.saveRegion, wrote]
    rfl
  · have covers := pagesOf_covers va (imageSize (r.w * r.h) freeze) (by rw [imageSize]; omega)
    have multiple : imageSize (r.w * r.h) freeze % 64 = 0 := by
      rw [imageSize, Nat.add_mod, Nat.mul_mod, lines]
      rfl
    have bound : imageSize (r.w * r.h) freeze ≤ 0x1000 + 128 * 0x60000 := Nat.add_le_add_left (Nat.mul_le_mul size small) _
    have stores := writePaged_stores (off := va % 0x10000) (n := 0x100000) (bs := regionImage r c freeze) plain (s.myCtx.map (·.id)) (by omega) (by omega) (by omega)
      (by rw [pages, length]; exact covers)
    rw [State.saveRegion]
    revert stores
    generalize State.writePaged (s.myCtx.map (·.id)) fs 0x100000 (va % 0x10000) (regionImage r c freeze) s = t
    exact fun stores => ⟨stores.1, stores.2⟩

/-! ### The capture (R399) -/

/-- Who a context is and where it stands is the same. -/
def SameSeats (s t : State) : Prop := t.ctxs.map (fun c => (c.id, c.resident, c.station, c.slot)) = s.ctxs.map fun c => (c.id, c.resident, c.station, c.slot)

theorem ctxIdOf_congr {s t : State} (seats : SameSeats s t) (a : Actor) : t.ctxIdOf a = s.ctxIdOf a := by
  have byTable (s : State) (st slot : Nat) : (s.ctxAt st slot).map (·.id) =
      ((s.ctxs.map fun c => (c.id, c.resident, c.station, c.slot)).find? fun p => p.2.1 && p.2.2.1 == st && p.2.2.2 == slot).map (·.1) := by
    rw [List.find?_map, Option.map_map]
    rfl
  have numbered (s : State) (x : Option Ctx) : (match x with | some c => c.id | none => 0) = (x.map (·.id)).getD 0 := by cases x <;> rfl
  cases a with
  | thread st slot i =>
    have same : (t.ctxAt st slot).map (·.id) = (s.ctxAt st slot).map (·.id) := by rw [byTable t, byTable s, seats]
    exact (numbered t (t.ctxAt st slot)).trans ((congrArg (Option.getD · 0) same).trans (numbered s (s.ctxAt st slot)).symm)
  | engine d e => rfl

theorem putTable_seats (s : State) (a : Actor) (t : Thr) : SameSeats s (s.putTable a t) ∧ (s.putTable a t).mem = s.mem ∧ (s.putTable a t).who = s.who := by
  unfold State.putTable
  split
  · split
    · exact ⟨map_modifyFirst (f := fun c : Ctx => { c with threads := c.threads.set _ _ }) (fun _ => rfl) s.ctxs, rfl, rfl⟩
    · exact ⟨rfl, rfl, rfl⟩
  · exact ⟨rfl, rfl, rfl⟩

theorem reload_mem_ctxs (s : State) : s.reload.mem = s.mem ∧ s.reload.ctxs = s.ctxs := by
  unfold State.reload
  split <;> exact ⟨rfl, rfl⟩

/-- The slot is left, and the registers loaded are no thread's of the context. -/
def leftSlot (s : State) (cid : Nat) : State := if s.ctxIdOf s.who = cid then { s with who := .engine 0 0 }.reload else s

theorem leftSlot_mem_ctxs (s : State) (cid : Nat) : (s.leftSlot cid).mem = s.mem ∧ (s.leftSlot cid).ctxs = s.ctxs := by
  unfold leftSlot
  split
  · exact reload_mem_ctxs { s with who := .engine 0 0 }
  · exact ⟨rfl, rfl⟩

theorem capture_eq (s : State) (cid : Nat) :
    s.capture cid = (s.flush.leftSlot cid).modCtx cid fun c => { c with resident := false, spilled := false, saveFrames := [] } := rfl

theorem capture_mem (s : State) (cid : Nat) : (s.capture cid).mem = s.mem :=
  (leftSlot_mem_ctxs s.flush cid).1.trans (s.putTable_seats s.who s.cpu).2.1

/-- The context as it stands in its table, once it is out. -/
theorem capture_ctxOf {s : State} {cid : Nat} {c : Ctx} (ctx : s.flush.ctxOf cid = some c) :
    (s.capture cid).ctxOf cid = some { c with resident := false, spilled := false, saveFrames := [] } := by
  have still : (s.flush.leftSlot cid).ctxOf cid = some c := by
    rw [State.ctxOf, (leftSlot_mem_ctxs s.flush cid).2]
    exact ctx
  exact find?_modifyFirst_some (fun _ => rfl) still

theorem flush_ctxOf_mine {s : State} {st slot i : Nat} {c : Ctx} (who : s.who = .thread st slot i) (mine : s.myCtx = some c)
    (ctx : s.ctxOf c.id = some c) : s.flush.ctxOf c.id = some { c with threads := c.threads.set i s.cpu } := by
  rw [State.myCtx, who] at mine
  have seat : s.ctxAt st slot = some c := mine
  rw [State.flush, who, State.putTable]
  simp only [seat]
  exact find?_modifyFirst_some (fun _ => rfl) ctx

theorem ctxOf_modCtx_ne {s : State} {id k : Nat} {f : Ctx → Ctx} (same : ∀ x, (f x).id = x.id) (ne : k ≠ id) : (s.modCtx id f).ctxOf k = s.ctxOf k :=
  find?_modifyFirst_other (fun x => by rw [same]) (fun x hx => by rw [beq_iff_eq.1 hx]; exact beq_false_of_ne ne.symm) s.ctxs

theorem flush_ctxOf_other {s : State} {k : Nat} (other : s.ctxIdOf s.who ≠ k) : s.flush.ctxOf k = s.ctxOf k := by
  unfold State.flush State.putTable
  split
  next st slot i who =>
    split
    next c seat =>
      have id : c.id ≠ k := by
        rw [who] at other
        simpa only [State.ctxIdOf, State.actorCtx, seat] using other
      exact ctxOf_modCtx_ne (fun _ => rfl) id.symm
    · rfl
  · rfl

end State

theorem preemptionResults : Claims.PreemptionResults := by
  intro s s' d a b asid u fs ready space v x
  refine ⟨fun area word station first walk mem c ctx rests saved => ?begins, fun area word station goes walk mem pages c captured late => ?writes,
    fun area word station walk mem => ?takes, fun zero word station c ctx other => ?kills, fun r c good named walk mem still => ⟨?freezes, ?image⟩,
    fun r c good named none_ first walk mem still => ⟨?drains, ?drained⟩⟩
  case begins =>
    have step := opCtxsw_ready (i := .ctxswOut d a b) (op := 0) ready (switchOperands (by decide) word station area) (by decide) (fun kill => absurd kill (by decide))
    refine step.trans (congrArg _ ?_)
    rw [if_neg (by decide), if_pos rfl, State.withArea_ok space walk mem]
    exact State.ctxswOut_begins first ctx rests saved
  case writes =>
    have step := opCtxsw_ready (i := .ctxswOut d a b) (op := 0) ready (switchOperands (by decide) word station area) (by decide) (fun kill => absurd kill (by decide))
    have length := length_areaBytes c c.threads
    have four : fs.length = 4 := by
      have aligned : x.toNat % 0x10000 = 0 := by simpa [wbits, bitsOf] using area
      rw [State.xlatePages_length walk, pagesOf]
      omega
    refine ⟨_, State.writePaged_stores (off := 0) (n := 4096) pages (s'.myCtx.map (·.id)) rfl (by rw [length]) (by rw [length]) (by rw [length, four]), ?_⟩
    refine step.trans (congrArg _ ?_)
    rw [if_neg (by decide), if_pos rfl, State.withArea_ok space walk mem]
    exact State.ctxswOut_writes goes captured late
  case takes =>
    intro bs magic check free c image hw threads performed
    have step := opCtxsw_ready (i := .ctxswIn d a b) (op := 1) ready (switchOperands (by decide) word station area) (by decide) (fun kill => absurd kill (by decide))
    refine step.trans (congrArg _ ?_)
    rw [if_neg (by decide), if_neg (by decide), State.withArea_ok space walk mem]
    exact State.ctxswIn_takes magic check free image threads performed
  case kills =>
    have area : wbits x 15 0 = 0 := by rw [zero]; decide
    have step := opCtxsw_ready (i := .ctxswKill d a b) (op := 2) ready (switchOperands (by decide) word station area) (by decide) fun _ => zero
    refine step.trans (congrArg _ ?_)
    rw [if_pos rfl]
    exact State.ctxswKill_other ctx other
  case freezes =>
    change execFrzsave d a b s = _
    rw [execFrzsave, issue_ready ready]
    simp only [v, x] at good named walk
    simp only [good, named, Bool.false_eq_true, if_false, State.withArea_ok space walk mem, still]
    rfl
  case image => exact State.saveRegion_saves (aligned_of_good good) (State.xlatePages_length walk)
  case drains =>
    change execDrnsave d a b s = _
    rw [execDrnsave, issue_ready ready]
    simp only [v, x] at good named walk
    simp only [good, named, Bool.false_eq_true, if_false, State.withArea_ok space walk mem, first, still, none_, Bool.false_and, List.isEmpty_nil,
      Bool.not_false, and_self, if_true]
    rfl
  case drained => exact State.saveRegion_saves (aligned_of_good good) (State.xlatePages_length walk)

theorem restoreResult : Claims.RestoreResult := by
  intro s s' s'' d a b asid kind u fs fs' r hung o ready space space' zero low
  dsimp only
  rintro walk mem magic rfl kinds sized walk' mem' check region saved place
  have plain : ¬(s.reg a ≠ 0 ∨ wbits (s.reg b) 11 0 ≠ 0) := not_or.2 ⟨not_not.2 zero, not_not.2 low⟩
  change execRestore d a b s = _
  rw [execRestore, issue_ready ready]
  simp only [if_neg plain, State.withArea_ok space walk mem]
  rw [if_neg (by omega), State.withArea_ok space' walk' mem', if_neg (not_not.2 check), region]
  simp only [saved, place]

theorem preemptionEvents : Claims.PreemptionEvents := by
  intro s k arg
  refine ⟨fun c ctx may => ?expiry, ⟨s.capture_mem k, fun c st slot i ctx who mine => ?mine, fun c ctx other => ?other⟩, fun c ctx => State.retireCtx_leaves ctx,
    fun since limit drain some_ past => ?timeout⟩
  case expiry =>
    change execCtxswSfuWaitExpiry s = _
    simp only [execCtxswSfuWaitExpiry, arg, ctx, may, if_true]
  case mine =>
    obtain rfl : c.id = k := beq_iff_eq.1 (List.find?_some (p := fun x : Ctx => x.id == k) ctx)
    exact State.capture_ctxOf (State.flush_ctxOf_mine who mine ctx)
  case other => exact State.capture_ctxOf ((State.flush_ctxOf_other other).trans ctx)
  case timeout =>
    change execDrainSaveTimeout s = _
    simp only [execDrainSaveTimeout, arg, drain]
    exact if_pos ⟨some_, past⟩

/-- Settles O56: the switches and saves, the restore, and the events. -/
theorem preemption : Obligations.Preemption := ⟨preemptionResults, restoreResult, preemptionEvents⟩

end Sys2Proof.Machine
end

section
/-! PROOFS. Boot, its stages and its events (O36: R429, R430, R449 to R452). -/

namespace Sys2Proof.Machine
open Claims

/-! ### The stages (R450) -/

theorem bootCode_eq {x : BootInput} (absent : x.failure ≠ 1) (unread : x.failure ≠ 2) :
    (x.keyDigest ≠ Config.fusedKey → bootCode x = 3) ∧
      (x.keyDigest = Config.fusedKey → x.version < Config.fusedVersion → bootCode x = 4) ∧
      (x.keyDigest = Config.fusedKey → ¬x.version < Config.fusedVersion → bootCode x = x.failure) := by
  have seen : ¬(x.failure = 1 ∨ x.failure = 2) := not_or.2 ⟨absent, unread⟩
  refine ⟨fun key => ?_, fun key old => ?_, fun key new => ?_⟩
  · rw [bootCode, if_neg seen, if_pos key]
  · rw [bootCode, if_neg seen, if_neg (not_not.2 key), if_pos old]
  · rw [bootCode, if_neg seen, if_neg (not_not.2 key), if_neg new]

namespace State

theorem measure_first {s : State} {digest : BitVec 256} {kind : Nat} (empty : s.boot.log = []) :
    (s.measure digest kind).boot.log = [0#192 ++ 0#32 ++ BitVec.ofNat 32 kind ++ digest] := by
  rw [measure_room (by rw [empty]; exact Nat.zero_lt_succ _), empty]
  rfl

theorem measure_input (s : State) (digest : BitVec 256) (kind : Nat) : (s.measure digest kind).boot.input = s.boot.input := by
  unfold State.measure
  split <;> rfl

theorem bootTick_one {s : State} {x : BootInput} (input : s.boot.input = some x) (stage : s.boot.stage = 1) :
    s.bootTick = if bootCode x = 7 ∨ (1 ≤ bootCode x ∧ bootCode x ≤ 4 ∧ x.die ≠ 0) then s.bootFail x.die (bootCode x)
      else if 1 ≤ bootCode x ∧ bootCode x ≤ 4 then s else s.imageVerified x := by
  simp only [State.bootTick, input, stage]

theorem bootTick_late {s : State} {x : BootInput} (input : s.boot.input = some x) (late : 5 < s.boot.stage) : s.bootTick = s := by
  obtain ⟨n, stage⟩ : ∃ n, s.boot.stage = n + 6 := ⟨s.boot.stage - 6, by omega⟩
  simp only [State.bootTick, input, stage]

end State

theorem bootStages : Claims.BootStages := by
  intro s x input
  refine ⟨fun absent unread => bootCode_eq absent unread, fun stage => ?first, fun stage => ?verify, fun stage => ⟨fun c => ?_, fun c => ?_⟩,
    fun stage => ⟨fun c => ?_, fun c => ?_⟩, fun stage => ⟨fun checking => ?_, fun checking => ?_⟩, fun stage => ?features,
    fun late => State.bootTick_late input late⟩
  case first => simp only [State.bootTick, input, stage]
  case verify =>
    rw [State.bootTick_one input stage]
    refine ⟨fun low high die => ?waits, fun low high die => ?fails, fun c => ?other, fun c => ?passes⟩
    case waits => rw [if_neg (by omega), if_pos ⟨low, high⟩]
    case fails =>
      rw [if_pos (.inr ⟨low, high, die⟩)]
      exact ⟨rfl, rfl, rfl, rfl⟩
    case other =>
      rw [if_pos (.inl c), c]
      exact ⟨rfl, rfl, rfl, rfl⟩
    case passes =>
      rw [if_neg (by omega), if_neg (by omega)]
      exact ⟨rfl, rfl, State.measure_first⟩
  case features =>
    simp only [State.bootTick, input, stage]
    exact ⟨rfl, rfl, rfl, rfl, rfl⟩
  all_goals simp only [State.bootTick, input, stage]
  · rw [if_pos c]
    exact ⟨rfl, rfl, rfl, rfl⟩
  · rw [if_neg c]
  · rw [if_pos c]
    exact ⟨rfl, rfl, rfl, rfl⟩
  · rw [if_neg c]
    refine ⟨rfl, rfl, ?_⟩
    simp [State.bankTested, openBudget]
  · rw [if_pos checking]
  · rw [if_neg (by simp [checking])]

/-! ### The events (R429, R430, R449, R451) -/

theorem powerOnReset_begins {s : State} {x : BootInput} (arg : s.model.arg = .boot x) :
    ∃ t, exec .powerOnReset s = .next t ∧ t.boot.stage = 0 ∧ t.boot.input = some x ∧ t.part = s.part ∧ t.ctxs = [] ∧ t.regions = [] ∧
      t.queues = [] ∧ t.mem = [] ∧ t.boot.log = [] ∧ t.health.banks = s.health.banks := by
  refine ⟨{ s.afterReset with boot := { s.afterReset.boot with input := some x } }, ?_, rfl, rfl, rfl, rfl, rfl, rfl, rfl, rfl, rfl⟩
  change execPowerOnReset s = _
  simp only [execPowerOnReset, arg]

theorem hostImageReady_waiting {s : State} {x : BootInput} (arg : s.model.arg = .boot x) (stage : s.boot.stage = 1) :
    ∃ t, exec .hostImageReady s = .next t ∧ t.boot.hostReady = true ∧
      (bootCode x = 7 ∨ (1 ≤ bootCode x ∧ bootCode x ≤ 4) → t.boot.stage = 15 ∧ t.boot.fail = bootCode x) ∧
      (bootCode x = 0 ∨ bootCode x = 5 ∨ bootCode x = 6 → t.boot.stage = 2 ∧ t.boot.version = x.version ∧ t.boot.input = some x) := by
  have step : exec .hostImageReady s = .next (let u := { s with boot := { s.boot with hostReady := true, input := some x } }
      if bootCode x = 7 ∨ (1 ≤ bootCode x ∧ bootCode x ≤ 4) then u.bootFail x.die (bootCode x) else u.imageVerified x) := by
    change execHostImageReady s = _
    simp only [execHostImageReady, arg, stage, ne_eq, not_true_eq_false, if_false]
  refine ⟨_, step, ?_⟩
  dsimp only
  split
  next bad => exact ⟨rfl, fun _ => ⟨rfl, rfl⟩, fun good => by omega⟩
  next good =>
    refine ⟨?_, fun bad => absurd bad good, fun _ => ⟨rfl, rfl, State.measure_input _ _ _⟩⟩
    unfold State.imageVerified State.measure
    dsimp only
    split <;> rfl

theorem hostImageReady_ignored {s : State} {x : BootInput} (arg : s.model.arg = .boot x) (stage : s.boot.stage ≠ 1) :
    exec .hostImageReady s = .next s := by
  change execHostImageReady s = _
  simp only [execHostImageReady, arg, if_pos stage]

theorem plateCheckDone_blank {s : State} {bad : List (Nat × Nat)} (arg : s.model.arg = .plates bad) (blank : s.newest = none) :
    exec .plateCheckDone s = .next { s with dome := { s.dome with checking := false } } := by
  change execPlateCheckDone s = _
  simp only [execPlateCheckDone, arg, blank]

/-- The plates of a copy of the directory, once each copy `k` has been checked. -/
theorem getD_modify_plates (dirs : List Directory) (k : Nat) (f : List Plate → List Plate) (none_ : f [] = []) :
    ((dirs.modify k fun d => { d with plates := f d.plates }).getD k Directory.blank).plates = f (dirs.getD k Directory.blank).plates := by
  rw [List.getD_eq_getElem?_getD, List.getD_eq_getElem?_getD, List.getElem?_modify_eq]
  cases dirs[k]? with
  | none => exact none_.symm
  | some d => rfl

theorem plateCheckDone_checks {s : State} {bad : List (Nat × Nat)} {k : Nat} (arg : s.model.arg = .plates bad) (newest : s.newest = some k)
    (checking : s.dome.checking = true) : ∃ t, exec .plateCheckDone s = .next t ∧ t.dome.checking = false ∧
      (t.dirCopy k).plates = (s.dirCopy k).plates.zipIdx.map fun p => p.1.check bad p.2 := by
  refine ⟨{ s with dome := { s.dome with checking := false, dirs := s.dome.dirs.modify k fun d =>
    { d with plates := d.plates.zipIdx.map fun p => p.1.check bad p.2 } } }, ?_, rfl,
    getD_modify_plates s.dome.dirs k (fun ps => ps.zipIdx.map fun (p : Plate × Nat) => p.1.check bad p.2) rfl⟩
  change execPlateCheckDone s = _
  simp only [execPlateCheckDone, arg, newest, checking, if_true]

theorem platerdBodyComplete_written {s : State} {c : Ctx} {w : BodyWrite} (arg : s.model.arg = .n1 c.id) (ctx : s.ctxOf c.id = some c)
    (body : c.bodyWrite = some w) (done : w.begin.pend = []) : exec .platerdBodyComplete s = .next
      (if s.freeWord.2.mailReady c.id then (s.freeWord.2.modCtx c.id fun c => { c with bodyWrite := none }).mail c.id w.begin.completion
       else s.freeWord.2) := by
  change execPlaterdBodyComplete s = _
  simp only [execPlaterdBodyComplete, arg, ctx, body, done, List.getElem?_nil]
  split <;> rfl

theorem imageActivation_waits {s : State} {img : Image} {req : ActReq} (arg : s.model.arg = .activate img req) (busy : s.asidBusy req.asid = true) :
    exec .imageActivation s = .next s := by
  change execImageActivation s = _
  simp only [execImageActivation, arg, busy, or_true, if_true]

/-- A part that may load an image: all or nothing. -/
theorem imageActivation_goes {s : State} {img : Image} {req : ActReq} (arg : s.model.arg = .activate img req) (stage : s.boot.stage = 6)
    (open_ : s.closing = false) (checked : s.dome.checking = false) (idle : s.asidBusy req.asid = false) :
    (∀ n o, s.flush.activate img req = .error (n, o) → exec .imageActivation s = .next { s with loaded := some ⟨n, some o, [], 0⟩ }) ∧
      ∀ t, s.flush.activate img req = .ok t → exec .imageActivation s = .next t := by
  have may : ¬(s.boot.stage ≠ 6 ∨ s.closing = true ∨ s.dome.checking = true ∨ s.asidBusy req.asid = true) := by
    simp [stage, open_, checked, idle]
  refine ⟨fun n o failed => ?_, fun t loaded => ?_⟩
  · change execImageActivation s = _
    simp only [execImageActivation, arg, if_neg may, failed]
  · change execImageActivation s = _
    simp only [execImageActivation, arg, if_neg may, loaded]

end Sys2Proof.Machine
end

section
/-! SUPPORT. Loading (R37): what each step of an activation that replaces nothing adds to the state, and what it leaves. -/

namespace Sys2Proof.Machine
open Claims

/-! ### Lists -/

/-- Where one element at most is meant, a change of the first is a change of each. -/
theorem modifyFirst_eq_map {α : Type} {p : α → Bool} {f : α → α} {l : List α} (once : l.countP p ≤ 1) :
    modifyFirst p f l = l.map fun a => if p a then f a else a := by
  induction l with
  | nil => rfl
  | cons a l ih =>
    cases here : p a
    · rw [List.countP_cons_of_neg (by simp [here])] at once
      simp only [modifyFirst, here, Bool.false_eq_true, if_false, List.map_cons, ih once]
    · rw [List.countP_cons_of_pos here] at once
      have rest : ∀ b ∈ l, ¬p b = true := List.countP_eq_zero.1 (by omega)
      have still : (l.map fun b => if p b then f b else b) = l := (List.map_congr_left fun b hb => if_neg (rest b hb)).trans l.map_id
      simp only [modifyFirst, here, if_true, List.map_cons, still]

/-- What the steps for the contexts of an image do to one element: each changes what is its own. -/
def allotted {α : Type} (g : Nat) (own : α → Nat) (f : CtxDecl → α → α) (ps : List (CtxDecl × Nat)) (x : α) : α :=
  ps.foldl (fun x p => if own x = g + 1 + p.2 then f p.1 x else x) x

section
variable {α : Type} {g : Nat} {own : α → Nat} {f : CtxDecl → α → α} {cs : List CtxDecl} {x : α}

theorem allotted_of_before (k : Nat) (before : own x < g + 1 + k) : allotted g own f (cs.zipIdx k) x = x := by
  induction cs generalizing k with
  | nil => rfl
  | cons c cs ih =>
    rw [List.zipIdx_cons, allotted, List.foldl_cons, if_neg (by omega)]
    exact ih (k + 1) (by omega)

theorem allotted_at (same : ∀ c x, own (f c x) = own x) {c : CtxDecl} {i : Nat} (k : Nat) (here : cs[i]? = some c) (mine : own x = g + 1 + (k + i)) :
    allotted g own f (cs.zipIdx k) x = f c x := by
  induction cs generalizing k i with
  | nil => cases here
  | cons d cs ih =>
    rw [List.zipIdx_cons, allotted, List.foldl_cons]
    cases i with
    | zero =>
      obtain rfl : d = c := Option.some.inj here
      rw [show own x = g + 1 + k from mine, if_pos rfl]
      exact allotted_of_before (k + 1) (by rw [same]; omega)
    | succ i =>
      rw [if_neg (by omega)]
      exact ih (k + 1) here (by omega)

end

/-- An induction over the objects of a step that succeeds. -/
theorem loadEach_keeps {α β : Type} {f : α → State → Loading} {φ : State → β} (each : ∀ a s t, f a s = .ok t → φ t = φ s) {l : List α} {s t : State}
    (ok : loadEach f l s = .ok t) : φ t = φ s := by
  induction l generalizing s with
  | nil =>
    cases ok
    rfl
  | cons a l ih =>
    rw [loadEach] at ok
    cases step : f a s with
    | error e => simp [step] at ok
    | ok u =>
      simp only [step] at ok
      exact (ih ok).trans (each a s u step)

/-! ### Contexts as the image declares them -/

/-- A context without what the loader or a write of the part may change in it, but for its threads, and without its place on its station. -/
def Ctx.declared (c : Ctx) : Ctx :=
  { c with sub := 0, slot := 0, partBase := 0, hw := [], prot := 0, undoLog := [], bindings := [], tiles := [], caps := [], segments := [], charge := 0 }

/-- Context `p.2` of an image, `p.1`, of this identity, before its threads start. -/
def madeCtx (req : ActReq) (g id : Nat) (p : CtxDecl × Nat) : Ctx := (newCtx p.1 req id g p.2 0 (req.place.getD p.1.station 96) 0 0 []).declared

/-- Its threads at the end of the activation. -/
def started (c : CtxDecl) (x : Ctx) : Ctx := { x with threads := (x.threads.zip c.code).map fun t => { t.1 with run := if t.2.start then .running else .never } }

namespace State

/-- The contexts as declared. -/
def declares (s : State) : List Ctx := s.ctxs.map Ctx.declared

theorem modCtx_declares {s : State} {cid : Nat} {f : Ctx → Ctx} (same : ∀ c, (f c).declared = c.declared) : (s.modCtx cid f).declares = s.declares :=
  map_modifyFirst same s.ctxs

/-- Only contexts and memory may differ, and the contexts in no more than their undo logs and protection. -/
def Stores (s t : State) : Prop := ∃ cs m, t = { s with ctxs := cs, mem := m } ∧ cs.map Ctx.declared = s.declares

theorem Stores.refl (s : State) : s.Stores s := ⟨_, _, rfl, rfl⟩

theorem Stores.trans {s t u : State} : s.Stores t → t.Stores u → s.Stores u := by
  rintro ⟨_, _, rfl, kept⟩ ⟨cs, m, rfl, kept'⟩
  exact ⟨cs, m, rfl, kept'.trans kept⟩

theorem Stores.foldl {β : Type} {f : State → β → State} (each : ∀ (s : State) x, s.Stores (f s x)) (l : List β) (s : State) : s.Stores (l.foldl f s) := by
  induction l generalizing s with
  | nil => exact .refl s
  | cons x l ih => exact (each s x).trans (ih _)

/-- What the creation of contexts leaves alone. -/
def beside (s : State) : List Gang × List Region × List Queue := (s.gangs, s.regions, s.queues)

theorem Stores.keeps {s t : State} : s.Stores t → t.beside = s.beside ∧ t.model.nextId = s.model.nextId ∧ t.declares = s.declares := by
  rintro ⟨cs, m, rfl, kept⟩
  exact ⟨rfl, rfl, kept⟩

theorem unprotect_stores (s : State) (cid reason : Nat) : s.Stores (s.unprotect cid reason) := by
  unfold State.unprotect
  split
  · exact .refl s
  · split
    · refine ⟨_, _, rfl, ?_⟩
      simp only [declares, modifyAll, List.map_map]
      refine List.map_congr_left fun c _ => ?_
      simp only [Function.comp_apply]
      split <;> rfl
    · exact .refl s

theorem undoLine_stores (s : State) (line : Nat) : s.Stores (s.undoLine line) := by
  unfold State.undoLine
  dsimp only
  split
  · exact .refl s
  next c _ =>
    split
    · exact .refl s
    · split
      · exact s.unprotect_stores _ _
      · have logged (u : UndoEntry) := map_modifyFirst (p := fun x : Ctx => x.id == c.id) (g := Ctx.declared)
          (f := fun x => { x with undoLog := x.undoLog ++ [u] }) (fun _ => rfl) s.ctxs
        split
        · exact ⟨_, _, rfl, logged _⟩
        · exact ⟨_, _, rfl, logged _⟩

/-- A write by no source. -/
theorem write_stores (s : State) (pa : Nat) (bs : List Byte) : s.Stores (s.write none pa bs) := by
  refine (Stores.foldl undoLine_stores (granules pa bs.length) s).trans ?_
  unfold State.write State.putBytes
  dsimp only
  split <;> exact ⟨_, _, rfl, rfl⟩

/-! ### Step 2: contexts -/

theorem createCtx_ok {img : Image} {req : ActReq} {g : Nat} {p : CtxDecl × Nat} {s t : State} (ok : State.createCtx img req g p s = .ok t) :
    t.beside = s.beside ∧ t.model.nextId = s.model.nextId + 1 ∧ t.declares = s.declares ++ [madeCtx req g s.model.nextId p] := by
  unfold State.createCtx at ok
  dsimp only at ok
  split at ok
  · split at ok
    · cases ok
    · cases ok
      have written (u : State) : u.Stores (p.1.code.foldl (fun s k => s.write none k.pa k.bytes) u) :=
        .foldl (fun t (k : CodeDecl) => t.write_stores k.pa k.bytes) p.1.code u
      obtain ⟨kept, next, declares⟩ := (written _).keeps
      exact ⟨kept, next, declares.trans List.map_append⟩
  · cases ok

theorem createCtxs_ok {img : Image} {req : ActReq} {g : Nat} {cs : List CtxDecl} {k : Nat} {s t : State}
    (ok : loadEach (State.createCtx img req g) (cs.zipIdx k) s = .ok t) (next : s.model.nextId = g + 1 + k) :
    t.declares = s.declares ++ (cs.zipIdx k).map fun p => madeCtx req g (g + 1 + p.2) p := by
  induction cs generalizing k s with
  | nil =>
    cases ok
    exact (List.append_nil _).symm
  | cons c cs ih =>
    rw [List.zipIdx_cons, loadEach] at ok
    cases step : State.createCtx img req g (c, k) s with
    | error e => simp [step] at ok
    | ok u =>
      simp only [step] at ok
      obtain ⟨-, id, made⟩ := createCtx_ok step
      rw [ih ok (by omega), made, next, List.zipIdx_cons, List.map_cons, List.append_assoc]
      rfl

/-! ### Numbers of the new contexts -/

/-- The state holds the contexts of an image of `n`, numbered from that of their gang on, behind others of lower numbers. -/
def Numbered (s : State) (g n : Nat) : Prop := ∃ old : List (Nat × Nat × Nat), (∀ k ∈ old, k.1 < g ∧ k.2.1 < g) ∧
  s.ctxs.map (fun c => (c.id, c.gang, c.index)) = old ++ (List.range n).map fun i => (g + 1 + i, g, i)

theorem numbered_iff {s : State} {g n : Nat} : s.Numbered g n ↔ ∃ old : List (Nat × Nat × Nat), (∀ k ∈ old, k.1 < g ∧ k.2.1 < g) ∧
    s.declares.map (fun c => (c.id, c.gang, c.index)) = old ++ (List.range n).map fun i => (g + 1 + i, g, i) := by
  rw [declares, List.map_map]
  rfl

theorem Numbered.of_keys {s t : State} {g n : Nat} (numbered : s.Numbered g n)
    (kept : t.declares.map (fun c => (c.id, c.gang, c.index)) = s.declares.map fun c => (c.id, c.gang, c.index)) : t.Numbered g n := by
  rw [numbered_iff, kept]
  exact numbered_iff.1 numbered

theorem Numbered.ctxNo {s : State} {g n i : Nat} (numbered : s.Numbered g n) (lt : i < n) : s.ctxNo g i = g + 1 + i := by
  obtain ⟨old, lower, numbers⟩ := numbered
  have byKey : (s.ctxs.find? fun c => c.gang == g && c.index == i).map (·.id) =
      ((s.ctxs.map fun c => (c.id, c.gang, c.index)).find? fun k => k.2.1 == g && k.2.2 == i).map (·.1) := by
    rw [List.find?_map, Option.map_map]
    rfl
  have none_ : old.find? (fun k => k.2.1 == g && k.2.2 == i) = none := List.find?_eq_none.2 fun k hk => by
    have := (lower k hk).2
    simp [Nat.ne_of_lt this]
  have found : ((List.range n).map fun i => (g + 1 + i, g, i)).find? (fun k => k.2.1 == g && k.2.2 == i) = some (g + 1 + i, g, i) := by
    rw [List.find?_map]
    have : (List.range n).find? (fun j => j == i) = some i := by
      rw [List.find?_range_eq_some]
      exact ⟨beq_self_eq_true i, List.mem_range.2 lt, fun j hj => by simp [Nat.ne_of_lt hj]⟩
    simpa [Function.comp_def] using this
  rw [State.ctxNo, byKey, numbers, List.find?_append, none_, Option.none_or, found]
  rfl

theorem Numbered.once {s : State} {g n i : Nat} (numbered : s.Numbered g n) : s.ctxs.countP (fun c => c.id == g + 1 + i) ≤ 1 := by
  obtain ⟨old, lower, numbers⟩ := numbered
  have byKey : s.ctxs.countP (fun c => c.id == g + 1 + i) = (s.ctxs.map fun c => (c.id, c.gang, c.index)).countP fun k => k.1 == g + 1 + i := by
    rw [List.countP_map]
    rfl
  have none_ : old.countP (fun k => k.1 == g + 1 + i) = 0 := List.countP_eq_zero.2 fun k hk => by
    have := (lower k hk).1
    simp
    omega
  have one : ((List.range n).map fun i => (g + 1 + i, g, i)).countP (fun k => k.1 == g + 1 + i) = (List.range n).count i := by
    rw [List.countP_map, List.count]
    refine List.countP_congr fun j _ => ?_
    simp
  rw [byKey, numbers, List.countP_append, none_, one, Nat.zero_add]
  exact List.nodup_iff_count_le_one.1 List.nodup_range i

/-! ### Step 3: queues -/

/-- What a queue of an image is, apart from where it stands. -/
def queueKey (q : Queue) : BitVec 4 × Nat × Nat × Nat × Option Nat := (q.ty, q.size, q.cap, q.prio, q.gang)

theorem binds_keep (cid : State → Nat → Nat) (h : Nat) (b : State → Nat → Binding) (l : List Nat) (s : State) :
    (l.foldl (fun u i => u.bind (cid u i) h (b u i)) s).beside = s.beside ∧ (l.foldl (fun u i => u.bind (cid u i) h (b u i)) s).declares = s.declares :=
  ⟨foldl_field (g := beside) (f := fun u i => u.bind (cid u i) h (b u i)) (fun _ _ => rfl) l s,
    foldl_field (g := declares) (f := fun u i => u.bind (cid u i) h (b u i))
      (fun u i => modCtx_declares (f := fun c => { c with bindings := assign c.bindings h (b u i) }) fun _ => rfl) l s⟩

theorem loadQueue_ok {req : ActReq} {g : Nat} {p : QueueDecl × Nat} {s t : State} (ok : State.loadQueue req g [] p s = .ok t) :
    ((t.gangs, t.regions) = (s.gangs, s.regions) ∧ t.declares = s.declares) ∧
      t.queues.map queueKey = s.queues.map queueKey ++ [(p.1.fmt, p.1.size, p.1.cap, p.1.prio, some g)] := by
  unfold State.loadQueue at ok
  simp only [List.getElem?_nil] at ok
  cases ok
  have kept := binds_keep (fun u i => u.ctxNo g i) p.2 (fun u i => ⟨s.model.nextId, lookup p.1.from_ i,
    if p.1.consumers.contains i then some (.ctx (u.ctxNo g i)) else none, none⟩) (p.1.consumers ++ p.1.producers).eraseDups
  exact ⟨⟨congrArg (fun x => (x.1, x.2.1)) (kept _).1, (kept _).2⟩,
    (congrArg (fun x => x.2.2.map queueKey) (kept _).1).trans List.map_append⟩

theorem loadQueues_ok {req : ActReq} {g : Nat} {ps : List (QueueDecl × Nat)} {s t : State} (ok : loadEach (State.loadQueue req g []) ps s = .ok t) :
    ((t.gangs, t.regions) = (s.gangs, s.regions) ∧ t.declares = s.declares) ∧
      t.queues.map queueKey = s.queues.map queueKey ++ ps.map fun p => (p.1.fmt, p.1.size, p.1.cap, p.1.prio, some g) := by
  induction ps generalizing s with
  | nil =>
    cases ok
    exact ⟨⟨rfl, rfl⟩, (List.append_nil _).symm⟩
  | cons p ps ih =>
    rw [loadEach] at ok
    cases step : State.loadQueue req g [] p s with
    | error e => simp [step] at ok
    | ok u =>
      simp only [step] at ok
      obtain ⟨⟨beside, declares⟩, queues⟩ := loadQueue_ok step
      obtain ⟨⟨beside', declares'⟩, queues'⟩ := ih ok
      refine ⟨⟨beside'.trans beside, declares'.trans declares⟩, ?_⟩
      rw [queues', queues, List.append_assoc]
      rfl

/-! ### Step 4: regions (R310, R311) -/

/-- Only where a region stands, what its invocations wait for there and whether it stands still may differ. -/
def SameRegion (r x : Region) : Prop := ∃ o is fz, x = { r with orig := o, invs := is, freeze := fz }

theorem SameRegion.refl (r : Region) : SameRegion r r := ⟨_, _, _, rfl⟩

theorem SameRegion.trans {r x y : Region} : SameRegion r x → SameRegion x y → SameRegion r y := by
  rintro ⟨_, _, _, rfl⟩ ⟨o, is, fz, rfl⟩
  exact ⟨o, is, fz, rfl⟩

/-- Each region of a list has its like in another. -/
def Carries (rs xs : List Region) : Prop := ∀ r ∈ rs, ∃ x ∈ xs, SameRegion r x

theorem Carries.trans {rs xs ys : List Region} (h : Carries rs xs) (k : Carries xs ys) : Carries rs ys := fun r hr =>
  let ⟨x, hx, same⟩ := h r hr
  let ⟨y, hy, same'⟩ := k x hx
  ⟨y, hy, same.trans same'⟩

theorem placeFirst_carries {s : State} {rs new xs : List Region} (ok : s.placeFirst rs new = .ok xs) : Carries (rs ++ new) xs := by
  induction new generalizing rs with
  | nil =>
    cases ok
    exact fun r hr => ⟨r, by simpa using hr, .refl r⟩
  | cons a new ih =>
    rw [State.placeFirst] at ok
    split at ok
    next o _ =>
      have rest := ih ok
      intro r hr
      rcases List.mem_append.1 hr with old | new_
      · exact rest r (by simp [old])
      · rcases List.mem_cons.1 new_ with rfl | later
        · obtain ⟨x, hx, same⟩ := rest { r with orig := o } (by simp)
          exact ⟨x, hx, SameRegion.trans ⟨_, _, _, rfl⟩ same⟩
        · exact rest r (by simp [later])
    · cases ok

theorem takeOrigins_same (s : State) (rs : List Region) (r : Region) : SameRegion r (s.takeOrigins rs r) := by
  unfold State.takeOrigins State.movedTo
  split
  · split
    · exact .refl r
    · split <;> exact ⟨_, _, _, rfl⟩
  · exact .refl r

theorem placeOnDie_carries {s : State} {new standing xs : List Region} {die : Nat} (ok : s.placeOnDie new standing die = .ok xs) :
    Carries (standing ++ new.filter fun r => r.die == die) xs := by
  unfold State.placeOnDie at ok
  dsimp only at ok
  split at ok
  next first =>
    cases ok
    exact placeFirst_carries first
  · split at ok
    · cases ok
      exact fun r hr => ⟨_, List.mem_map_of_mem hr, s.takeOrigins_same _ r⟩
    · cases ok

/-- Dies in turn: what stood has its like, and so has what is new on them. -/
theorem placeOnDies_carries {s : State} {new : List Region} {dies : List Nat} {standing xs : List Region}
    (ok : dies.foldlM (s.placeOnDie new) standing = .ok xs) : Carries standing xs ∧ Carries (new.filter fun r => dies.contains r.die) xs := by
  induction dies generalizing standing with
  | nil =>
    cases ok
    exact ⟨fun r hr => ⟨r, hr, .refl r⟩, fun r hr => by simp at hr⟩
  | cons die dies ih =>
    rw [List.foldlM_cons] at ok
    cases step : s.placeOnDie new standing die with
    | error e =>
      rw [step] at ok
      cases ok
    | ok ys =>
      rw [step] at ok
      obtain ⟨stood, later⟩ := ih ok
      have here := placeOnDie_carries step
      have old : Carries standing ys := fun r hr => here r (List.mem_append_left _ hr)
      have new_ : Carries (new.filter fun r => r.die == die) ys := fun r hr => here r (List.mem_append_right _ hr)
      refine ⟨old.trans stood, fun r hr => ?_⟩
      obtain ⟨mine, on⟩ := List.mem_filter.1 hr
      by_cases at_ : r.die = die
      · exact new_.trans stood r (List.mem_filter.2 ⟨mine, beq_iff_eq.2 at_⟩)
      · have on' : dies.contains r.die = true := by simpa [at_] using on
        exact later r (List.mem_filter.2 ⟨mine, on'⟩)

/-- A region placed on a die of the package is among those that stand then. -/
theorem placeRegions_carries {s : State} {new xs : List Region} (ok : s.placeRegions new = .ok xs) : ∀ r ∈ new, r.die < 4 → ∃ x ∈ xs, SameRegion r x := by
  unfold State.placeRegions at ok
  split at ok
  next placed =>
    cases ok
    refine fun r hr lt => (placeOnDies_carries placed).2 r (List.mem_filter.2 ⟨hr, ?_⟩)
    simp only [List.contains_eq_mem, List.mem_cons, List.not_mem_nil, decide_eq_true_eq]
    omega
  · cases ok

/-! ### Steps 5 to 7: graphs, and the contexts' blocks and threads -/

/-- The state of a step with one check. -/
theorem ok_of_check {p : Prop} [Decidable p] {e : LoadObj} {u t : State} (ok : (if p then .error e else .ok u : Loading) = .ok t) : u = t := by
  split at ok
  · cases ok
  · exact Except.ok.inj ok

theorem loadHolds_ok {i cid : Nat} {c : CtxDecl} {s t : State} (ok : State.loadHolds i c cid s = .ok t) :
    t.beside = s.beside ∧ t.declares = s.declares := by
  unfold State.loadHolds at ok
  obtain rfl := ok_of_check ok
  exact ⟨rfl, modCtx_declares (f := fun x => { x with segments := _, charge := _ }) fun _ => rfl⟩

/-- What becomes of a region of context `c` of the image. -/
def withBlocks (c : CtxDecl) (r : Region) : Region := { r with blocks := loadBlocks c r.index }

/-- Context `cid` starts with these tiles and capabilities. -/
theorem modCtx_starts {s : State} {cid : Nat} {c : CtxDecl} {tiles : List (Nat × Tile)} {caps : List (Nat × BitVec 128)}
    (once : s.ctxs.countP (fun c => c.id == cid) ≤ 1) :
    (s.modCtx cid fun x => { x with
      tiles := tiles, caps := caps, threads := (x.threads.zip c.code).map fun t => { t.1 with run := if t.2.start then .running else .never } }).declares =
      s.declares.map fun x => if x.id = cid then started c x else x := by
  rw [State.modCtx, declares, modifyFirst_eq_map once, declares, List.map_map, List.map_map]
  refine List.map_congr_left fun x _ => ?_
  by_cases mine : x.id = cid
  · have named : (x.id == cid) = true := beq_iff_eq.2 mine
    have named' : x.declared.id = cid := mine
    simp only [Function.comp_apply, if_pos named, if_pos named']
    rfl
  · have named : ¬(x.id == cid) = true := mt beq_iff_eq.1 mine
    have named' : ¬x.declared.id = cid := mine
    simp only [Function.comp_apply, if_neg named, if_neg named']

theorem loadCtx_ok {req : ActReq} {g n : Nat} {p : CtxDecl × Nat} {s t : State} (numbered : s.Numbered g n) (lt : p.2 < n)
    (ok : State.loadCtx req g p s = .ok t) :
    t.declares = s.declares.map (fun c => if c.id = g + 1 + p.2 then started p.1 c else c) ∧
      t.beside = (s.gangs, s.regions.map fun r => if r.ctx = g + 1 + p.2 then withBlocks p.1 r else r, s.queues) := by
  unfold State.loadCtx at ok
  rw [numbered.ctxNo lt] at ok
  dsimp only at ok
  split at ok
  · cases ok
  · obtain ⟨beside, declares⟩ := loadHolds_ok ok
    have written (b : Nat) (u : State) : u.Stores (p.1.datas.foldl (fun s d => s.write none (if d.hbm then d.place else b + d.place) d.bytes) u) :=
      .foldl (fun t (d : DataDecl) => t.write_stores _ d.bytes) p.1.datas u
    obtain ⟨beside', -, declares'⟩ := (written _ _).keeps
    exact ⟨(declares.trans declares').trans (modCtx_starts numbered.once), beside.trans beside'⟩

/-- Step 5 for all contexts: each starts its threads, and its regions hold its blocks. -/
theorem loadCtxs_ok {req : ActReq} {g n : Nat} {ps : List (CtxDecl × Nat)} {s t : State} (numbered : s.Numbered g n) (lt : ∀ p ∈ ps, p.2 < n)
    (ok : loadEach (State.loadCtx req g) ps s = .ok t) :
    t.declares = s.declares.map (allotted g (·.id) started ps) ∧
      t.beside = (s.gangs, s.regions.map (allotted g (·.ctx) withBlocks ps), s.queues) := by
  induction ps generalizing s with
  | nil =>
    cases ok
    exact ⟨(List.map_id _).symm, congrArg (fun rs => (t.gangs, rs, t.queues)) (List.map_id _).symm⟩
  | cons p ps ih =>
    rw [loadEach] at ok
    cases step : State.loadCtx req g p s with
    | error e => simp [step] at ok
    | ok u =>
      simp only [step] at ok
      obtain ⟨declares, beside⟩ := loadCtx_ok numbered (lt p List.mem_cons_self) step
      have same : u.declares.map (fun c => (c.id, c.gang, c.index)) = s.declares.map fun c => (c.id, c.gang, c.index) := by
        rw [declares, List.map_map]
        refine List.map_congr_left fun c _ => ?_
        simp only [Function.comp_apply]
        split <;> rfl
      obtain ⟨declares', beside'⟩ := ih (numbered.of_keys same) (fun p hp => lt p (List.mem_cons_of_mem _ hp)) ok
      simp only [State.beside, Prod.mk.injEq] at beside beside'
      obtain ⟨gangs, regions, queues⟩ := beside
      obtain ⟨gangs', regions', queues'⟩ := beside'
      refine ⟨?_, ?_⟩
      · rw [declares', declares, List.map_map]
        rfl
      · simp only [State.beside, gangs', gangs, regions', regions, queues', queues, List.map_map]
        rfl

end State
end Sys2Proof.Machine
end

section
/-! PROOFS. What an activation installs (O36: R37, R54, R287, R312). -/

namespace Sys2Proof.Machine
open Claims

theorem stepFails_ok {n : Nat} {x : Loading} {t : State} (ok : stepFails n x = .ok t) : x = .ok t := by
  cases x with
  | error e => cases ok
  | ok u => exact congrArg Except.ok (Except.ok.inj ok)

theorem firstBad_none {cs : List (Bool × LoadObj)} (none_ : firstBad cs = none) {c : Bool × LoadObj} (listed : c ∈ cs) : c.1 = true := by
  have := List.find?_eq_none.1 (Option.map_eq_none_iff.1 none_) c listed
  simpa using this

/-- A gang but for the graphs that it names. -/
def Gang.bare (x : Gang) : Gang := { x with graphs := [] }

namespace State

/-- R36: a context of an image whose stations are in order stands on a die of the package. -/
theorem die_of_badStation {s : State} {img : Image} {req : ActReq} (good : s.badStation img req = none) {c : CtxDecl} (listed : c ∈ img.ctxs) :
    req.place.getD c.station 96 / 24 < 4 := by
  have ok {x} := firstBad_none (c := x) good
  have shape := ok (List.mem_append_left _ List.mem_cons_self)
  simp only [Bool.and_eq_true, beq_iff_eq, List.all_eq_true, decide_eq_true_eq] at shape
  obtain ⟨⟨places, stations⟩, -⟩ := shape
  have lt := stations c listed
  have placed : (img.stations[c.station], req.place[c.station]'(by omega)) ∈ img.stations.zip req.place :=
    List.mem_iff_getElem.2 ⟨c.station, by simp; omega, List.getElem_zip⟩
  have station := ok (List.mem_append_left _ (List.mem_cons_of_mem _ (List.mem_map_of_mem placed)))
  simp only [Bool.and_eq_true, State.stationOk, decide_eq_true_eq] at station
  have onPart := station.2.1.1.1.1.1
  have dies : s.dies ≤ 4 := by
    unfold State.dies
    split <;> omega
  rw [List.getD_eq_getElem?_getD, List.getElem?_eq_getElem (by omega), Option.getD_some]
  omega

theorem badStation_of_badImage {s : State} {img : Image} {req : ActReq} (good : s.badImage img req = none) : s.badStation img req = none := by
  unfold State.badImage at good
  simp only [Option.or_eq_none_iff] at good
  exact good.1.1.1.1.1.1.2

/-- The new contexts are numbered from their gang on. -/
theorem numbered_of_made {s t : State} {req : ActReq} {cs : List CtxDecl} (low : ∀ c ∈ s.ctxs, c.id < s.model.nextId ∧ c.gang < s.model.nextId)
    (made : t.declares = s.declares ++ cs.zipIdx.map fun p => madeCtx req s.model.nextId (s.model.nextId + 1 + p.2) p) :
    t.Numbered s.model.nextId cs.length := by
  refine numbered_iff.2 ⟨s.ctxs.map fun c => (c.id, c.gang, c.index), fun k hk => ?_, ?_⟩
  · obtain ⟨c, hc, rfl⟩ := List.mem_map.1 hk
    exact low c hc
  · have indices : cs.zipIdx.map Prod.snd = List.range cs.length := by rw [List.zipIdx_map_snd, List.range_eq_range']
    rw [made, List.map_append, declares, List.map_map, List.map_map, ← indices, List.map_map]
    rfl

/-- The region of an image with this handle. -/
theorem mem_newRegions {s : State} {img : Image} {req : ActReq} {g : Nat} {handles : List Nat} (plain : req.replace = none) {k i j n : Nat}
    {c : CtxDecl} {wh : Nat × Nat} (region : img.regions[k]? = some (i, j)) (ctx : img.ctxs[i]? = some c) (size : c.regions[j]? = some wh)
    (handle : handles[k]? = some n) :
    newRegion c (s.ctxNo g i) j n (req.place.getD c.station 96 / 24) wh none ∈ s.newRegions img req g handles := by
  have listed : ((i, j), n) ∈ img.regions.zip handles := List.mem_of_getElem? (List.getElem?_zip_eq_some.2 ⟨region, handle⟩)
  refine List.mem_filterMap.2 ⟨_, listed, ?_⟩
  simp only [ctx, size, Option.map_some, plain, Option.bind_none, ite_self]

theorem gangOf_modGang_bare {s : State} {g : Nat} {f : Gang → Gang} (same : ∀ x, Gang.bare (f x) = Gang.bare x) :
    ((s.modGang g f).gangOf g).map Gang.bare = (s.gangOf g).map Gang.bare := by
  have id (x : Gang) : (f x).bare.id = x.bare.id := by rw [same]
  rw [State.gangOf, State.modGang, find?_modifyFirst fun x => congrArg (· == g) (id x), Option.map_map]
  exact congrArg (Option.map · _) (funext same)

theorem loadGraphs_keep (g : Nat) (ds : List GraphDecl) (s : State) :
    let t := ds.foldl (fun s d => s.loadGraph g d) s
    t.regions = s.regions ∧ t.queues = s.queues ∧ t.declares = s.declares ∧ (t.gangOf g).map Gang.bare = (s.gangOf g).map Gang.bare :=
  ⟨foldl_field (g := State.regions) (f := fun s d => s.loadGraph g d) (fun _ _ => rfl) ds s,
    foldl_field (g := State.queues) (f := fun s d => s.loadGraph g d) (fun _ _ => rfl) ds s,
    foldl_field (g := declares) (f := fun s d => s.loadGraph g d) (fun _ _ => rfl) ds s,
    foldl_field (g := fun s : State => (s.gangOf g).map Gang.bare) (f := fun s d => s.loadGraph g d)
      (fun _ _ => gangOf_modGang_bare (f := fun x => { x with graphs := x.graphs ++ [_] }) fun _ => rfl) ds s⟩

/-- The state in which the contexts of an image are created: its gang stands, and no translation of its address space. -/
def withGang (s : State) (img : Image) (req : ActReq) : State :=
  { s.fresh.2 with
    gangs := s.gangs ++ [newGang img req s.model.nextId]
    mmu := { s.mmu with tlb := s.mmu.tlb.filter fun e => e.asid != req.asid } }

/-- The last step: plates of an event are claimed, and records are numbered anew. -/
def claimed (s : State) (img : Image) (req : ActReq) (g : Nat) : State :=
  (match req.claim with | some e => s.claimPlates img g e | none => s).freshSources g

theorem claimed_keeps (s : State) (img : Image) (req : ActReq) (g : Nat) :
    (s.claimed img req g).beside = s.beside ∧ (s.claimed img req g).declares = s.declares := by
  have plates (e : Nat) : (s.claimPlates img g e).beside = s.beside ∧ (s.claimPlates img g e).declares = s.declares := by
    unfold State.claimPlates
    dsimp only
    split <;> exact ⟨rfl, rfl⟩
  unfold claimed
  split
  · exact plates _
  · exact ⟨rfl, rfl⟩

/-- R37: an activation that replaces nothing goes through its steps. -/
theorem loadImage_stages {s t : State} {img : Image} {req : ActReq} {handles : List Nat} (plain : req.replace = none)
    (ok : s.loadImage img req handles [] = .ok t) : ∃ s₁ s₂ rs s₃,
      loadEach (State.createCtx img req s.model.nextId) img.ctxs.zipIdx (s.withGang img req) = .ok s₁ ∧
      loadEach (State.loadQueue req s.model.nextId []) img.queues.zipIdx (s₁.defineDomains req s.model.nextId) = .ok s₂ ∧
      s₂.placeRegions (s₂.newRegions img req s.model.nextId handles) = .ok rs ∧
      loadEach (State.loadCtx req s.model.nextId) img.ctxs.zipIdx
        (img.graphs.foldl (fun s' d => s'.loadGraph s.model.nextId d) { s₂ with regions := rs }) = .ok s₃ ∧
      t = s₃.claimed img req s.model.nextId := by
  unfold State.loadImage at ok
  dsimp only at ok
  split at ok
  · cases ok
  next s₁ created =>
    split at ok
    · cases ok
    next s₂ queued =>
      split at ok
      · cases ok
      next rs placed =>
        split at ok
        · cases ok
        next s₃ done =>
          rw [plain] at ok
          exact ⟨s₁, s₂, rs, s₃, stepFails_ok created, stepFails_ok queued, placed, stepFails_ok done, (Except.ok.inj ok).symm⟩

theorem gangOf_withGang {s : State} (img : Image) (req : ActReq) (low : ∀ g ∈ s.gangs, g.id < s.model.nextId) :
    (s.withGang img req).gangOf s.model.nextId = some (newGang img req s.model.nextId) := by
  have none_ : s.gangs.find? (fun x => x.id == s.model.nextId) = none :=
    List.find?_eq_none.2 fun x hx => by simp [Nat.ne_of_lt (low x hx)]
  change (s.gangs ++ [newGang img req s.model.nextId]).find? (fun x => x.id == s.model.nextId) = _
  rw [List.find?_append, none_, Option.none_or]
  exact List.find?_cons_of_pos (beq_self_eq_true _)

theorem map_zipIdx_fst {α β : Type} (f : α → β) (l : List α) : (l.zipIdx.map fun p => f p.1) = l.map f := by
  rw [← List.zipIdx_map_fst 0 l, List.map_map, List.zipIdx_map_fst]
  rfl

/-- What the steps on a checked image leave: contexts, queues, the gang and regions. -/
structure Loaded (s t : State) (img : Image) (req : ActReq) (handles : List Nat) : Prop where
  declares : t.declares = (s.declares ++ img.ctxs.zipIdx.map fun p => madeCtx req s.model.nextId (s.model.nextId + 1 + p.2) p).map
    (allotted s.model.nextId (·.id) started img.ctxs.zipIdx)
  queues : t.queues.map queueKey = s.queues.map queueKey ++ img.queues.map fun d => (d.fmt, d.size, d.cap, d.prio, some s.model.nextId)
  gang : (t.gangOf s.model.nextId).map Gang.bare = some (newGang img req s.model.nextId)
  regions : ∃ (u : State) (rs : List Region), u.Numbered s.model.nextId img.ctxs.length ∧
    u.placeRegions (u.newRegions img req s.model.nextId handles) = .ok rs ∧
    t.regions = rs.map (allotted s.model.nextId (·.ctx) withBlocks img.ctxs.zipIdx)

theorem loadImage_ok {s t : State} {img : Image} {req : ActReq} {handles : List Nat} (plain : req.replace = none)
    (low : ∀ c ∈ s.ctxs, c.id < s.model.nextId ∧ c.gang < s.model.nextId) (gangs : ∀ g ∈ s.gangs, g.id < s.model.nextId)
    (ok : s.loadImage img req handles [] = .ok t) : Loaded s t img req handles := by
  obtain ⟨s₁, s₂, rs, s₃, created, queued, placed, done, rfl⟩ := loadImage_stages plain ok
  have stood := loadEach_keeps (φ := State.beside) (fun p u v h => (createCtx_ok h).1) created
  have made := createCtxs_ok (k := 0) created rfl
  have numbered := numbered_of_made low made
  obtain ⟨⟨beside₂, declares₂⟩, queues₂⟩ := loadQueues_ok queued
  have numbered₂ : s₂.Numbered s.model.nextId img.ctxs.length := numbered.of_keys (congrArg _ declares₂)
  have below (p : CtxDecl × Nat) (listed : p ∈ img.ctxs.zipIdx) : p.2 < img.ctxs.length := by
    simpa using (List.mem_zipIdx listed).2.1
  obtain ⟨regions₃, queues₃, declares₃, gang₃⟩ := loadGraphs_keep s.model.nextId img.graphs { s₂ with regions := rs }
  obtain ⟨declares₄, beside₄⟩ := loadCtxs_ok (numbered₂.of_keys (congrArg _ declares₃)) below done
  obtain ⟨beside₅, declares₅⟩ := claimed_keeps s₃ img req s.model.nextId
  simp only [State.beside, Prod.mk.injEq] at stood beside₂ beside₄ beside₅
  obtain ⟨gangs₁, -, queues₁⟩ := stood
  obtain ⟨gangs₄, regions₄, queues₄⟩ := beside₄
  obtain ⟨gangs₅, regions₅, queues₅⟩ := beside₅
  refine ⟨?declares, ?queues, ?gang, s₂, rs, numbered₂, placed, ?regions⟩
  case declares => exact declares₅.trans (declares₄.trans (congrArg (List.map _) (declares₃.trans (declares₂.trans made))))
  case queues =>
    have before : (s₁.defineDomains req s.model.nextId).queues = s.queues := queues₁
    rw [queues₅, queues₄, queues₃, queues₂, before, map_zipIdx_fst (fun d : QueueDecl => (d.fmt, d.size, d.cap, d.prio, some s.model.nextId))]
  case gang =>
    have after : (s₃.claimed img req s.model.nextId).gangOf s.model.nextId = _ := congrArg (List.find? _) (gangs₅.trans gangs₄)
    have before : State.gangOf { s₂ with regions := rs } s.model.nextId = _ := congrArg (List.find? _) (beside₂.1.trans gangs₁)
    rw [after]
    exact gang₃.trans (congrArg _ (before.trans (gangOf_withGang img req gangs)))
  case regions => rw [regions₅, regions₄, regions₃]

/-- A context of an image is among those that stand, with its threads started. -/
theorem Loaded.ctx {s t : State} {img : Image} {req : ActReq} {handles : List Nat} (loaded : Loaded s t img req handles) {i : Nat} {c : CtxDecl}
    (listed : img.ctxs[i]? = some c) :
    ∃ x ∈ t.ctxs, x.declared = started c (madeCtx req s.model.nextId (s.model.nextId + 1 + i) (c, i)) := by
  have here : (c, i) ∈ img.ctxs.zipIdx := List.mem_zipIdx_iff_getElem?.2 listed
  have stands : started c (madeCtx req s.model.nextId (s.model.nextId + 1 + i) (c, i)) ∈ t.declares := by
    rw [loaded.declares]
    refine List.mem_map.2 ⟨_, List.mem_append_right _ (List.mem_map_of_mem here), ?_⟩
    exact allotted_at (own := Ctx.id) (f := started) (x := madeCtx req s.model.nextId (s.model.nextId + 1 + i) (c, i)) (fun _ _ => rfl) 0 listed
      (congrArg (s.model.nextId + 1 + ·) (Nat.zero_add i).symm)
  exact List.mem_map.1 stands

/-- A region of an image is among those that stand, with its handle, its size and its blocks. -/
theorem Loaded.region {s t : State} {img : Image} {req : ActReq} {handles : List Nat} (loaded : Loaded s t img req handles)
    (plain : req.replace = none) (stations : ∀ c ∈ img.ctxs, req.place.getD c.station 96 / 24 < 4) {k i j n : Nat} {c : CtxDecl} {wh : Nat × Nat}
    (region : img.regions[k]? = some (i, j)) (ctx : img.ctxs[i]? = some c) (size : c.regions[j]? = some wh) (handle : handles[k]? = some n) :
    ∃ r ∈ t.regions, r.handle = n ∧ r.index = j ∧ (r.w, r.h) = wh ∧ r.blocks = loadBlocks c j ∧ r.ctx = s.model.nextId + 1 + i := by
  obtain ⟨u, rs, numbered, placed, regions⟩ := loaded.regions
  have new := mem_newRegions (s := u) (g := s.model.nextId) plain region ctx size handle
  obtain ⟨x, stands, o, is, fz, same⟩ := placeRegions_carries placed _ new (stations c (List.mem_of_getElem? ctx))
  have owner : x.ctx = s.model.nextId + 1 + i := by
    rw [same]
    exact numbered.ctxNo (List.getElem?_eq_some_iff.1 ctx).1
  refine ⟨withBlocks c x, ?_, ?_⟩
  · rw [regions]
    exact List.mem_map.2 ⟨x, stands, allotted_at (own := Region.ctx) (f := withBlocks) (fun _ _ => rfl) 0 ctx
      (owner.trans (congrArg _ (Nat.zero_add i).symm))⟩
  · rw [same] at owner ⊢
    exact ⟨rfl, rfl, rfl, rfl, owner⟩

/-- A checked image, loaded. -/
theorem activate_ok {s t : State} {img p : Image} {req : ActReq} (plain : req.replace = none)
    (patched : applyRelocs req.place (lowestFree (s.regions.map (·.handle)) img.regions.length) [] img.relocs img = .ok p)
    (ok : s.activate img req = .ok t) : s.badImage p req = none ∧
      ∃ u, s.loadImage p req (lowestFree (s.regions.map (·.handle)) img.regions.length) [] = .ok u ∧ t = { u with loaded := some (loadStatus p req) } := by
  unfold State.activate at ok
  simp only [patched, State.replaced, plain] at ok
  split at ok
  · cases ok
  next good =>
    split at ok
    · cases ok
    · refine ⟨good, ?_⟩
      rcases step : s.loadImage p req (lowestFree (s.regions.map (·.handle)) img.regions.length) [] with e | u
      · rw [step] at ok
        cases ok
      · rw [step] at ok
        exact ⟨u, step, (Except.ok.inj ok).symm⟩

end State

theorem started_starts (c : CtxDecl) (req : ActReq) (g id i : Nat) :
    (started c (madeCtx req g id (c, i))).threads.map (fun k => (k.pc, k.run)) =
      c.code.map fun k => (w64 k.va, if k.start = true then .running else .never) := by
  have pairs : (c.code.map fun k => Thr.zero .never (w64 k.va) c.prio).zip c.code = c.code.map fun k => (Thr.zero .never (w64 k.va) c.prio, k) := by
    simpa using List.zip_map' (f := fun k : CodeDecl => Thr.zero .never (w64 k.va) c.prio) (g := fun k => k) (l := c.code)
  have threads : (started c (madeCtx req g id (c, i))).threads = (c.code.map fun k => (Thr.zero .never (w64 k.va) c.prio, k)).map fun t =>
      { t.1 with run := if t.2.start then .running else .never } := congrArg (List.map _) pairs
  rw [threads, List.map_map, List.map_map]
  rfl

theorem installs {s t : State} {img : Image} {req : ActReq} (ok : s.activate img req = .ok t) : Installs s t img req := by
  intro p patched plain low gangs g
  obtain ⟨good, u, done, rfl⟩ := State.activate_ok plain patched ok
  have loaded := State.loadImage_ok plain low gangs done
  have stations (c : CtxDecl) (listed : c ∈ p.ctxs) := State.die_of_badStation (State.badStation_of_badImage good) listed
  refine ⟨rfl, ?gang, fun i c listed => ?ctxs, loaded.queues, fun k i j c wh n region ctx size handle => ?regions⟩
  case gang =>
    obtain ⟨x, stands, bare⟩ := Option.map_eq_some_iff.1 loaded.gang
    have field {β : Type} (f : Gang → β) : f x.bare = f (newGang p req g) := congrArg f bare
    exact ⟨x, stands, field (·.name), field (·.version), field (·.asid), field (·.service), field (·.qstate), field (·.queues)⟩
  case ctxs =>
    obtain ⟨x, stands, same⟩ := loaded.ctx listed
    refine ⟨x, stands, ?_⟩
    have field {β : Type} (f : Ctx → β) : f x.declared = f (started c (madeCtx req g (g + 1 + i) (c, i))) := congrArg f same
    exact ⟨field (·.gang), field (·.index), field (·.logical), field (·.station), field (·.asid), field (·.service), field (·.regs), field (·.prio),
      field (·.partUnits), field (·.handler), field (·.allowance), field (·.mcls), field (·.hangiv),
      fun _ => (field fun x => x.threads.map fun k => (k.pc, k.run)).trans (started_starts c req g _ i)⟩
  case regions =>
    obtain ⟨r, stands, named, index, shape, blocks, owner⟩ := loaded.region plain stations region ctx size handle
    obtain ⟨x, there, same⟩ := loaded.ctx ctx
    have field {β : Type} (f : Ctx → β) : f x.declared = f (started c (madeCtx req g (g + 1 + i) (c, i))) := congrArg f same
    exact ⟨r, stands, named, index, shape, blocks, x, there, (field (·.id)).trans owner.symm, field (·.gang), field (·.index)⟩

/-- Settles O36: the stages of boot, and each event by the state after it. -/
theorem bootEvents : Obligations.BootEvents := by
  refine ⟨bootStages, fun s inp => ⟨fun arg => ⟨powerOnReset_begins arg, hostImageReady_waiting arg, hostImageReady_ignored arg⟩,
    fun bad arg => ⟨plateCheckDone_blank arg, fun k newest checking => plateCheckDone_checks arg newest checking⟩,
    fun img req arg busy => imageActivation_waits arg busy, fun img req arg stage open_ checked idle => ?_, fun c w arg ctx body done => ?_⟩⟩
  · obtain ⟨failed, done⟩ := imageActivation_goes arg stage open_ checked idle
    exact ⟨failed, fun t ok => ⟨done t ok, installs ok⟩⟩
  · have step := platerdBodyComplete_written arg ctx body done
    exact ⟨fun full => step.trans (congrArg _ (if_neg (by exact Bool.eq_false_iff.1 full))), fun room => step.trans (congrArg _ (if_pos room))⟩

end Sys2Proof.Machine
end
